-- ==== Sys2Proof/Word.lean ====
section
/-! DEFINITION. The machine's words and their plainest arithmetic. -/

namespace Sys2Proof

/-- A byte. -/
abbrev Byte := BitVec 8

/-- A 64-bit doubleword: a general register, an instruction word, a record doubleword. -/
abbrev Word := BitVec 64

/-- A 512-bit vector register (R129). -/
abbrev Vec := BitVec 512

/-- A 128-bit segment descriptor (R228), high doubleword above the low one. -/
abbrev Desc := BitVec 128

end Sys2Proof
end

