-- ==== Sys2Proof/Config.lean ====
section
/-! DEFINITION. What the module fixes and the spec gives a number for, and the values the spec leaves open. An opaque
constant has no body: nothing proves a value of it (assumption 5). -/

namespace Sys2Proof.Config

/-- Cores of the module, and cores of a cluster (R110). -/
def cores : Nat := 2048
def coresPerCluster : Nat := 8
def clusters : Nat := 256
/-- Slots of a core (R69). -/
def slots : Nat := 64

/-- Sizes of the buffers in bytes (R178). -/
def wSize : Nat := 262144
def aSize : Nat := 131072
def cSize : Nat := 393216
def roomSize : Nat := 4194304
def sliceSize : Nat := 67108864

/-- Physical addresses (R236). -/
def stacksEnd : Nat := 0x400000000
def annexBase : Nat := 0x1000000000
def annexEnd : Nat := 0x4000000000

/-- The first VA of strand areas (R359), and the size of an area. -/
def areaVA : Nat := 0xFE0000000000
def areaSize : Nat := 2560

/-- Banks of a stack slice: the spec gives no count (R178); only the conflict filters of R193 meet it. -/
opaque stackBanks : Nat

/-- The n-th byte the spec leaves open: a byte that may hold either value (R267, R292, R313, R345, R424). -/
opaque freeBool : Nat → Bool
/-- The n-th count or value of no stated kind: sensor readings (R422). -/
opaque freeWord : Nat → BitVec 64

/-- Bytes of an ML-DSA-44 signature, and of a public key (R421). -/
def sigSize : Nat := 2420
def keySize : Nat := 1312
/-- The vendor's ML-DSA-44 public key (R419), the seed of the device's identity key pair, and the random bytes of a signature (R421). -/
opaque vendorKey : Vector Byte keySize
opaque deviceSeed : Vector Byte 32
opaque signRandom : List Byte → Vector Byte 32
/-- The root-of-trust firmware and its signature (R419). -/
opaque rootImage : List Byte
opaque rootSig : List Byte
/-- The curator firmware version that the module is shipped with (R415, R421). -/
opaque bootVersion : BitVec 32
/-- The supervisor program that a curator firmware version installs at a firmware switch, and its signature (R201, R409, R419). -/
opaque supervisorOf : BitVec 32 → List Byte
opaque supervisorSig : BitVec 32 → List Byte
/-- The 16-byte device identifier (R421). -/
opaque deviceId : Vector Byte 16

end Sys2Proof.Config
end

