-- ==== Sys2Proof/Syntax.lean ====
section
/-! DEFINITION. Instructions and steps of the Rharos E96: one constructor of `Instr` per row of
spec/opcode_table.json. The first 187 are instruction words (R23 to R38); the others are steps of units, of the
host and of the outside, whose data are the constructor's arguments. -/

namespace Sys2Proof

/-- A class-g field (R28): a window register, `z`, or a port register. -/
inductive GOp where
  | g (n : Fin 128)
  | z | qup | qdn | qto | qin | ib | qa | qc
deriving DecidableEq, Repr

/-- Field B of a vector instruction: a vector register, or with X[7] = 1 a broadcast general source (R38). -/
inductive VG where
  | v (r : Fin 16)
  | g (r : GOp)
deriving DecidableEq, Repr

/-- Size codes (R33). -/
inductive Size where
  | b | h | w | d
deriving DecidableEq, Repr

/-- Format codes 0 to 9 (R33). -/
inductive Fmt where
  | f32 | f64 | bf16 | f16 | e4m3 | e5m2 | e2m1b | int8 | int16 | int32
deriving DecidableEq, Repr

/-- Rounding codes (R33). -/
inductive Rm where
  | rne | rtz | rup | rdn
deriving DecidableEq, Repr

/-- Overflow modes of layout SA (R34). -/
inductive Ovf where
  | wrap | ss | us
deriving DecidableEq, Repr

/-- Orderings of layout MEM (R34). -/
inductive MOrd where
  | pln | acq | rel
deriving DecidableEq, Repr

/-- Conditions of layout CMP (R34). -/
inductive Cc where
  | eq | ne | lt | ge | ltu | geu
deriving DecidableEq, Repr

/-- Conditions of layout FC (R34). -/
inductive FCc where
  | eq | lt | le | un
deriving DecidableEq, Repr

/-- Conditions of `vcmp`, X[2:0] (R38, R136). -/
inductive VCc where
  | eq | ne | lt | ge | ltu | geu | un
deriving DecidableEq, Repr

/-- Operations of `amo` (R35). -/
inductive AmoOp where
  | add | and | or | xor | min | max | minu | maxu | swap
deriving DecidableEq, Repr

/-- Operations of `amof` (R35). -/
inductive AmofOp where
  | add | max | swap
deriving DecidableEq, Repr

/-- Operations of `vred`, X[1:0] (R38). -/
inductive RedOp where
  | add | min | max
deriving DecidableEq, Repr

/-- Kinds of a fence (R34). -/
inductive FenceKind where
  | acq | rel | full
deriving DecidableEq, Repr

/-- Scopes of a fence (R34). -/
inductive FenceScope where
  | core | clus | dev
deriving DecidableEq, Repr

/-- The fields every instruction word has (R23): switch marker, early marks of A, B and C, predicate. -/
structure Hdr where
  sw  : Bool
  emA : Bool
  emB : Bool
  emC : Bool
  pr  : Fin 16
  pn  : Bool
deriving DecidableEq, Repr

/-- FN, RX, SEG and DISP20 of a format-M memory instruction of layout MEM (R24, R34). -/
structure MemF where
  sz   : Size
  ord  : MOrd
  rx   : Bool
  seg  : Fin 8
  disp : BitVec 20
deriving DecidableEq, Repr

/-- FN, RX, SEG and DISP20 of `vldf` and `vstf`, whose FN has layout FMT (R38). -/
structure FolF where
  fmt  : Fmt
  rx   : Bool
  seg  : Fin 8
  disp : BitVec 20
deriving DecidableEq, Repr

/-- Layout AT without the operation: size, relaxed bit, ordering and segment register (R34). -/
structure AtF where
  sz  : Size
  rx  : Bool
  ord : MOrd
  seg : Fin 8
deriving DecidableEq, Repr

/-- Layout CV: saturation, the two formats, rounding (R34). -/
structure CvF where
  sat : Bool
  df  : Fmt
  sf  : Fmt
  rm  : Rm
deriving DecidableEq, Repr

/-- Layout VF: a format, and FN[45:44], a rounding code or an overflow mode (R34). -/
structure VfF where
  fmt  : Fmt
  mode : BitVec 2
deriving DecidableEq, Repr

/-- Kinds of function that report at bring-up (R415) and that an error fences (R411). -/
inductive FuncKind where
  | root | core | curator | slice | chip | port | circ | net | copy | sel | red | bind | sfu | annexif | cluster
deriving DecidableEq, Repr

/-- One function of the module: its kind and its index (R415). -/
structure Func where
  kind  : FuncKind
  index : Nat
deriving DecidableEq, Repr

/-- A Twiyn RPC call (R394): what its header says (command, call identifier, volume, argument bytes), the session it belongs to,
the port it came by (a data port, unless it came over the management port), and whether its argument bytes match its command. -/
structure Call where
  command : Nat
  cid     : Nat
  vol     : Nat
  args    : Nat
  session : Nat
  mgmt    : Bool
  port    : Nat
  argsOk  : Bool
deriving DecidableEq, Repr

/-- Where a host read or write goes: a VA of the call's volume or a physical address. -/
inductive HostAddr where
  | va (a : Nat)
  | pa (a : Nat)
deriving DecidableEq, Repr

/-- One page-table entry the host writes: its physical address and its value (R234). -/
structure TableWrite where
  pa    : Nat
  entry : Word
deriving DecidableEq, Repr

/-- A peer entry the host writes (R381, R425): the peer's address, the keys it has issued, its window key, and the fields of
`nqry.peer`. -/
structure PeerWrite where
  index  : Nat
  addr   : Nat
  issued : List (BitVec 32)
  valid  : Bool
  state  : BitVec 2
  pay    : BitVec 4
  vol    : Nat
  depth  : Nat
  port   : Nat
  window : BitVec 32
deriving DecidableEq, Repr

/-- An exported key the host writes (R425). -/
structure KeyWrite where
  key    : BitVec 32
  vol    : Nat
  base   : Nat
  length : Nat
  r      : Bool
  w      : Bool
  peer   : Nat
deriving DecidableEq, Repr

/-- The arguments of the map command (R394): root and arena of the volume's address space, table entries, peers, keys. -/
structure MapArgs where
  root    : Option Nat
  arena   : Option (Nat × Nat)
  entries : List TableWrite
  peers   : List PeerWrite
  keys    : List KeyWrite
  vaRange : Option (Nat × Nat)
deriving DecidableEq, Repr

/-- The host's answer to a page request (R410). -/
inductive PageAnswer where
  | mapped (entries : List TableWrite)
  | refused
deriving DecidableEq, Repr

/-- What the query command asks (R394, R415, R418, R421, R422). -/
inductive QueryItem where
  | shelf (vol gidx : Nat)
  | corrected (core : Nat)
  | late
  | peer (i : Nat)
  | volume (v : Nat)
  | reports
  | identity
  | fenced
  | portStats (p : Nat)
  | selfTests
  | corrections (f : Func)
deriving DecidableEq, Repr

/-- What an acknowledgement or a refusal is about, in the names of the party that sent the packet: message n of a (volume, peer)
pair (R386), a request that writes or reads, or the data of a read. -/
inductive PacketName where
  | message (vol n : Nat)
  | request (wr : Nat)
  | reply (wr : Nat)
deriving DecidableEq, Repr

/-- What a peer refuses a packet of. -/
structure Refused where
  peer : Nat
  name : PacketName
deriving DecidableEq, Repr

/-- What a packet that arrives from a peer carries (R386, R425). -/
inductive PacketKind where
  /-- packet i of message n (whole length len), which the sender's volume sent -/
  | send (vol n i len : Nat) (bytes : List Byte)
  /-- a write of a key's region; `wr` is the sender's own name of the request, returned in the acknowledgement -/
  | write (wr i : Nat) (key : BitVec 32) (off : Nat) (bytes : List Byte)
  /-- a read request of a key's region -/
  | readReq (wr i : Nat) (key : BitVec 32) (off n : Nat)
  /-- the data of packet i of a read: a read work request, an engine's remote piece, or a strand's remote load (R393) -/
  | readData (wr i : Nat) (bytes : List Byte)
  /-- a packet of another delivery mode than RUD, or of an operation that is not offered -/
  | other
deriving DecidableEq, Repr

/-- A packet as it arrives: the receiving peer entry's index, the port, its contents. -/
structure Packet where
  peer : Nat
  port : Nat
  kind : PacketKind
deriving DecidableEq, Repr

/-- An instruction or a step: one constructor per row of spec/opcode_table.json. -/
inductive Instr where
  -- control (R94 to R101, R361, R147)
  | nop (h : Hdr)
  | br (h : Hdr) (disp : BitVec 24)
  | beq (h : Hdr) (a b : GOp) (disp : BitVec 24)
  | bne (h : Hdr) (a b : GOp) (disp : BitVec 24)
  | blt (h : Hdr) (a b : GOp) (disp : BitVec 24)
  | bge (h : Hdr) (a b : GOp) (disp : BitVec 24)
  | bltu (h : Hdr) (a b : GOp) (disp : BitVec 24)
  | bgeu (h : Hdr) (a b : GOp) (disp : BitVec 24)
  | call (h : Hdr) (a : GOp) (disp : BitVec 24)
  | jr (h : Hdr) (d a : GOp)
  | loop (h : Hdr) (a : GOp) (disp : BitVec 24)
  | stop (h : Hdr)
  | retire (h : Hdr) (a b : GOp)
  | yield (h : Hdr)
  | bara (h : Hdr) (n : BitVec 24)
  | barw (h : Hdr) (n : BitVec 24)
  | collate (h : Hdr) (n : BitVec 24)
  | disband (h : Hdr)
  | wait (h : Hdr) (a : GOp) (imm : BitVec 24)
  -- service (R405, R361)
  | svc (h : Hdr) (d a b : GOp) (n : BitVec 16)
  | trap (h : Hdr) (code : BitVec 24)
  | resume (h : Hdr) (a : GOp)
  | emr (h : Hdr) (d a : GOp) (rs : BitVec 24)
  | emw (h : Hdr) (d a : GOp) (rs : BitVec 24)
  | kill (h : Hdr) (a : GOp)
  | pmt (h : Hdr) (d a : GOp)
  | launch (h : Hdr) (d a b : GOp)
  -- scalar integer (R113 to R124)
  | add (h : Hdr) (o : Ovf) (z : Size) (d a b : GOp)
  | addi (h : Hdr) (o : Ovf) (z : Size) (d a : GOp) (imm : BitVec 24)
  | sub (h : Hdr) (o : Ovf) (z : Size) (d a b : GOp)
  | mul (h : Hdr) (o : Ovf) (z : Size) (d a b : GOp)
  | mulh (h : Hdr) (z : Size) (d a b : GOp)
  | mulhu (h : Hdr) (z : Size) (d a b : GOp)
  | div (h : Hdr) (z : Size) (d a b : GOp)
  | divu (h : Hdr) (z : Size) (d a b : GOp)
  | rem (h : Hdr) (z : Size) (d a b : GOp)
  | remu (h : Hdr) (z : Size) (d a b : GOp)
  | neg (h : Hdr) (o : Ovf) (z : Size) (d a : GOp)
  | abs (h : Hdr) (o : Ovf) (z : Size) (d a : GOp)
  | min (h : Hdr) (z : Size) (d a b : GOp)
  | max (h : Hdr) (z : Size) (d a b : GOp)
  | minu (h : Hdr) (z : Size) (d a b : GOp)
  | maxu (h : Hdr) (z : Size) (d a b : GOp)
  | and (h : Hdr) (z : Size) (d a b : GOp)
  | andi (h : Hdr) (z : Size) (d a : GOp) (imm : BitVec 24)
  | or (h : Hdr) (z : Size) (d a b : GOp)
  | ori (h : Hdr) (z : Size) (d a : GOp) (imm : BitVec 24)
  | xor (h : Hdr) (z : Size) (d a b : GOp)
  | xori (h : Hdr) (z : Size) (d a : GOp) (imm : BitVec 24)
  | andn (h : Hdr) (z : Size) (d a b : GOp)
  | shl (h : Hdr) (z : Size) (d a b : GOp)
  | shr (h : Hdr) (z : Size) (d a b : GOp)
  | sar (h : Hdr) (z : Size) (d a b : GOp)
  | rol (h : Hdr) (z : Size) (d a b : GOp)
  | shli (h : Hdr) (z : Size) (d a : GOp) (imm : BitVec 24)
  | shri (h : Hdr) (z : Size) (d a : GOp) (imm : BitVec 24)
  | sari (h : Hdr) (z : Size) (d a : GOp) (imm : BitVec 24)
  | clz (h : Hdr) (z : Size) (d a : GOp)
  | ctz (h : Hdr) (z : Size) (d a : GOp)
  | popc (h : Hdr) (z : Size) (d a : GOp)
  | bfx (h : Hdr) (d a : GOp) (imm : BitVec 24)
  | bfi (h : Hdr) (d a : GOp) (imm : BitVec 24)
  | sext (h : Hdr) (z : Size) (d a : GOp)
  | zext (h : Hdr) (z : Size) (d a : GOp)
  | mov (h : Hdr) (z : Size) (d a : GOp)
  | movi (h : Hdr) (d : GOp) (imm : BitVec 32)
  | movhi (h : Hdr) (d : GOp) (imm : BitVec 32)
  | lea (h : Hdr) (d a : GOp) (seg : Fin 8) (disp : BitVec 20)
  | sel (h : Hdr) (d a b : GOp) (k : Fin 16)
  | cmp (h : Hdr) (cc : Cc) (z : Size) (d : Fin 16) (a b : GOp)
  | cmpi (h : Hdr) (cc : Cc) (z : Size) (d : Fin 16) (a : GOp) (imm : BitVec 24)
  | pand (h : Hdr) (d a b : Fin 16)
  | por (h : Hdr) (d a b : Fin 16)
  | pxor (h : Hdr) (d a b : Fin 16)
  | pandn (h : Hdr) (d a b : Fin 16)
  | mfp (h : Hdr) (d : GOp)
  | mtp (h : Hdr) (a : GOp)
  | mfs (h : Hdr) (d : GOp) (n : BitVec 24)
  | mts (h : Hdr) (a : GOp) (n : BitVec 24)
  -- scalar floating point (R125 to R128)
  | fadd (h : Hdr) (f : Fmt) (rm : Rm) (d a b : GOp)
  | fsub (h : Hdr) (f : Fmt) (rm : Rm) (d a b : GOp)
  | fmul (h : Hdr) (f : Fmt) (rm : Rm) (d a b : GOp)
  | ffma (h : Hdr) (f : Fmt) (rm : Rm) (d a b c : GOp)
  | fmin (h : Hdr) (f : Fmt) (rm : Rm) (d a b : GOp)
  | fmax (h : Hdr) (f : Fmt) (rm : Rm) (d a b : GOp)
  | fcmp (h : Hdr) (cc : FCc) (f : Fmt) (d : Fin 16) (a b : GOp)
  | fcvt (h : Hdr) (cv : CvF) (d a : GOp)
  -- vector (R132 to R146, R64 to R67)
  | vadd (h : Hdr) (f : VfF) (d a : Fin 16) (b : VG)
  | vsub (h : Hdr) (f : VfF) (d a : Fin 16) (b : VG)
  | vmul (h : Hdr) (f : VfF) (d a : Fin 16) (b : VG)
  | vfma (h : Hdr) (f : VfF) (d a : Fin 16) (b : VG) (c : Fin 16)
  | vmin (h : Hdr) (f : VfF) (d a : Fin 16) (b : VG)
  | vmax (h : Hdr) (f : VfF) (d a : Fin 16) (b : VG)
  | vabs (h : Hdr) (f : VfF) (d a : Fin 16)
  | vneg (h : Hdr) (f : VfF) (d a : Fin 16)
  | vand (h : Hdr) (d a : Fin 16) (b : VG)
  | vor (h : Hdr) (d a : Fin 16) (b : VG)
  | vxor (h : Hdr) (d a : Fin 16) (b : VG)
  | vshl (h : Hdr) (f : Fmt) (d a : Fin 16) (b : VG)
  | vshr (h : Hdr) (f : Fmt) (d a : Fin 16) (b : VG)
  | vsar (h : Hdr) (f : Fmt) (d a : Fin 16) (b : VG)
  | vcmp (h : Hdr) (cc : VCc) (f : Fmt) (d : GOp) (a : Fin 16) (b : VG)
  | vsel (h : Hdr) (f : Fmt) (d a b : Fin 16) (c : GOp)
  | vbc (h : Hdr) (f : Fmt) (d : Fin 16) (a : GOp)
  | vget (h : Hdr) (f : Fmt) (d : GOp) (a : Fin 16) (idx : BitVec 6)
  | vput (h : Hdr) (f : Fmt) (d : Fin 16) (a : GOp) (idx : BitVec 6)
  | vperm (h : Hdr) (f : Fmt) (d a b : Fin 16)
  | vred (h : Hdr) (op : RedOp) (f : VfF) (d : GOp) (a : Fin 16)
  | vdot (h : Hdr) (f : VfF) (d : GOp) (a b : Fin 16)
  | vcvt (h : Hdr) (cv : CvF) (d a : Fin 16)
  | vqnt (h : Hdr) (fine : Bool) (df : Fmt) (d a : Fin 16) (b : GOp)
  | vdeq (h : Hdr) (sf : Fmt) (d a : Fin 16) (b : GOp)
  | amxrd (h : Hdr) (d : GOp)
  | amxsw (h : Hdr) (d a : GOp)
  | vld (h : Hdr) (m : MemF) (d : Fin 16) (a : GOp)
  | vst (h : Hdr) (m : MemF) (d : Fin 16) (a : GOp)
  | vldf (h : Hdr) (m : FolF) (d : Fin 16) (a : GOp)
  | vstf (h : Hdr) (m : FolF) (d : Fin 16) (a : GOp)
  | vldx (h : Hdr) (m : MemF) (d : Fin 16) (a : Fin 16)
  | vstx (h : Hdr) (m : MemF) (d : Fin 16) (a : Fin 16)
  | sfn (h : Hdr) (f : Fmt) (d a b : GOp) (fn : BitVec 16)
  -- memory (R194)
  | ld (h : Hdr) (m : MemF) (d a : GOp)
  | lds (h : Hdr) (m : MemF) (d a : GOp)
  | st (h : Hdr) (m : MemF) (d a : GOp)
  | ldf (h : Hdr) (m : MemF) (d a : GOp)
  | lde (h : Hdr) (m : MemF) (d a : GOp)
  | stf (h : Hdr) (m : MemF) (d a : GOp)
  | stfe (h : Hdr) (m : MemF) (d a : GOp)
  | clrf (h : Hdr) (m : MemF) (a : GOp)
  | amo (h : Hdr) (op : AmoOp) (m : AtF) (d a b : GOp)
  | cas (h : Hdr) (m : AtF) (d a b c : GOp)
  | amof (h : Hdr) (op : AmofOp) (m : AtF) (d a b : GOp)
  | fence (h : Hdr) (k : FenceKind) (sc : FenceScope)
  | cfence (h : Hdr)
  | swarm (h : Hdr) (d a b : GOp)
  | swadd (h : Hdr) (a b : GOp)
  | swwait (h : Hdr) (a b : GOp)
  | swrd (h : Hdr) (d a : GOp)
  -- segments and translation (R243)
  | segld (h : Hdr) (d : Fin 8) (a : GOp)
  | segst (h : Hdr) (a : GOp) (b : Fin 8)
  | segrd (h : Hdr) (hi : Bool) (d : GOp) (a : Fin 8)
  | tlbi (h : Hdr) (a b : GOp)
  | tlbsync (h : Hdr)
  | upret (h : Hdr) (a : GOp)
  | pgrq (h : Hdr) (d a b : GOp)
  -- matrix (R272)
  | tcfg (h : Hdr) (d a : GOp) (mask : BitVec 16)
  | trel (h : Hdr) (mask : BitVec 24)
  | tzero (h : Hdr) (mask : BitVec 24)
  | tenq (h : Hdr) (d a b : GOp)
  | tst (h : Hdr) (f : Fmt) (rm : Rm) (t : Fin 16) (a b : GOp)
  | tld (h : Hdr) (f : Fmt) (t : Fin 16) (a b : GOp)
  | tget (h : Hdr) (err : Bool) (t : Fin 16) (d a : GOp)
  | tset (h : Hdr) (err : Bool) (t : Fin 16) (a b : GOp)
  | msset (h : Hdr) (m : Fin 4) (a b : GOp)
  | msrd (h : Hdr) (m : Fin 4) (d : GOp)
  | twait (h : Hdr) (mask : BitVec 24)
  | mmar (h : Hdr) (f : Fmt) (t : Fin 16) (a b : Fin 16)
  -- copy (R282)
  | cpy (h : Hdr) (d a b : GOp)
  | cpyRp (h : Hdr) (d a b : GOp)
  | gath (h : Hdr) (d a b : GOp)
  | scat (h : Hdr) (d a b : GOp)
  | cmpct (h : Hdr) (d a b : GOp)
  | dpat (h : Hdr) (a b : GOp)
  | dcpy (h : Hdr) (d a b : GOp)
  | cqry (h : Hdr) (d a : GOp) (q : BitVec 16)
  -- key pages and annex (R304, R318)
  | ksel (h : Hdr) (note : Bool) (d a b : GOp)
  | kgath (h : Hdr) (note : Bool) (d a b : GOp)
  | kabs (h : Hdr) (d a : GOp)
  | emb (h : Hdr) (note : Bool) (d a b : GOp)
  -- code (R331)
  | spec (h : Hdr) (d a b : GOp) (tag : BitVec 16)
  | aref (h : Hdr) (a : GOp)
  | arel (h : Hdr) (a : GOp)
  | acall (h : Hdr) (d a : GOp)
  | ainf (h : Hdr) (item : Fin 4) (d a : GOp)
  -- launches, holds, deques, post (R361, R175)
  | hold (h : Hdr) (d a : GOp) (imm : BitVec 24)
  | dech (h : Hdr) (a : GOp) (imm : BitVec 24)
  | pushr (h : Hdr) (d a : GOp)
  | popr (h : Hdr) (d : GOp)
  | splitr (h : Hdr) (d : GOp)
  | stealr (h : Hdr) (d a : GOp)
  | post (h : Hdr) (d a b : GOp) (tag : BitVec 16)
  | spawn (h : Hdr) (d a b : GOp) (imm : BitVec 16)
  -- network (R383)
  | nsend (h : Hdr) (note : Bool) (d a : GOp)
  | nread (h : Hdr) (note : Bool) (d a : GOp)
  | nwrite (h : Hdr) (note : Bool) (d a : GOp)
  | nrecv (h : Hdr) (note : Bool) (d a : GOp)
  | nqry (h : Hdr) (d a : GOp) (item : BitVec 16)
  -- steps that are no instruction words
  | illegalEncoding (w : Word)
  | resultReturn (core slot op : Nat)
  | strandWake (core slot : Nat)
  | waitExpiry (core slot : Nat)
  | idleSlotSearch (core slot : Nat)
  | fetchFill (core slot : Nat)
  | portWordArrive (msg : Nat)
  | creditReturn (msg : Nat)
  | postArrive (msg : Nat)
  | engineMessageDeliver (id : Nat)
  | faultMessageDeliver (id : Nat)
  | bankTransaction (flight : Nat)
  | overflowRetry (flight : Nat)
  | translationWalk (walk : Nat)
  | barrierArrival (msg : Nat)
  | holdDecrement (msg : Nat)
  | stealPerform (msg : Nat)
  | preemptRequest (msg : Nat)
  | preemptSave (core : Nat)
  | resumeRequest (msg : Nat)
  | coreResume (core : Nat)
  | launchAccept (req : Nat)
  | placement
  | gatheringRetire (vol gidx : Nat)
  | copyAccept (cluster req : Nat)
  | copyChunk (cluster op : Nat)
  | copyComplete (cluster op : Nat)
  | binderyEnqueue (cluster req : Nat)
  | taskStart (cluster : Nat)
  | taskPartComplete (cluster task part : Nat)
  | selectionAccept (cluster req : Nat)
  | selectRun (cluster op : Nat)
  | gatherEntry (cluster op : Nat)
  | embAccept (cluster req : Nat)
  | chipPartial (cluster op bag chip : Nat)
  | bagWrite (cluster op : Nat)
  | specAccept (cluster req : Nat)
  | specRun (cluster op : Nat)
  | netAccept (req : Nat)
  | packetReceive (p : Packet)
  | ackReceive (peer : Nat) (name : PacketName) (packets : List Nat)
  | retransmitTimeout (wr packet : Nat)
  | pageRequestForward (cluster : Nat)
  | svcVersion (core slot : Nat)
  | svcResume (core slot : Nat)
  | svcKill (core slot : Nat)
  | svcPage (core slot : Nat)
  | svcCounts (core slot : Nat)
  | curatorSwitchEnd (cluster : Nat)
  | tlbiTakesEffect (id : Nat)
  | remotekeyRefusal (refused : Refused) (packet : Nat)
  | uncorrectableError (f : Func) (flight : Option Nat)
  | powerOn
  | rootSelfTestEnd (pass : Bool) (diag : BitVec 32)
  | functionReport (f : Func) (ready : Bool) (diag : BitVec 32) (images : List (Nat × List Byte × List Byte))
  | thermalShutdown
  | loadCode (c : Call) (words : List Word)
  | map (c : Call) (args : MapArgs)
  | unmap (c : Call) (entries : List TableWrite) (lo len : Nat)
  | hostRead (c : Call) (a : HostAddr) (n : Nat)
  | hostWrite (c : Call) (a : HostAddr) (bytes : List Byte)
  | hostLaunch (c : Call) (record : List Word) (sync : Option Nat)
  | hostPreempt (c : Call) (core : Nat) (resume : Bool)
  | answerPageRequest (c : Call) (page : Nat) (ans : PageAnswer)
  | query (c : Call) (item : QueryItem)
  | repeatSelfTest (c : Call)
  | identityKey (c : Call)
  | deviceIdentifier (c : Call)
  | temperaturePower (c : Call)
  | firmwareUpdate (c : Call) (image sig : List Byte) (version : BitVec 32)
  | attestationQuote (c : Call) (nonce : List Byte)
  | unknownCommand (c : Call) (command : Nat)
deriving DecidableEq, Repr

end Sys2Proof
end

