-- ==== Sys2Proof/Decode.lean ====
section
/-! DEFINITION. The decoder and the encoder: the word's fields (R23, R24), the field-use tables (R36, R38), the checks of
R39, the instruction a legal word names, and the word of an instruction. -/

namespace Sys2Proof

/-! ## The word -/

/-- An instruction word cut into the fields of R23; `lo` is bits [39:0], whose layout is the format's (R24). -/
structure Raw where
  sw  : Bool
  emA : Bool
  emB : Bool
  emC : Bool
  op  : BitVec 9
  pr  : BitVec 4
  pn  : Bool
  fn  : BitVec 6
  lo  : BitVec 40
deriving DecidableEq, Repr

/-- The fields of a word (R23). -/
def Raw.ofWord (w : Word) : Raw :=
  { sw := w.getLsbD 63, emA := w.getLsbD 62, emB := w.getLsbD 61, emC := w.getLsbD 60,
    op := w.extractLsb' 51 9, pr := w.extractLsb' 47 4, pn := w.getLsbD 46,
    fn := w.extractLsb' 40 6, lo := w.extractLsb' 0 40 }

/-- The word of these fields (R23). -/
def Raw.toWord (r : Raw) : Word :=
  BitVec.ofBool r.sw ++ BitVec.ofBool r.emA ++ BitVec.ofBool r.emB ++ BitVec.ofBool r.emC ++
    r.op ++ r.pr ++ BitVec.ofBool r.pn ++ r.fn ++ r.lo

/-! ## Bits [39:0] of the six formats (R24) -/

def Raw.b4 (r : Raw) : Byte := r.lo.extractLsb' 32 8
def Raw.b3 (r : Raw) : Byte := r.lo.extractLsb' 24 8
def Raw.b2 (r : Raw) : Byte := r.lo.extractLsb' 16 8
def Raw.b1 (r : Raw) : Byte := r.lo.extractLsb' 8 8
/-- X of format R. -/
def Raw.x (r : Raw) : Byte := r.lo.extractLsb' 0 8
def Raw.imm24 (r : Raw) : BitVec 24 := r.lo.extractLsb' 0 24
def Raw.imm32 (r : Raw) : BitVec 32 := r.lo.extractLsb' 0 32
def Raw.imm16 (r : Raw) : BitVec 16 := r.lo.extractLsb' 0 16
def Raw.rx (r : Raw) : Bool := r.lo.getLsbD 23
def Raw.seg (r : Raw) : BitVec 3 := r.lo.extractLsb' 20 3
def Raw.disp20 (r : Raw) : BitVec 20 := r.lo.extractLsb' 0 20

/-- The six formats (R24). -/
inductive Format where
  | r | i | w | m | b | e
deriving DecidableEq, Repr

/-- Classes of register fields (R27). `vg` is a vector field that X[7] = 1 makes a class-g source; `v4` is the first of
four vector registers, 0 to 12 (R38). -/
inductive Cls where
  | g | v | p | c | k | vg | v4
deriving DecidableEq, Repr

/-- Uses of register fields (R38). -/
inductive Use where
  | d | s | ds
deriving DecidableEq, Repr

/-- Layouts of FN (R34), with the formats or sizes the instruction allows. `vfm` is VF whose overflow mode 1 is illegal
(R134), `vdot` is VF whose integer formats allow mode 0 only (R142). -/
inductive FnL where
  | zero | sz | sa | cmp
  | fl (fs : List Nat) | fc (fs : List Nat) | fmt (fs : List Nat)
  | vf (fs : List Nat) | vfm (fs : List Nat) | vdot (fs : List Nat)
  | cv (fs : List Nat) | qn
  | mem (sizes ords : List Nat)
  | at (ops : Nat) (sizes : List Nat)
  | fe
deriving DecidableEq, Repr

/-- Layouts of X (R34, R38). -/
inductive XL where
  | zero | pred | bc | vcmp | elem | red
  | cv (fs : List Nat) | at | upto (n : Nat)
deriving DecidableEq, Repr

/-- Limits of an immediate or displacement (R38). -/
inductive ImmL where
  | none | any | shift | bits | upto (n : Nat) | collate | mask | emsel
deriving DecidableEq, Repr

/-- One row of the field-use tables of R38. -/
structure OpInfo where
  fmt : Format
  D   : Option (Cls × Use) := none
  A   : Option (Cls × Use) := none
  B   : Option (Cls × Use) := none
  C   : Option (Cls × Use) := none
  fn  : FnL := .zero
  x   : XL := .zero
  imm : ImmL := .none
  rxOk : Bool := false
deriving DecidableEq, Repr

/-! The format sets of R38, by format code (R33). -/

def fScalar : List Nat := [0, 1, 2, 3]
def fCvtS : List Nat := [0, 1, 2, 3, 4, 5, 7, 8, 9]
def fVec : List Nat := [0, 2, 3, 7, 8, 9]
def fVecF : List Nat := [0, 2, 3]
def fInt : List Nat := [7, 8, 9]
def fDot : List Nat := [0, 2, 3, 7, 8]
def fCvtV : List Nat := [0, 2, 3, 4, 5, 6, 7, 8, 9]
def fQ : List Nat := [4, 5, 6, 7]
def fFolL : List Nat := [0, 2, 3, 4, 5, 6, 7, 8, 9]
def fFolS : List Nat := [0, 2, 3, 4, 5, 6, 7]
def fAll : List Nat := [0, 1, 2, 3, 4, 5, 6, 7, 8, 9]
def fMmar : List Nat := [2, 3, 4, 5, 7]

/-- R36 and R38, opcodes 0x000 to 0x00F. -/
def opInfo00 : Nat → Option OpInfo
  | 0x0 => some { fmt := .r }  -- nop
  | 0x1 => some { fmt := .b, imm := .any }  -- br
  | 0x2 => some { fmt := .b, A := some (.g, .s), B := some (.g, .s), imm := .any }  -- beq
  | 0x3 => some { fmt := .b, A := some (.g, .s), B := some (.g, .s), imm := .any }  -- bne
  | 0x4 => some { fmt := .b, A := some (.g, .s), B := some (.g, .s), imm := .any }  -- blt
  | 0x5 => some { fmt := .b, A := some (.g, .s), B := some (.g, .s), imm := .any }  -- bge
  | 0x6 => some { fmt := .b, A := some (.g, .s), B := some (.g, .s), imm := .any }  -- bltu
  | 0x7 => some { fmt := .b, A := some (.g, .s), B := some (.g, .s), imm := .any }  -- bgeu
  | 0x8 => some { fmt := .b, A := some (.g, .d), imm := .any }  -- call
  | 0x9 => some { fmt := .r, D := some (.g, .d), A := some (.g, .s) }  -- jr
  | 0xA => some { fmt := .b, A := some (.g, .ds), imm := .any }  -- loop
  | 0xB => some { fmt := .r }  -- stop
  | 0xC => some { fmt := .e, A := some (.g, .s), B := some (.g, .s) }  -- retire
  | 0xD => some { fmt := .r }  -- yield
  | 0xE => some { fmt := .i, imm := .upto 15 }  -- bara
  | 0xF => some { fmt := .i, imm := .upto 15 }  -- barw
  | _ => none

/-- R36 and R38, opcodes 0x010 to 0x01F. -/
def opInfo01 : Nat → Option OpInfo
  | 0x0 => some { fmt := .i, imm := .collate }  -- collate
  | 0x1 => some { fmt := .r }  -- disband
  | 0x2 => some { fmt := .i, A := some (.g, .s), imm := .any }  -- wait
  | 0x8 => some { fmt := .e, D := some (.g, .d), A := some (.g, .s), B := some (.g, .s), imm := .upto 4 }  -- svc
  | 0x9 => some { fmt := .i, imm := .any }  -- trap
  | 0xA => some { fmt := .r, A := some (.g, .s) }  -- resume
  | 0xB => some { fmt := .i, D := some (.g, .d), A := some (.g, .s), imm := .emsel }  -- emr
  | 0xC => some { fmt := .i, D := some (.g, .s), A := some (.g, .s), imm := .emsel }  -- emw
  | 0xD => some { fmt := .r, A := some (.g, .s) }  -- kill
  | 0xE => some { fmt := .r, D := some (.g, .d), A := some (.g, .s) }  -- pmt
  | 0xF => some { fmt := .e, D := some (.g, .d), A := some (.g, .s), B := some (.g, .s) }  -- launch
  | _ => none

/-- R36 and R38, opcodes 0x030 to 0x03F. -/
def opInfo03 : Nat → Option OpInfo
  | 0x0 => some { fmt := .r, D := some (.g, .d), A := some (.g, .s), B := some (.g, .s), fn := .sa }  -- add
  | 0x1 => some { fmt := .i, D := some (.g, .d), A := some (.g, .s), fn := .sa, imm := .any }  -- addi
  | 0x2 => some { fmt := .r, D := some (.g, .d), A := some (.g, .s), B := some (.g, .s), fn := .sa }  -- sub
  | 0x3 => some { fmt := .r, D := some (.g, .d), A := some (.g, .s), B := some (.g, .s), fn := .sa }  -- mul
  | 0x4 => some { fmt := .r, D := some (.g, .d), A := some (.g, .s), B := some (.g, .s), fn := .sz }  -- mulh
  | 0x5 => some { fmt := .r, D := some (.g, .d), A := some (.g, .s), B := some (.g, .s), fn := .sz }  -- mulhu
  | 0x6 => some { fmt := .r, D := some (.g, .d), A := some (.g, .s), B := some (.g, .s), fn := .sz }  -- div
  | 0x7 => some { fmt := .r, D := some (.g, .d), A := some (.g, .s), B := some (.g, .s), fn := .sz }  -- divu
  | 0x8 => some { fmt := .r, D := some (.g, .d), A := some (.g, .s), B := some (.g, .s), fn := .sz }  -- rem
  | 0x9 => some { fmt := .r, D := some (.g, .d), A := some (.g, .s), B := some (.g, .s), fn := .sz }  -- remu
  | 0xA => some { fmt := .r, D := some (.g, .d), A := some (.g, .s), fn := .sa }  -- neg
  | 0xB => some { fmt := .r, D := some (.g, .d), A := some (.g, .s), fn := .sa }  -- abs
  | 0xC => some { fmt := .r, D := some (.g, .d), A := some (.g, .s), B := some (.g, .s), fn := .sz }  -- min
  | 0xD => some { fmt := .r, D := some (.g, .d), A := some (.g, .s), B := some (.g, .s), fn := .sz }  -- max
  | 0xE => some { fmt := .r, D := some (.g, .d), A := some (.g, .s), B := some (.g, .s), fn := .sz }  -- minu
  | 0xF => some { fmt := .r, D := some (.g, .d), A := some (.g, .s), B := some (.g, .s), fn := .sz }  -- maxu
  | _ => none

/-- R36 and R38, opcodes 0x040 to 0x04F. -/
def opInfo04 : Nat → Option OpInfo
  | 0x0 => some { fmt := .r, D := some (.g, .d), A := some (.g, .s), B := some (.g, .s), fn := .sz }  -- and
  | 0x1 => some { fmt := .i, D := some (.g, .d), A := some (.g, .s), fn := .sz, imm := .any }  -- andi
  | 0x2 => some { fmt := .r, D := some (.g, .d), A := some (.g, .s), B := some (.g, .s), fn := .sz }  -- or
  | 0x3 => some { fmt := .i, D := some (.g, .d), A := some (.g, .s), fn := .sz, imm := .any }  -- ori
  | 0x4 => some { fmt := .r, D := some (.g, .d), A := some (.g, .s), B := some (.g, .s), fn := .sz }  -- xor
  | 0x5 => some { fmt := .i, D := some (.g, .d), A := some (.g, .s), fn := .sz, imm := .any }  -- xori
  | 0x6 => some { fmt := .r, D := some (.g, .d), A := some (.g, .s), B := some (.g, .s), fn := .sz }  -- andn
  | 0x7 => some { fmt := .r, D := some (.g, .d), A := some (.g, .s), B := some (.g, .s), fn := .sz }  -- shl
  | 0x8 => some { fmt := .r, D := some (.g, .d), A := some (.g, .s), B := some (.g, .s), fn := .sz }  -- shr
  | 0x9 => some { fmt := .r, D := some (.g, .d), A := some (.g, .s), B := some (.g, .s), fn := .sz }  -- sar
  | 0xA => some { fmt := .r, D := some (.g, .d), A := some (.g, .s), B := some (.g, .s), fn := .sz }  -- rol
  | 0xB => some { fmt := .i, D := some (.g, .d), A := some (.g, .s), fn := .sz, imm := .shift }  -- shli
  | 0xC => some { fmt := .i, D := some (.g, .d), A := some (.g, .s), fn := .sz, imm := .shift }  -- shri
  | 0xD => some { fmt := .i, D := some (.g, .d), A := some (.g, .s), fn := .sz, imm := .shift }  -- sari
  | 0xE => some { fmt := .r, D := some (.g, .d), A := some (.g, .s), fn := .sz }  -- clz
  | 0xF => some { fmt := .r, D := some (.g, .d), A := some (.g, .s), fn := .sz }  -- ctz
  | _ => none

/-- R36 and R38, opcodes 0x050 to 0x05F. -/
def opInfo05 : Nat → Option OpInfo
  | 0x0 => some { fmt := .r, D := some (.g, .d), A := some (.g, .s), fn := .sz }  -- popc
  | 0x1 => some { fmt := .i, D := some (.g, .d), A := some (.g, .s), imm := .bits }  -- bfx
  | 0x2 => some { fmt := .i, D := some (.g, .ds), A := some (.g, .s), imm := .bits }  -- bfi
  | 0x3 => some { fmt := .r, D := some (.g, .d), A := some (.g, .s), fn := .sz }  -- sext
  | 0x4 => some { fmt := .r, D := some (.g, .d), A := some (.g, .s), fn := .sz }  -- zext
  | 0x5 => some { fmt := .r, D := some (.g, .d), A := some (.g, .s), fn := .sz }  -- mov
  | 0x6 => some { fmt := .w, D := some (.g, .d), imm := .any }  -- movi
  | 0x7 => some { fmt := .w, D := some (.g, .ds), imm := .any }  -- movhi
  | 0x8 => some { fmt := .m, D := some (.g, .d), A := some (.g, .s), imm := .any }  -- lea
  | 0x9 => some { fmt := .r, D := some (.g, .d), A := some (.g, .s), B := some (.g, .s), x := .pred }  -- sel
  | 0xA => some { fmt := .r, D := some (.p, .d), A := some (.g, .s), B := some (.g, .s), fn := .cmp }  -- cmp
  | 0xB => some { fmt := .i, D := some (.p, .d), A := some (.g, .s), fn := .cmp, imm := .any }  -- cmpi
  | 0xC => some { fmt := .r, D := some (.p, .d), A := some (.p, .s), B := some (.p, .s) }  -- pand
  | 0xD => some { fmt := .r, D := some (.p, .d), A := some (.p, .s), B := some (.p, .s) }  -- por
  | 0xE => some { fmt := .r, D := some (.p, .d), A := some (.p, .s), B := some (.p, .s) }  -- pxor
  | 0xF => some { fmt := .r, D := some (.p, .d), A := some (.p, .s), B := some (.p, .s) }  -- pandn
  | _ => none

/-- R36 and R38, opcodes 0x060 to 0x06F. -/
def opInfo06 : Nat → Option OpInfo
  | 0x0 => some { fmt := .r, D := some (.g, .d) }  -- mfp
  | 0x1 => some { fmt := .r, A := some (.g, .s) }  -- mtp
  | 0x2 => some { fmt := .i, D := some (.g, .d), imm := .upto 19 }  -- mfs
  | 0x3 => some { fmt := .i, A := some (.g, .s), imm := .upto 19 }  -- mts
  | 0x4 => some { fmt := .r, D := some (.g, .d), A := some (.g, .s), B := some (.g, .s), fn := .fl fScalar }  -- fadd
  | 0x5 => some { fmt := .r, D := some (.g, .d), A := some (.g, .s), B := some (.g, .s), fn := .fl fScalar }  -- fsub
  | 0x6 => some { fmt := .r, D := some (.g, .d), A := some (.g, .s), B := some (.g, .s), fn := .fl fScalar }  -- fmul
  | 0x7 => some { fmt := .r, D := some (.g, .d), A := some (.g, .s), B := some (.g, .s), C := some (.g, .s), fn := .fl fScalar }  -- ffma
  | 0x8 => some { fmt := .r, D := some (.g, .d), A := some (.g, .s), B := some (.g, .s), fn := .fl fScalar }  -- fmin
  | 0x9 => some { fmt := .r, D := some (.g, .d), A := some (.g, .s), B := some (.g, .s), fn := .fl fScalar }  -- fmax
  | 0xA => some { fmt := .r, D := some (.p, .d), A := some (.g, .s), B := some (.g, .s), fn := .fc fScalar }  -- fcmp
  | 0xB => some { fmt := .r, D := some (.g, .d), A := some (.g, .s), fn := .cv fCvtS, x := .cv fCvtS }  -- fcvt
  | _ => none

/-- R36 and R38, opcodes 0x080 to 0x08F. -/
def opInfo08 : Nat → Option OpInfo
  | 0x0 => some { fmt := .r, D := some (.v, .d), A := some (.v, .s), B := some (.vg, .s), fn := .vf fVec, x := .bc }  -- vadd
  | 0x1 => some { fmt := .r, D := some (.v, .d), A := some (.v, .s), B := some (.vg, .s), fn := .vf fVec, x := .bc }  -- vsub
  | 0x2 => some { fmt := .r, D := some (.v, .d), A := some (.v, .s), B := some (.vg, .s), fn := .vf fVec, x := .bc }  -- vmul
  | 0x3 => some { fmt := .r, D := some (.v, .d), A := some (.v, .s), B := some (.vg, .s), C := some (.v, .s), fn := .vf fVecF, x := .bc }  -- vfma
  | 0x4 => some { fmt := .r, D := some (.v, .d), A := some (.v, .s), B := some (.vg, .s), fn := .vfm fVec, x := .bc }  -- vmin
  | 0x5 => some { fmt := .r, D := some (.v, .d), A := some (.v, .s), B := some (.vg, .s), fn := .vfm fVec, x := .bc }  -- vmax
  | 0x6 => some { fmt := .r, D := some (.v, .d), A := some (.v, .s), fn := .vf fVec }  -- vabs
  | 0x7 => some { fmt := .r, D := some (.v, .d), A := some (.v, .s), fn := .vf fVec }  -- vneg
  | 0x8 => some { fmt := .r, D := some (.v, .d), A := some (.v, .s), B := some (.vg, .s), x := .bc }  -- vand
  | 0x9 => some { fmt := .r, D := some (.v, .d), A := some (.v, .s), B := some (.vg, .s), x := .bc }  -- vor
  | 0xA => some { fmt := .r, D := some (.v, .d), A := some (.v, .s), B := some (.vg, .s), x := .bc }  -- vxor
  | 0xB => some { fmt := .r, D := some (.v, .d), A := some (.v, .s), B := some (.vg, .s), fn := .fmt fInt, x := .bc }  -- vshl
  | 0xC => some { fmt := .r, D := some (.v, .d), A := some (.v, .s), B := some (.vg, .s), fn := .fmt fInt, x := .bc }  -- vshr
  | 0xD => some { fmt := .r, D := some (.v, .d), A := some (.v, .s), B := some (.vg, .s), fn := .fmt fInt, x := .bc }  -- vsar
  | 0xE => some { fmt := .r, D := some (.g, .d), A := some (.v, .s), B := some (.vg, .s), fn := .fmt fVec, x := .vcmp }  -- vcmp
  | 0xF => some { fmt := .r, D := some (.v, .d), A := some (.v, .s), B := some (.v, .s), C := some (.g, .s), fn := .fmt fVec }  -- vsel
  | _ => none

/-- R36 and R38, opcodes 0x090 to 0x09F. -/
def opInfo09 : Nat → Option OpInfo
  | 0x0 => some { fmt := .r, D := some (.v, .d), A := some (.g, .s), fn := .fmt fVec }  -- vbc
  | 0x1 => some { fmt := .r, D := some (.g, .d), A := some (.v, .s), fn := .fmt fVec, x := .elem }  -- vget
  | 0x2 => some { fmt := .r, D := some (.v, .ds), A := some (.g, .s), fn := .fmt fVec, x := .elem }  -- vput
  | 0x3 => some { fmt := .r, D := some (.v, .d), A := some (.v, .s), B := some (.v, .s), fn := .fmt fVec }  -- vperm
  | 0x4 => some { fmt := .r, D := some (.g, .d), A := some (.v, .s), fn := .vf fVec, x := .red }  -- vred
  | 0x5 => some { fmt := .r, D := some (.g, .d), A := some (.v, .s), B := some (.v, .s), fn := .vdot fDot }  -- vdot
  | 0x6 => some { fmt := .r, D := some (.v, .d), A := some (.v, .s), fn := .cv fCvtV, x := .cv fCvtV }  -- vcvt
  | 0x7 => some { fmt := .r, D := some (.v, .d), A := some (.v, .s), B := some (.g, .s), fn := .qn }  -- vqnt
  | 0x8 => some { fmt := .r, D := some (.v, .d), A := some (.v, .s), B := some (.g, .s), fn := .fmt fQ }  -- vdeq
  | 0x9 => some { fmt := .r, D := some (.g, .d) }  -- amxrd
  | 0xA => some { fmt := .r, D := some (.g, .d), A := some (.g, .s) }  -- amxsw
  | 0xB => some { fmt := .m, D := some (.v, .d), A := some (.g, .s), fn := .mem [3] [0, 1], imm := .any, rxOk := true }  -- vld
  | 0xC => some { fmt := .m, D := some (.v, .s), A := some (.g, .s), fn := .mem [3] [0, 2], imm := .any, rxOk := true }  -- vst
  | 0xD => some { fmt := .m, D := some (.v, .d), A := some (.g, .s), fn := .fmt fFolL, imm := .any, rxOk := true }  -- vldf
  | 0xE => some { fmt := .m, D := some (.v, .s), A := some (.g, .s), fn := .fmt fFolS, imm := .any, rxOk := true }  -- vstf
  | 0xF => some { fmt := .m, D := some (.v, .d), A := some (.v, .s), fn := .mem [2, 3] [0], imm := .any, rxOk := true }  -- vldx
  | _ => none

/-- R36 and R38, opcodes 0x0A0 to 0x0AF. -/
def opInfo0A : Nat → Option OpInfo
  | 0x0 => some { fmt := .m, D := some (.v, .s), A := some (.v, .s), fn := .mem [2, 3] [0], imm := .any, rxOk := true }  -- vstx
  | 0x1 => some { fmt := .e, D := some (.g, .d), A := some (.g, .s), B := some (.g, .s), fn := .fmt fVecF, imm := .upto 9 }  -- sfn
  | _ => none

/-- R36 and R38, opcodes 0x0C0 to 0x0CF. -/
def opInfo0C : Nat → Option OpInfo
  | 0x0 => some { fmt := .m, D := some (.g, .d), A := some (.g, .s), fn := .mem [0, 1, 2, 3] [0, 1], imm := .any, rxOk := true }  -- ld
  | 0x1 => some { fmt := .m, D := some (.g, .d), A := some (.g, .s), fn := .mem [0, 1, 2] [0, 1], imm := .any, rxOk := true }  -- lds
  | 0x2 => some { fmt := .m, D := some (.g, .s), A := some (.g, .s), fn := .mem [0, 1, 2, 3] [0, 2], imm := .any, rxOk := true }  -- st
  | 0x3 => some { fmt := .m, D := some (.g, .d), A := some (.g, .s), fn := .mem [3] [0, 1], imm := .any, rxOk := true }  -- ldf
  | 0x4 => some { fmt := .m, D := some (.g, .d), A := some (.g, .s), fn := .mem [3] [0, 1, 2], imm := .any, rxOk := true }  -- lde
  | 0x5 => some { fmt := .m, D := some (.g, .s), A := some (.g, .s), fn := .mem [3] [0, 2], imm := .any, rxOk := true }  -- stf
  | 0x6 => some { fmt := .m, D := some (.g, .s), A := some (.g, .s), fn := .mem [3] [0, 2], imm := .any, rxOk := true }  -- stfe
  | 0x7 => some { fmt := .m, A := some (.g, .s), fn := .mem [3] [0, 2], imm := .any, rxOk := true }  -- clrf
  | 0x8 => some { fmt := .r, D := some (.g, .d), A := some (.g, .s), B := some (.g, .s), fn := .at 8 [0, 1, 2, 3], x := .at }  -- amo
  | 0x9 => some { fmt := .r, D := some (.g, .d), A := some (.g, .s), B := some (.g, .s), C := some (.g, .s), fn := .at 0 [0, 1, 2, 3], x := .at }  -- cas
  | 0xA => some { fmt := .r, D := some (.g, .d), A := some (.g, .s), B := some (.g, .s), fn := .at 2 [2, 3], x := .at }  -- amof
  | 0xB => some { fmt := .r, fn := .fe }  -- fence
  | 0xC => some { fmt := .r }  -- cfence
  | 0xD => some { fmt := .e, D := some (.g, .d), A := some (.g, .s), B := some (.g, .s) }  -- swarm
  | 0xE => some { fmt := .e, A := some (.g, .s), B := some (.g, .s) }  -- swadd
  | 0xF => some { fmt := .e, A := some (.g, .s), B := some (.g, .s) }  -- swwait
  | _ => none

/-- R36 and R38, opcodes 0x0D0 to 0x0DF. -/
def opInfo0D : Nat → Option OpInfo
  | 0x0 => some { fmt := .e, D := some (.g, .d), A := some (.g, .s) }  -- swrd
  | _ => none

/-- R36 and R38, opcodes 0x0E0 to 0x0EF. -/
def opInfo0E : Nat → Option OpInfo
  | 0x0 => some { fmt := .r, D := some (.k, .d), A := some (.g, .s) }  -- segld
  | 0x1 => some { fmt := .r, A := some (.g, .s), B := some (.k, .s) }  -- segst
  | 0x2 => some { fmt := .r, D := some (.g, .d), A := some (.k, .s), x := .upto 1 }  -- segrd
  | 0x3 => some { fmt := .r, A := some (.g, .s), B := some (.g, .s) }  -- tlbi
  | 0x4 => some { fmt := .r }  -- tlbsync
  | 0x5 => some { fmt := .r, A := some (.g, .s) }  -- upret
  | 0x6 => some { fmt := .e, D := some (.g, .d), A := some (.g, .s), B := some (.g, .s) }  -- pgrq
  | _ => none

/-- R36 and R38, opcodes 0x0F0 to 0x0FF. -/
def opInfo0F : Nat → Option OpInfo
  | 0x0 => some { fmt := .e, D := some (.g, .d), A := some (.g, .s), imm := .any }  -- tcfg
  | 0x1 => some { fmt := .i, imm := .mask }  -- trel
  | 0x2 => some { fmt := .i, imm := .mask }  -- tzero
  | 0x3 => some { fmt := .e, D := some (.g, .d), A := some (.g, .s), B := some (.g, .s) }  -- tenq
  | 0x4 => some { fmt := .r, D := some (.c, .s), A := some (.g, .s), B := some (.g, .s), fn := .fl fAll }  -- tst
  | 0x5 => some { fmt := .r, D := some (.c, .d), A := some (.g, .s), B := some (.g, .s), fn := .fmt fAll }  -- tld
  | 0x6 => some { fmt := .r, D := some (.g, .d), A := some (.g, .s), x := .upto 31 }  -- tget
  | 0x7 => some { fmt := .r, A := some (.g, .s), B := some (.g, .s), x := .upto 31 }  -- tset
  | 0x8 => some { fmt := .r, A := some (.g, .s), B := some (.g, .s), x := .upto 3 }  -- msset
  | 0x9 => some { fmt := .r, D := some (.g, .d), x := .upto 3 }  -- msrd
  | 0xA => some { fmt := .i, imm := .mask }  -- twait
  | 0xB => some { fmt := .r, D := some (.c, .ds), A := some (.v4, .s), B := some (.v4, .s), fn := .fmt fMmar }  -- mmar
  | _ => none

/-- R36 and R38, opcodes 0x110 to 0x11F. -/
def opInfo11 : Nat → Option OpInfo
  | 0x0 => some { fmt := .e, D := some (.g, .d), A := some (.g, .s), B := some (.g, .s), imm := .upto 1 }  -- cpy
  | 0x1 => some { fmt := .e, D := some (.g, .d), A := some (.g, .s), B := some (.g, .s) }  -- gath
  | 0x2 => some { fmt := .e, D := some (.g, .d), A := some (.g, .s), B := some (.g, .s) }  -- scat
  | 0x3 => some { fmt := .e, D := some (.g, .d), A := some (.g, .s), B := some (.g, .s) }  -- cmpct
  | 0x4 => some { fmt := .r, A := some (.g, .s), B := some (.g, .s) }  -- dpat
  | 0x5 => some { fmt := .e, D := some (.g, .d), A := some (.g, .s), B := some (.g, .s) }  -- dcpy
  | 0x6 => some { fmt := .e, D := some (.g, .d), A := some (.g, .s), imm := .upto 3 }  -- cqry
  | _ => none

/-- R36 and R38, opcodes 0x120 to 0x12F. -/
def opInfo12 : Nat → Option OpInfo
  | 0x0 => some { fmt := .e, D := some (.g, .d), A := some (.g, .s), B := some (.g, .s), imm := .upto 1 }  -- ksel
  | 0x1 => some { fmt := .e, D := some (.g, .d), A := some (.g, .s), B := some (.g, .s), imm := .upto 1 }  -- kgath
  | 0x2 => some { fmt := .e, D := some (.g, .d), A := some (.g, .s) }  -- kabs
  | 0x3 => some { fmt := .e, D := some (.g, .d), A := some (.g, .s), B := some (.g, .s), imm := .upto 1 }  -- emb
  | _ => none

/-- R36 and R38, opcodes 0x130 to 0x13F. -/
def opInfo13 : Nat → Option OpInfo
  | 0x0 => some { fmt := .e, D := some (.g, .d), A := some (.g, .s), B := some (.g, .s), imm := .any }  -- spec
  | 0x1 => some { fmt := .r, A := some (.g, .s) }  -- aref
  | 0x2 => some { fmt := .r, A := some (.g, .s) }  -- arel
  | 0x3 => some { fmt := .r, D := some (.g, .d), A := some (.g, .s) }  -- acall
  | 0x4 => some { fmt := .r, D := some (.g, .d), A := some (.g, .s), x := .upto 3 }  -- ainf
  | _ => none

/-- R36 and R38, opcodes 0x140 to 0x14F. -/
def opInfo14 : Nat → Option OpInfo
  | 0x0 => some { fmt := .i, D := some (.g, .d), A := some (.g, .s), imm := .any }  -- hold
  | 0x1 => some { fmt := .i, A := some (.g, .s), imm := .any }  -- dech
  | 0x2 => some { fmt := .r, D := some (.g, .d), A := some (.g, .s) }  -- pushr
  | 0x3 => some { fmt := .r, D := some (.g, .d) }  -- popr
  | 0x4 => some { fmt := .r, D := some (.g, .d) }  -- splitr
  | 0x5 => some { fmt := .r, D := some (.g, .d), A := some (.g, .s) }  -- stealr
  | 0x6 => some { fmt := .e, D := some (.g, .d), A := some (.g, .s), B := some (.g, .s), imm := .any }  -- post
  | 0x7 => some { fmt := .e, D := some (.g, .d), A := some (.g, .s), B := some (.g, .s), imm := .upto 255 }  -- spawn
  | _ => none

/-- R36 and R38, opcodes 0x150 to 0x15F. -/
def opInfo15 : Nat → Option OpInfo
  | 0x0 => some { fmt := .e, D := some (.g, .d), A := some (.g, .s), imm := .upto 1 }  -- nsend
  | 0x1 => some { fmt := .e, D := some (.g, .d), A := some (.g, .s), imm := .upto 1 }  -- nread
  | 0x2 => some { fmt := .e, D := some (.g, .d), A := some (.g, .s), imm := .upto 1 }  -- nwrite
  | 0x3 => some { fmt := .e, D := some (.g, .d), A := some (.g, .s), imm := .upto 1 }  -- nrecv
  | 0x4 => some { fmt := .e, D := some (.g, .d), A := some (.g, .s), imm := .upto 3 }  -- nqry
  | _ => none

/-- The opcode map (R36) with each opcode's row of R38. -/
def opInfo (op : Nat) : Option OpInfo :=
  match op / 16 with
  | 0x00 => opInfo00 (op % 16)
  | 0x01 => opInfo01 (op % 16)
  | 0x03 => opInfo03 (op % 16)
  | 0x04 => opInfo04 (op % 16)
  | 0x05 => opInfo05 (op % 16)
  | 0x06 => opInfo06 (op % 16)
  | 0x08 => opInfo08 (op % 16)
  | 0x09 => opInfo09 (op % 16)
  | 0x0A => opInfo0A (op % 16)
  | 0x0C => opInfo0C (op % 16)
  | 0x0D => opInfo0D (op % 16)
  | 0x0E => opInfo0E (op % 16)
  | 0x0F => opInfo0F (op % 16)
  | 0x11 => opInfo11 (op % 16)
  | 0x12 => opInfo12 (op % 16)
  | 0x13 => opInfo13 (op % 16)
  | 0x14 => opInfo14 (op % 16)
  | 0x15 => opInfo15 (op % 16)
  | _ => none

/-! ## The checks of R39 -/

/-- Which side of a declared pair the issuing slot is (R29); `any` stands for every declaration at once. -/
inductive PairSide where
  | none | even | odd | any
deriving DecidableEq, Repr

/-- What the decoder knows of the issuing slot (R29, R37): whether it is slot 63, and its side of a declared pair. -/
structure DecCtx where
  sup  : Bool
  pair : PairSide
deriving DecidableEq, Repr

/-- Bits [5:4] of FN, as a number. -/
def fnHi (fn : BitVec 6) : Nat := (fn.extractLsb' 4 2).toNat
/-- Bits [3:0] of FN: a format code. -/
def fnFmt (fn : BitVec 6) : Nat := (fn.extractLsb' 0 4).toNat
/-- Bits [3:2] of FN. -/
def fnMid (fn : BitVec 6) : Nat := (fn.extractLsb' 2 2).toNat
/-- Bits [1:0] of FN: a size code. -/
def fnSz (fn : BitVec 6) : Nat := (fn.extractLsb' 0 2).toNat
/-- Format codes 7 to 9 are the integer formats (R33). -/
def isIntCode (c : Nat) : Bool := 7 ≤ c && c ≤ 9
/-- Element width in bits of a format code (R33, R131). -/
def codeWidth : Nat → Nat
  | 0 => 32 | 1 => 64 | 2 => 16 | 3 => 16 | 4 => 8 | 5 => 8 | 6 => 4 | 7 => 8 | 8 => 16 | 9 => 32 | _ => 64

/-- FN and X follow the layout (R33 to R35, R52, R65, R134, R142). -/
def legalFn (l : FnL) (fn : BitVec 6) : Bool :=
  match l with
  | .zero => fn == 0
  | .sz => fn.extractLsb' 2 4 == 0
  | .sa => fnHi fn == 0 && fnMid fn != 3
  | .cmp => (fn.extractLsb' 3 3).toNat ≤ 5 && !fn.getLsbD 2
  | .fl fs => fs.contains (fnFmt fn)
  | .fc fs => fs.contains (fnFmt fn)
  | .fmt fs => fnHi fn == 0 && fs.contains (fnFmt fn)
  | .vf fs => fs.contains (fnFmt fn) && !(isIntCode (fnFmt fn) && fnHi fn == 3)
  | .vfm fs => fs.contains (fnFmt fn) && !(isIntCode (fnFmt fn) && (fnHi fn == 3 || fnHi fn == 1))
  | .vdot fs => fs.contains (fnFmt fn) && !(isIntCode (fnFmt fn) && fnHi fn != 0)
  | .cv fs => !fn.getLsbD 5 && fs.contains (fnFmt fn) && !(fn.getLsbD 4 && isIntCode (fnFmt fn))
  | .qn => !fn.getLsbD 4 && fQ.contains (fnFmt fn) && (!fn.getLsbD 5 || fnFmt fn == 6)
  | .mem sizes ords => fnHi fn == 0 && ords.contains (fnMid fn) && sizes.contains (fnSz fn)
  | .at ops sizes => (fn.extractLsb' 2 4).toNat ≤ ops && sizes.contains (fnSz fn)
  | .fe => fnHi fn == 0 && fnMid fn != 0 && fnSz fn != 3

/-- X follows its layout (R34, R35, R38). -/
def legalX (l : XL) (fn : BitVec 6) (x : Byte) : Bool :=
  let n := x.toNat
  match l with
  | .zero => n == 0
  | .pred => n ≤ 15
  | .bc => n % 128 == 0
  | .vcmp => (x.extractLsb' 3 4 == 0) && n % 8 != 7 &&
      !((n % 8 == 4 || n % 8 == 5) && !isIntCode (fnFmt fn)) && !(n % 8 == 6 && isIntCode (fnFmt fn))
  | .elem => n * codeWidth (fnFmt fn) < 512
  | .red => n ≤ 2 && !(n != 0 && isIntCode (fnFmt fn) && fnHi fn == 1)
  | .cv fs => n < 64 && fs.contains (n % 16)
  | .at => (x.extractLsb' 5 2 == 0) && (n / 8) % 4 != 3 && !(128 ≤ n && (n / 8) % 4 != 0)
  | .upto m => n ≤ m

/-- RX = 1 stands only on the instructions marked so, and with ordering bits 0 (R35). The FMT layout has no ordering bits. -/
def legalRx (i : OpInfo) (r : Raw) : Bool :=
  !r.rx || (i.rxOk && (match i.fn with | .mem _ _ => fnMid r.fn == 0 | _ => true))

/-- The register fields of a format, in the order D, A, B, C, with what the opcode uses them for. -/
def Raw.fields (i : OpInfo) (r : Raw) : List (Byte × Option (Cls × Use)) :=
  match i.fmt with
  | .r => [(r.b4, i.D), (r.b3, i.A), (r.b2, i.B), (r.b1, i.C)]
  | .i => [(r.b4, i.D), (r.b3, i.A)]
  | .w => [(r.b4, i.D)]
  | .m => [(r.b4, i.D), (r.b3, i.A)]
  | .b => [(r.b4, i.A), (r.b3, i.B)]
  | .e => [(r.b4, i.D), (r.b3, i.A), (r.b2, i.B)]

/-- A value is in its class (R27); `bc` is X[7] of a vector instruction (R38). -/
def inClass (bc : Bool) (c : Cls) (v : Nat) : Bool :=
  match c with
  | .g => v ≤ 135
  | .v | .p | .c => v ≤ 15
  | .k => v ≤ 7
  | .vg => if bc then v ≤ 135 else v ≤ 15
  | .v4 => v ≤ 12

/-- R25 and R27 of one field. -/
def legalField (bc : Bool) (f : Byte × Option (Cls × Use)) : Bool :=
  match f.2 with
  | none => f.1 == 0
  | some (c, _) => inClass bc c f.1.toNat

/-- The field holds a class-g value (R27, R38). -/
def isG (bc : Bool) : Cls → Bool
  | .g => true
  | .vg => bc
  | _ => false

/-- The port registers other than z that the fields name, each with the field's use (R28). -/
def portUses (bc : Bool) (fs : List (Byte × Option (Cls × Use))) : List (Nat × Use) :=
  fs.filterMap fun f =>
    match f.2 with
    | some (c, u) => if isG bc c && 129 ≤ f.1.toNat && f.1.toNat ≤ 135 then some (f.1.toNat, u) else none
    | none => none

/-- A port may stand in a field of this use, whatever the slot (R28, R29). -/
def portDir (p : Nat) : Use → Bool
  | .s => p == 129 || p == 132 || p == 133 || p == 134 || p == 135
  | .d => p == 130 || p == 131 || p == 134 || p == 135
  | .ds => false

/-- The slot's pair declaration allows the port in a field of this use (R28, R29). -/
def portPair (side : PairSide) (p : Nat) (u : Use) : Bool :=
  match p with
  | 134 => (match side, u with
      | .any, _ => true | .even, .d => true | .odd, .s => true | _, _ => false)
  | 135 => (match side, u with
      | .any, _ => true | .odd, .d => true | .even, .s => true | _, _ => false)
  | _ => true

/-- R29 but for the pair declaration, with R194's rule that an atomic writes no port. Fields are counted: a word that names one port in two
fields is illegal too (DESIGN CHOICE, assumption 92). -/
def legalPorts (i : OpInfo) (op : Nat) (ps : List (Nat × Use)) : Bool :=
  ps.length ≤ 1 &&
  ps.all fun p =>
    portDir p.1 p.2 &&
    (match i.fmt with
     | .r => !((match i.fn with | .at _ _ => true | _ => false) && p.2 == .d)
     | .i | .w => true
     | .e => (op == 0x0A1 || op == 0x146) && p.2 == .s
     | .m | .b => false)

/-- An early mark may stand on a field that the opcode reads, unless the field names a segment register (R32). -/
def emOk (f : Option (Cls × Use)) : Bool :=
  match f with
  | some (.k, _) => false
  | some (_, .s) | some (_, .ds) => true
  | _ => false

def legalEm (i : OpInfo) (r : Raw) : Bool :=
  (!r.emA || emOk i.A) && (!r.emB || emOk i.B) && (!r.emC || emOk i.C)

/-- The immediate or displacement of a word of this format, as an unsigned number. -/
def Raw.immVal (f : Format) (r : Raw) : Nat :=
  match f with
  | .r => 0
  | .i | .b => r.imm24.toNat
  | .w => r.imm32.toNat
  | .m => r.disp20.toNat
  | .e => r.imm16.toNat

/-- The limits of immediates (R38). -/
def legalImm (i : OpInfo) (r : Raw) : Bool :=
  let v := r.immVal i.fmt
  match i.imm with
  | .none => v == 0
  | .any => true
  | .shift => v < 8 * 2 ^ fnSz r.fn
  | .bits => v < 8192 && 1 ≤ v / 64 && v % 64 + v / 64 ≤ 64
  | .upto n => v ≤ n
  | .collate => v == 2 || v == 4 || v == 8
  | .mask => v < 65536
  | .emsel => v ≤ 128 || (256 ≤ v && v ≤ 275)

/-- `atan2`, the one function of two operands (R155). -/
def sfnTwo (imm : BitVec 16) : Bool := imm == 9

/-- R154: a one-operand function has z in field B and no early mark there. -/
def legalSfn (op : Nat) (r : Raw) : Bool :=
  op != 0x0A1 || sfnTwo r.imm16 || (r.b2 == 128 && !r.emB)

/-- R39, but for what depends on the issuing slot. -/
def Raw.legal (r : Raw) : Bool :=
  match opInfo r.op.toNat with
  | none => false
  | some i =>
    let bc := i.fmt == .r && r.x.getLsbD 7
    let fs := r.fields i
    !(r.pr == 0 && r.pn) && legalFn i.fn r.fn && (i.fmt != .r || legalX i.x r.fn r.x) &&
    (i.fmt != .m || legalRx i r) && fs.all (legalField bc) && legalPorts i r.op.toNat (portUses bc fs) &&
    legalEm i r && legalImm i r && legalSfn r.op.toNat r

/-- The opcodes reserved to slot 63 (R37): resume, emr, emw, kill, pmt, tlbi, tlbsync. -/
def supervisorOnly (op : Nat) : Bool :=
  [0x1A, 0x1B, 0x1C, 0x1D, 0x1E, 0xE3, 0xE4].contains op

/-- R37 of the issuing slot. -/
def Raw.slotOk (c : DecCtx) (r : Raw) : Bool :=
  !(supervisorOnly r.op.toNat && !c.sup) && !(r.op == 0x00B && c.sup)

/-- R29's pair rule of the issuing slot. -/
def Raw.pairOk (c : DecCtx) (r : Raw) : Bool :=
  match opInfo r.op.toNat with
  | none => true
  | some i => (portUses (i.fmt == .r && r.x.getLsbD 7) (r.fields i)).all fun p => portPair c.pair p.1 p.2

/-! ## Fields to operands -/

/-- A class-g value (R28). -/
def GOp.ofByte (b : Byte) : Option GOp :=
  if h : b.toNat < 128 then some (.g ⟨b.toNat, h⟩)
  else match b.toNat with
    | 128 => some .z | 129 => some .qup | 130 => some .qdn | 131 => some .qto
    | 132 => some .qin | 133 => some .ib | 134 => some .qa | 135 => some .qc | _ => none

def GOp.byte : GOp → Byte
  | .g n => BitVec.ofNat 8 n.val
  | .z => 128 | .qup => 129 | .qdn => 130 | .qto => 131 | .qin => 132 | .ib => 133 | .qa => 134 | .qc => 135

/-- A field below n. -/
def finOf (n : Nat) (b : Nat) : Option (Fin n) := if h : b < n then some ⟨b, h⟩ else none

def VG.ofByte (bc : Bool) (b : Byte) : Option VG :=
  if bc then (GOp.ofByte b).map .g else (finOf 16 b.toNat).map .v

def VG.byte : VG → Byte
  | .v r => BitVec.ofNat 8 r.val
  | .g r => r.byte

def VG.bc : VG → Bool
  | .v _ => false
  | .g _ => true

def Size.code : Size → Nat | .b => 0 | .h => 1 | .w => 2 | .d => 3
def Size.ofCode (n : Nat) : Size := match n % 4 with | 0 => .b | 1 => .h | 2 => .w | _ => .d

def Fmt.code : Fmt → Nat
  | .f32 => 0 | .f64 => 1 | .bf16 => 2 | .f16 => 3 | .e4m3 => 4 | .e5m2 => 5 | .e2m1b => 6 | .int8 => 7
  | .int16 => 8 | .int32 => 9
def Fmt.ofCode : Nat → Option Fmt
  | 0 => some .f32 | 1 => some .f64 | 2 => some .bf16 | 3 => some .f16 | 4 => some .e4m3 | 5 => some .e5m2
  | 6 => some .e2m1b | 7 => some .int8 | 8 => some .int16 | 9 => some .int32 | _ => none

def Rm.code : Rm → Nat | .rne => 0 | .rtz => 1 | .rup => 2 | .rdn => 3
def Rm.ofCode (n : Nat) : Rm := match n % 4 with | 0 => .rne | 1 => .rtz | 2 => .rup | _ => .rdn

def Ovf.code : Ovf → Nat | .wrap => 0 | .ss => 1 | .us => 2
def Ovf.ofCode : Nat → Option Ovf | 0 => some .wrap | 1 => some .ss | 2 => some .us | _ => none

def MOrd.code : MOrd → Nat | .pln => 0 | .acq => 1 | .rel => 2
def MOrd.ofCode : Nat → Option MOrd | 0 => some .pln | 1 => some .acq | 2 => some .rel | _ => none

def Cc.code : Cc → Nat | .eq => 0 | .ne => 1 | .lt => 2 | .ge => 3 | .ltu => 4 | .geu => 5
def Cc.ofCode : Nat → Option Cc
  | 0 => some .eq | 1 => some .ne | 2 => some .lt | 3 => some .ge | 4 => some .ltu | 5 => some .geu | _ => none

def FCc.code : FCc → Nat | .eq => 0 | .lt => 1 | .le => 2 | .un => 3
def FCc.ofCode (n : Nat) : FCc := match n % 4 with | 0 => .eq | 1 => .lt | 2 => .le | _ => .un

def VCc.code : VCc → Nat | .eq => 0 | .ne => 1 | .lt => 2 | .ge => 3 | .ltu => 4 | .geu => 5 | .un => 6
def VCc.ofCode : Nat → Option VCc
  | 0 => some .eq | 1 => some .ne | 2 => some .lt | 3 => some .ge | 4 => some .ltu | 5 => some .geu
  | 6 => some .un | _ => none

def AmoOp.code : AmoOp → Nat
  | .add => 0 | .and => 1 | .or => 2 | .xor => 3 | .min => 4 | .max => 5 | .minu => 6 | .maxu => 7 | .swap => 8
def AmoOp.ofCode : Nat → Option AmoOp
  | 0 => some .add | 1 => some .and | 2 => some .or | 3 => some .xor | 4 => some .min | 5 => some .max
  | 6 => some .minu | 7 => some .maxu | 8 => some .swap | _ => none

def AmofOp.code : AmofOp → Nat | .add => 0 | .max => 1 | .swap => 2
def AmofOp.ofCode : Nat → Option AmofOp | 0 => some .add | 1 => some .max | 2 => some .swap | _ => none

def RedOp.code : RedOp → Nat | .add => 0 | .min => 1 | .max => 2
def RedOp.ofCode : Nat → Option RedOp | 0 => some .add | 1 => some .min | 2 => some .max | _ => none

def FenceKind.code : FenceKind → Nat | .acq => 1 | .rel => 2 | .full => 3
def FenceKind.ofCode : Nat → Option FenceKind | 1 => some .acq | 2 => some .rel | 3 => some .full | _ => none

def FenceScope.code : FenceScope → Nat | .core => 0 | .clus => 1 | .dev => 2
def FenceScope.ofCode : Nat → Option FenceScope | 0 => some .core | 1 => some .clus | 2 => some .dev | _ => none

/-- The fields every word has. -/
def Raw.hdr (r : Raw) : Hdr :=
  { sw := r.sw, emA := r.emA, emB := r.emB, emC := r.emC, pr := ⟨r.pr.toNat, r.pr.isLt⟩, pn := r.pn }

/-! The register fields of a word, as operands. -/

def Raw.gD (r : Raw) : Option GOp := GOp.ofByte r.b4
def Raw.gA (r : Raw) : Option GOp := GOp.ofByte r.b3
def Raw.gB (r : Raw) : Option GOp := GOp.ofByte r.b2
def Raw.gC (r : Raw) : Option GOp := GOp.ofByte r.b1
/-- A vector, predicate or tile field. -/
def Raw.nD (r : Raw) : Option (Fin 16) := finOf 16 r.b4.toNat
def Raw.nA (r : Raw) : Option (Fin 16) := finOf 16 r.b3.toNat
def Raw.nB (r : Raw) : Option (Fin 16) := finOf 16 r.b2.toNat
def Raw.nC (r : Raw) : Option (Fin 16) := finOf 16 r.b1.toNat
def Raw.vgB (r : Raw) : Option VG := VG.ofByte (r.x.getLsbD 7) r.b2
def Raw.segF (r : Raw) : Fin 8 := ⟨r.seg.toNat, r.seg.isLt⟩

def Raw.sz (r : Raw) : Size := Size.ofCode (fnSz r.fn)
def Raw.ovf (r : Raw) : Option Ovf := Ovf.ofCode (fnMid r.fn)
def Raw.fmtF (r : Raw) : Option Fmt := Fmt.ofCode (fnFmt r.fn)
def Raw.rm (r : Raw) : Rm := Rm.ofCode (fnHi r.fn)
def Raw.cc (r : Raw) : Option Cc := Cc.ofCode (r.fn.extractLsb' 3 3).toNat
def Raw.vf (r : Raw) : Option VfF := (r.fmtF).map fun f => { fmt := f, mode := r.fn.extractLsb' 4 2 }

def Raw.cv (r : Raw) : Option CvF :=
  match r.fmtF, Fmt.ofCode (r.x.toNat % 16) with
  | some df, some sf => some { sat := r.fn.getLsbD 4, df := df, sf := sf, rm := Rm.ofCode (r.x.toNat / 16) }
  | _, _ => none

def Raw.memF (r : Raw) : Option MemF :=
  (MOrd.ofCode (fnMid r.fn)).map fun o => { sz := r.sz, ord := o, rx := r.rx, seg := r.segF, disp := r.disp20 }

def Raw.folF (r : Raw) : Option FolF :=
  (r.fmtF).map fun f => { fmt := f, rx := r.rx, seg := r.segF, disp := r.disp20 }

def Raw.atF (r : Raw) : Option AtF :=
  (MOrd.ofCode ((r.x.toNat / 8) % 4)).map fun o =>
    { sz := r.sz, rx := r.x.getLsbD 7, ord := o, seg := ⟨r.x.toNat % 8, Nat.mod_lt _ (by decide)⟩ }

/-- The operation code of layout AT. -/
def Raw.atOp (r : Raw) : Nat := (r.fn.extractLsb' 2 4).toNat

/-! ## The instruction a word names, family by family of the opcode map (R36, R38) -/

/-- Opcodes 0x000 to 0x00F. -/
def build00 (r : Raw) : Nat → Option Instr
  | 0x0 => some (.nop r.hdr)
  | 0x1 => some (.br r.hdr r.imm24)
  | 0x2 => do some (.beq r.hdr (← GOp.ofByte r.b4) (← GOp.ofByte r.b3) r.imm24)
  | 0x3 => do some (.bne r.hdr (← GOp.ofByte r.b4) (← GOp.ofByte r.b3) r.imm24)
  | 0x4 => do some (.blt r.hdr (← GOp.ofByte r.b4) (← GOp.ofByte r.b3) r.imm24)
  | 0x5 => do some (.bge r.hdr (← GOp.ofByte r.b4) (← GOp.ofByte r.b3) r.imm24)
  | 0x6 => do some (.bltu r.hdr (← GOp.ofByte r.b4) (← GOp.ofByte r.b3) r.imm24)
  | 0x7 => do some (.bgeu r.hdr (← GOp.ofByte r.b4) (← GOp.ofByte r.b3) r.imm24)
  | 0x8 => do some (.call r.hdr (← GOp.ofByte r.b4) r.imm24)
  | 0x9 => do some (.jr r.hdr (← r.gD) (← r.gA))
  | 0xA => do some (.loop r.hdr (← GOp.ofByte r.b4) r.imm24)
  | 0xB => some (.stop r.hdr)
  | 0xC => do some (.retire r.hdr (← r.gA) (← r.gB))
  | 0xD => some (.yield r.hdr)
  | 0xE => some (.bara r.hdr r.imm24)
  | 0xF => some (.barw r.hdr r.imm24)
  | _ => none

/-- Opcodes 0x010 to 0x01F. -/
def build01 (r : Raw) : Nat → Option Instr
  | 0x0 => some (.collate r.hdr r.imm24)
  | 0x1 => some (.disband r.hdr)
  | 0x2 => do some (.wait r.hdr (← r.gA) r.imm24)
  | 0x8 => do some (.svc r.hdr (← r.gD) (← r.gA) (← r.gB) r.imm16)
  | 0x9 => some (.trap r.hdr r.imm24)
  | 0xA => do some (.resume r.hdr (← r.gA))
  | 0xB => do some (.emr r.hdr (← r.gD) (← r.gA) r.imm24)
  | 0xC => do some (.emw r.hdr (← r.gD) (← r.gA) r.imm24)
  | 0xD => do some (.kill r.hdr (← r.gA))
  | 0xE => do some (.pmt r.hdr (← r.gD) (← r.gA))
  | 0xF => do some (.launch r.hdr (← r.gD) (← r.gA) (← r.gB))
  | _ => none

/-- Opcodes 0x030 to 0x03F. -/
def build03 (r : Raw) : Nat → Option Instr
  | 0x0 => do some (.add r.hdr (← r.ovf) r.sz (← r.gD) (← r.gA) (← r.gB))
  | 0x1 => do some (.addi r.hdr (← r.ovf) r.sz (← r.gD) (← r.gA) r.imm24)
  | 0x2 => do some (.sub r.hdr (← r.ovf) r.sz (← r.gD) (← r.gA) (← r.gB))
  | 0x3 => do some (.mul r.hdr (← r.ovf) r.sz (← r.gD) (← r.gA) (← r.gB))
  | 0x4 => do some (.mulh r.hdr r.sz (← r.gD) (← r.gA) (← r.gB))
  | 0x5 => do some (.mulhu r.hdr r.sz (← r.gD) (← r.gA) (← r.gB))
  | 0x6 => do some (.div r.hdr r.sz (← r.gD) (← r.gA) (← r.gB))
  | 0x7 => do some (.divu r.hdr r.sz (← r.gD) (← r.gA) (← r.gB))
  | 0x8 => do some (.rem r.hdr r.sz (← r.gD) (← r.gA) (← r.gB))
  | 0x9 => do some (.remu r.hdr r.sz (← r.gD) (← r.gA) (← r.gB))
  | 0xA => do some (.neg r.hdr (← r.ovf) r.sz (← r.gD) (← r.gA))
  | 0xB => do some (.abs r.hdr (← r.ovf) r.sz (← r.gD) (← r.gA))
  | 0xC => do some (.min r.hdr r.sz (← r.gD) (← r.gA) (← r.gB))
  | 0xD => do some (.max r.hdr r.sz (← r.gD) (← r.gA) (← r.gB))
  | 0xE => do some (.minu r.hdr r.sz (← r.gD) (← r.gA) (← r.gB))
  | 0xF => do some (.maxu r.hdr r.sz (← r.gD) (← r.gA) (← r.gB))
  | _ => none

/-- Opcodes 0x040 to 0x04F. -/
def build04 (r : Raw) : Nat → Option Instr
  | 0x0 => do some (.and r.hdr r.sz (← r.gD) (← r.gA) (← r.gB))
  | 0x1 => do some (.andi r.hdr r.sz (← r.gD) (← r.gA) r.imm24)
  | 0x2 => do some (.or r.hdr r.sz (← r.gD) (← r.gA) (← r.gB))
  | 0x3 => do some (.ori r.hdr r.sz (← r.gD) (← r.gA) r.imm24)
  | 0x4 => do some (.xor r.hdr r.sz (← r.gD) (← r.gA) (← r.gB))
  | 0x5 => do some (.xori r.hdr r.sz (← r.gD) (← r.gA) r.imm24)
  | 0x6 => do some (.andn r.hdr r.sz (← r.gD) (← r.gA) (← r.gB))
  | 0x7 => do some (.shl r.hdr r.sz (← r.gD) (← r.gA) (← r.gB))
  | 0x8 => do some (.shr r.hdr r.sz (← r.gD) (← r.gA) (← r.gB))
  | 0x9 => do some (.sar r.hdr r.sz (← r.gD) (← r.gA) (← r.gB))
  | 0xA => do some (.rol r.hdr r.sz (← r.gD) (← r.gA) (← r.gB))
  | 0xB => do some (.shli r.hdr r.sz (← r.gD) (← r.gA) r.imm24)
  | 0xC => do some (.shri r.hdr r.sz (← r.gD) (← r.gA) r.imm24)
  | 0xD => do some (.sari r.hdr r.sz (← r.gD) (← r.gA) r.imm24)
  | 0xE => do some (.clz r.hdr r.sz (← r.gD) (← r.gA))
  | 0xF => do some (.ctz r.hdr r.sz (← r.gD) (← r.gA))
  | _ => none

/-- Opcodes 0x050 to 0x05F. -/
def build05 (r : Raw) : Nat → Option Instr
  | 0x0 => do some (.popc r.hdr r.sz (← r.gD) (← r.gA))
  | 0x1 => do some (.bfx r.hdr (← r.gD) (← r.gA) r.imm24)
  | 0x2 => do some (.bfi r.hdr (← r.gD) (← r.gA) r.imm24)
  | 0x3 => do some (.sext r.hdr r.sz (← r.gD) (← r.gA))
  | 0x4 => do some (.zext r.hdr r.sz (← r.gD) (← r.gA))
  | 0x5 => do some (.mov r.hdr r.sz (← r.gD) (← r.gA))
  | 0x6 => do some (.movi r.hdr (← r.gD) r.imm32)
  | 0x7 => do some (.movhi r.hdr (← r.gD) r.imm32)
  | 0x8 => do some (.lea r.hdr (← r.gD) (← r.gA) r.segF r.disp20)
  | 0x9 => do some (.sel r.hdr (← r.gD) (← r.gA) (← r.gB) (← (finOf 16 r.x.toNat)))
  | 0xA => do some (.cmp r.hdr (← r.cc) r.sz (← r.nD) (← r.gA) (← r.gB))
  | 0xB => do some (.cmpi r.hdr (← r.cc) r.sz (← r.nD) (← r.gA) r.imm24)
  | 0xC => do some (.pand r.hdr (← r.nD) (← r.nA) (← r.nB))
  | 0xD => do some (.por r.hdr (← r.nD) (← r.nA) (← r.nB))
  | 0xE => do some (.pxor r.hdr (← r.nD) (← r.nA) (← r.nB))
  | 0xF => do some (.pandn r.hdr (← r.nD) (← r.nA) (← r.nB))
  | _ => none

/-- Opcodes 0x060 to 0x06F. -/
def build06 (r : Raw) : Nat → Option Instr
  | 0x0 => do some (.mfp r.hdr (← r.gD))
  | 0x1 => do some (.mtp r.hdr (← r.gA))
  | 0x2 => do some (.mfs r.hdr (← r.gD) r.imm24)
  | 0x3 => do some (.mts r.hdr (← r.gA) r.imm24)
  | 0x4 => do some (.fadd r.hdr (← r.fmtF) r.rm (← r.gD) (← r.gA) (← r.gB))
  | 0x5 => do some (.fsub r.hdr (← r.fmtF) r.rm (← r.gD) (← r.gA) (← r.gB))
  | 0x6 => do some (.fmul r.hdr (← r.fmtF) r.rm (← r.gD) (← r.gA) (← r.gB))
  | 0x7 => do some (.ffma r.hdr (← r.fmtF) r.rm (← r.gD) (← r.gA) (← r.gB) (← r.gC))
  | 0x8 => do some (.fmin r.hdr (← r.fmtF) r.rm (← r.gD) (← r.gA) (← r.gB))
  | 0x9 => do some (.fmax r.hdr (← r.fmtF) r.rm (← r.gD) (← r.gA) (← r.gB))
  | 0xA => do some (.fcmp r.hdr (FCc.ofCode (fnHi r.fn)) (← r.fmtF) (← r.nD) (← r.gA) (← r.gB))
  | 0xB => do some (.fcvt r.hdr (← r.cv) (← r.gD) (← r.gA))
  | _ => none

/-- Opcodes 0x080 to 0x08F. -/
def build08 (r : Raw) : Nat → Option Instr
  | 0x0 => do some (.vadd r.hdr (← r.vf) (← r.nD) (← r.nA) (← r.vgB))
  | 0x1 => do some (.vsub r.hdr (← r.vf) (← r.nD) (← r.nA) (← r.vgB))
  | 0x2 => do some (.vmul r.hdr (← r.vf) (← r.nD) (← r.nA) (← r.vgB))
  | 0x3 => do some (.vfma r.hdr (← r.vf) (← r.nD) (← r.nA) (← r.vgB) (← r.nC))
  | 0x4 => do some (.vmin r.hdr (← r.vf) (← r.nD) (← r.nA) (← r.vgB))
  | 0x5 => do some (.vmax r.hdr (← r.vf) (← r.nD) (← r.nA) (← r.vgB))
  | 0x6 => do some (.vabs r.hdr (← r.vf) (← r.nD) (← r.nA))
  | 0x7 => do some (.vneg r.hdr (← r.vf) (← r.nD) (← r.nA))
  | 0x8 => do some (.vand r.hdr (← r.nD) (← r.nA) (← r.vgB))
  | 0x9 => do some (.vor r.hdr (← r.nD) (← r.nA) (← r.vgB))
  | 0xA => do some (.vxor r.hdr (← r.nD) (← r.nA) (← r.vgB))
  | 0xB => do some (.vshl r.hdr (← r.fmtF) (← r.nD) (← r.nA) (← r.vgB))
  | 0xC => do some (.vshr r.hdr (← r.fmtF) (← r.nD) (← r.nA) (← r.vgB))
  | 0xD => do some (.vsar r.hdr (← r.fmtF) (← r.nD) (← r.nA) (← r.vgB))
  | 0xE => do some (.vcmp r.hdr (← (VCc.ofCode (r.x.toNat % 8))) (← r.fmtF) (← r.gD) (← r.nA) (← r.vgB))
  | 0xF => do some (.vsel r.hdr (← r.fmtF) (← r.nD) (← r.nA) (← r.nB) (← r.gC))
  | _ => none

/-- Opcodes 0x090 to 0x09F. -/
def build09 (r : Raw) : Nat → Option Instr
  | 0x0 => do some (.vbc r.hdr (← r.fmtF) (← r.nD) (← r.gA))
  | 0x1 => do some (.vget r.hdr (← r.fmtF) (← r.gD) (← r.nA) (r.x.extractLsb' 0 6))
  | 0x2 => do some (.vput r.hdr (← r.fmtF) (← r.nD) (← r.gA) (r.x.extractLsb' 0 6))
  | 0x3 => do some (.vperm r.hdr (← r.fmtF) (← r.nD) (← r.nA) (← r.nB))
  | 0x4 => do some (.vred r.hdr (← (RedOp.ofCode (r.x.toNat % 4))) (← r.vf) (← r.gD) (← r.nA))
  | 0x5 => do some (.vdot r.hdr (← r.vf) (← r.gD) (← r.nA) (← r.nB))
  | 0x6 => do some (.vcvt r.hdr (← r.cv) (← r.nD) (← r.nA))
  | 0x7 => do some (.vqnt r.hdr (r.fn.getLsbD 5) (← r.fmtF) (← r.nD) (← r.nA) (← r.gB))
  | 0x8 => do some (.vdeq r.hdr (← r.fmtF) (← r.nD) (← r.nA) (← r.gB))
  | 0x9 => do some (.amxrd r.hdr (← r.gD))
  | 0xA => do some (.amxsw r.hdr (← r.gD) (← r.gA))
  | 0xB => do some (.vld r.hdr (← r.memF) (← r.nD) (← r.gA))
  | 0xC => do some (.vst r.hdr (← r.memF) (← r.nD) (← r.gA))
  | 0xD => do some (.vldf r.hdr (← r.folF) (← r.nD) (← r.gA))
  | 0xE => do some (.vstf r.hdr (← r.folF) (← r.nD) (← r.gA))
  | 0xF => do some (.vldx r.hdr (← r.memF) (← r.nD) (← r.nA))
  | _ => none

/-- Opcodes 0x0A0 to 0x0AF. -/
def build0A (r : Raw) : Nat → Option Instr
  | 0x0 => do some (.vstx r.hdr (← r.memF) (← r.nD) (← r.nA))
  | 0x1 => do some (.sfn r.hdr (← r.fmtF) (← r.gD) (← r.gA) (← r.gB) r.imm16)
  | _ => none

/-- Opcodes 0x0C0 to 0x0CF. -/
def build0C (r : Raw) : Nat → Option Instr
  | 0x0 => do some (.ld r.hdr (← r.memF) (← r.gD) (← r.gA))
  | 0x1 => do some (.lds r.hdr (← r.memF) (← r.gD) (← r.gA))
  | 0x2 => do some (.st r.hdr (← r.memF) (← r.gD) (← r.gA))
  | 0x3 => do some (.ldf r.hdr (← r.memF) (← r.gD) (← r.gA))
  | 0x4 => do some (.lde r.hdr (← r.memF) (← r.gD) (← r.gA))
  | 0x5 => do some (.stf r.hdr (← r.memF) (← r.gD) (← r.gA))
  | 0x6 => do some (.stfe r.hdr (← r.memF) (← r.gD) (← r.gA))
  | 0x7 => do some (.clrf r.hdr (← r.memF) (← r.gA))
  | 0x8 => do some (.amo r.hdr (← (AmoOp.ofCode r.atOp)) (← r.atF) (← r.gD) (← r.gA) (← r.gB))
  | 0x9 => do some (.cas r.hdr (← r.atF) (← r.gD) (← r.gA) (← r.gB) (← r.gC))
  | 0xA => do some (.amof r.hdr (← (AmofOp.ofCode r.atOp)) (← r.atF) (← r.gD) (← r.gA) (← r.gB))
  | 0xB => do some (.fence r.hdr (← (FenceKind.ofCode (fnMid r.fn))) (← (FenceScope.ofCode (fnSz r.fn))))
  | 0xC => some (.cfence r.hdr)
  | 0xD => do some (.swarm r.hdr (← r.gD) (← r.gA) (← r.gB))
  | 0xE => do some (.swadd r.hdr (← r.gA) (← r.gB))
  | 0xF => do some (.swwait r.hdr (← r.gA) (← r.gB))
  | _ => none

/-- Opcodes 0x0D0 to 0x0DF. -/
def build0D (r : Raw) : Nat → Option Instr
  | 0x0 => do some (.swrd r.hdr (← r.gD) (← r.gA))
  | _ => none

/-- Opcodes 0x0E0 to 0x0EF. -/
def build0E (r : Raw) : Nat → Option Instr
  | 0x0 => do some (.segld r.hdr (← (finOf 8 r.b4.toNat)) (← r.gA))
  | 0x1 => do some (.segst r.hdr (← r.gA) (← (finOf 8 r.b2.toNat)))
  | 0x2 => do some (.segrd r.hdr (r.x.getLsbD 0) (← r.gD) (← (finOf 8 r.b3.toNat)))
  | 0x3 => do some (.tlbi r.hdr (← r.gA) (← r.gB))
  | 0x4 => some (.tlbsync r.hdr)
  | 0x5 => do some (.upret r.hdr (← r.gA))
  | 0x6 => do some (.pgrq r.hdr (← r.gD) (← r.gA) (← r.gB))
  | _ => none

/-- Opcodes 0x0F0 to 0x0FF. -/
def build0F (r : Raw) : Nat → Option Instr
  | 0x0 => do some (.tcfg r.hdr (← r.gD) (← r.gA) r.imm16)
  | 0x1 => some (.trel r.hdr r.imm24)
  | 0x2 => some (.tzero r.hdr r.imm24)
  | 0x3 => do some (.tenq r.hdr (← r.gD) (← r.gA) (← r.gB))
  | 0x4 => do some (.tst r.hdr (← r.fmtF) r.rm (← r.nD) (← r.gA) (← r.gB))
  | 0x5 => do some (.tld r.hdr (← r.fmtF) (← r.nD) (← r.gA) (← r.gB))
  | 0x6 => do some (.tget r.hdr (r.x.getLsbD 4) (← (finOf 16 (r.x.toNat % 16))) (← r.gD) (← r.gA))
  | 0x7 => do some (.tset r.hdr (r.x.getLsbD 4) (← (finOf 16 (r.x.toNat % 16))) (← r.gA) (← r.gB))
  | 0x8 => do some (.msset r.hdr (← (finOf 4 r.x.toNat)) (← r.gA) (← r.gB))
  | 0x9 => do some (.msrd r.hdr (← (finOf 4 r.x.toNat)) (← r.gD))
  | 0xA => some (.twait r.hdr r.imm24)
  | 0xB => do some (.mmar r.hdr (← r.fmtF) (← r.nD) (← r.nA) (← r.nB))
  | _ => none

/-- Opcodes 0x110 to 0x11F. -/
def build11 (r : Raw) : Nat → Option Instr
  | 0x0 => if r.imm16 == 1 then do some (.cpyRp r.hdr (← r.gD) (← r.gA) (← r.gB))
      else do some (.cpy r.hdr (← r.gD) (← r.gA) (← r.gB))
  | 0x1 => do some (.gath r.hdr (← r.gD) (← r.gA) (← r.gB))
  | 0x2 => do some (.scat r.hdr (← r.gD) (← r.gA) (← r.gB))
  | 0x3 => do some (.cmpct r.hdr (← r.gD) (← r.gA) (← r.gB))
  | 0x4 => do some (.dpat r.hdr (← r.gA) (← r.gB))
  | 0x5 => do some (.dcpy r.hdr (← r.gD) (← r.gA) (← r.gB))
  | 0x6 => do some (.cqry r.hdr (← r.gD) (← r.gA) r.imm16)
  | _ => none

/-- Opcodes 0x120 to 0x12F. -/
def build12 (r : Raw) : Nat → Option Instr
  | 0x0 => do some (.ksel r.hdr (r.imm16 == 1) (← r.gD) (← r.gA) (← r.gB))
  | 0x1 => do some (.kgath r.hdr (r.imm16 == 1) (← r.gD) (← r.gA) (← r.gB))
  | 0x2 => do some (.kabs r.hdr (← r.gD) (← r.gA))
  | 0x3 => do some (.emb r.hdr (r.imm16 == 1) (← r.gD) (← r.gA) (← r.gB))
  | _ => none

/-- Opcodes 0x130 to 0x13F. -/
def build13 (r : Raw) : Nat → Option Instr
  | 0x0 => do some (.spec r.hdr (← r.gD) (← r.gA) (← r.gB) r.imm16)
  | 0x1 => do some (.aref r.hdr (← r.gA))
  | 0x2 => do some (.arel r.hdr (← r.gA))
  | 0x3 => do some (.acall r.hdr (← r.gD) (← r.gA))
  | 0x4 => do some (.ainf r.hdr (← (finOf 4 r.x.toNat)) (← r.gD) (← r.gA))
  | _ => none

/-- Opcodes 0x140 to 0x14F. -/
def build14 (r : Raw) : Nat → Option Instr
  | 0x0 => do some (.hold r.hdr (← r.gD) (← r.gA) r.imm24)
  | 0x1 => do some (.dech r.hdr (← r.gA) r.imm24)
  | 0x2 => do some (.pushr r.hdr (← r.gD) (← r.gA))
  | 0x3 => do some (.popr r.hdr (← r.gD))
  | 0x4 => do some (.splitr r.hdr (← r.gD))
  | 0x5 => do some (.stealr r.hdr (← r.gD) (← r.gA))
  | 0x6 => do some (.post r.hdr (← r.gD) (← r.gA) (← r.gB) r.imm16)
  | 0x7 => do some (.spawn r.hdr (← r.gD) (← r.gA) (← r.gB) r.imm16)
  | _ => none

/-- Opcodes 0x150 to 0x15F. -/
def build15 (r : Raw) : Nat → Option Instr
  | 0x0 => do some (.nsend r.hdr (r.imm16 == 1) (← r.gD) (← r.gA))
  | 0x1 => do some (.nread r.hdr (r.imm16 == 1) (← r.gD) (← r.gA))
  | 0x2 => do some (.nwrite r.hdr (r.imm16 == 1) (← r.gD) (← r.gA))
  | 0x3 => do some (.nrecv r.hdr (r.imm16 == 1) (← r.gD) (← r.gA))
  | 0x4 => do some (.nqry r.hdr (← r.gD) (← r.gA) r.imm16)
  | _ => none

/-- The instruction whose word has these fields; the checks of R39 come before. -/
def Raw.build (r : Raw) : Option Instr :=
  match r.op.toNat / 16 with
  | 0x00 => build00 r (r.op.toNat % 16)
  | 0x01 => build01 r (r.op.toNat % 16)
  | 0x03 => build03 r (r.op.toNat % 16)
  | 0x04 => build04 r (r.op.toNat % 16)
  | 0x05 => build05 r (r.op.toNat % 16)
  | 0x06 => build06 r (r.op.toNat % 16)
  | 0x08 => build08 r (r.op.toNat % 16)
  | 0x09 => build09 r (r.op.toNat % 16)
  | 0x0A => build0A r (r.op.toNat % 16)
  | 0x0C => build0C r (r.op.toNat % 16)
  | 0x0D => build0D r (r.op.toNat % 16)
  | 0x0E => build0E r (r.op.toNat % 16)
  | 0x0F => build0F r (r.op.toNat % 16)
  | 0x11 => build11 r (r.op.toNat % 16)
  | 0x12 => build12 r (r.op.toNat % 16)
  | 0x13 => build13 r (r.op.toNat % 16)
  | 0x14 => build14 r (r.op.toNat % 16)
  | 0x15 => build15 r (r.op.toNat % 16)
  | _ => none

/-- Decoding (R39): total on any word; `none` is an illegal encoding in the slot the context describes. -/
def decode (c : DecCtx) (w : Word) : Option Instr :=
  let r := Raw.ofWord w
  if r.legal && r.slotOk c && r.pairOk c then r.build else none

/-- The word is illegal in this slot for no other reason than R29's pair rule (R42). -/
def illegalByPairOnly (c : DecCtx) (w : Word) : Bool :=
  let r := Raw.ofWord w
  r.legal && r.slotOk c && !r.pairOk c

/-! ## The encoder -/

def fnOf (n : Nat) : BitVec 6 := BitVec.ofNat 6 n
def xOf (n : Nat) : Byte := BitVec.ofNat 8 n
def n8 {n : Nat} (v : Fin n) : Byte := BitVec.ofNat 8 v.val
def n3 (v : Fin 8) : BitVec 3 := BitVec.ofNat 3 v.val
def bcX (b : VG) : Byte := if b.bc then 0x80 else 0
def cvFn (c : CvF) : BitVec 6 := fnOf (c.df.code + if c.sat then 16 else 0)
def cvX (c : CvF) : Byte := xOf (16 * c.rm.code + c.sf.code)
def vfFn (f : VfF) : BitVec 6 := fnOf (16 * f.mode.toNat + f.fmt.code)
def memFn (m : MemF) : BitVec 6 := fnOf (4 * m.ord.code + m.sz.code)
def atX (m : AtF) : Byte := xOf ((if m.rx then 128 else 0) + 8 * m.ord.code + m.seg.val)
def noteImm (n : Bool) : BitVec 16 := if n then 1 else 0

/-- The fields every word has, with an opcode, FN and bits [39:0]. -/
def rawOf (h : Hdr) (op : BitVec 9) (fn : BitVec 6) (lo : BitVec 40) : Raw :=
  { sw := h.sw, emA := h.emA, emB := h.emB, emC := h.emC, op := op, pr := BitVec.ofNat 4 h.pr.val, pn := h.pn,
    fn := fn, lo := lo }

def rawR (h : Hdr) (op : BitVec 9) (fn : BitVec 6) (d a b c x : Byte) : Raw := rawOf h op fn (d ++ a ++ b ++ c ++ x)
def rawI (h : Hdr) (op : BitVec 9) (fn : BitVec 6) (d a : Byte) (imm : BitVec 24) : Raw := rawOf h op fn (d ++ a ++ imm)
def rawW (h : Hdr) (op : BitVec 9) (d : Byte) (imm : BitVec 32) : Raw := rawOf h op 0 (d ++ imm)
def rawM (h : Hdr) (op : BitVec 9) (fn : BitVec 6) (d a : Byte) (rx : Bool) (seg : BitVec 3) (disp : BitVec 20) : Raw :=
  rawOf h op fn (d ++ a ++ BitVec.ofBool rx ++ seg ++ disp)
def rawB (h : Hdr) (op : BitVec 9) (a b : Byte) (disp : BitVec 24) : Raw := rawOf h op 0 (a ++ b ++ disp)
def rawE (h : Hdr) (op : BitVec 9) (fn : BitVec 6) (d a b : Byte) (imm : BitVec 16) : Raw := rawOf h op fn (d ++ a ++ b ++ imm)

/-- The fields of an instruction's word (R23, R24, R34, R36, R38). A step that is no instruction word has none. -/
def Instr.raw (i : Instr) : Option Raw :=
  match i with
  | .nop h => some (rawR h 0x000 0 0 0 0 0 0)
  | .br h disp => some (rawB h 0x001 0 0 disp)
  | .beq h a b disp => some (rawB h 0x002 a.byte b.byte disp)
  | .bne h a b disp => some (rawB h 0x003 a.byte b.byte disp)
  | .blt h a b disp => some (rawB h 0x004 a.byte b.byte disp)
  | .bge h a b disp => some (rawB h 0x005 a.byte b.byte disp)
  | .bltu h a b disp => some (rawB h 0x006 a.byte b.byte disp)
  | .bgeu h a b disp => some (rawB h 0x007 a.byte b.byte disp)
  | .call h a disp => some (rawB h 0x008 a.byte 0 disp)
  | .jr h d a => some (rawR h 0x009 0 d.byte a.byte 0 0 0)
  | .loop h a disp => some (rawB h 0x00A a.byte 0 disp)
  | .stop h => some (rawR h 0x00B 0 0 0 0 0 0)
  | .retire h a b => some (rawE h 0x00C 0 0 a.byte b.byte 0)
  | .yield h => some (rawR h 0x00D 0 0 0 0 0 0)
  | .bara h n => some (rawI h 0x00E 0 0 0 n)
  | .barw h n => some (rawI h 0x00F 0 0 0 n)
  | .collate h n => some (rawI h 0x010 0 0 0 n)
  | .disband h => some (rawR h 0x011 0 0 0 0 0 0)
  | .wait h a imm => some (rawI h 0x012 0 0 a.byte imm)
  | .svc h d a b n => some (rawE h 0x018 0 d.byte a.byte b.byte n)
  | .trap h code => some (rawI h 0x019 0 0 0 code)
  | .resume h a => some (rawR h 0x01A 0 0 a.byte 0 0 0)
  | .emr h d a rs => some (rawI h 0x01B 0 d.byte a.byte rs)
  | .emw h d a rs => some (rawI h 0x01C 0 d.byte a.byte rs)
  | .kill h a => some (rawR h 0x01D 0 0 a.byte 0 0 0)
  | .pmt h d a => some (rawR h 0x01E 0 d.byte a.byte 0 0 0)
  | .launch h d a b => some (rawE h 0x01F 0 d.byte a.byte b.byte 0)
  | .add h o z d a b => some (rawR h 0x030 (fnOf (4 * o.code) ||| fnOf z.code) d.byte a.byte b.byte 0 0)
  | .addi h o z d a imm => some (rawI h 0x031 (fnOf (4 * o.code) ||| fnOf z.code) d.byte a.byte imm)
  | .sub h o z d a b => some (rawR h 0x032 (fnOf (4 * o.code) ||| fnOf z.code) d.byte a.byte b.byte 0 0)
  | .mul h o z d a b => some (rawR h 0x033 (fnOf (4 * o.code) ||| fnOf z.code) d.byte a.byte b.byte 0 0)
  | .mulh h z d a b => some (rawR h 0x034 (fnOf z.code) d.byte a.byte b.byte 0 0)
  | .mulhu h z d a b => some (rawR h 0x035 (fnOf z.code) d.byte a.byte b.byte 0 0)
  | .div h z d a b => some (rawR h 0x036 (fnOf z.code) d.byte a.byte b.byte 0 0)
  | .divu h z d a b => some (rawR h 0x037 (fnOf z.code) d.byte a.byte b.byte 0 0)
  | .rem h z d a b => some (rawR h 0x038 (fnOf z.code) d.byte a.byte b.byte 0 0)
  | .remu h z d a b => some (rawR h 0x039 (fnOf z.code) d.byte a.byte b.byte 0 0)
  | .neg h o z d a => some (rawR h 0x03A (fnOf (4 * o.code) ||| fnOf z.code) d.byte a.byte 0 0 0)
  | .abs h o z d a => some (rawR h 0x03B (fnOf (4 * o.code) ||| fnOf z.code) d.byte a.byte 0 0 0)
  | .min h z d a b => some (rawR h 0x03C (fnOf z.code) d.byte a.byte b.byte 0 0)
  | .max h z d a b => some (rawR h 0x03D (fnOf z.code) d.byte a.byte b.byte 0 0)
  | .minu h z d a b => some (rawR h 0x03E (fnOf z.code) d.byte a.byte b.byte 0 0)
  | .maxu h z d a b => some (rawR h 0x03F (fnOf z.code) d.byte a.byte b.byte 0 0)
  | .and h z d a b => some (rawR h 0x040 (fnOf z.code) d.byte a.byte b.byte 0 0)
  | .andi h z d a imm => some (rawI h 0x041 (fnOf z.code) d.byte a.byte imm)
  | .or h z d a b => some (rawR h 0x042 (fnOf z.code) d.byte a.byte b.byte 0 0)
  | .ori h z d a imm => some (rawI h 0x043 (fnOf z.code) d.byte a.byte imm)
  | .xor h z d a b => some (rawR h 0x044 (fnOf z.code) d.byte a.byte b.byte 0 0)
  | .xori h z d a imm => some (rawI h 0x045 (fnOf z.code) d.byte a.byte imm)
  | .andn h z d a b => some (rawR h 0x046 (fnOf z.code) d.byte a.byte b.byte 0 0)
  | .shl h z d a b => some (rawR h 0x047 (fnOf z.code) d.byte a.byte b.byte 0 0)
  | .shr h z d a b => some (rawR h 0x048 (fnOf z.code) d.byte a.byte b.byte 0 0)
  | .sar h z d a b => some (rawR h 0x049 (fnOf z.code) d.byte a.byte b.byte 0 0)
  | .rol h z d a b => some (rawR h 0x04A (fnOf z.code) d.byte a.byte b.byte 0 0)
  | .shli h z d a imm => some (rawI h 0x04B (fnOf z.code) d.byte a.byte imm)
  | .shri h z d a imm => some (rawI h 0x04C (fnOf z.code) d.byte a.byte imm)
  | .sari h z d a imm => some (rawI h 0x04D (fnOf z.code) d.byte a.byte imm)
  | .clz h z d a => some (rawR h 0x04E (fnOf z.code) d.byte a.byte 0 0 0)
  | .ctz h z d a => some (rawR h 0x04F (fnOf z.code) d.byte a.byte 0 0 0)
  | .popc h z d a => some (rawR h 0x050 (fnOf z.code) d.byte a.byte 0 0 0)
  | .bfx h d a imm => some (rawI h 0x051 0 d.byte a.byte imm)
  | .bfi h d a imm => some (rawI h 0x052 0 d.byte a.byte imm)
  | .sext h z d a => some (rawR h 0x053 (fnOf z.code) d.byte a.byte 0 0 0)
  | .zext h z d a => some (rawR h 0x054 (fnOf z.code) d.byte a.byte 0 0 0)
  | .mov h z d a => some (rawR h 0x055 (fnOf z.code) d.byte a.byte 0 0 0)
  | .movi h d imm => some (rawW h 0x056 d.byte imm)
  | .movhi h d imm => some (rawW h 0x057 d.byte imm)
  | .lea h d a seg disp => some (rawM h 0x058 0 d.byte a.byte false (n3 seg) disp)
  | .sel h d a b k => some (rawR h 0x059 0 d.byte a.byte b.byte 0 (xOf k.val))
  | .cmp h cc z d a b => some (rawR h 0x05A (fnOf (8 * cc.code) ||| fnOf z.code) (n8 d) a.byte b.byte 0 0)
  | .cmpi h cc z d a imm => some (rawI h 0x05B (fnOf (8 * cc.code) ||| fnOf z.code) (n8 d) a.byte imm)
  | .pand h d a b => some (rawR h 0x05C 0 (n8 d) (n8 a) (n8 b) 0 0)
  | .por h d a b => some (rawR h 0x05D 0 (n8 d) (n8 a) (n8 b) 0 0)
  | .pxor h d a b => some (rawR h 0x05E 0 (n8 d) (n8 a) (n8 b) 0 0)
  | .pandn h d a b => some (rawR h 0x05F 0 (n8 d) (n8 a) (n8 b) 0 0)
  | .mfp h d => some (rawR h 0x060 0 d.byte 0 0 0 0)
  | .mtp h a => some (rawR h 0x061 0 0 a.byte 0 0 0)
  | .mfs h d n => some (rawI h 0x062 0 d.byte 0 n)
  | .mts h a n => some (rawI h 0x063 0 0 a.byte n)
  | .fadd h f rm d a b => some (rawR h 0x064 (fnOf f.code ||| fnOf (16 * rm.code)) d.byte a.byte b.byte 0 0)
  | .fsub h f rm d a b => some (rawR h 0x065 (fnOf f.code ||| fnOf (16 * rm.code)) d.byte a.byte b.byte 0 0)
  | .fmul h f rm d a b => some (rawR h 0x066 (fnOf f.code ||| fnOf (16 * rm.code)) d.byte a.byte b.byte 0 0)
  | .ffma h f rm d a b c => some (rawR h 0x067 (fnOf f.code ||| fnOf (16 * rm.code)) d.byte a.byte b.byte c.byte 0)
  | .fmin h f rm d a b => some (rawR h 0x068 (fnOf f.code ||| fnOf (16 * rm.code)) d.byte a.byte b.byte 0 0)
  | .fmax h f rm d a b => some (rawR h 0x069 (fnOf f.code ||| fnOf (16 * rm.code)) d.byte a.byte b.byte 0 0)
  | .fcmp h cc f d a b => some (rawR h 0x06A (fnOf (16 * cc.code) ||| fnOf f.code) (n8 d) a.byte b.byte 0 0)
  | .fcvt h cv d a => some (rawR h 0x06B (cvFn cv) d.byte a.byte 0 0 (cvX cv))
  | .vadd h f d a b => some (rawR h 0x080 (vfFn f) (n8 d) (n8 a) b.byte 0 (bcX b))
  | .vsub h f d a b => some (rawR h 0x081 (vfFn f) (n8 d) (n8 a) b.byte 0 (bcX b))
  | .vmul h f d a b => some (rawR h 0x082 (vfFn f) (n8 d) (n8 a) b.byte 0 (bcX b))
  | .vfma h f d a b c => some (rawR h 0x083 (vfFn f) (n8 d) (n8 a) b.byte (n8 c) (bcX b))
  | .vmin h f d a b => some (rawR h 0x084 (vfFn f) (n8 d) (n8 a) b.byte 0 (bcX b))
  | .vmax h f d a b => some (rawR h 0x085 (vfFn f) (n8 d) (n8 a) b.byte 0 (bcX b))
  | .vabs h f d a => some (rawR h 0x086 (vfFn f) (n8 d) (n8 a) 0 0 0)
  | .vneg h f d a => some (rawR h 0x087 (vfFn f) (n8 d) (n8 a) 0 0 0)
  | .vand h d a b => some (rawR h 0x088 0 (n8 d) (n8 a) b.byte 0 (bcX b))
  | .vor h d a b => some (rawR h 0x089 0 (n8 d) (n8 a) b.byte 0 (bcX b))
  | .vxor h d a b => some (rawR h 0x08A 0 (n8 d) (n8 a) b.byte 0 (bcX b))
  | .vshl h f d a b => some (rawR h 0x08B (fnOf f.code) (n8 d) (n8 a) b.byte 0 (bcX b))
  | .vshr h f d a b => some (rawR h 0x08C (fnOf f.code) (n8 d) (n8 a) b.byte 0 (bcX b))
  | .vsar h f d a b => some (rawR h 0x08D (fnOf f.code) (n8 d) (n8 a) b.byte 0 (bcX b))
  | .vcmp h cc f d a b => some (rawR h 0x08E (fnOf f.code) d.byte (n8 a) b.byte 0 (xOf cc.code ||| bcX b))
  | .vsel h f d a b c => some (rawR h 0x08F (fnOf f.code) (n8 d) (n8 a) (n8 b) c.byte 0)
  | .vbc h f d a => some (rawR h 0x090 (fnOf f.code) (n8 d) a.byte 0 0 0)
  | .vget h f d a idx => some (rawR h 0x091 (fnOf f.code) d.byte (n8 a) 0 0 (xOf idx.toNat))
  | .vput h f d a idx => some (rawR h 0x092 (fnOf f.code) (n8 d) a.byte 0 0 (xOf idx.toNat))
  | .vperm h f d a b => some (rawR h 0x093 (fnOf f.code) (n8 d) (n8 a) (n8 b) 0 0)
  | .vred h op f d a => some (rawR h 0x094 (vfFn f) d.byte (n8 a) 0 0 (xOf op.code))
  | .vdot h f d a b => some (rawR h 0x095 (vfFn f) d.byte (n8 a) (n8 b) 0 0)
  | .vcvt h cv d a => some (rawR h 0x096 (cvFn cv) (n8 d) (n8 a) 0 0 (cvX cv))
  | .vqnt h fine df d a b => some (rawR h 0x097 (fnOf (if fine then 32 else 0) ||| fnOf df.code) (n8 d) (n8 a) b.byte 0 0)
  | .vdeq h sf d a b => some (rawR h 0x098 (fnOf sf.code) (n8 d) (n8 a) b.byte 0 0)
  | .amxrd h d => some (rawR h 0x099 0 d.byte 0 0 0 0)
  | .amxsw h d a => some (rawR h 0x09A 0 d.byte a.byte 0 0 0)
  | .vld h m d a => some (rawM h 0x09B (memFn m) (n8 d) a.byte m.rx (n3 m.seg) m.disp)
  | .vst h m d a => some (rawM h 0x09C (memFn m) (n8 d) a.byte m.rx (n3 m.seg) m.disp)
  | .vldf h m d a => some (rawM h 0x09D (fnOf m.fmt.code) (n8 d) a.byte m.rx (n3 m.seg) m.disp)
  | .vstf h m d a => some (rawM h 0x09E (fnOf m.fmt.code) (n8 d) a.byte m.rx (n3 m.seg) m.disp)
  | .vldx h m d a => some (rawM h 0x09F (memFn m) (n8 d) (n8 a) m.rx (n3 m.seg) m.disp)
  | .vstx h m d a => some (rawM h 0x0A0 (memFn m) (n8 d) (n8 a) m.rx (n3 m.seg) m.disp)
  | .sfn h f d a b fn => some (rawE h 0x0A1 (fnOf f.code) d.byte a.byte b.byte fn)
  | .ld h m d a => some (rawM h 0x0C0 (memFn m) d.byte a.byte m.rx (n3 m.seg) m.disp)
  | .lds h m d a => some (rawM h 0x0C1 (memFn m) d.byte a.byte m.rx (n3 m.seg) m.disp)
  | .st h m d a => some (rawM h 0x0C2 (memFn m) d.byte a.byte m.rx (n3 m.seg) m.disp)
  | .ldf h m d a => some (rawM h 0x0C3 (memFn m) d.byte a.byte m.rx (n3 m.seg) m.disp)
  | .lde h m d a => some (rawM h 0x0C4 (memFn m) d.byte a.byte m.rx (n3 m.seg) m.disp)
  | .stf h m d a => some (rawM h 0x0C5 (memFn m) d.byte a.byte m.rx (n3 m.seg) m.disp)
  | .stfe h m d a => some (rawM h 0x0C6 (memFn m) d.byte a.byte m.rx (n3 m.seg) m.disp)
  | .clrf h m a => some (rawM h 0x0C7 (memFn m) 0 a.byte m.rx (n3 m.seg) m.disp)
  | .amo h op m d a b => some (rawR h 0x0C8 (fnOf (4 * op.code) ||| fnOf m.sz.code) d.byte a.byte b.byte 0 (atX m))
  | .cas h m d a b c => some (rawR h 0x0C9 (fnOf m.sz.code) d.byte a.byte b.byte c.byte (atX m))
  | .amof h op m d a b => some (rawR h 0x0CA (fnOf (4 * op.code) ||| fnOf m.sz.code) d.byte a.byte b.byte 0 (atX m))
  | .fence h k sc => some (rawR h 0x0CB (fnOf (4 * k.code + sc.code)) 0 0 0 0 0)
  | .cfence h => some (rawR h 0x0CC 0 0 0 0 0 0)
  | .swarm h d a b => some (rawE h 0x0CD 0 d.byte a.byte b.byte 0)
  | .swadd h a b => some (rawE h 0x0CE 0 0 a.byte b.byte 0)
  | .swwait h a b => some (rawE h 0x0CF 0 0 a.byte b.byte 0)
  | .swrd h d a => some (rawE h 0x0D0 0 d.byte a.byte 0 0)
  | .segld h d a => some (rawR h 0x0E0 0 (n8 d) a.byte 0 0 0)
  | .segst h a b => some (rawR h 0x0E1 0 0 a.byte (n8 b) 0 0)
  | .segrd h hi d a => some (rawR h 0x0E2 0 d.byte (n8 a) 0 0 (xOf (if hi then 1 else 0)))
  | .tlbi h a b => some (rawR h 0x0E3 0 0 a.byte b.byte 0 0)
  | .tlbsync h => some (rawR h 0x0E4 0 0 0 0 0 0)
  | .upret h a => some (rawR h 0x0E5 0 0 a.byte 0 0 0)
  | .pgrq h d a b => some (rawE h 0x0E6 0 d.byte a.byte b.byte 0)
  | .tcfg h d a mask => some (rawE h 0x0F0 0 d.byte a.byte 0 mask)
  | .trel h mask => some (rawI h 0x0F1 0 0 0 mask)
  | .tzero h mask => some (rawI h 0x0F2 0 0 0 mask)
  | .tenq h d a b => some (rawE h 0x0F3 0 d.byte a.byte b.byte 0)
  | .tst h f rm t a b => some (rawR h 0x0F4 (fnOf f.code ||| fnOf (16 * rm.code)) (n8 t) a.byte b.byte 0 0)
  | .tld h f t a b => some (rawR h 0x0F5 (fnOf f.code) (n8 t) a.byte b.byte 0 0)
  | .tget h err t d a => some (rawR h 0x0F6 0 d.byte a.byte 0 0 (xOf (if err then 16 else 0) ||| xOf t.val))
  | .tset h err t a b => some (rawR h 0x0F7 0 0 a.byte b.byte 0 (xOf (if err then 16 else 0) ||| xOf t.val))
  | .msset h m a b => some (rawR h 0x0F8 0 0 a.byte b.byte 0 (xOf m.val))
  | .msrd h m d => some (rawR h 0x0F9 0 d.byte 0 0 0 (xOf m.val))
  | .twait h mask => some (rawI h 0x0FA 0 0 0 mask)
  | .mmar h f t a b => some (rawR h 0x0FB (fnOf f.code) (n8 t) (n8 a) (n8 b) 0 0)
  | .cpy h d a b => some (rawE h 0x110 0 d.byte a.byte b.byte 0)
  | .cpyRp h d a b => some (rawE h 0x110 0 d.byte a.byte b.byte 1)
  | .gath h d a b => some (rawE h 0x111 0 d.byte a.byte b.byte 0)
  | .scat h d a b => some (rawE h 0x112 0 d.byte a.byte b.byte 0)
  | .cmpct h d a b => some (rawE h 0x113 0 d.byte a.byte b.byte 0)
  | .dpat h a b => some (rawR h 0x114 0 0 a.byte b.byte 0 0)
  | .dcpy h d a b => some (rawE h 0x115 0 d.byte a.byte b.byte 0)
  | .cqry h d a q => some (rawE h 0x116 0 d.byte a.byte 0 q)
  | .ksel h note d a b => some (rawE h 0x120 0 d.byte a.byte b.byte (noteImm note))
  | .kgath h note d a b => some (rawE h 0x121 0 d.byte a.byte b.byte (noteImm note))
  | .kabs h d a => some (rawE h 0x122 0 d.byte a.byte 0 0)
  | .emb h note d a b => some (rawE h 0x123 0 d.byte a.byte b.byte (noteImm note))
  | .spec h d a b tag => some (rawE h 0x130 0 d.byte a.byte b.byte tag)
  | .aref h a => some (rawR h 0x131 0 0 a.byte 0 0 0)
  | .arel h a => some (rawR h 0x132 0 0 a.byte 0 0 0)
  | .acall h d a => some (rawR h 0x133 0 d.byte a.byte 0 0 0)
  | .ainf h item d a => some (rawR h 0x134 0 d.byte a.byte 0 0 (xOf item.val))
  | .hold h d a imm => some (rawI h 0x140 0 d.byte a.byte imm)
  | .dech h a imm => some (rawI h 0x141 0 0 a.byte imm)
  | .pushr h d a => some (rawR h 0x142 0 d.byte a.byte 0 0 0)
  | .popr h d => some (rawR h 0x143 0 d.byte 0 0 0 0)
  | .splitr h d => some (rawR h 0x144 0 d.byte 0 0 0 0)
  | .stealr h d a => some (rawR h 0x145 0 d.byte a.byte 0 0 0)
  | .post h d a b tag => some (rawE h 0x146 0 d.byte a.byte b.byte tag)
  | .spawn h d a b imm => some (rawE h 0x147 0 d.byte a.byte b.byte imm)
  | .nsend h note d a => some (rawE h 0x150 0 d.byte a.byte 0 (noteImm note))
  | .nread h note d a => some (rawE h 0x151 0 d.byte a.byte 0 (noteImm note))
  | .nwrite h note d a => some (rawE h 0x152 0 d.byte a.byte 0 (noteImm note))
  | .nrecv h note d a => some (rawE h 0x153 0 d.byte a.byte 0 (noteImm note))
  | .nqry h d a item => some (rawE h 0x154 0 d.byte a.byte 0 item)
  | .illegalEncoding _ => none
  | .resultReturn _ _ _ => none
  | .strandWake _ _ => none
  | .waitExpiry _ _ => none
  | .idleSlotSearch _ _ => none
  | .fetchFill _ _ => none
  | .portWordArrive _ => none
  | .creditReturn _ => none
  | .postArrive _ => none
  | .engineMessageDeliver _ => none
  | .faultMessageDeliver _ => none
  | .bankTransaction _ => none
  | .overflowRetry _ => none
  | .translationWalk _ => none
  | .barrierArrival _ => none
  | .holdDecrement _ => none
  | .stealPerform _ => none
  | .preemptRequest _ => none
  | .preemptSave _ => none
  | .resumeRequest _ => none
  | .coreResume _ => none
  | .launchAccept _ => none
  | .placement => none
  | .gatheringRetire _ _ => none
  | .copyAccept _ _ => none
  | .copyChunk _ _ => none
  | .copyComplete _ _ => none
  | .binderyEnqueue _ _ => none
  | .taskStart _ => none
  | .taskPartComplete _ _ _ => none
  | .selectionAccept _ _ => none
  | .selectRun _ _ => none
  | .gatherEntry _ _ => none
  | .embAccept _ _ => none
  | .chipPartial _ _ _ _ => none
  | .bagWrite _ _ => none
  | .specAccept _ _ => none
  | .specRun _ _ => none
  | .netAccept _ => none
  | .packetReceive _ => none
  | .ackReceive _ _ _ => none
  | .retransmitTimeout _ _ => none
  | .pageRequestForward _ => none
  | .svcVersion _ _ => none
  | .svcResume _ _ => none
  | .svcKill _ _ => none
  | .svcPage _ _ => none
  | .svcCounts _ _ => none
  | .curatorSwitchEnd _ => none
  | .uncorrectableError _ _ => none
  | .powerOn => none
  | .rootSelfTestEnd _ _ => none
  | .functionReport _ _ _ _ => none
  | .thermalShutdown => none
  | .loadCode _ _ => none
  | .map _ _ => none
  | .unmap _ _ _ _ => none
  | .hostRead _ _ _ => none
  | .hostWrite _ _ _ => none
  | .hostLaunch _ _ _ => none
  | .hostPreempt _ _ _ => none
  | .answerPageRequest _ _ _ => none
  | .query _ _ => none
  | .repeatSelfTest _ => none
  | .identityKey _ => none
  | .deviceIdentifier _ => none
  | .temperaturePower _ => none
  | .firmwareUpdate _ _ _ _ => none
  | .attestationQuote _ _ => none
  | .unknownCommand _ _ => none
  | .tlbiTakesEffect _ => none
  | .remotekeyRefusal _ _ => none

/-- The word of an instruction. -/
def encode (i : Instr) : Option Word := i.raw.map Raw.toWord

/-- The slot and pair declaration allow this instruction (R29, R37). -/
def Instr.allowedIn (c : DecCtx) (i : Instr) : Bool :=
  match i.raw with
  | none => false
  | some r => r.slotOk c && r.pairOk c

/-- The slot in which a word of the opcode table is read: slot 63 for the opcodes reserved to it (R37), else a slot whose
pair declarations allow every port. -/
def tableCtx (w : Word) : DecCtx :=
  { sup := supervisorOnly (Raw.ofWord w).op.toNat, pair := .any }

/-- The instruction the decoder reads from a word of the opcode table. Words are 64 bits, so nbits names no shorter form. -/
def decodeTableWord (_nbits w : Nat) : Option Instr := decode (tableCtx (BitVec.ofNat 64 w)) (BitVec.ofNat 64 w)

end Sys2Proof
end

