-- ==== Sys2Proof/Machine/Flags.lean ====
section
/-! DEFINITION. Numbers, rounding and flags: the formats of R46, rounding and range of R48 and R49, the flag word of R50,
conversions of R52, scales and quantisers of R53 to R56, folios of R57 and R58, accumulators of R59 to R62, and the scalar
operations of R113 to R128 on them. -/

namespace Sys2Proof.Machine

/-! ## Flags (R50) -/

abbrev FlagWord := BitVec 7

def flInvalid : FlagWord := 1
def flDz : FlagWord := 2
def flOverflow : FlagWord := 4
def flUnderflow : FlagWord := 8
def flInexact : FlagWord := 16
def flRange : FlagWord := 32
def flSaturate : FlagWord := 64

def flagIf (b : Bool) (f : FlagWord) : FlagWord := if b then f else 0

/-! ## Values -/

/-- The value of a code: a NaN (signalling or not), an infinity, or ± m · 2^e; m = 0 is a zero of that sign. -/
inductive Num where
  | nan (sig : Bool)
  | inf (neg : Bool)
  | fin (neg : Bool) (m : Nat) (e : Int)
deriving DecidableEq, Repr

/-- A magnitude n ÷ d · 2^e, d positive: what is rounded once (R48). -/
structure Mag where
  n : Nat
  d : Nat := 1
  e : Int := 0
deriving DecidableEq, Repr

/-- A floating format (R46): width, mantissa bits, bias, code of the largest finite value, infinity, NaN. -/
structure FP where
  w   : Nat
  mb  : Nat
  bias : Nat
  top : Nat
  inf : Option Nat
  nan : Option Nat
deriving DecidableEq, Repr

def fpF32 : FP := { w := 32, mb := 23, bias := 127, top := 0x7F7FFFFF, inf := some 0x7F800000, nan := some 0x7FC00000 }
def fpF64 : FP := { w := 64, mb := 52, bias := 1023, top := 0x7FEFFFFFFFFFFFFF, inf := some 0x7FF0000000000000, nan := some 0x7FF8000000000000 }
def fpBf16 : FP := { w := 16, mb := 7, bias := 127, top := 0x7F7F, inf := some 0x7F80, nan := some 0x7FC0 }
def fpF16 : FP := { w := 16, mb := 10, bias := 15, top := 0x7BFF, inf := some 0x7C00, nan := some 0x7E00 }
def fpE4m3 : FP := { w := 8, mb := 3, bias := 7, top := 0x7E, inf := none, nan := some 0x7F }
def fpE5m2 : FP := { w := 8, mb := 2, bias := 15, top := 0x7B, inf := some 0x7C, nan := some 0x7E }
def fpE2m1 : FP := { w := 4, mb := 1, bias := 1, top := 0x7, inf := none, nan := none }

/-- The floating format of a format code; `none` for the integers. -/
def fpOf : Fmt → Option FP
  | .f32 => some fpF32 | .f64 => some fpF64 | .bf16 => some fpBf16 | .f16 => some fpF16
  | .e4m3 => some fpE4m3 | .e5m2 => some fpE5m2 | .e2m1b => some fpE2m1
  | .int8 | .int16 | .int32 => none

/-- Width of an element in bits. -/
def fmtWidth : Fmt → Nat
  | .f32 => 32 | .f64 => 64 | .bf16 => 16 | .f16 => 16 | .e4m3 => 8 | .e5m2 => 8 | .e2m1b => 4
  | .int8 => 8 | .int16 => 16 | .int32 => 32

def isIntFmt : Fmt → Bool
  | .int8 | .int16 | .int32 => true
  | _ => false

/-- Elements of a format in a vector register (R130). -/
def fmtCount : Fmt → Nat
  | .f32 | .int32 => 16
  | .bf16 | .f16 | .int16 => 32
  | .f64 => 8
  | .e4m3 | .e5m2 | .int8 | .e2m1b => 64

/-- The value of a code of a floating format (R46). -/
def FP.value (f : FP) (code : Nat) : Num :=
  let neg := (code >>> (f.w - 1)) % 2 == 1
  let mag := code % 2 ^ (f.w - 1)
  let ef := mag >>> f.mb
  let mf := mag % 2 ^ f.mb
  if f.top < mag then
    if f.inf == some mag then .inf neg
    else .nan (f.inf.isSome && mf >>> (f.mb - 1) == 0)
  else if ef == 0 then .fin neg mf (1 - (f.bias : Int) - f.mb)
  else .fin neg (mf + 2 ^ f.mb) ((ef : Int) - f.bias - f.mb)

/-- The signed value of the low n bits. -/
def sxNat (n : Nat) (x : Nat) : Int :=
  let y := x % 2 ^ n
  if 2 * y < 2 ^ n then (y : Int) else (y : Int) - 2 ^ n

/-- The value of a code of any format but e2m1b's blocks. -/
def fmtValue (f : Fmt) (code : Nat) : Num :=
  match fpOf f with
  | some p => p.value (code % 2 ^ p.w)
  | none =>
    let v := sxNat (fmtWidth f) code
    .fin (decide (v < 0)) v.natAbs 0

/-! ## Rounding (R48, R49) -/

/-- ⌊log2⌋ of a nonzero magnitude. -/
def Mag.log2 (x : Mag) : Int :=
  let l : Int := (Nat.log2 x.n : Int) - Nat.log2 x.d
  -- x.n ÷ x.d lies between 2^(l-1) and 2^(l+1)
  let ge := if 0 ≤ l then decide (x.d * 2 ^ l.toNat ≤ x.n) else decide (x.d ≤ x.n * 2 ^ (-l).toNat)
  (if ge then l else l - 1) + x.e

/-- n and d of x ÷ 2^q. -/
def Mag.over (x : Mag) (q : Int) : Nat × Nat :=
  let s := x.e - q
  if 0 ≤ s then (x.n * 2 ^ s.toNat, x.d) else (x.n, x.d * 2 ^ (-s).toNat)

/-- n ÷ d rounded to an integer under a mode, and whether it was exact. -/
def roundInt (rm : Rm) (neg : Bool) (n d : Nat) : Nat × Bool :=
  let k := n / d
  let r := n % d
  let up := match rm with
    | .rne => decide (d < 2 * r) || (2 * r == d && k % 2 == 1)
    | .rtz => false
    | .rup => r != 0 && !neg
    | .rdn => r != 0 && neg
  (if up then k + 1 else k, r == 0)

/-- A rounded magnitude: its code (which may lie past the format's largest), and the facts R49 needs. -/
structure Rounded where
  code  : Nat
  exact : Bool
  tiny  : Bool
deriving DecidableEq, Repr

/-- Round a magnitude once into a format, with the exponent unbounded above (R48). -/
def FP.round (f : FP) (rm : Rm) (neg : Bool) (x : Mag) : Rounded :=
  if x.n == 0 then { code := 0, exact := true, tiny := false }
  else
    let emin : Int := 1 - f.bias
    let E := x.log2
    let q := (if E < emin then emin else E) - f.mb
    let nd := x.over q
    let (k, ex) := roundInt rm neg nd.1 nd.2
    -- k · 2^q, with k at most 2^(mb+1)
    let code :=
      if k < 2 ^ f.mb then k
      else ((q + f.mb + f.bias).toNat - 1) * 2 ^ f.mb + k
    { code := code, exact := ex, tiny := decide (E < emin) }

def FP.signed (f : FP) (neg : Bool) (mag : Nat) : Nat := if neg then mag + 2 ^ (f.w - 1) else mag

/-- What an overflowing result becomes (R49). -/
def FP.overflow (f : FP) (rm : Rm) (sat neg : Bool) : Nat :=
  match f.inf with
  | some i =>
    let toInf := match rm with | .rne => true | .rtz => false | .rup => !neg | .rdn => neg
    f.signed neg (if sat || !toInf then f.top else i)
  | none =>
    match f.nan with
    | some n => if sat then f.signed neg f.top else n
    | none => f.signed neg f.top

/-- A rounded result checked against the range (R49): code and flags. `.sat` has no effect on e2m1, which clamps in any
case and raises no saturate (R52). -/
def FP.deliver (f : FP) (rm : Rm) (sat neg : Bool) (x : Mag) : Nat × FlagWord :=
  let r := f.round rm neg x
  if f.top < r.code then
    (f.overflow rm sat neg, flOverflow ||| flInexact ||| flagIf (sat && f.nan.isSome) flSaturate)
  else
    (f.signed neg r.code, flagIf (!r.exact) flInexact ||| flagIf (r.tiny && !r.exact) flUnderflow)

/-- The canonical NaN (R47); e2m1 has none and its code 0 is given (R52). -/
def FP.cnan (f : FP) : Nat := f.nan.getD 0

/-! ## Conversions (R52) -/

def intBounds (n : Nat) : Int × Int := (-(2 ^ (n - 1)), 2 ^ (n - 1) - 1)

/-- The n-bit pattern of an integer. -/
def wrapN (n : Nat) (v : Int) : Nat := (v % 2 ^ n).toNat

/-- Conversion to an n-bit signed integer of ± x. -/
def convInt (n : Nat) (rm : Rm) (neg : Bool) (x : Mag) : Nat × FlagWord :=
  let nd := x.over 0
  let (k, ex) := roundInt rm neg nd.1 nd.2
  let v : Int := if neg then -(k : Int) else k
  let (lo, hi) := intBounds n
  if v < lo then (wrapN n lo, flSaturate)
  else if hi < v then (wrapN n hi, flSaturate)
  else (wrapN n v, flagIf (!ex) flInexact)

/-- A finite ± x into a format, rounded once (R52). -/
def convFin (df : Fmt) (rm : Rm) (sat neg : Bool) (x : Mag) : Nat × FlagWord :=
  match fpOf df with
  | none => convInt (fmtWidth df) rm neg x
  | some f => f.deliver rm sat neg x

/-- R52: one value into a format. `sat` has an effect on floating destinations only. -/
def conv (df : Fmt) (rm : Rm) (sat : Bool) (x : Num) : Nat × FlagWord :=
  match x with
  | .fin neg m e => convFin df rm sat neg { n := m, e := e }
  | .nan sig =>
    match fpOf df with
    | none => (0, flInvalid)
    | some f => match f.nan with
      | none => (0, flInvalid)
      | some n => (n, flagIf sig flInvalid)
  | .inf neg =>
    match fpOf df with
    | none =>
      let n := fmtWidth df
      (wrapN n (if neg then (intBounds n).1 else (intBounds n).2), flSaturate)
    | some f => match f.inf, f.nan with
      | some i, _ => if sat then (f.signed neg f.top, flSaturate) else (f.signed neg i, 0)
      | none, some n => if sat then (f.signed neg f.top, flSaturate) else (n, flInvalid)
      | none, none => (f.signed neg f.top, flOverflow)

/-- R52: a code of format `sf` converted. To its own format it is delivered unchanged, but for a signalling NaN (DEDUCED:
that sentence is taken before `.sat`'s clamp of an infinity and before R47's canonical NaN, log 18). -/
def convFrom (df sf : Fmt) (rm : Rm) (sat : Bool) (code : Nat) (x : Num) : Nat × FlagWord :=
  if df == sf then match x with
    | .nan true => conv df rm sat x
    | _ => (code, 0)
  else conv df rm sat x

/-- |x| rounded toward +∞ into f32 (R63), for a finite x. -/
def up32 (m : Nat) (e : Int) : Nat :=
  let r := fpF32.round .rup false { n := m, e := e }
  if fpF32.top < r.code then 0x7F800000 else r.code

/-- AMAX after a source value (R63); codes of non-negative f32 values compare as numbers. -/
def amaxStep (a : Nat) (x : Num) : Nat :=
  match x with
  | .fin _ m e => max a (up32 m e)
  | _ => a

/-! ## Arithmetic (R125 to R128) -/

/-- Sum of two finite values, exactly: sign, magnitude; `none` for a zero sum. -/
def addFin (n1 : Bool) (m1 : Nat) (e1 : Int) (n2 : Bool) (m2 : Nat) (e2 : Int) : Bool × Nat × Int :=
  let e := if e1 < e2 then e1 else e2
  let a : Int := (m1 * 2 ^ (e1 - e).toNat : Nat)
  let b : Int := (m2 * 2 ^ (e2 - e).toNat : Nat)
  let s := (if n1 then -a else a) + (if n2 then -b else b)
  (decide (s < 0), s.natAbs, e)

/-- The sign of an exact zero sum (R125). -/
def zeroSign (rm : Rm) (n1 n2 : Bool) : Bool :=
  if n1 == n2 then n1 else rm == .rdn

def isSig : Num → Bool
  | .nan s => s
  | _ => false
def isNan : Num → Bool
  | .nan _ => true
  | _ => false

/-- The canonical NaN, with invalid when an operand is signalling or the operation makes it (R47). -/
def nanResult (f : FP) (invalid : Bool) : Nat × FlagWord := (f.cnan, flagIf invalid flInvalid)

def fpAdd (f : FP) (rm : Rm) (a b : Num) : Nat × FlagWord :=
  match a, b with
  | .nan s, y => nanResult f (s || isSig y)
  | _, .nan s => nanResult f s
  | .inf n1, .inf n2 => if n1 == n2 then (f.signed n1 (f.inf.getD f.top), 0) else nanResult f true
  | .inf n, _ => (f.signed n (f.inf.getD f.top), 0)
  | _, .inf n => (f.signed n (f.inf.getD f.top), 0)
  | .fin n1 m1 e1, .fin n2 m2 e2 =>
    let (n, m, e) := addFin n1 m1 e1 n2 m2 e2
    if m == 0 then (f.signed (if m1 == 0 && m2 == 0 then zeroSign rm n1 n2 else rm == .rdn) 0, 0)
    else f.deliver rm false n { n := m, e := e }

def negNum : Num → Num
  | .nan s => .nan s
  | .inf n => .inf (!n)
  | .fin n m e => .fin (!n) m e

/-- The exact product; `none` is 0 × ∞. -/
def mulNum (a b : Num) : Option Num :=
  match a, b with
  | .nan s, y => some (.nan (s || isSig y))
  | _, .nan s => some (.nan s)
  | .inf n1, .inf n2 => some (.inf (n1 != n2))
  | .inf n1, .fin n2 m _ => if m == 0 then none else some (.inf (n1 != n2))
  | .fin n1 m _, .inf n2 => if m == 0 then none else some (.inf (n1 != n2))
  | .fin n1 m1 e1, .fin n2 m2 e2 => some (.fin (n1 != n2) (m1 * m2) (e1 + e2))

def fpMul (f : FP) (rm : Rm) (a b : Num) : Nat × FlagWord :=
  match mulNum a b with
  | none => nanResult f true
  | some (.nan s) => nanResult f s
  | some (.inf n) => (f.signed n (f.inf.getD f.top), 0)
  | some (.fin n m e) => f.deliver rm false n { n := m, e := e }

/-- a × b + c with one rounding (R125). -/
def fpFma (f : FP) (rm : Rm) (a b c : Num) : Nat × FlagWord :=
  match mulNum a b with
  | none => nanResult f true
  | some (.nan s) => nanResult f (s || isSig c)
  | some p => fpAdd f rm p c

/-- Order of two values that are no NaN, with −0 below +0 (R126). -/
def numLt (strictZero : Bool) (a b : Num) : Bool :=
  match a, b with
  | .inf n1, .inf n2 => n1 && !n2
  | .inf n, _ => n
  | _, .inf n => !n
  | .fin n1 m1 e1, .fin n2 m2 e2 =>
    let (n, m, _) := addFin n1 m1 e1 (!n2) m2 e2   -- a − b
    if m == 0 then strictZero && m1 == 0 && n1 && !n2 else n
  | _, _ => false

def numEq (a b : Num) : Bool :=
  match a, b with
  | .inf n1, .inf n2 => n1 == n2
  | .fin n1 m1 e1, .fin n2 m2 e2 => (addFin n1 m1 e1 (!n2) m2 e2).2.1 == 0
  | _, _ => false

/-- `fmin` and `fmax` on codes (R126). -/
def fpMinMax (f : FP) (isMax : Bool) (ca cb : Nat) : Nat × FlagWord :=
  let a := f.value ca
  let b := f.value cb
  match a, b with
  | .nan sa, .nan sb => nanResult f (sa || sb)
  | .nan true, _ => nanResult f true
  | _, .nan true => nanResult f true
  | .nan false, _ => (cb, 0)
  | _, .nan false => (ca, 0)
  | _, _ => (if numLt true a b == isMax then cb else ca, 0)

/-- `fcmp` (R127): result and flags. -/
def fpCmp (cc : FCc) (a b : Num) : Bool × FlagWord :=
  let un := isNan a || isNan b
  let sig := isSig a || isSig b
  match cc with
  | .eq => (!un && numEq a b, flagIf sig flInvalid)
  | .lt => (!un && numLt false a b, flagIf un flInvalid)
  | .le => (!un && (numLt false a b || numEq a b), flagIf un flInvalid)
  | .un => (un, flagIf sig flInvalid)

/-! ## Integer arithmetic (R113 to R116) -/

/-- Deliver an exact integer at n bits under an overflow mode (R44, R113). -/
def saDeliver (o : Ovf) (n : Nat) (e : Int) : Nat × FlagWord :=
  let clamp (lo hi : Int) : Nat × FlagWord :=
    if e < lo then (wrapN n lo, flSaturate) else if hi < e then (wrapN n hi, flSaturate) else (wrapN n e, 0)
  match o with
  | .wrap => (wrapN n e, 0)
  | .ss => clamp (-(2 ^ (n - 1))) (2 ^ (n - 1) - 1)
  | .us => clamp 0 (2 ^ n - 1)

/-- The operand of R113: unsigned under `.us`, signed otherwise. -/
def saRead (o : Ovf) (n : Nat) (x : Nat) : Int :=
  match o with
  | .us => ((x % 2 ^ n : Nat) : Int)
  | _ => sxNat n x

/-- `shr`, `sar`, `shl`, `rol` of an n-bit value. -/
def shlN (n a s : Nat) : Nat := (a % 2 ^ n * 2 ^ (s % n)) % 2 ^ n
def shrN (n a s : Nat) : Nat := a % 2 ^ n / 2 ^ (s % n)
def sarN (n a s : Nat) : Nat := wrapN n (sxNat n a / 2 ^ (s % n))
def rolN (n a s : Nat) : Nat := shlN n a s + shrN n (a % 2 ^ n) (n - s % n) * (if s % n == 0 then 0 else 1)

/-- Count of leading zeros of an n-bit value. -/
def clzN (n a : Nat) : Nat := if a % 2 ^ n == 0 then n else n - 1 - Nat.log2 (a % 2 ^ n)

/-- Count of trailing zeros of an n-bit value: the first set bit. -/
def ctzN (n a : Nat) : Nat := ((List.range n).find? fun i => a.testBit i).getD n

def popN (n a : Nat) : Nat := (List.range n).countP fun i => a.testBit i

/-- Truncated quotient and remainder; the divisor is not 0 (R114). -/
def divT (a b : Int) : Int := Int.tdiv a b
def remT (a b : Int) : Int := Int.tmod a b

/-- Conditions of R121 on n-bit sources. -/
def ccHolds (cc : Cc) (n a b : Nat) : Bool :=
  match cc with
  | .eq => a % 2 ^ n == b % 2 ^ n
  | .ne => a % 2 ^ n != b % 2 ^ n
  | .lt => decide (sxNat n a < sxNat n b)
  | .ge => decide (sxNat n b ≤ sxNat n a)
  | .ltu => decide (a % 2 ^ n < b % 2 ^ n)
  | .geu => decide (b % 2 ^ n ≤ a % 2 ^ n)

/-! ## Scales and quantisers (R53 to R56) -/

/-- An E3M5 block scale (R53): m · 2^e. -/
def e3m5 (b : Nat) : Nat × Int :=
  let e := b / 32 % 8
  let m := b % 32
  if e == 0 then (m, -8) else (m + 32, (e : Int) - 9)

/-- a < b of two magnitudes. -/
def Mag.lt (a b : Mag) : Bool :=
  let e := if a.e < b.e then a.e else b.e
  decide (a.n * 2 ^ (a.e - e).toNat * b.d < b.n * 2 ^ (b.e - e).toNat * a.d)

/-- The greatest finite magnitude of some values (R56). -/
def maxMag (xs : List Num) : Mag :=
  xs.foldl (fun a x => match x with
    | .fin _ m e => if Mag.lt a { n := m, e := e } then { n := m, e := e } else a
    | _ => a) { n := 0 }

/-- a ÷ b of two magnitudes, b nonzero. -/
def Mag.div (a b : Mag) : Mag := { n := a.n * b.d, d := a.d * b.n, e := a.e - b.e }
def Mag.mul (a b : Mag) : Mag := { n := a.n * b.n, d := a.d * b.d, e := a.e + b.e }

/-- The block scale of eight sources (R56): byte and flags. -/
def blockScale (fine : Bool) (S : Mag) (xs : List Num) : Nat × FlagWord :=
  let a := maxMag xs
  if a.n == 0 then (0, 0)
  else if fine then
    let t := a.div (S.mul { n := 6 })
    match (List.range 256).find? (fun b => !Mag.lt { n := (e3m5 b).1, e := (e3m5 b).2 } t) with
    | some b => (b, 0)
    | none => (0xFF, flSaturate)
  else
    let X := (a.div S).log2 - 2
    if 3 < X then (0xE0, flSaturate)
    else if -3 ≤ X then ((X + 4).toNat * 32, 0)
    else if -8 ≤ X then (2 ^ (X + 8).toNat, 0)
    else (0, 0)

/-- One element of a block: rnd_e2m1 of x ÷ (S · scale) (R56); a block scale of 0 leaves its sign. -/
def convElem (rm : Rm) (S : Mag) (scale : Nat) (x : Num) : Nat × FlagWord :=
  match x with
  | .fin neg m e =>
    if scale == 0 then (fpE2m1.signed neg 0, 0)
    else convFin .e2m1b rm false neg (Mag.div { n := m, e := e } (S.mul { n := (e3m5 scale).1, e := (e3m5 scale).2 }))
  | _ => conv .e2m1b rm false x

/-- A quantiser's element: under RNE, and under the default rule a magnitude beyond 6 raises inexact only (R56). -/
def quantElem (fine : Bool) (S : Mag) (scale : Nat) (x : Num) : Nat × FlagWord :=
  let r := convElem .rne S scale x
  (r.1, if fine || !(match x with | .fin _ _ _ => true | _ => false) then r.2 else r.2 &&& ~~~ flOverflow)

/-- A block of eight with its elements' rule: scale byte, element codes, flags. -/
def blockWith (elem : Nat → Num → Nat × FlagWord) (fine : Bool) (S : Mag) (xs : List Num) : Nat × List Nat × FlagWord :=
  let (b, fl) := blockScale fine S xs
  let r := xs.map (elem b)
  (b, r.map (·.1), r.foldl (fun f x => f ||| x.2) fl)

/-! ## Elements of a register -/

/-- Element i of width w of a number read as a bit string. -/
def elemN (w v i : Nat) : Nat := v / 2 ^ (w * i) % 2 ^ w

/-- A number from its elements, lowest first. -/
def packN (w : Nat) : List Nat → Nat
  | [] => 0
  | x :: xs => x % 2 ^ w + 2 ^ w * packN w xs

/-- The element codes of a register in a format (R45; e2m1b by R55). -/
def elems (f : Fmt) (v : Nat) : List Nat :=
  match f with
  | .e2m1b => (List.range 64).map fun j => elemN 4 (v / 2 ^ 64) j
  | _ => (List.range (fmtCount f)).map (elemN (fmtWidth f) v)

/-- The element values of a register: e2m1b elements times their block scale (R53, R55). -/
def elemVals (f : Fmt) (v : Nat) : List Num :=
  match f with
  | .e2m1b => (List.range 64).map fun j =>
      let s := e3m5 (elemN 8 v (j / 8))
      match fpE2m1.value (elemN 4 (v / 2 ^ 64) j) with
      | .fin n m e => .fin n (m * s.1) (e + s.2)
      | x => x
  | _ => (elems f v).map (fmtValue f)

/-- A register from element codes; for e2m1b with its eight scale bytes (R55). -/
def packElems (f : Fmt) (scales : List Nat) (cs : List Nat) : Nat :=
  match f with
  | .e2m1b => packN 8 (scales.take 8) % 2 ^ 64 + 2 ^ 64 * packN 4 (cs.take 64)
  | _ => packN (fmtWidth f) (cs.take (fmtCount f))

/-- Pad a list with zeros to a length. -/
def padTo (n : Nat) (xs : List Nat) : List Nat := (xs ++ List.replicate (n - xs.length) 0).take n

/-- Up to 64 values into e2m1b under an element rule: blocks of eight, unnamed blocks zero. -/
def blocksWith (elem : Nat → Num → Nat × FlagWord) (fine : Bool) (S : Mag) : Nat → List Num → List Nat × List Nat × FlagWord
  | 0, _ => ([], [], 0)
  | k + 1, xs =>
    if xs.isEmpty then ([], [], 0)
    else
      let (b, es, f1) := blockWith elem fine S (xs.take 8)
      let (bs, rest, f2) := blocksWith elem fine S k (xs.drop 8)
      (b :: bs, padTo 8 es ++ rest, f1 ||| f2)

/-- Quantise up to 64 values into e2m1b (R56). -/
def quantAll (fine : Bool) (S : Mag) (k : Nat) (xs : List Num) : List Nat × List Nat × FlagWord :=
  blocksWith (quantElem fine S) fine S k xs

/-! ## Folios (R57, R58) -/

/-- A folio's elements as values, from its 64 bytes as a number: `none` for a reserved code or scale. -/
def folioVals (v : Nat) : Option (List Num) :=
  let code := v % 256
  let b : Int := (elemN 8 v 1 : Int) - 127
  let body := v / 2 ^ 16
  let scaled (xs : List Num) : List Num := xs.map fun x => match x with
    | .fin n m e => .fin n m (e + b)
    | y => y
  let plain (f : Fmt) (k : Nat) : List Num := (List.range k).map fun i => fmtValue f (elemN (fmtWidth f) body i)
  if code == 0xFF then some []
  else if elemN 8 v 1 == 0xFF then none
  else match code with
    | 0x01 => some (scaled (plain .int8 62))
    | 0x02 => some (scaled (plain .e4m3 62))
    | 0x03 => some (scaled (plain .e5m2 62))
    | 0x04 => some (scaled (plain .bf16 31))
    | 0x05 => some (scaled (plain .f16 31))
    | 0x06 => some (scaled (plain .f32 15))
    | 0x07 => some (scaled ((List.range 96).map fun j =>
        let k := j / 8
        let s := e3m5 (elemN 8 v (2 + 5 * k))
        match fpE2m1.value (elemN 4 (v / 2 ^ (8 * (3 + 5 * k))) (j % 8)) with
        | .fin n m e => .fin n (m * s.1) (e + s.2)
        | x => x))
    | _ => none

/-- `vldf` (R144): the register and flags of a folio read into a format; `none` is a format fault. An e2m1b element is converted under
the rounding of the read, on the block scales that R56 chooses with S = 1. What is converted is the element's value times its scale, so a
quiet NaN with a payload gives the canonical NaN in its own format too (DEDUCED, assumption 18). -/
def folioRead (f : Fmt) (rm : Rm) (v : Nat) : Option (Nat × FlagWord) :=
  (folioVals v).map fun xs =>
    let ys := (xs.take (fmtCount f)) ++ List.replicate (fmtCount f - xs.length) (.fin false 0 0)
    match f with
    | .e2m1b =>
      let (bs, es, fl) := blocksWith (convElem rm { n := 1 }) false { n := 1 } 8 ys
      (packElems .e2m1b bs es, fl)
    | _ =>
      let r := ys.map (conv f rm (f == .e4m3))
      (packElems f [] (r.map (·.1)), r.foldl (fun a x => a ||| x.2) 0)

/-- `vstf` (R145): the folio of a register. -/
def folioWrite (f : Fmt) (v : Nat) : Nat :=
  let code := match f with
    | .f32 => 0x06 | .bf16 => 0x04 | .f16 => 0x05 | .e4m3 => 0x02 | .e5m2 => 0x03 | .e2m1b => 0x07 | .int8 => 0x01
    | _ => 0
  let n := match f with
    | .f32 => 15 | .bf16 | .f16 => 31 | _ => 62
  let body := match f with
    | .e2m1b => (List.range 8).foldl (fun a k =>
        a + (elemN 8 v k + 256 * (elemN 32 (v / 2 ^ 64) k)) * 2 ^ (40 * k)) 0
    | _ => packN (fmtWidth f) ((elems f v).take n)
  code + 127 * 2 ^ 8 + body * 2 ^ 16

/-! ## Vector conversions (R64 to R66) -/

/-- `vcvt`: register, flags, AMAX after. -/
def vcvt (df sf : Fmt) (rm : Rm) (sat : Bool) (amax v : Nat) : Nat × FlagWord × Nat :=
  let n := min (fmtCount sf) (fmtCount df)
  let xs := (elemVals sf v).take n
  let am := xs.foldl amaxStep amax
  if df == .e2m1b && sf == .e2m1b then (v % 2 ^ 320, 0, am)
  else
    let codes := elems sf v
    let r := (xs.zip codes).map fun p => convFrom df sf rm sat p.2 p.1
    let cs := r.map (·.1)
    let fl := r.foldl (fun a x => a ||| x.2) 0
    let scales := (List.range 8).map fun k => if 8 * k < n then 0x80 else 0
    (packElems df scales cs, fl, am)

/-- `vqnt` (R65). -/
def vqnt (fine : Bool) (df : Fmt) (amax v S : Nat) : Nat × FlagWord × Nat :=
  let xs := elemVals .f32 v
  let am := xs.foldl amaxStep amax
  match fpF32.value (S % 2 ^ 32) with
  | .fin false m e =>
    if m == 0 then (0, flInvalid, am)
    else
      let sm : Mag := { n := m, e := e }
      match df with
      | .e2m1b =>
        let (bs, es, fl) := quantAll fine sm 2 xs
        (packElems .e2m1b bs es, fl, am)
      | _ =>
        let r := xs.map fun x => match x with
          | .fin neg n' e' => convFin df .rne true neg (Mag.div { n := n', e := e' } sm)
          | y => conv df .rne true y
        (packElems df [] (r.map (·.1)), r.foldl (fun a x => a ||| x.2) 0, am)
  | _ => (0, flInvalid, am)

/-- `vdeq` (R66). -/
def vdeq (sf : Fmt) (rm : Rm) (v S : Nat) : Nat × FlagWord :=
  let s := fpF32.value (S % 2 ^ 32)
  let r := ((elemVals sf v).take 16).map fun x => fpMul fpF32 rm x s
  (packElems .f32 [] (r.map (·.1)), r.foldl (fun a x => a ||| x.2) 0)

/-! ## Accumulators (R59 to R62) -/

/-- Add an exact product to an X-mode accumulator, modulo 2^96 (R60). -/
def xAdd (a : BitVec 96) (neg : Bool) (m : Nat) (e : Int) : BitVec 96 :=
  -- the product is an integer multiple of 2^−48
  let k := if 0 ≤ e + 48 then m * 2 ^ (e + 48).toNat else m / 2 ^ (-(e + 48)).toNat
  if neg then a - BitVec.ofNat 96 k else a + BitVec.ofNat 96 k

/-- FP64 addition and subtraction under RNE, without flags (R61). -/
def add64 (a b : Nat) : Nat := (fpAdd fpF64 .rne (fpF64.value a) (fpF64.value b)).1
def sub64 (a b : Nat) : Nat := (fpAdd fpF64 .rne (fpF64.value a) (negNum (fpF64.value b))).1
def finite64 (a : Nat) : Bool := a % 2 ^ 63 ≤ fpF64.top

/-- `kadd` (R61) on the code p of a product: the new accumulator, and whether s or e overflowed to an infinity (R257). -/
def kAdd (acc : BitVec 96) (p : Nat) : BitVec 96 × Bool :=
  let s := acc.toNat / 2 ^ 32
  let e := acc.toNat % 2 ^ 32
  let t := add64 s p
  if !finite64 t then
    let ovf := finite64 s && finite64 p && (match fpF64.value t with | .inf _ => true | _ => false)
    (BitVec.ofNat 96 (t * 2 ^ 32), ovf)
  else
    let bv := sub64 t s
    let av := sub64 t bv
    let db := sub64 p bv
    let da := sub64 s av
    let d := add64 da db
    let r := fpAdd fpF32 .rne (fpF32.value e) (fpF64.value d)
    (BitVec.ofNat 96 (t * 2 ^ 32 + r.1), (r.2 &&& flOverflow) != 0)

/-- Enter one product in K mode (R257): accumulator and tile flags. A NaN of infinities that cancel raises none (assumption 83). -/
def kEnter (acc : BitVec 96) (a b : Num) : BitVec 96 × FlagWord :=
  match mulNum a b with
  | none | some (.nan _) =>
    ((kAdd acc fpF64.cnan).1, flInvalid)
  | some (.inf n) => let r := kAdd acc (fpF64.signed n 0x7FF0000000000000)
    (r.1, flagIf r.2 flOverflow)
  | some (.fin n m e) => let r := kAdd acc (fpF64.deliver .rne false n { n := m, e := e }).1
    (r.1, flagIf r.2 flOverflow)

/-- Enter one product in X mode (R60, R257). -/
def xEnter (acc : BitVec 96) (a b : Num) : BitVec 96 × FlagWord :=
  match a, b with
  | .fin n1 m1 e1, .fin n2 m2 e2 => (xAdd acc (n1 != n2) (m1 * m2) (e1 + e2), 0)
  | _, _ => (acc, flInvalid)

/-- An element entering a tile by `tld` (R276). -/
def tileEntry (modeK : Bool) (x : Num) : BitVec 96 × FlagWord :=
  if modeK then
    let s := match x with
      | .nan _ => fpF64.cnan
      | .inf n => fpF64.signed n 0x7FF0000000000000
      | .fin n m e => (fpF64.deliver .rne false n { n := m, e := e }).1
    (BitVec.ofNat 96 (s * 2 ^ 32), flagIf (isSig x) flInvalid)
  else match x with
    | .fin n m e =>
      let nd := Mag.over { n := m, e := e } (-48)
      let (k, ex) := roundInt .rne n nd.1 nd.2
      (if n then 0 - BitVec.ofNat 96 k else BitVec.ofNat 96 k, flagIf (!ex) flInexact)
    | _ => (0, flInvalid)

/-- The exact value inside the rounding of R62: for X mode with two band scales (bf16 codes) and two E8M0 bytes; a zero sum of K mode has
the sign of R125, and an X-mode product of an accumulator 0 the sign that its factors' signs give, which R62 leaves open (assumption 23). -/
def readoutVal (modeK : Bool) (rm : Rm) (acc : BitVec 96) (sa sb bandA bandB : Nat) : Num :=
  if modeK then
    let s := fpF64.value (acc.toNat / 2 ^ 32)
    let e := fpF32.value (acc.toNat % 2 ^ 32)
    match s, e with
    | .fin n1 m1 e1, .fin n2 m2 e2 =>
      let (n, m, x) := addFin n1 m1 e1 n2 m2 e2
      if m == 0 then .fin (if m1 == 0 && m2 == 0 then zeroSign rm n1 n2 else rm == .rdn) 0 0 else .fin n m x
    | .fin _ _ _, y => y
    | x, _ => x
  else
    let v := acc.toInt
    let x : Num := .fin (decide (v < 0)) v.natAbs ((-48 : Int) + (sa : Int) - 127 + ((sb : Int) - 127))
    match mulNum x (fpBf16.value bandA) with
    | none => .nan true
    | some y => match mulNum y (fpBf16.value bandB) with
      | none => .nan true
      | some z => z

/-- Readout of one element into a format that is not e2m1b (R62). -/
def readout (f : Fmt) (rm : Rm) (x : Num) : Nat × FlagWord := conv f rm (f == .e4m3) x

end Sys2Proof.Machine
end

