-- ==== Sys2Proof/Machine/State.lean ====
section
/-! DEFINITION. The state of the module, the reasons a step can stop, and the state after reset. Everything is plain data.
Units of which there are many (cores, clusters) are kept in association lists whose absent keys stand for the unit's
state at reset. -/

namespace Sys2Proof.Machine

/-- Reasons the machine stops. -/
inductive Fault where
  /-- Raised by the meaning of an instruction word when `cur` names no slot with a resident strand. The step function sets
  `cur` to the slot whose turn it is, so no step raises it. Safe: the machine stops where the hardware issues nothing. -/
  | noIssuer
deriving DecidableEq, Repr

/-- Reasons the model has no meaning. -/
inductive Refusal where
  /-- Raised by `exec` for an instruction that has no meaning yet. Safe: the machine stops. -/
  | notModelled (mnemonic : String)
deriving DecidableEq, Repr

/-! ## Memory -/

/-- Memory: address and byte pairs, addresses strictly rising, no listed byte 0; an unlisted address reads 0 (R184; for the
annex assumption 4). Keys: physical addresses for the stacks and the annex (R236), the model's own keys for the W and A
buffers and the reading rooms (assumption 3). -/
abbrev Memory := List Host.Cell

/-- The canonical form. -/
def Memory.wf : Memory → Bool
  | [] => true
  | [c] => c.2 != 0
  | c :: d :: r => c.2 != 0 && decide (c.1 < d.1) && Memory.wf (d :: r)

/-! ## Ports -/

/-- Who feeds a port queue (R163): a role of the gathering, or the partner slot of a declared pair. -/
inductive QSrc where
  | role (r : Nat) | qa | qc
deriving DecidableEq, Repr

/-- A port queue: the receiving strand's gathering, role and lane, and the feeder (R163). -/
structure QId where
  vol  : Nat
  gidx : Nat
  role : Nat
  lane : Nat
  src  : QSrc
deriving DecidableEq, Repr

/-- A word in a port queue, with the frame it arrived in (R164). -/
structure PortWord where
  q     : QId
  val   : Word
  frame : Nat
deriving DecidableEq, Repr

/-- An inbox message (R172). Lane 0 to 62, or 255; slot 63's own messages have volume 0 and lane 63. -/
structure InMsg where
  vol   : Nat
  lane  : Nat
  src   : Nat
  from_ : Nat
  frame : Nat
  word  : Word
  /-- an engine's message that was held until an entry freed: no later message of its lane passes it (R174) -/
  held  : Bool := false
deriving DecidableEq, Repr

/-! ## Outstanding operations of a strand (R72 to R76, R80) -/

/-- Where a result lands. -/
inductive Dest where
  /-- an acknowledgement only -/
  | none
  /-- `z`: the result is discarded (R74) -/
  | z
  | g (n : Nat)
  | v (n : Nat)
  | p (n : Nat)
  /-- a segment register (R244) -/
  | s (n : Nat)
  /-- a write port named by a long-latency instruction, its register number (R28) and queue: the word is pushed at landing
  (assumption 11) -/
  | push (port : Nat) (q : QId)
deriving DecidableEq, Repr

/-- What an operation counts as under R75. -/
inductive OpClass where
  | ordered | relaxed | other
deriving DecidableEq, Repr

/-- Progress of an operation: sent, done at its memory or unit with the result on its way, or held at the core. -/
inductive Stage where
  | sent | done | held
deriving DecidableEq, Repr

/-- A fault found by an access or an instruction: class and code (R397, R401), the fault record's argument, access kind and
log2 of the access size (R402). -/
structure FaultInfo where
  cls    : Nat
  code   : Nat
  arg    : Nat := 0
  access : Nat := 0
  size   : Nat := 0
deriving DecidableEq, Repr

/-- An operation from its issue until its result lands. -/
structure Op where
  id    : Nat
  pc    : Nat
  word  : Word
  seq   : Nat
  dest  : Dest
  /-- bit j: doubleword j of the destination was written by a later instruction (R74, R142) -/
  sup   : BitVec 8 := 0
  cls   : OpClass := .other
  acq   : Bool := false
  /-- an access of memory, for R196 and R219 -/
  access : Bool := false
  /-- the pop of a read port: counts under R75 until it lands (R166) -/
  pop   : Bool := false
  stage : Stage := .sent
  val   : Vec := 0
  flags : BitVec 7 := 0
  fault : Option FaultInfo := none
deriving DecidableEq, Repr

/-! ## Strands -/

/-- What a parked strand waits for. -/
inductive Park where
  /-- outstanding results, at a switch point (R73) -/
  | results
  /-- earlier accesses and engine requests, and for device scope earlier remote stores (R196, R201) -/
  | remote
  | credit (q : QId)
  | queue (q : QId)
  | anyQueue
  | inbox
  | collate (n : Nat)
  | bara (b : Nat)
  | barw (b : Nat)
  /-- the operation itself: a blocking instruction (R188, R244) -/
  | op (id : Nat)
  /-- tasks pending on tiles of the core (R273), by mask -/
  | tiles (mask : Nat)
  /-- sparse tasks pending on a stream register (R281) -/
  | stream (m : Nat)
  | tlbsync
  | svc (id : Nat)
  /-- a retired strand (R374) -/
  | retired
  /-- the collation group's other members, or its leader (R149) -/
  | group
deriving DecidableEq, Repr

/-- What the strand is doing. -/
inductive Run where
  | ready
  | parked (p : Park)
  /-- `wait`: rounds still due (R101) -/
  | waiting (left : Nat)
  /-- a class-1 halt whose outstanding operations have not all returned (R399) -/
  | halting (f : FaultInfo) (word : Word)
  /-- halted in its slot (R40) -/
  | halted
  /-- a fault found at issue whose outstanding operations have not all returned (R400) -/
  | faulting (f : FaultInfo) (word : Word)
deriving DecidableEq, Repr

/-- What a group's leader decides for a word: its predicate word, the pc after the word, the count of a `wait` (R150). -/
structure Decision where
  pred : BitVec 16
  pc   : Nat
  w    : Word
deriving DecidableEq, Repr

/-- A strand resident in a slot. -/
structure Strand where
  uid    : Nat
  vol    : Nat := 0
  gidx   : Nat := 0
  free   : Bool := false
  lane   : Nat := 0
  role   : Nat := 0
  prio   : Nat := 0
  home   : Nat := 0
  /-- VAs of the slip, the segment table and the save area, and the hold's name (R78) -/
  slip   : Nat := 0
  segt   : Nat := 0
  save   : Nat := 0
  holdp  : Nat := 0
  wgr    : Nat := 0
  gran   : List Nat := []
  pc     : Nat := 0
  regs   : List Word
  pred   : BitVec 16 := 1
  fflg   : BitVec 7 := 0
  rmod   : BitVec 2 := 0
  tgt    : Byte := 0
  dst    : BitVec 3 := 0
  dsa    : BitVec 48 := 0
  amax   : BitVec 32 := 0
  cnt    : Nat := 0
  sregs  : List Desc
  /-- index of the accession that s0 describes (R328) -/
  acc    : Option Nat := none
  ops    : List Op := []
  run    : Run := .ready
  /-- steps of the current instruction already taken: 1 when its request is out (R188), 2 when it has parked (R275); 3 in a `wait` while
  accesses are performed again (R400) -/
  prog   : Nat := 0
  /-- it has parked at a switch point that it has still to pass, at its pc (R73, R75, R76) -/
  atSwitch : Bool := false
  /-- collation width and member index (R110), and the group's id -/
  colW   : Nat := 1
  colI   : Nat := 0
  group  : Nat := 0
  /-- words of the group this member has issued (R149) -/
  colN   : Nat := 0
  /-- the count that the group's last `wait` used, at its leader (R150) -/
  colV   : Word := 0
  /-- collation has ended at another member: words of the group after which this one goes on alone (R152) -/
  colEnd : Option Nat := none
  /-- of such a member: its leader's decision on the word it has still to issue (R150) -/
  lead   : Option Decision := none
  /-- of such a member: a word of the group that its leader, which has left, had: its number and the word (R149) -/
  gword  : Option (Nat × Word) := none
  /-- the instruction word of its last turn -/
  ir     : Word := 0
  /-- VA of the faulter's slip, for an upcall (R241) -/
  faulter : Option Nat := none
  /-- half registers whose parity fails: 2n the low half of register n, 2n + 1 its high half (R106) -/
  bad    : List Nat := []
  /-- window granules that have a duplicate: granule of the window, free granule of the file (R106) -/
  dups   : List (Nat × Nat) := []
  /-- registers with a failing half that have been found without a good duplicate (R107, R108) -/
  noDup  : List Nat := []
  predBad : Bool := false
  sregBad : List Nat := []
  /-- the strand's last issued `tlbi` ids not known to have taken effect (R248) -/
  tlbis  : List Nat := []
deriving DecidableEq, Repr

/-! ## Accesses in flight -/

/-- A place an access names: a key of a buffer or room, or a VA of a volume. -/
inductive Loc where
  | buf (key : Nat)
  | va (vol a : Nat)
deriving DecidableEq, Repr

/-- What an access does at its bank. -/
inductive AccKind where
  | ld (signed : Bool) | st
  | ldf | lde | stf | stfe | clrf
  | amo (op : AmoOp) | cas | amof (op : AmofOp)
  | swarm | swadd | swwait | swrd
  | vld | vst | vldf (f : Fmt) (rm : Rm) | vstf | vldx | vstx
  | segld (n : Fin 8) | segst
  | kabs
  /-- the block of a `tcfg` in a remote window (R274, R393): its mask -/
  | tcfg (mask : BitVec 16)
deriving DecidableEq, Repr

/-- One transaction of an access: place, bytes, the data of a store, and once translated the key of the memory. -/
structure Part where
  loc  : Loc
  n    : Nat
  data : Word := 0
  key  : Option Nat := none
  /-- K page of a translated place: its PA and log2 of its size (R298) -/
  kpage : Option (Nat × Nat) := none
  /-- remote page: peer index and offset in the peer's region (R236) -/
  far  : Option (Nat × Nat) := none
deriving DecidableEq, Repr

/-- A running `kabs` (R303): key of the slot, channels, element bytes, tokens read, folded and shadow pairs. -/
structure Kabs where
  slot : Nat
  chan : Nat
  w    : Nat
  t    : Nat := 0
  lo   : List Nat := []
  hi   : List Nat := []
  slo  : List Nat := []
  shi  : List Nat := []
deriving DecidableEq, Repr

/-- An access issued by a strand and not yet performed whole. -/
structure Flight where
  id    : Nat
  uid   : Nat
  core  : Nat
  slot  : Nat
  vol   : Nat
  gidx  : Nat
  lane  : Nat
  bound : Bool
  kind  : AccKind
  parts : List Part
  b     : Word := 0
  c     : Word := 0
  /-- parts performed, and the value they gave -/
  k     : Nat := 0
  acc   : Vec := 0
  /-- translation epoch at the access's translation (R247) -/
  epoch : Option Nat := none
  /-- in its word's wait list (R185): its ticket -/
  joined : Option Nat := none
  /-- on the overflow list since this frame (R186) -/
  spill : Option Nat := none
  /-- the request of the next part has gone to the peer (R393) -/
  out   : Bool := false
  kab   : Option Kabs := none
  /-- ended in a fault that its strand has not taken yet, or stands behind such an access; kept to be performed again (R76) -/
  failed : Bool := false
deriving DecidableEq, Repr

/-! ## Engine requests and operations -/

/-- The strand that issued a request, as the engine knows it: its segment registers as they stood at issue (R285). -/
structure Issuer where
  uid   : Nat
  core  : Nat
  slot  : Nat
  vol   : Nat
  gidx  : Nat
  lane  : Nat
  free  : Bool
  sregs : List Desc
deriving DecidableEq, Repr

/-- Kinds of engine request. -/
inductive ReqKind where
  | cpy | cpyRp | gath | scat | cmpct | dcpy
  | ksel | kgath | emb | spec | tenq
  | nsend | nread | nwrite | nrecv
  | launch
deriving DecidableEq, Repr

/-- A remote piece that an engine reads or writes through the network engine (R236, R393): its name, peer, offset, bytes, a
write's data; its retransmissions; and once settled the bytes read, or none for a failure. -/
structure FarAcc where
  tag   : Nat := 0
  peer  : Nat
  off   : Nat
  n     : Nat
  data  : Option Nat := none
  tries : Nat := 0
  res   : Option (Option Nat) := none
  /-- not sent yet: an earlier write of the same bytes is not settled (R287), or the network engine or port has not reported (R416) -/
  held  : Bool := false
deriving DecidableEq, Repr

/-- A request that has not been accepted: pointer operands, IMM16, and for `dcpy` the pattern register (R291). -/
structure Req where
  id   : Nat
  iss  : Issuer
  kind : ReqKind
  a    : Word
  b    : Option Word := none
  imm  : Nat := 0
  pat  : Word × Word := (0, 0)
  /-- the clock at which it reached its engine: none until every earlier access of its strand has completed (R219, assumption 88) -/
  at_  : Option Nat := none
  /-- what has been asked of peers, for a record on a remote page (R236) -/
  far  : List FarAcc := []
  /-- stands behind an access of its strand that failed; kept to be performed again (R76, R219) -/
  failed : Bool := false
deriving DecidableEq, Repr

/-- A copy operation (R284 to R293). For a replay, `window` is the window's extent offset and `bitmap` its sectors. -/
structure CopyOp where
  id     : Nat
  iss    : Issuer
  kind   : ReqKind
  ptr    : Word
  /-- the pointer that errata records carry (R292, R293) -/
  errPtr : Word
  dws    : List Word
  sync   : Option Word
  pat    : Word × Word := (0, 0)
  started : Bool := false
  chunk  : Nat := 0
  placed : Nat := 0
  /-- `cmpct`: rows kept so far -/
  kept   : Nat := 0
  /-- marked sectors: sector, code, offset of the first failing access -/
  marks  : List (Nat × Nat × Nat) := []
  /-- bytes placed by window -/
  winBytes : List (Nat × Nat) := []
  /-- SYNC and COUNT faults: extent offset, code, offset of the failing access -/
  extra  : List (Nat × Nat × Nat) := []
  window : Option Nat := none
  bitmap : Word := 0
  /-- cores whose W or A buffers it reads or writes; the shelf list of its issuer's gathering at acceptance (R291) -/
  cores  : List Nat := []
  shelf  : List Nat := []
  /-- remote pieces of the current chunk; once its writes are out, which sector and offset each written piece belongs to, and
  the bytes that each sector has written -/
  far    : List FarAcc := []
  wait   : List (Nat × Nat) := []
  sent   : Option (List (Nat × Nat)) := none
  /-- `cmpct`: its count word is on its way to a peer; once settled, whether it has been written (R289, R393) -/
  counting : Bool := false
  count  : Option Bool := none
deriving DecidableEq, Repr

/-- A part of a tile task. -/
inductive PartState where
  | waiting | started | ended (status : Nat)
deriving DecidableEq, Repr

/-- A tile-task record in the bindery (R259 to R266): room offset of the record, its doublewords, the cores of its parts. -/
structure Task where
  id    : Nat
  req   : Nat
  iss   : Issuer
  addr  : Nat
  dws   : List Word
  cores : List Nat
  /-- dependence met (R265: checked once) -/
  met   : Bool := false
  parts : List PartState
deriving DecidableEq, Repr

/-- A selection-unit operation (R305 to R313). -/
structure SelOp where
  id    : Nat
  iss   : Issuer
  kind  : ReqKind
  ptr   : Word
  dws   : List Word
  sync  : Option Word
  note  : Bool
  /-- `kgath`: next entry; entries moved; header read -/
  e     : Nat := 0
  moved : Nat := 0
  hdr   : Option Nat := none
  errata : Bool := false
  /-- `ksel`: the query's codes, once read; bounds found (descriptor, bound, VA), and descriptors excluded (descriptor, code, VA) -/
  qry   : Option (List Nat) := none
  good  : List (Nat × Nat × Nat) := []
  bad   : List (Nat × Nat × Nat) := []
deriving DecidableEq, Repr

/-- An annex pooling operation (R319 to R325). -/
structure BagOp where
  id    : Nat
  iss   : Issuer
  ptr   : Word
  dws   : List Word
  sync  : Option Word
  note  : Bool
  offs  : List Nat
  started : Bool := false
  /-- partials delivered: (bag, chip, f32 codes) -/
  partials : List (Nat × Nat × List Nat) := []
  /-- faulted bags: (bag, code, index position, VA) -/
  bad   : List (Nat × Nat × Nat × Nat) := []
  bag   : Nat := 0
  written : Nat := 0
  flags : BitVec 7 := 0
  errata : Bool := false
deriving DecidableEq, Repr

/-- A redactor operation (R337 to R345): source index, early values, and the accepted block. -/
structure SpecOp where
  id    : Nat
  iss   : Issuer
  ptr   : Word
  tag   : Nat
  dws   : List Word
  early : List Word
  src   : Nat
  /-- the entry it has taken, PENDING until the publication (R326, R345): index, generation, base, and doubleword 7 of the block -/
  taken : Option (Nat × Nat × Nat × Nat) := none
deriving DecidableEq, Repr

/-! ## Cores -/

/-- A tile slot (R252, R253). -/
structure Tile where
  conf  : Bool := false
  vol   : Nat := 0
  gidx  : Nat := 0
  lane  : Nat := 0
  modeK : Bool := false
  rho   : Nat := 0
  kappa : Nat := 0
  base  : Nat := 0
  latch : Option (List Nat) := none
  flags : BitVec 7 := 0
  halted : Bool := false
deriving DecidableEq, Repr

/-- A stream register (R269). -/
structure Stream where
  base : Nat := 0
  len  : Nat := 0
  pos  : Nat := 0
  res  : Nat := 0
deriving DecidableEq, Repr

/-- A direct tile operation not yet performed (R276, R277, R279). -/
inductive TileAct where
  | tld (f : Fmt) (a b : Word)
  | tst (f : Fmt) (rm : Rm) (a b : Word)
  | tget (err : Bool) (i : Nat)
  | tset (err : Bool) (i : Nat) (v : Word)
  | mmar (f : Fmt) (a b : List Word)
deriving DecidableEq, Repr

structure TileOp where
  id   : Nat
  iss  : Issuer
  tile : Nat
  act  : TileAct
  /-- as a request's -/
  failed : Bool := false
deriving DecidableEq, Repr

/-- A live hold word (R365): volume, count, and the NEW slips bound to it in spawn order. -/
structure Hold where
  idx   : Nat
  vol   : Nat
  count : Nat
  slips : List Nat := []
deriving DecidableEq, Repr

/-- Pre-emption of a core (R363). -/
inductive Preempt where
  | none
  /-- asked for by this core's slot 63, or by none (host, curator); saves not done -/
  | saving (by_ : Option Nat)
  | out
  | resuming (by_ : Option Nat)
deriving DecidableEq, Repr

/-- An arrival recorded in the returns queue (R176). -/
inductive Returned where
  | word (w : PortWord)
  | msg (m : InMsg)
deriving DecidableEq, Repr

/-- A strand saved by pre-emption, with its slot: a slip, or an upcall kept whole in its frame (R88, R242). -/
inductive SavedSlot where
  | slip (slot vol pa : Nat)
  | frame (slot : Nat) (st : Strand)
deriving DecidableEq, Repr

/-- The carrel and stream registers saved by pre-emption (R363): bytes of W and A, words with F = 0, accumulators, tiles,
streams. -/
structure Carrel where
  bytes : Memory := []
  empty : List Nat := []
  acc   : List (Nat × BitVec 96) := []
  tiles : List Tile := []
  streams : List Stream := []
deriving DecidableEq, Repr

/-- What is held on a core for the gathering for which its cluster is reserved, once it is free (R357): the user slots, granules and buffer
regions that were in use when the cluster was reserved or have been taken since. -/
structure Closed where
  slots : List Nat := []
  gran  : List Nat := []
  w     : List (Nat × Nat) := []
  a     : List (Nat × Nat) := []
deriving DecidableEq, Repr

structure Core where
  /-- run lists by priority 0 to 7: volume and slip PA (R83) -/
  runs    : List (List (Nat × Nat)) := List.replicate 8 []
  words   : List PortWord := []
  inbox   : List InMsg := []
  pat     : Word × Word := (0, 0)
  streams : List Stream := List.replicate 4 {}
  tiles   : List Tile := List.replicate 16 {}
  cbuf    : List (Nat × BitVec 96) := []
  tileOps : List TileOp := []
  holds   : List Hold := []
  gens    : List (Nat × Nat) := []
  freeHolds : List Nat := List.range 1024
  deques  : List (Nat × Word) := []
  /-- instruction cache: VA and word, by volume -/
  icache  : List (Nat × Nat × Word) := []
  corrected : Nat := 0
  pre     : Preempt := .none
  saved   : List SavedSlot := []
  /-- gatherings pre-empted on this core -/
  outG    : List (Nat × Nat) := []
  carrel  : Carrel := {}
  returns : List Returned := []
  /-- halt blocks (R399): slot and the eight doublewords of the fault record -/
  halts   : List (Nat × List Word) := []
  /-- the supervisor program has been started (R71, R416) -/
  supReady : Bool := false
  closed  : Closed := {}
deriving DecidableEq, Repr

/-! ## Clusters -/

/-- A leaf held by a translation cache (R237): volume, VA of the page, log2 of its size, and the leaf entry. -/
structure TlbEntry where
  vol   : Nat
  page  : Nat
  bits  : Nat
  leaf  : Word
deriving DecidableEq, Repr

/-- Who waits for a page (R250): the requester's core and lane, where its result word is, or the service call it is. -/
structure PageWaiter where
  core : Nat
  lane : Nat
  res  : Option Loc
  svc  : Option Nat
deriving DecidableEq, Repr

structure PageReq where
  id      : Nat
  vol     : Nat
  page    : Nat
  waiters : List PageWaiter
  forwarded : Bool := false
  /-- issuer's core, slot and gathering, for the errata header (R404) -/
  core : Nat := 0
  slot : Nat := 0
  gidx : Nat := 0
deriving DecidableEq, Repr

/-- A service call (R408): the operation it answers, the service number, the VAs of its blocks. -/
structure SvcCall where
  id   : Nat
  uid  : Nat
  core : Nat
  slot : Nat
  vol  : Nat
  n    : Nat
  arg  : Nat
  res  : Option Nat
  /-- a block in a remote window: the read of the argument, the version then, the write of the result and its status (R393, R409) -/
  rd    : Option FarAcc := none
  ver   : BitVec 32 := 0
  wr    : Option FarAcc := none
  st    : Nat := 0
  /-- the curator has read the blocks -/
  taken : Bool := false
  /-- waits for the page of service 3 -/
  waits : Bool := false
deriving DecidableEq, Repr

/-- Who misses in a translation cache: an access, or the fetch of a strand's next word. -/
inductive Misser where
  | access (flight : Nat)
  | fetch (core slot : Nat)
deriving DecidableEq, Repr

/-- A walk in progress (R233, R238): the address, how many levels are left, the table of the next one and the page size it is
under, and who waits for the leaf. -/
structure WalkRun where
  id    : Nat
  vol   : Nat
  va    : Nat
  fuel  : Nat
  table : Nat
  p     : Nat := 0
  for_  : List Misser
deriving DecidableEq, Repr

structure Cluster where
  tlb     : List TlbEntry := []
  epoch   : Nat := 0
  /-- walks in progress, and misses that wait for one of the 64 walkers, in arrival order (R238) -/
  walks   : List WalkRun := []
  misses  : List (Misser × Nat × Nat) := []
  reqs    : List Req := []
  copies  : List CopyOp := []
  tasks   : List Task := []
  sels    : List SelOp := []
  bags    : List BagOp := []
  specs   : List SpecOp := []
  pages   : List PageReq := []
  svcs    : List SvcCall := []
  ver     : BitVec 32 := 0
  /-- firmware switch in progress: the new version, and the call that waits for it -/
  switch  : Option (BitVec 32) := none
deriving DecidableEq, Repr

/-! ## The circulation unit -/

/-- An accession-table entry (R326): 0 FREE, 1 LIVE, 2 PENDING. -/
structure Entry where
  gen   : Nat := 0
  state : Nat := 0
  base  : Nat := 0
  refs  : Nat := 0
  exec  : Nat := 0
  sgen  : Nat := 0
  sidx  : Nat := 0
  size  : Nat := 0
deriving DecidableEq, Repr

/-- An address space (R233, R353): root of the page table, code arena, accession table. -/
structure Space where
  id    : Nat
  root  : Option Nat := none
  arena : Option (Nat × Nat) := none
  table : List (Nat × Entry) := []
deriving DecidableEq, Repr

/-- An admitted volume (R353, R354). -/
structure Volume where
  id     : Nat
  space  : Nat
  rec_   : List Word
  /-- the volume whose strand launched it, and the sync word its end reports to -/
  parent : Option Nat := none
  sync   : Option Loc := none
  /-- next gathering index to place; failed attempts; cluster reserved for it (R357) -/
  next   : Nat := 0
  tries  : Nat := 0
  reserved : Option Nat := none
  /-- gatherings ended -/
  ended  : Nat := 0
  /-- slips of the pool that are not DONE: their PAs -/
  pool   : List Nat := []
  /-- live handler tasks: slip PAs (R400) -/
  handlers : List Nat := []
deriving DecidableEq, Repr

/-- The state of one bound strand of a gathering: present, or gone by `stop`, `kill` or `retire`. -/
inductive MemberSt where
  | live | gone | retired
deriving DecidableEq, Repr

structure Member where
  role : Nat
  lane : Nat
  slot : Nat
  slip : Nat
  st   : MemberSt := .live
  /-- arrivals at each barrier, and those that the barrier unit has counted (R364) -/
  arr  : List Nat := []
  seen : List Nat := []
deriving DecidableEq, Repr

/-- A placed gathering: shelf list (cores by role), members, barriers, regions (byte offsets), retirement. -/
structure Gathering where
  vol     : Nat
  gidx    : Nat
  cluster : Nat
  cores   : List Nat
  members : List Member
  /-- shape and carrel doublewords (R350) -/
  shape   : Word
  carrel  : Word
  /-- completed phases of each barrier -/
  phases  : List Nat
  /-- start of the W and A regions on each core, and of the room region -/
  wOff    : List Nat
  aOff    : List Nat
  roomOff : Nat
  /-- credits spent, by queue (R163) -/
  spent   : List (QId × Nat) := []
  /-- a strand has retired, whatever has become of it since; the successor value of the first `retire` (R374) and its bequest block -/
  retires : Bool := false
  succ    : Option Word := none
  block   : List Word := []
deriving DecidableEq, Repr

/-- A word in a write-set filter (R193). -/
structure FilterWord where
  bank : Nat
  vol  : Nat
  gidx : Nat
  word : Nat
  core : Nat
  lane : Nat
deriving DecidableEq, Repr

/-- What the device must still know of an entry of a pending block: it is a pop (R166), which doublewords of a vector were
written by later instructions (R142), the queue of a write port. -/
structure HeldNote where
  pop   : Bool := false
  sup   : BitVec 8 := 0
  queue : Option QId := none
deriving DecidableEq, Repr

/-- What is performed again for an operation whose strand resumes (R76, R398): its access, its engine request, its tile
operation; or nothing, where its fault is still to be delivered. -/
inductive Again where
  | nothing
  | flight (f : Flight)
  | req (r : Req)
  | tile (o : TileOp)
deriving DecidableEq, Repr

/-- What the device keeps beside a saved slip: what it was parked on, one more than the rounds of a `wait` still to pass (0 outside a
`wait`), operations to perform again on resumption (R76, R82, R101). -/
structure Aside where
  vol   : Nat
  pa    : Nat
  uid   : Nat := 0
  park  : Option Park := none
  /-- the pc of a switch point that it has still to pass (R76) -/
  sw    : Option Nat := none
  left  : Nat := 0
  redo  : List (Op × Again) := []
  /-- one for each entry of the pending block -/
  notes : List HeldNote := []
  /-- the core it ran on last, and its slot there -/
  core  : Option Nat := none
  slot  : Nat := 0
  acc   : Option Nat := none
  faulter : Option Nat := none
deriving DecidableEq, Repr

/-- What one member gave to a spanning instruction (R150): index in the group, its operation (none where its predicate was
false), sources. -/
structure SpanPart where
  idx  : Nat
  uid  : Nat
  op   : Option Nat
  a    : Vec
  b    : Vec
deriving DecidableEq, Repr

/-- A spanning instruction that not every member has issued: group, word number, the instruction, the parts. -/
structure Span where
  group : Nat
  n     : Nat
  instr : Instr
  parts : List SpanPart
deriving DecidableEq, Repr

structure Circ where
  volumes   : List Volume := []
  gatherings : List Gathering := []
  spaces    : List Space := []
  /-- the address space of a volume that has ended, while work requests of it go on (R391) -/
  ghosts    : List (Nat × Nat) := []
  reqs      : List Req := []
  /-- strand areas in use: volume and PA (R359) -/
  areas     : List (Nat × Nat) := []
  /-- entries of slip pools whose strand has ended; they stay mapped (R359) -/
  spare     : List (Nat × Nat) := []
  asides    : List Aside := []
  filters   : List FilterWord := []
  /-- inbox reservations that outlast their gatherings: core and volume (R174) -/
  lasting   : List (Nat × Nat) := []
  spans     : List Span := []
deriving DecidableEq, Repr

/-! ## The register network -/

/-- What a message carries (R162). -/
inductive MsgKind where
  | word (q : QId) (v : Word)
  | credit (q : QId)
  | post (vol lane : Nat) (byRole : Bool) (word : Word) (gidx : Nat) (bad : Nat) (op : Nat)
  | bar (vol gidx role lane b : Nat)
  | dec (vol gen idx amount : Nat) (bindery : Bool) (gidx : Nat) (handle : Word)
  | steal (vol op : Nat)
  | preempt (op : Nat)
  | resume (op : Nat)
  /-- a status or result on its way back -/
  | reply (op : Nat)
deriving DecidableEq, Repr

/-- A message in flight: available at core `dst` from frame `due`; sent by `core`, `slot`. -/
structure Msg where
  id   : Nat
  due  : Nat
  dst  : Nat
  core : Nat
  slot : Nat
  kind : MsgKind
deriving DecidableEq, Repr

/-- An engine's message that has not been delivered to an inbox (R174). -/
structure EngMsg where
  id   : Nat
  core : Nat
  lane : Nat
  vol  : Nat
  src  : Nat
  word : Word
  /-- of a copy operation: its strand and its record's pointer (R297) -/
  uid  : Nat := 0
  ptr  : Word := 0
  /-- it has found its inbox full (R174) -/
  held : Bool := false
deriving DecidableEq, Repr

/-- A fault or pre-emption message for slot 63 of a core, or with no core for a cluster's curator (R41, R174, R363). -/
structure SupMsg where
  id   : Nat
  dst  : Option Nat
  from_ : Nat
  src  : Nat
  word : Word
deriving DecidableEq, Repr

structure Fabric where
  msgs    : List Msg := []
  eng     : List EngMsg := []
  sup     : List SupMsg := []
  /-- messages that reached a curator -/
  curator : List SupMsg := []
deriving DecidableEq, Repr

/-! ## The network engine -/

structure Peer where
  /-- the peer's address, and the keys it has issued -/
  addr   : Nat := 0
  issued : List (BitVec 32) := []
  valid  : Bool := false
  state  : BitVec 2 := 0
  pay    : BitVec 4 := 0
  vol    : Nat := 0
  depth  : Nat := 0
  port   : Nat := 0
  window : BitVec 32 := 0
deriving DecidableEq, Repr

/-- A work request (R384 to R390). -/
structure WorkReq where
  id     : Nat
  iss    : Issuer
  kind   : ReqKind
  ptr    : Word
  dws    : List Word
  note   : Bool
  peer   : Nat
  pay    : Nat
  /-- message number of a send or a receive (R386) -/
  msg    : Nat := 0
  /-- earlier work requests it waits for (F = 1) -/
  after  : List Nat := []
  started : Bool := false
  /-- packets acknowledged, or placed for a receive or a read -/
  got    : List Nat := []
  /-- length of the message matched to a receive -/
  len    : Option Nat := none
  placed : Nat := 0
  /-- retransmissions of each packet -/
  tries  : List (Nat × Nat) := []
  /-- of a volume with the determinism flag; arrivals that are held: offset and bytes (R391) -/
  det    : Bool := false
  held   : List (Nat × Nat) := []
deriving DecidableEq, Repr

/-- A remote access or remote store in flight (R393): the flight, its strand, the peer, bytes. -/
structure Far where
  flight : Nat
  part   : Nat
  uid    : Nat
  peer   : Nat
  /-- the offset in the peer's region -/
  off    : Nat := 0
  write  : Bool
  tries  : Nat := 0
  /-- the strand's gathering (R376) -/
  vol    : Nat := 0
  gidx   : Nat := 0
  /-- the access's own instruction, its address and size (R76) -/
  pc     : Nat := 0
  word   : Word := 0
  seq    : Nat := 0
  va     : Nat := 0
  n      : Nat := 0
  access : Nat := 0
  /-- the access itself, to be performed again where it fails (R76) -/
  again  : List Flight := []
deriving DecidableEq, Repr

/-- What the device sends out. A reply and a report begin with the four doublewords of their header (R394, R415). -/
inductive OutMsg where
  | packet (peer port : Nat) (wr i : Nat) (kind : PacketKind)
  | ack (peer : Nat) (name : PacketName) (i : Nat)
  | refuse (peer : Nat) (name : PacketName) (i : Nat)
  | reply (session : Nat) (head words : List Word)
  | replyBytes (session : Nat) (head : List Word) (bytes : List Byte)
  | report (session : Option Nat) (head : List Word) (w : Word)
  | page (cluster id vol page : Nat)
deriving DecidableEq, Repr

structure Net where
  peers  : List (Nat × Peer) := []
  keys   : List KeyWrite := []
  reqs   : List Req := []
  wrs    : List WorkReq := []
  /-- next message number of a (volume, peer) pair: sends and receives -/
  sendNo : List (Nat × Nat × Nat) := []
  recvNo : List (Nat × Nat × Nat) := []
  /-- packets held for a receive not yet posted (R386) -/
  heldP  : List Packet := []
  /-- messages whose receive has completed: volume, peer, number; packets of messages taken: volume, peer, number, packet; packets placed
  of peers' writes, and data placed of this device's reads: peer, request, packet (R387) -/
  doneMsg : List (Nat × Nat × Nat) := []
  gotPk  : List (Nat × Nat × Nat × Nat) := []
  donePk : List (Nat × Nat × Nat) := []
  doneRd : List (Nat × Nat × Nat) := []
  far    : List Far := []
  /-- writes of a chunk whose operation's volume has ended: the chunk is finished (R295) -/
  tails  : List FarAcc := []
  /-- discarded packets by port -/
  stats  : List (Nat × Nat) := []
  out    : List OutMsg := []
deriving DecidableEq, Repr

/-! ## The root of trust -/

/-- Off until power-on; testing; passed; the safe state (R415, R418). -/
inductive RootSt where
  | off | testing | passed | safe
deriving DecidableEq, Repr

structure Root where
  st      : RootSt := .off
  /-- measurement registers M0 to M3 (R419) -/
  m       : List (List Byte) := List.replicate 4 (List.replicate 32 0)
  quotes  : Nat := 0
  /-- report log; the next report's call identifier is its length (R415) -/
  log     : List Word := []
  /-- session of the most recent call over the management port -/
  mgmt    : Option Nat := none
  /-- calls put aside whose arrival has been noted (R415) -/
  known   : List Call := []
  ready   : List Func := []
  fenced  : List Func := []
  late    : Nat := 0
  /-- firmware update waiting for its switches: session and call -/
  update  : Option Call := none
  /-- curator firmware version last loaded -/
  ver     : BitVec 32 := 0
  /-- calls that wait for their turn (R394) or for a unit (R416) -/
  waiting : List Instr := []
  /-- a repeat of the self-test under way: its calls (R418) -/
  again   : List Call := []
  /-- results of the root's own self-tests, as report words (R418) -/
  tests   : List Word := []
  /-- the version that an update under way loads (R409, R423) -/
  next    : Option (BitVec 32) := none
  /-- digests of the curator firmware and of the supervisor programs measured: register and digest; digests of engine microcode that
  wait for an earlier engine's, and how many of the five have been measured (R419) -/
  measured : List (Nat × List Byte) := []
  micro   : List (Nat × List Byte) := []
  microN  : Nat := 0
  /-- corrected single-bit errors of functions that are no core (R411) -/
  corrected : List (Func × Nat) := []
deriving DecidableEq, Repr

/-! ## The machine -/

/-- A move of the agenda: the next ready turn, or an event (assumption 1). -/
inductive Move where
  | turn
  | event (i : Instr)
  /-- a single-bit error is corrected (R411) -/
  | corrected (f : Func)
deriving DecidableEq, Repr

/-- The model's clock and its schedule (assumptions 1 and 2). -/
structure Clock where
  frame  : Nat := 0
  /-- the slot whose turns of this frame are being taken, and the cores that have taken theirs -/
  pos    : Nat := 0
  took   : List Nat := []
  /-- the issuing core and slot -/
  cur    : Option (Nat × Nat) := none
  /-- events of the frame that has begun, before its first turn -/
  timed  : List Instr := []
  agenda : List Move := []
  due    : List Instr := []
  nextId : Nat := 0
  /-- free values drawn so far (assumption 5) -/
  draws  : Nat := 0
deriving DecidableEq, Repr

/-- An invalidation under way (R247, R248). -/
structure Tlbi where
  id   : Nat
  uid  : Nat
  vol  : Nat
  lo   : Nat
  hi   : Nat
  done : Bool := false
  /-- accesses tagged before it that have not completed -/
  old  : List Nat := []
  /-- the unmap call it belongs to -/
  host : Option Call := none
deriving DecidableEq, Repr

/-- The module. -/
structure State where
  mem      : Memory := []
  /-- words (key ÷ 8) whose full/empty bit is 0, strictly rising (R184) -/
  empty    : List Nat := []
  strands  : List ((Nat × Nat) × Strand) := []
  flights  : List Flight := []
  cores    : List (Nat × Core) := []
  clusters : List (Nat × Cluster) := []
  circ     : Circ := {}
  fab      : Fabric := {}
  net      : Net := {}
  /-- bag entries in use: chip, operation, bag (R317) -/
  chips    : List (Nat × Nat × Nat) := []
  devTlb   : List TlbEntry := []
  devEpoch : Nat := 0
  tlbis    : List Tlbi := []
  root     : Root := {}
  clk      : Clock := {}
deriving DecidableEq, Repr

/-- The module right after reset: nothing has reported, memory lists nothing, every unit is as its structure's defaults
give, and the next move is the power-on step (R415). -/
def State.reset : State := { clk := { due := [.powerOn] } }

end Sys2Proof.Machine
end

