-- ==== Sys2Proof/Machine/Ops.lean ====
section
/-! DEFINITION. Named operations over the state: association lists, memory and full/empty bits, units, free values,
messages, page tables and translation. -/

namespace Sys2Proof.Machine

open Sys2Proof

/-! ## Association lists and small helpers -/

def aget {α β : Type} [DecidableEq α] : List (α × β) → α → Option β
  | [], _ => none
  | (k, v) :: r, a => if k = a then some v else aget r a

def aput {α β : Type} [DecidableEq α] : List (α × β) → α → β → List (α × β)
  | [], a, b => [(a, b)]
  | (k, v) :: r, a, b => if k = a then (a, b) :: r else (k, v) :: aput r a b

def adel {α β : Type} [DecidableEq α] (l : List (α × β)) (a : α) : List (α × β) := l.filter fun e => !decide (e.1 = a)

/-- Bits [hi:lo] of a number. -/
def bitsN (x hi lo : Nat) : Nat := x / 2 ^ lo % 2 ^ (hi + 1 - lo)

/-- Bits [hi:lo] of a doubleword, as a number. -/
def fld (w : Word) (hi lo : Nat) : Nat := bitsN w.toNat hi lo

def bitN (x i : Nat) : Bool := x / 2 ^ i % 2 == 1

def ofN (n : Nat) : Word := BitVec.ofNat 64 n

/-- The sign-extended value of an immediate, as a 64-bit value. -/
def sx64 {n : Nat} (v : BitVec n) : Word := v.signExtend 64

/-- Replace element i of a list. -/
def setAt {α : Type} : List α → Nat → α → List α
  | [], _, _ => []
  | _ :: r, 0, v => v :: r
  | x :: r, i + 1, v => x :: setAt r i v

/-- Replace the first element that a test finds. -/
def replaceBy {α : Type} (p : α → Bool) (v : α) : List α → List α
  | [] => []
  | x :: r => if p x then v :: r else x :: replaceBy p v r

/-- Change every element that a test finds. -/
def mapIf {α : Type} (p : α → Bool) (f : α → α) (l : List α) : List α := l.map fun x => if p x then f x else x

def ceilDiv (a b : Nat) : Nat := (a + b - 1) / b

/-! ## Memory (R178, R184) -/

/-- The byte at an address. -/
def Memory.get : Memory → Nat → Byte
  | [], _ => 0
  | c :: r, a => if c.1 = a then c.2 else Memory.get r a

/-- Write a byte, keeping the canonical form. -/
def Memory.set : Memory → Nat → Byte → Memory
  | [], a, b => if b = 0 then [] else [(a, b)]
  | c :: r, a, b =>
    if a < c.1 then (if b = 0 then c :: r else (a, b) :: c :: r)
    else if a = c.1 then (if b = 0 then r else (a, b) :: r)
    else c :: Memory.set r a b

/-- Write bytes at ascending addresses. -/
def Memory.setBytes (m : Memory) (a : Nat) : List Byte → Memory
  | [] => m
  | b :: r => Memory.setBytes (m.set a b) (a + 1) r

def Memory.getBytes (m : Memory) (a n : Nat) : List Byte := (List.range n).map fun i => m.get (a + i)

/-- The little-endian number of some bytes. -/
def leNat : List Byte → Nat
  | [] => 0
  | b :: r => b.toNat + 256 * leNat r

/-- n little-endian bytes of a number. -/
def leBytes : Nat → Nat → List Byte
  | 0, _ => []
  | n + 1, v => BitVec.ofNat 8 v :: leBytes n (v / 256)

/-- Read n bytes as a number. -/
def State.rdN (s : State) (key n : Nat) : Nat := leNat (s.mem.getBytes key n)

def State.rdW (s : State) (key : Nat) : Word := ofN (s.rdN key 8)

/-- Write the low n bytes of a number. -/
def State.wrN (s : State) (key n v : Nat) : State := { s with mem := s.mem.setBytes key (leBytes n v) }

def State.wrBytes (s : State) (key : Nat) (bs : List Byte) : State := { s with mem := s.mem.setBytes key bs }

/-- Insert into, and remove from, a strictly rising list. -/
def insertUp : List Nat → Nat → List Nat
  | [], a => [a]
  | c :: r, a => if a < c then a :: c :: r else if a = c then c :: r else c :: insertUp r a

/-- The full/empty bit of the word holding a key (R184). -/
def State.full (s : State) (key : Nat) : Bool := !s.empty.contains (key / 8)

def State.setFull (s : State) (key : Nat) (f : Bool) : State :=
  { s with empty := if f then s.empty.filter (· != key / 8) else insertUp s.empty (key / 8) }

/-- Set F := 1 on every word that [key, key + n) meets. -/
def State.fillRange (s : State) (key n : Nat) : State :=
  { s with empty := s.empty.filter fun w => !(decide (key < 8 * w + 8) && decide (8 * w < key + n)) }

/-- Zero a range, with F := 1 (R184, R375). -/
def State.zeroRange (s : State) (key n : Nat) : State :=
  State.fillRange { s with mem := s.mem.filter fun c => !(decide (key ≤ c.1) && decide (c.1 < key + n)) } key n

/-! Keys of the buffers and rooms (assumption 3). -/

def wKey (core off : Nat) : Nat := 2 ^ 48 + core * 2 ^ 20 + off
def aKey (core off : Nat) : Nat := 2 ^ 48 + core * 2 ^ 20 + 2 ^ 18 + off
def roomKey (cluster off : Nat) : Nat := 2 ^ 49 + cluster * 2 ^ 22 + off

/-- The supervisor program of a cluster: its VA in slot 63's flat space, and its key (R71, R416; assumption 13). -/
def supSize : Nat := 2 ^ 24
def supVA (cluster : Nat) : Nat := 2 ^ 47 + cluster * supSize
def supKey (va : Nat) : Nat := 2 ^ 50 + (va - 2 ^ 47)

def isStack (key : Nat) : Bool := decide (key < Config.stacksEnd)
def isAnnex (key : Nat) : Bool := decide (Config.annexBase ≤ key) && decide (key < Config.annexEnd)

/-- The cluster that owns the bank of a key with a full/empty bit (R185). -/
def ownerCluster (key : Nat) : Nat :=
  if key < 2 ^ 48 then key / Config.sliceSize
  else if key < 2 ^ 49 then (key - 2 ^ 48) / 2 ^ 20 / Config.coresPerCluster
  else if key < 2 ^ 50 then (key - 2 ^ 49) / 2 ^ 22
  else (key - 2 ^ 50) / supSize

/-! ## Units -/

def State.core (s : State) (k : Nat) : Core := (aget s.cores k).getD {}
def State.setCore (s : State) (k : Nat) (c : Core) : State := { s with cores := aput s.cores k c }
def State.cluster (s : State) (k : Nat) : Cluster := (aget s.clusters k).getD {}
def State.setCluster (s : State) (k : Nat) (c : Cluster) : State := { s with clusters := aput s.clusters k c }
def State.strand (s : State) (core slot : Nat) : Option Strand := aget s.strands (core, slot)
def State.setStrand (s : State) (core slot : Nat) (t : Strand) : State := { s with strands := aput s.strands (core, slot) t }
def State.dropStrand (s : State) (core slot : Nat) : State := { s with strands := adel s.strands (core, slot) }

def clusterOf (core : Nat) : Nat := core / Config.coresPerCluster

def State.volume (s : State) (v : Nat) : Option Volume := s.circ.volumes.find? (·.id == v)
def State.setVolume (s : State) (v : Volume) : State :=
  { s with circ := { s.circ with volumes := replaceBy (·.id == v.id) v s.circ.volumes } }
def State.gathering (s : State) (v g : Nat) : Option Gathering := s.circ.gatherings.find? fun x => x.vol == v && x.gidx == g
def State.setGathering (s : State) (g : Gathering) : State :=
  { s with circ := { s.circ with gatherings := replaceBy (fun x => x.vol == g.vol && x.gidx == g.gidx) g s.circ.gatherings } }
def State.space (s : State) (id : Nat) : Space := (s.circ.spaces.find? (·.id == id)).getD { id := id }
def State.setSpace (s : State) (p : Space) : State :=
  { s with circ := { s.circ with spaces :=
      if (s.circ.spaces.any (·.id == p.id)) then replaceBy (·.id == p.id) p s.circ.spaces else s.circ.spaces ++ [p] } }

/-- The address space of a volume (R353); before the volume exists, the space the host set up under its number; the one it had, while
work requests of it go on after its end (R391). -/
def State.spaceOf (s : State) (v : Nat) : Space :=
  match s.volume v with
  | some x => s.space x.space
  | none => s.space ((aget s.circ.ghosts v).getD v)

/-- The strand with this name, wherever it is. -/
def State.byUid (s : State) (u : Nat) : Option ((Nat × Nat) × Strand) := s.strands.find? (·.2.uid == u)

/-- Change a strand, if it is resident, by its name. -/
def State.mapUid (s : State) (uid : Nat) (f : Strand → Strand) : State :=
  { s with strands := s.strands.map fun e => if e.2.uid == uid then (e.1, f e.2) else e }

def State.isFenced (s : State) (k : FuncKind) (i : Nat) : Bool := s.root.fenced.contains { kind := k, index := i }
def State.isReady (s : State) (k : FuncKind) (i : Nat) : Bool := s.root.ready.contains { kind := k, index := i }

/-- A whole cluster is fenced (R411); a curator or slice that reports FAILED fences it (R416). -/
def State.clusterFenced (s : State) (k : Nat) : Bool :=
  s.isFenced .cluster k

def State.coreFenced (s : State) (k : Nat) : Bool := s.isFenced .core k || s.clusterFenced (clusterOf k)

/-- A function holds the word at a key: a stack slice or annex chip, the core of a buffer, the cluster of a room; a cluster its cores' words
too (R411). -/
def holdsKey (f : Func) (key : Nat) : Bool :=
  if isStack key then f == { kind := .slice, index := key / Config.sliceSize }
  else if isAnnex key then f == { kind := .chip, index := (key - Config.annexBase) / 4096 % 8 }
  else f == { kind := .cluster, index := ownerCluster key } ||
    (decide (key < 2 ^ 49) && f == { kind := .core, index := (key - 2 ^ 48) / 2 ^ 20 })

/-- A word's memory function is fenced (R411). -/
def State.keyFenced (s : State) (key : Nat) : Bool := s.root.fenced.any fun f => holdsKey f key

/-! ## Names, free values, moves -/

def State.fresh (s : State) : Nat × State := (s.clk.nextId, { s with clk := { s.clk with nextId := s.clk.nextId + 1 } })

/-- One free choice between two outcomes (assumption 5). -/
def State.drawBool (s : State) : Bool × State :=
  (Config.freeBool s.clk.draws, { s with clk := { s.clk with draws := s.clk.draws + 1 } })

def State.drawWord (s : State) : Word × State :=
  (Config.freeWord s.clk.draws, { s with clk := { s.clk with draws := s.clk.draws + 1 } })

/-- Bytes that may hold either value (R267, R292, R424): each of `new` is written or not. -/
def State.wrEither (s : State) (key : Nat) : List Byte → State
  | [] => s
  | b :: r =>
    let (c, s1) := s.drawBool
    State.wrEither (if c then { s1 with mem := s1.mem.set key b } else s1) (key + 1) r

/-- Queue an event of the machine's own (assumption 1). -/
def State.push (s : State) (i : Instr) : State := { s with clk := { s.clk with due := s.clk.due ++ [i] } }

/-- Queue an event unless it is queued. -/
def State.pushNew (s : State) (i : Instr) : State := if s.clk.due.contains i then s else s.push i

/-! ## The register network (R161, R162) -/

def gridDist (a b : Nat) : Nat := (a - b) + (b - a)

/-- Hops between two cores (R161). -/
def hops (a b : Nat) : Nat :=
  if a == b then 0
  else if clusterOf a == clusterOf b then 1
  else 1 + gridDist (clusterOf a / 16) (clusterOf b / 16) + gridDist (clusterOf a % 16) (clusterOf b % 16)

/-- Send a message from a core and slot in this frame, available at frame q + h + 1 (R162). -/
def State.sendMsg (s : State) (core slot dst : Nat) (k : MsgKind) : State :=
  let (id, s1) := s.fresh
  { s1 with fab := { s1.fab with msgs := s1.fab.msgs ++
      [{ id := id, due := s1.clk.frame + hops core dst + 1, dst := dst, core := core, slot := slot, kind := k }] } }

/-- Send a message available at a stated frame. -/
def State.sendAt (s : State) (due core slot dst : Nat) (k : MsgKind) : State :=
  let (id, s1) := s.fresh
  { s1 with fab := { s1.fab with msgs := s1.fab.msgs ++
      [{ id := id, due := due, dst := dst, core := core, slot := slot, kind := k }] } }

/-- An engine's or curator's message to an inbox lane (R172, R174). -/
def State.engMsg (s : State) (vol core lane src tag payload : Nat) (uid : Nat := 0) (ptr : Word := 0) : State :=
  if vol != 0 && (s.volume vol).isNone then s   -- R295: the volume has ended
  else
    let (id, s1) := s.fresh
    let m : EngMsg := { id := id, core := core, lane := lane, vol := vol, src := src, uid := uid, ptr := ptr,
                        word := ofN (tag % 65536 * 2 ^ 48 + src * 2 ^ 44 + payload % 2 ^ 44) }
    State.push { s1 with fab := { s1.fab with eng := s1.fab.eng ++ [m] } } (.engineMessageDeliver id)

/-- A message to slot 63 of a core, or to a cluster's curator (R41, R174). -/
def State.supMsg (s : State) (dst : Option Nat) (src_core src tag payload : Nat) : State :=
  let (id, s1) := s.fresh
  let m : SupMsg := { id := id, dst := dst, from_ := src_core, src := src,
                      word := ofN (tag % 65536 * 2 ^ 48 + src * 2 ^ 44 + payload % 2 ^ 44) }
  State.push { s1 with fab := { s1.fab with sup := s1.fab.sup ++ [m] } } (.faultMessageDeliver id)

/-- A pre-emption request enters slot 63's inbox at the core that it reaches (R71). No rule lays its word out: a free value (DESIGN CHOICE,
assumption 89). -/
def State.preemptMsg (s : State) (core from_ : Nat) : State :=
  if 2048 ≤ core || s.coreFenced core then s
  else
    let (w, s1) := s.drawWord
    let (id, s2) := s1.fresh
    State.push { s2 with fab := { s2.fab with
      sup := s2.fab.sup ++ [{ id := id, dst := some core, from_ := from_, src := fld w 47 44, word := w }] } } (.faultMessageDeliver id)

/-! ## Segment descriptors (R228 to R232) -/

def descLow (d : Desc) : Nat := d.toNat % 2 ^ 64
def descHigh (d : Desc) : Nat := d.toNat / 2 ^ 64
def descBase (d : Desc) : Nat := bitsN d.toNat 47 0
def descType (d : Desc) : Nat := bitsN d.toNat 63 61
def descLimit (d : Desc) : Nat := bitsN d.toNat 111 64
/-- Rights R, W, X, F, A, E as bits 0 to 5. -/
def descRights (d : Desc) : Nat := bitsN d.toNat 60 55

def rR : Nat := 1
def rW : Nat := 2
def rX : Nat := 4
def rF : Nat := 8
def rA : Nat := 16
def rE : Nat := 32

/-- `need` is within the rights. -/
def hasRights (rights need : Nat) : Bool := rights &&& need == need

/-- The size of the buffer a segment type names (R178). -/
def bufSize : Nat → Nat
  | 2 => Config.wSize | 3 => Config.aSize | 4 => Config.cSize | 5 => Config.roomSize | _ => 0

/-- A well-formed descriptor (R229). -/
def descWf (d : Desc) : Bool :=
  let t := descType d
  bitsN d.toNat 127 112 == 0 && bitsN d.toNat 54 48 == 0 && decide (t ≤ 5) &&
  (if t == 1 then decide (descBase d + descLimit d ≤ 2 ^ 48)
   else if 2 ≤ t then decide (descBase d + descLimit d ≤ bufSize t) && !hasRights (descRights d) rX &&
     (t != 4 || descRights d &&& (rF + rA) == 0)
   else true)

/-- A descriptor from its fields. -/
def mkDesc (type rights base limit : Nat) : Desc :=
  BitVec.ofNat 128 (base % 2 ^ 48 + rights * 2 ^ 55 + type * 2 ^ 61 + limit % 2 ^ 48 * 2 ^ 64)

/-- `seg_check` of R231: base + off, or the segment-fault code. -/
def segCheck (d : Desc) (off size need align : Nat) : Except Nat Nat :=
  if descType d == 0 then .error 0x01
  else if !hasRights (descRights d) need then .error 0x02
  else if off % align != 0 then .error 0x03
  else if 2 ^ 48 ≤ off || descLimit d < off + size then .error 0x04
  else .ok (descBase d + off)

/-- The place that a checked address names, for a strand of this core and volume. -/
def locOf (d : Desc) (core vol addr : Nat) : Loc :=
  match descType d with
  | 2 => .buf (wKey core addr)
  | 3 => .buf (aKey core addr)
  | 5 => .buf (roomKey (clusterOf core) addr)
  | _ => .va vol addr

/-- A segment pointer (R26): its segment register and offset, or SEG_POINTER. -/
def ptrParts (w : Word) : Except Nat (Nat × Nat) :=
  if fld w 60 48 != 0 then .error 0x05 else .ok (fld w 63 61, fld w 47 0)

def sregOf (sregs : List Desc) (n : Nat) : Desc := sregs.getD n 0

/-- Check a segment pointer (R26, R231) against some segment registers: descriptor and address. -/
def ptrCheck (sregs : List Desc) (w : Word) (size need align : Nat) : Except Nat (Desc × Nat) :=
  match ptrParts w with
  | .error c => .error c
  | .ok (n, off) =>
    match segCheck (sregOf sregs n) off size need align with
    | .error c => .error c
    | .ok a => .ok (sregOf sregs n, a)

/-! ## Page tables and translation (R233 to R240) -/

/-- What an access asks of a leaf (R240). -/
inductive Access where
  | read | write | both | fetch
deriving DecidableEq, Repr

/-- A translated place: the key, the leaf entry, log2 of the page size, whether it was found. -/
structure Leaf where
  entry : Word
  bits  : Nat
deriving DecidableEq, Repr

def ptP (e : Word) : Bool := e.getLsbD 63
def ptL (e : Word) : Bool := e.getLsbD 62
def ptM (e : Word) : Bool := e.getLsbD 61
def ptK (e : Word) : Bool := e.getLsbD 60
def ptR (e : Word) : Bool := e.getLsbD 59
def ptW (e : Word) : Bool := e.getLsbD 58
def ptX (e : Word) : Bool := e.getLsbD 57
def ptSel (e : Word) : Nat := fld e 56 54
def ptAddr (e : Word) : Nat := fld e 47 6 * 64

/-- log2 of the page size under a selector of the L0 entry (R233). -/
def selBits (sel : Nat) : Nat := if sel == 5 then 23 else 12 + 2 * sel

/-- A malformed entry (R235) at level 3 (L2), 2 (L1), 1 (L0) or 0 (leaf table, of page size 2^p). -/
def ptMalformed (level p : Nat) (e : Word) : Bool :=
  let leaf := ptL e
  let sel := ptSel e
  let pageBits := if level == 2 then 30 else if level == 1 then 23 else p
  let tableBytes := if level == 3 then 4096 else if level == 2 then 1024 else 8 * 2 ^ (23 - selBits sel)
  fld e 53 48 != 0 ||
  (leaf && level == 3) || (!leaf && level == 0) ||
  (level == 1 && ((leaf && sel != 5) || (!leaf && sel == 5) || decide (6 ≤ sel))) ||
  (level != 1 && sel != 0) ||
  (!leaf && (ptM e || ptK e || ptR e || ptW e || ptX e)) ||
  (if leaf then ptAddr e % 2 ^ pageBits != 0 else ptAddr e % tableBytes != 0 || decide (Config.stacksEnd < ptAddr e + tableBytes)) ||
  (leaf && ptK e && (ptM e || decide (Config.stacksEnd < ptAddr e + 2 ^ pageBits))) ||
  (leaf && ptM e && ptX e)

/-- A walk's outcome: a leaf, a page-fault code (R240), or a table in a fenced slice. -/
inductive Walk where
  | leaf (l : Leaf)
  | fail (code : Nat)
  | fenced
deriving DecidableEq, Repr

/-- One level of a walk, the entry at `table` for the level `fuel` - 1 (R233): an outcome, or the next table and the page size. -/
def walkLevel (s : State) (va fuel table p : Nat) : Walk ⊕ (Nat × Nat) :=
  let level := fuel - 1
  let idx := match level with
    | 3 => bitsN va 47 39 | 2 => bitsN va 38 30 | 1 => bitsN va 29 23 | _ => bitsN va 22 p
  let at_ := table + 8 * idx
  if s.keyFenced at_ then .inl .fenced
  else
    let e := s.rdW at_
    if !ptP e then .inl (.fail 1)
    else if ptMalformed level p e then .inl (.fail 3)
    else if ptL e then .inl (.leaf { entry := e, bits := if level == 2 then 30 else if level == 1 then 23 else p })
    else .inr (ptAddr e, if level == 1 then selBits (ptSel e) else p)

/-- Walk from a table: `fuel` levels are left (R233). -/
def walkFrom (s : State) (va : Nat) : Nat → Nat → Nat → Walk
  | 0, _, _ => .fail 3
  | fuel + 1, table, p => match walkLevel s va (fuel + 1) table p with
    | .inl r => r
    | .inr n => walkFrom s va fuel n.1 n.2

/-- The strand-area mapping of the circulation unit (R359): areas lie at their PA above the range's base (assumption 8). -/
def State.areaLeaf (s : State) (v va : Nat) : Option Nat :=
  if va < Config.areaVA then none
  else
    let pa := va - Config.areaVA
    let sp := (s.spaceOf v).id
    if (s.circ.areas ++ s.circ.spare).any (fun a => (s.spaceOf a.1).id == sp && decide (a.2 ≤ pa) && decide (pa < a.2 + Config.areaSize)) then some pa
    else none

/-- The whole walk of a VA of an address space (R233). -/
def State.walkIn (s : State) (p : Space) (va : Nat) : Walk :=
  match p.root with
  | none => .fail 1
  | some r => walkFrom s va 4 r 0

/-- The whole walk of a volume's VA. -/
def State.walk (s : State) (v va : Nat) : Walk := s.walkIn (s.spaceOf v) va

/-- What a leaf gives an access (R236, R240): a local key, a remote place, or a page-fault code. -/
inductive Place where
  | key (k : Nat) (kpage : Option (Nat × Nat))
  | far (peer off : Nat)
  | fail (code : Nat)
  | fenced
deriving DecidableEq, Repr

def leafRights (e : Word) : Access → Bool
  | .read => ptR e
  | .write => ptW e
  | .both => ptR e && ptW e
  | .fetch => ptX e

/-- The place of a VA under a leaf. -/
def placeOf (l : Leaf) (va : Nat) (acc : Access) : Place :=
  let e := l.entry
  let low := va % 2 ^ l.bits
  let base := ptAddr e
  if ptM e then
    if leafRights e acc then .far (fld e 47 36) (bitsN base 35 l.bits * 2 ^ l.bits + low) else .fail 2
  else if !(decide (base + 2 ^ l.bits ≤ Config.stacksEnd) ||
      (decide (Config.annexBase ≤ base) && decide (base + 2 ^ l.bits ≤ Config.annexEnd))) then .fail 4
  else if leafRights e acc then .key (base + low) (if ptK e then some (base, l.bits) else none)
  else .fail 2

/-- The runs of memory that the leaves of VAs [a, e) of an address space give: first address and length. -/
def State.arenaRuns (s : State) (p : Space) (e : Nat) : Nat → Nat → List (Nat × Nat)
  | 0, _ => []
  | fuel + 1, a =>
    if e ≤ a then []
    else match s.walkIn p a with
      | .leaf l =>
        let n := Nat.min (2 ^ l.bits - a % 2 ^ l.bits) (e - a)
        if ptM l.entry then s.arenaRuns p e fuel (a + n) else (ptAddr l.entry + a % 2 ^ l.bits, n) :: s.arenaRuns p e fuel (a + n)
      | _ => s.arenaRuns p e fuel (a / 4096 * 4096 + 4096)

/-- A byte of some volume's code arena, which only load code and the redactor write (R328). -/
def State.inArena (s : State) (key : Nat) : Bool :=
  s.circ.spaces.any fun p => p.arena.any fun a =>
    (s.arenaRuns p (a.1 + a.2) (ceilDiv a.2 4096 + 1) a.1).any fun r => decide (r.1 ≤ key) && decide (key < r.1 + r.2)

/-- No leaf gives W to a byte of a code arena, through whatever mapping (R328). -/
def State.noCode (s : State) (acc : Access) (p : Place) : Place :=
  match p with
  | .key k kp => if (acc == .write || acc == .both) && s.inArena k then .fail 2 else .key k kp
  | p => p

/-- The place of a VA under a leaf, code arenas kept. -/
def State.leafPlace (s : State) (l : Leaf) (va : Nat) (acc : Access) : Place := s.noCode acc (placeOf l va acc)

def tlbFind (t : List TlbEntry) (v va : Nat) : Option Leaf :=
  (t.find? fun e => e.vol == v && va / 2 ^ e.bits == e.page / 2 ^ e.bits).map fun e => { entry := e.leaf, bits := e.bits }

def tlbAdd (t : List TlbEntry) (v va : Nat) (l : Leaf) : List TlbEntry :=
  t ++ [{ vol := v, page := va / 2 ^ l.bits * 2 ^ l.bits, bits := l.bits, leaf := l.entry }]

/-- A place that needs no walk: slot 63's flat space of the stacks, the annex and the supervisor programs (assumption 13), a strand area, or a hit in a translation cache. -/
def State.lookup (s : State) (tlb : List TlbEntry) (v va : Nat) (acc : Access) : Option Place :=
  if v == 0 then some (if va < Config.stacksEnd || isAnnex va then s.noCode acc (.key va none)
    else if supVA 0 ≤ va && va < supVA Config.clusters then .key (supKey va) none else .fail 4)
  else match s.areaLeaf v va with
  | some pa => some (if acc == .fetch then .fail 2 else .key pa none)
  | none => (tlbFind tlb v va).map fun l => s.leafPlace l va acc

/-- Translate for a unit whose step is whole: through its cache, else by a walk (R237, R239). -/
def State.translate (s : State) (tlb : List TlbEntry) (v va : Nat) (acc : Access) : Place :=
  match s.lookup tlb v va acc with
  | some p => p
  | none => match s.walk v va with
    | .leaf l => s.leafPlace l va acc
    | .fail c => .fail c
    | .fenced => .fenced

/-- A leaf enters a translation cache of 4,096 entries (R237; assumption 7). -/
def tlbFill (t : List TlbEntry) (v va : Nat) (l : Leaf) : List TlbEntry :=
  let t1 := tlbAdd t v va l
  t1.drop (t1.length - 4096)

/-- A translation cache after a unit whose step is whole has gone through it (R237). -/
def State.cachedFor (s : State) (tlb : List TlbEntry) (l : Loc) : List TlbEntry :=
  match l with
  | .buf _ => tlb
  | .va v a =>
    if v == 0 || (s.areaLeaf v a).isSome || (tlbFind tlb v a).isSome then tlb
    else match s.walk v a with
      | .leaf x => tlbFill tlb v a x
      | _ => tlb

/-! ## Launch-record fields (R349 to R351) -/

def Volume.dw (v : Volume) (i : Nat) : Word := v.rec_.getD i 0
def shapeDet (w : Word) : Bool := w.getLsbD 55
def shapePrio (w : Word) : Nat := fld w 54 52
def shapeNbar (w : Word) : Nat := fld w 51 47
def shapePairs (w : Word) : Nat := fld w 46 16
def shapeCol (w : Word) : Nat := fld w 15 13
def shapeWgr (w : Word) : Nat := fld w 12 9
def shapeSlots (w : Word) : Nat := fld w 8 3
def shapeCores (w : Word) : Nat := fld w 2 0 + 1
def carRoom (w : Word) : Nat := fld w 44 32 * 1024
def carA (w : Word) : Nat := fld w 24 16 * 1024
def carW (w : Word) : Nat := fld w 8 0 * 1024
def Volume.det (v : Volume) : Bool := shapeDet (v.dw 1)
def Volume.count (v : Volume) : Nat := fld (v.dw 2) 23 0 + 1
def Volume.upv (v : Volume) : Nat := fld (v.dw 5) 47 0
def Volume.fhv (v : Volume) : Nat := fld (v.dw 6) 47 0
def Volume.errq (v : Volume) : Nat := fld (v.dw 8) 47 0
def Volume.runlist (v : Volume) : Nat := fld (v.dw 13) 63 32
def Volume.dequeN (v : Volume) : Nat := fld (v.dw 13) 22 16
def Volume.inboxN (v : Volume) : Nat := fld (v.dw 13) 15 8
def Volume.portN (v : Volume) : Nat := fld (v.dw 13) 4 0
def Volume.launchN (v : Volume) : Nat := fld (v.dw 14) 43 32
def Volume.errataN (v : Volume) : Nat := fld (v.dw 14) 31 0

/-- The core whose slot 63 takes a volume's fault messages (R397). -/
def Volume.route (v : Volume) (own : Nat) : Nat := if (v.dw 7).getLsbD 63 then fld (v.dw 7) 10 0 else own

/-! ## Accessions (R326 to R330) -/

def Space.entry (p : Space) (i : Nat) : Entry := (aget p.table i).getD {}
def Space.setEntry (p : Space) (i : Nat) (e : Entry) : Space := { p with table := aput p.table i e }

/-- The code descriptor of an accession (R328). -/
def codeDesc (e : Entry) : Desc := mkDesc 1 (rR + rX) e.base (8 * e.size)

/-- Change an entry's counts; an entry whose counts both reach 0 becomes FREE (R329). -/
def Space.bump (p : Space) (i : Nat) (dref dexec : Int) : Space :=
  let e := p.entry i
  let refs := ((e.refs : Int) + dref).toNat
  let exec := ((e.exec : Int) + dexec).toNat
  if e.state == 1 && refs == 0 && exec == 0 then p.setEntry i { gen := e.gen }
  else p.setEntry i { e with refs := refs, exec := exec }

def State.bumpExec (s : State) (vol : Nat) (acc : Option Nat) (d : Int) : State :=
  match acc with
  | none => s
  | some i => s.setSpace ((s.spaceOf vol).bump i 0 d)

/-- The LIVE accession that holds a VA (R426). -/
def State.resolveVA (s : State) (vol va : Nat) : Option (Nat × Entry) :=
  if va == 0 || va % 8 != 0 then none
  else (s.spaceOf vol).table.find? fun e =>
    e.2.state == 1 && decide (e.2.base ≤ va) && decide (va < e.2.base + 8 * e.2.size)

/-- A code point (R327, R349): a current handle, or a return link; index and instruction offset. -/
def State.codePoint (s : State) (vol : Nat) (w : Word) : Option (Nat × Nat) :=
  let i := fld w 43 32
  let e := (s.spaceOf vol).entry i
  if e.state != 1 || e.gen != fld w 63 48 then none
  else if fld w 47 44 == 8 then (if fld w 31 0 < e.size then some (i, fld w 31 0) else none)
  else if fld w 47 44 == 0 && e.size == fld w 31 0 then some (i, 0)
  else none

/-! ## Registers of a strand (R103, R129) -/

def Strand.size (t : Strand) : Nat := 8 * (t.wgr + 1)
def Strand.g (t : Strand) (n : Nat) : Word := t.regs.getD n 0
def Strand.v (t : Strand) (k : Nat) : Vec := BitVec.ofNat 512 (packN 64 ((List.range 8).map fun j => (t.g (8 * k + j)).toNat))

/-- A write to register n supersedes held results for it (R74, R142). -/
def Op.supersede (o : Op) (n : Nat) : Op :=
  match o.dest with
  | .g m => if m == n then { o with sup := 0xFF } else o
  | .v k => if n / 8 == k then { o with sup := o.sup ||| BitVec.ofNat 8 (2 ^ (n % 8)) } else o
  | _ => o

/-- A write to predicate n supersedes held results for it. -/
def Op.supersedeP (o : Op) (n : Nat) : Op :=
  match o.dest with
  | .p m => if m == n then { o with sup := 0xFF } else o
  | _ => o

/-- The result of a later operation supersedes a held one for the same register (R74). -/
def Op.supersedeBy (later o : Op) : Op :=
  match later.dest with
  | .g n => o.supersede n
  | .v k => (List.range 8).foldl (fun o j => o.supersede (8 * k + j)) o
  | .p n => o.supersedeP n
  | _ => o

/-- Store into the register file; a write clears a parity error (R107). -/
def Strand.putG (t : Strand) (n : Nat) (v : Word) : Strand :=
  { t with regs := setAt t.regs n v, bad := t.bad.filter (· / 2 != n), noDup := t.noDup.filter (· != n) }

/-- Doublewords of a vector register that `mask` names. -/
def Strand.putV (t : Strand) (k : Nat) (mask : BitVec 8) (v : Vec) : Strand :=
  (List.range 8).foldl (fun t j => if mask.getLsbD j then t.putG (8 * k + j) (v.extractLsb' (64 * j) 64) else t) t

/-- Bit 0 of the predicate word reads 1 (R109). -/
def Strand.putP (t : Strand) (n : Nat) (b : Bool) : Strand :=
  if n == 0 then t
  else { t with pred := if b then t.pred ||| BitVec.ofNat 16 (2 ^ n) else t.pred &&& ~~~ BitVec.ofNat 16 (2 ^ n) }

/-- An instruction's own write of a general register. -/
def Strand.setG (t : Strand) (n : Nat) (v : Word) : Strand :=
  { t.putG n v with ops := t.ops.map (·.supersede n) }

def Strand.setV (t : Strand) (k : Nat) (v : Vec) : Strand :=
  { t.putV k 0xFF v with ops := (List.range 8).foldl (fun os j => os.map (·.supersede (8 * k + j))) t.ops }

/-- Writing one predicate neither clears a failing parity of the predicate word nor meets it (assumption 59). -/
def Strand.setP (t : Strand) (n : Nat) (b : Bool) : Strand :=
  { t.putP n b with ops := t.ops.map (·.supersedeP n) }

/-! ## Ports (R163 to R166, R177) -/

def State.portDepth (s : State) (vol : Nat) : Nat := ((s.volume vol).map Volume.portN).getD 0

def State.credits (s : State) (q : QId) : Nat :=
  match s.gathering q.vol q.gidx with
  | none => 0
  | some g => s.portDepth q.vol - (aget g.spent q).getD 0

def State.spend (s : State) (q : QId) (d : Int) : State :=
  match s.gathering q.vol q.gidx with
  | none => s
  | some g => s.setGathering { g with spent := aput g.spent q (((aget g.spent q).getD 0 : Int) + d).toNat }

/-- The core of the strand that a queue belongs to. -/
def State.queueCore (s : State) (q : QId) : Nat := ((s.gathering q.vol q.gidx).bind (·.cores[q.role]?)).getD 0

/-- The core of the strand that feeds a queue. -/
def State.feederCore (s : State) (q : QId) : Nat :=
  match q.src with
  | .role r => ((s.gathering q.vol q.gidx).bind (·.cores[r]?)).getD 0
  | _ => s.queueCore q

/-- `push` of R165, with a credit in hand. -/
def State.pushWord (s : State) (core slot : Nat) (q : QId) (v : Word) : State :=
  (s.spend q 1).sendMsg core slot (s.queueCore q) (.word q v)

/-! ## Landing (R73, R74) -/

/-- One held result enters the register file; a push leaves for its queue. -/
def landOp (core slot : Nat) (p : State × Strand) (o : Op) : State × Strand :=
  let t := { p.2 with fflg := p.2.fflg ||| o.flags }
  match o.dest with
  | .none | .z => (p.1, t)
  | .g n => (p.1, if o.sup == 0 then t.putG n (o.val.extractLsb' 0 64) else t)
  | .v k => (p.1, t.putV k (~~~ o.sup) o.val)
  | .p n => (p.1, if o.sup == 0 then t.putP n (o.val.getLsbD 0) else t)
  | .s n => (p.1, { t with sregs := setAt t.sregs n (o.val.extractLsb' 0 128) })
  | .push _ q => (p.1.pushWord core slot q (o.val.extractLsb' 0 64), t)

/-- A result that lands at a switch point: held, without a fault. -/
def Op.lands (o : Op) : Bool := o.stage == .held && o.fault.isNone

/-- The held results that land, in issue order: a push only with a credit (R165); one that finds none stays held (assumption 11). -/
def State.landing (s : State) (ops : List Op) : List Op :=
  (ops.filter Op.lands).foldl (fun l o => match o.dest with
    | .push _ q => if (l.countP fun x => match x.dest with | .push _ p => p == q | _ => false) < s.credits q then l ++ [o] else l
    | _ => l ++ [o]) []

/-- The operations that do not land, each superseded by the later ones that do: it lands after them, performed again (R74, R76). -/
def leftOps (lands : Op → Bool) : List Op → List Op
  | [] => []
  | o :: r => if lands o then leftOps lands r else ((r.filter lands).foldl (fun o l => Op.supersedeBy l o) o) :: leftOps lands r

/-- `land()`: every held result without a fault, in issue order (R74, R76). -/
def State.land (s : State) (core slot : Nat) (t : Strand) : State × Strand :=
  let now := s.landing t.ops
  let r := now.foldl (landOp core slot) (s, t)
  (r.1, { r.2 with ops := leftOps now.contains t.ops })

/-- Operations whose result has not returned. -/
def Strand.outstanding (t : Strand) : List Op := t.ops.filter (·.stage != .held)

/-- The earliest-issued operation that returned a fault (R398). -/
def Strand.faulted (t : Strand) : Option Op := t.ops.find? fun o => o.stage == .held && o.fault.isSome

/-! ## Collation ends (R151, R152) -/

/-- Outside any group. -/
def Strand.alone (t : Strand) : Strand :=
  { t with colW := 1, colI := 0, group := 0, colN := 0, colEnd := none, lead := none, gword := none,
           run := if t.run == .parked .group then .ready else t.run }

/-- The results of a group's spanning instructions are asked for: each is computed once every present member has issued (R150). -/
def State.wakeSpans (s : State) (group : Nat) : State :=
  ((s.circ.spans.filter (·.group == group)).flatMap (·.parts)).foldl (fun s p => match p.op, s.byUid p.uid with
    | some op, some (k, _) => s.push (.resultReturn k.1 k.2 op)
    | _, _ => s) s

/-- What the others must know of a leader that leaves: its decision on a word which it has issued and they have not (R150). -/
def Strand.decision (t : Strand) : Decision := { pred := t.pred, pc := t.pc, w := t.colV }

/-- The fetch check of a word (R231). -/
def Strand.fetchCheck (t : Strand) : Except Nat Nat :=
  let d := t.sregs.getD 0 0
  segCheck d (ofN (t.pc + 2 ^ 64 - descBase d)).toNat 8 rX 8

/-- The word at a strand's pc in a core's instruction cache, where its fetch passes the check. -/
def State.inCache (s : State) (core : Nat) (t : Strand) : Option Word :=
  match t.fetchCheck with
  | .error _ => none
  | .ok _ => ((s.core core).icache.find? fun e => e.1 == t.vol && e.2.1 == t.pc).map (·.2.2)

/-- The word that a leader which leaves has for a member that is to issue its word `n`: the one that it has issued, or its next (R149). -/
def State.leftWord (s : State) (t : Strand) (n : Nat) : Option (Nat × Word) :=
  if n < t.colN then some (n, t.ir) else ((s.byUid t.uid).bind fun e => s.inCache e.1.1 t).map (n, ·)

/-- Collation ends at one member, at the word which it is to issue next: the member leaves; a member that has issued that word
goes on alone, and every other member does so once it has (R151, R152), with the word that the leader had where it is the leader that
leaves. A member that halts with its group stays in it until it has halted (R42). -/
def State.endCollation (s : State) (t : Strand) : State :=
  if t.group == 0 then s
  else State.wakeSpans { s with strands := s.strands.map fun e =>
    if e.2.group == t.group then
      (e.1, if e.2.uid == t.uid || decide (t.colN < e.2.colN) then e.2.alone
        else { e.2 with colEnd := some (e.2.colEnd.getD (t.colN + 1)),
                        lead := if t.colI == 0 && decide (e.2.colN < t.colN) then some t.decision else e.2.lead,
                        gword := if t.colI == 0 then s.leftWord t e.2.colN else e.2.gword,
                        run := if e.2.run == .parked .group then .ready else e.2.run })
    else e } t.group

/-- The strand is back in its slot after a word. A member at which collation has ended goes on alone once it has issued the last
word of the group, and a leader's decision is left with the members that have still to issue it (R150, R152). -/
def State.after (s : State) (core slot : Nat) (t : Strand) : State :=
  match t.colEnd with
  | none => s.setStrand core slot { t with lead := none }
  | some n =>
    if t.colN < n then s.setStrand core slot { t with lead := none }
    else
      let s1 := s.setStrand core slot t.alone
      State.wakeSpans { s1 with strands := s1.strands.map fun e =>
        if t.colI == 0 && e.2.group == t.group && decide (e.2.colN < t.colN) then (e.1, { e.2 with lead := some t.decision, gword := some (e.2.colN, t.ir) }) else e } t.group

/-! ## Key pages (R298 to R302) -/

structure Geometry where
  value : Bool
  fmt   : Fmt
  chan  : Nat
  w     : Nat
  stride : Nat
  slots : Nat
deriving DecidableEq, Repr

/-- The geometry of the K page at PA `base` of 2^bits bytes; none for an unformatted page (R298). -/
def State.geometry (s : State) (base bits : Nat) : Option Geometry :=
  let g := s.rdN base 8
  let f := bitsN g 15 8
  if 2 ^ 17 ≤ g || 3 ≤ g % 256 || !(f == 2 || f == 4) then none
  else
    let w := if f == 2 then 1 else 2
    let C := 64 * 2 ^ (g % 256)
    let v := bitN g 16
    let stride := (if v then 64 else 66) * C * w
    some { value := v, fmt := if f == 2 then .e4m3 else .bf16, chan := C, w := w, stride := stride,
           slots := (2 ^ bits - 64) / stride }

/-- No value folded yet. -/
def noBound : Nat := 2 ^ 16

/-- Fold a code into a bound: NaN wins, else the lesser or greater with −0 below +0 (R301). -/
def fold1 (f : FP) (isMax : Bool) (a v : Nat) : Nat :=
  if a == noBound then (if isNan (f.value v) then f.cnan else v)
  else if isNan (f.value a) || isNan (f.value v) then f.cnan
  else (fpMinMax f isMax a v).1

/-- Fold into a (lo, hi) pair; a NaN in either makes both NaN. -/
def fold2 (f : FP) (p : Nat × Nat) (v : Nat) : Nat × Nat :=
  if (p.1 != noBound && isNan (f.value p.1)) || (p.2 != noBound && isNan (f.value p.2)) then (f.cnan, f.cnan)
  else (fold1 f false p.1 v, fold1 f true p.2 v)

/-- Widen the abstract, and any open shadow, for the element at PA `a` (R301, R303). -/
def State.widen1 (s : State) (g : Geometry) (base a : Nat) : State :=
  let off := a - base - 64
  let j := off / g.stride
  let r := off % g.stride
  if g.slots ≤ j || 64 * g.chan * g.w ≤ r then s
  else
    let f := (fpOf g.fmt).getD fpBf16
    let slot := base + 64 + j * g.stride
    let c := r / g.w % g.chan
    let v := s.rdN a g.w
    let lo := slot + 64 * g.chan * g.w + c * g.w
    let hi := slot + 65 * g.chan * g.w + c * g.w
    let p := fold2 f (s.rdN lo g.w, s.rdN hi g.w) v
    let s1 := (s.wrN lo g.w p.1).wrN hi g.w p.2
    { s1 with flights := s1.flights.map fun x => match x.kab with
        | some k => if k.slot == slot then
            let q := fold2 f (k.slo.getD c noBound, k.shi.getD c noBound) v
            { x with kab := some { k with slo := setAt k.slo c q.1, shi := setAt k.shi c q.2 } }
          else x
        | none => x }

/-- Widen for every element that a write of n bytes at PA a covers in whole or in part (R301). -/
def State.widen (s : State) (kpage : Option (Nat × Nat)) (a n : Nat) : State :=
  match kpage with
  | none => s
  | some (base, bits) => match s.geometry base bits with
    | none => s
    | some g =>
      if g.value then s
      else
        let lo := Nat.max a (base + 64)
        if a + n ≤ lo then s
        else
          let e0 := (lo - base - 64) / g.w
          let e1 := (a + n - 1 - base - 64) / g.w
          (List.range (e1 + 1 - e0)).foldl (fun s i => s.widen1 g base (base + 64 + (e0 + i) * g.w)) s

/-- A write transaction of n bytes (R302). -/
def State.bankWrite (s : State) (key : Nat) (kpage : Option (Nat × Nat)) (n v : Nat) : State := (s.wrN key n v).widen kpage key n

/-! ## Save areas and segment tables (R78 to R80, R230) -/

/-- The place of one byte of a strand's save area or segment table, wherever its slip's field puts it: its strand area, or the place, and
the K page, that the VA has by its leaf; the area's own place where it has none, or one without the right, remote or outside memory
(DESIGN CHOICE, assumption 86). -/
def State.areaPlace (s : State) (vol va pa : Nat) (acc : Access) : Nat × Option (Nat × Nat) :=
  match s.areaLeaf vol (va % 2 ^ 48) with
  | some k => (k, none)
  | none => match s.walk vol (va % 2 ^ 48) with
    | .leaf l => (match s.leafPlace l (va % 2 ^ 48) acc with
      | .key k kp => (k, kp)
      | _ => (pa, none))
    | _ => (pa, none)

/-- The parts of n bytes at a VA that lie in one page each: offset and length. -/
def areaPieces (va n : Nat) : List (Nat × Nat) :=
  if va % 4096 + n ≤ 4096 then [(0, n)] else [(0, 4096 - va % 4096), (4096 - va % 4096, n - (4096 - va % 4096))]

/-- Read n bytes of a strand's memory; `pa` is the area's own place of them. -/
def State.areaBytes (s : State) (vol va pa n : Nat) : List Byte :=
  (areaPieces va n).flatMap fun p => s.mem.getBytes (s.areaPlace vol (va + p.1) (pa + p.1) .read).1 p.2

def State.areaN (s : State) (vol va pa n : Nat) : Nat := leNat (s.areaBytes vol va pa n)

/-- Write bytes of a strand's memory; in a key page they widen its abstracts as any write does (R301). -/
def State.areaPut (s : State) (vol va pa : Nat) (bs : List Byte) : State :=
  (areaPieces va bs.length).foldl (fun (s : State) p =>
    let k := s.areaPlace vol (va + p.1) (pa + p.1) .write
    s.bankWrite k.1 k.2 p.2 (leNat ((bs.drop p.1).take p.2))) s

/-- The segment registers in a strand's segment table. -/
def State.areaSegs (s : State) (vol segt pa : Nat) : List Desc :=
  (List.range 8).map fun i => BitVec.ofNat 128 (s.areaN vol (segt + 16 * i) (pa + 64 + 16 * i) 16)

/-! ## Slips and save areas (R78 to R80) -/

/-- The eight doublewords of a slip. -/
def slipWords (t : Strand) (pc state link fcls fcode npend : Nat) : List Nat :=
  [ pc % 2 ^ 48 + state * 2 ^ 48 + (if t.free then 2 ^ 51 else 0) + t.prio * 2 ^ 52 + t.wgr * 2 ^ 55,
    t.pred.toNat + t.lane * 2 ^ 16 + t.role * 2 ^ 24 + t.tgt.toNat * 2 ^ 32 + t.fflg.toNat * 2 ^ 40 +
      t.rmod.toNat * 2 ^ 47 + t.dst.toNat * 2 ^ 49,
    t.save % 2 ^ 48 + t.vol * 2 ^ 48,
    link % 2 ^ 48 + t.home * 2 ^ 48,
    t.holdp % 2 ^ 48 + fcode * 2 ^ 48 + fcls * 2 ^ 61,
    t.segt % 2 ^ 48,
    t.gidx + t.amax.toNat * 2 ^ 32,
    t.cnt % 2 ^ 48 + npend * 2 ^ 48 ]

def State.wrWords (s : State) (key : Nat) (ws : List Nat) : State := s.wrBytes key (ws.flatMap (leBytes 8))

/-- Kind and destination field of a pending entry (R80, R27, R28). -/
def destKind : Dest → Nat
  | .g _ | .z | .push _ _ => 0 | .v _ => 1 | .none | .s _ => 2 | .p _ => 3

def destField : Dest → Nat
  | .g n | .v n | .p n => n
  | .push port _ => port
  | .none | .z | .s _ => 128

/-- No doubleword of the destination is left to write (R74, R142). -/
def Op.gone (o : Op) : Bool := match o.dest with
  | .v _ => o.sup == 0xFF
  | _ => o.sup != 0

/-- A pending entry (R80): header, zero, data. Its one superseded bit says that nothing of the value lands (assumption 60). -/
def pendBytes (o : Op) : List Byte :=
  leBytes 8 (destField o.dest + destKind o.dest * 2 ^ 8 + 2 ^ 10 + (if o.gone then 2 ^ 11 else 0) +
    o.flags.toNat * 2 ^ 12 + o.seq % 2 ^ 32 * 2 ^ 32) ++ leBytes 8 0 ++ leBytes 64 o.val.toNat

/-- What is kept beside a pending entry. -/
def Op.note (o : Op) : HeldNote :=
  { pop := o.pop, sup := o.sup, queue := match o.dest with | .push _ q => some q | _ => none }

/-- Registers with a failing half, and those of them lost: their granule has no duplicate, or they were once found without a good one
(R106, R107). -/
def Strand.failing (t : Strand) : List Nat := (t.bad.map (· / 2)).eraseDups
def Strand.lost (t : Strand) : List Nat := t.failing.filter fun n => t.noDup.contains n || !(t.dups.any (·.1 == n / 8))

/-- Special registers that `mts` can write (R110). -/
def writableSpecial (n : Nat) : Bool := n == 9 || n == 12 || n == 13 || n == 14

/-- The register that a window's save finds lost, numbered as `emr` selects it (R108, R402); a special register that `mts` cannot
write is not checked. -/
def Strand.lostArg (t : Strand) : Option Nat :=
  match t.lost with
  | n :: _ => some n
  | [] => if t.predBad then some 128 else (t.sregBad.find? writableSpecial).map (256 + ·)

/-- The fault of a lost register. -/
def lostFault (n : Nat) : FaultInfo := { cls := 5, code := 1, arg := n }

/-- Granules of a core's register file (R102) that no window holds. -/
def State.residents (s : State) (core : Nat) : List (Nat × Strand) :=
  (s.strands.filter fun e => e.1.1 == core).map fun e => (e.1.2, e.2)

def State.freeGran (s : State) (core : Nat) : List Nat :=
  let used := (s.residents core).flatMap fun e => e.2.gran
  ((List.range 252).map (· + 4)).filter fun n => !used.contains n

/-- A free granule that duplicates nothing. -/
def State.spareGran (s : State) (core : Nat) : Option Nat :=
  let dups := (s.residents core).flatMap fun e => e.2.dups.map (·.2)
  (s.freeGran core).find? fun n => !dups.contains n

/-- The failing registers of some granules of the window have no good duplicate, whatever is paired later (R107, R108). -/
def Strand.unpaired (t : Strand) (gs : List Nat) : Strand :=
  { t with noDup := (t.noDup ++ t.failing.filter fun n => gs.contains (n / 8)).eraseDups }

/-- The pairing of one granule of a window as the core has made or dropped it by now, a free choice (R106; assumption 84). -/
def settleGran (core : Nat) (x : State × Strand) (g : Nat) : State × Strand :=
  let (keep, s1) := x.1.drawBool
  if !keep then (s1, { x.2.unpaired [g] with dups := x.2.dups.filter (·.1 != g) })
  else if (x.2.dups.any (·.1 == g)) then (s1, x.2)
  else match s1.spareGran core with
    | none => (s1, x.2.unpaired [g])
    | some d => (s1.mapUid x.2.uid fun u => { u with dups := u.dups ++ [(g, d)] }, { x.2 with dups := x.2.dups ++ [(g, d)] })

/-- The pairings of the granules whose failing entries are now read or saved. -/
def State.settle (s : State) (core : Nat) (t : Strand) (regs : List Nat) : State × Strand :=
  (((t.failing.filter regs.contains).map (· / 8)).eraseDups).foldl (settleGran core) (s, t)

/-- A core's cluster is reserved for a gathering (R357). -/
def State.coreReserved (s : State) (core : Nat) : Bool := s.circ.volumes.any (·.reserved == some (clusterOf core))

/-- Granules that are taken on a reserved cluster are held when they free again (R357). -/
def State.closeGran (s : State) (core : Nat) (gran : List Nat) : State :=
  if s.coreReserved core then
    let c := s.core core
    s.setCore core { c with closed := { c.closed with gran := (c.closed.gran ++ gran).eraseDups } }
  else s

/-- Granules that are allotted end the pairings in which they are duplicates (R106). -/
def State.endPairs (s : State) (core : Nat) (gran : List Nat) : State :=
  State.closeGran { s with strands := s.strands.map fun e =>
      if e.1.1 == core then (e.1, { e.2.unpaired ((e.2.dups.filter fun d => gran.contains d.2).map (·.1)) with
        dups := e.2.dups.filter fun d => !gran.contains d.2 }) else e } core gran

/-- Write a strand's segment table, save area and slip, and take it out of its slot; which of its granules have a duplicate is settled.
A lost register is saved as 0 and makes the slip FAULTED (R108): answers its number. A good duplicate's value is saved and nothing is
counted (assumption 59). -/
def State.saveSettled (s : State) (core slot : Nat) (t : Strand) (pc state fcls fcode : Nat) (a : Aside) : State × Option Nat :=
  let pa := t.slip - Config.areaVA
  let lost := t.lostArg
  let held := t.ops.filter Op.lands
  let kept := held.take 16
  let t1 := { t with regs := (List.range t.regs.length).map fun n => if t.lost.contains n then 0 else t.g n }
  let st := if lost.isSome then 3 else state
  let fc := if lost.isSome then 5 else fcls
  let fd := if lost.isSome then 1 else fcode
  let s1 := s.areaPut t.vol t.segt (pa + 64) ((t.sregs.flatMap fun d => [descLow d, descHigh d]).flatMap (leBytes 8))
  let s4 := s1.areaPut t.vol t.save (pa + 192) ((t.dsa.toNat :: List.replicate 7 0).flatMap (leBytes 8) ++ kept.flatMap pendBytes ++
    List.replicate ((16 - kept.length) * 80) 0 ++ (t1.regs.map (·.toNat)).flatMap (leBytes 8))
  let s5 := s4.wrWords pa (slipWords t1 pc st 0 fc fd kept.length)
  let more := (held.drop 16).map fun o => (o, Again.nothing)
  let a1 : Aside := { a with
    vol := t.vol, pa := pa, uid := t.uid, sw := if t.atSwitch then some pc else none, acc := t.acc, faulter := t.faulter, redo := a.redo ++ more, notes := kept.map Op.note, core := some core, slot := slot }
  ({ s5.dropStrand core slot with circ := { s5.circ with asides := s5.circ.asides.filter (fun x => x.pa != pa) ++ [a1] } }, lost)

/-- Save a strand (R79, R80, R88). -/
def State.saveStrand (s : State) (core slot : Nat) (t : Strand) (pc state fcls fcode : Nat) (a : Aside) : State × Option Nat :=
  let x := s.settle core t (List.range t.regs.length)
  x.1.saveSettled core slot x.2 pc state fcls fcode a

/-- Fields of a slip in memory. -/
def State.slipDw (s : State) (pa i : Nat) : Word := s.rdW (pa + 8 * i)
def State.slipState (s : State) (pa : Nat) : Nat := fld (s.slipDw pa 0) 50 48
def State.slipPrio (s : State) (pa : Nat) : Nat := fld (s.slipDw pa 0) 54 52
def State.slipHome (s : State) (pa : Nat) : Nat := fld (s.slipDw pa 3) 58 48
def State.slipVol (s : State) (pa : Nat) : Nat := fld (s.slipDw pa 2) 63 48
def State.slipFault (s : State) (pa : Nat) : Nat × Nat := (fld (s.slipDw pa 4) 63 61, fld (s.slipDw pa 4) 60 48)

def State.setSlipDw (s : State) (pa i v : Nat) : State := s.wrN (pa + 8 * i) 8 v

def State.setSlipState (s : State) (pa st : Nat) : State :=
  let w := (s.slipDw pa 0).toNat
  s.setSlipDw pa 0 (w - bitsN w 50 48 * 2 ^ 48 + st * 2 ^ 48)

def State.setSlipPc (s : State) (pa pc : Nat) : State :=
  let w := (s.slipDw pa 0).toNat
  s.setSlipDw pa 0 (w / 2 ^ 48 * 2 ^ 48 + pc % 2 ^ 48)

def State.setSlipFault (s : State) (pa cls code : Nat) : State :=
  let w := (s.slipDw pa 4).toNat
  s.setSlipDw pa 4 (w % 2 ^ 48 + code * 2 ^ 48 + cls * 2 ^ 61)

def State.setSlipLink (s : State) (pa va : Nat) : State :=
  let w := (s.slipDw pa 3).toNat
  s.setSlipDw pa 3 (w / 2 ^ 48 * 2 ^ 48 + va % 2 ^ 48)

/-- The area that a slip VA names in a volume's address space. -/
def State.slipAt (s : State) (vol va : Nat) : Option Nat :=
  match s.areaLeaf vol va with
  | some pa => if s.circ.areas.any (fun a => a.2 == pa) then some pa else none
  | none => none

/-- Room has been freed: placement runs while a gathering is not placed (R355). -/
def State.roomFreed (s : State) : State := if (s.circ.volumes.any fun v => decide (v.next < v.count)) then s.pushNew .placement else s

/-! ## Run lists (R83) -/

/-- Append a READY slip at the tail of a core's list. -/
def State.appendRun (s : State) (core prio vol pa : Nat) : State :=
  let c := s.core core
  let l := c.runs.getD prio []
  let s1 := match l.getLast? with
    | some e => s.setSlipLink e.2 (Config.areaVA + pa)
    | none => s
  let s2 := (s1.setSlipState pa 1).setSlipLink pa 0
  s2.setCore core { c with runs := setAt c.runs prio (l ++ [(vol, pa)]) }

/-- Take a slip out of a core's run lists. -/
def State.removeRun (s : State) (core pa : Nat) : State :=
  let c := s.core core
  s.setCore core { c with runs := c.runs.map fun l => l.filter fun e => e.2 != pa }

/-! ## Strand areas and new slips (R359, R369) -/

/-- The lowest free area below the top of a cluster's slice (assumption 8). -/
def State.freeArea (s : State) (cluster : Nat) : Nat :=
  let top := (cluster + 1) * Config.sliceSize
  let used := s.circ.areas ++ s.circ.spare
  let pas := (List.range (2 * used.length + 1)).map fun i => top - Config.areaSize * (i + 1)
  (pas.find? fun pa => !used.any fun a => decide (a.2 < pa + Config.areaSize) && decide (pa < a.2 + Config.areaSize)).getD 0

def State.allotArea (s : State) (cluster vol : Nat) : Nat × State :=
  let pa := s.freeArea cluster
  (pa, { s with circ := { s.circ with areas := s.circ.areas ++ [(vol, pa)] } })

/-- An entry of a volume's slip pool: one that has been in use before, else a new one. -/
def State.allotPool (s : State) (vol : Nat) : Nat × State :=
  match s.circ.spare.find? (·.1 == vol) with
  | some a => (a.2, { s with circ := { s.circ with areas := s.circ.areas ++ [a], spare := s.circ.spare.filter (· != a) } })
  | none => s.allotArea (Config.clusters - 1) vol

def State.dropArea (s : State) (pa : Nat) : State :=
  { s with circ := { s.circ with areas := s.circ.areas.filter (·.2 != pa), asides := s.circ.asides.filter (·.pa != pa) } }

/-- A strand as its creator sets it up (R81). -/
def newStrand (uid vol gidx : Nat) (free : Bool) (lane role prio home wgr pc slip holdp : Nat) (det : Bool)
    (sregs : List Desc) (acc : Option Nat) : Strand :=
  { uid := uid, vol := vol, gidx := gidx, free := free, lane := lane, role := role, prio := prio, home := home,
    slip := slip, segt := slip + 64, save := slip + 192, holdp := holdp, wgr := wgr, pc := pc,
    regs := List.replicate (8 * (wgr + 1)) 0, dst := if det then 4 else 0, sregs := sregs, acc := acc }

/-- Load registers g0 upward. -/
def Strand.args (t : Strand) (vs : List Word) : Strand :=
  { t with regs := (vs ++ t.regs.drop vs.length).take t.regs.length }

/-- Create a free strand as a slip in the volume's pool (R369): state 0 NEW, or 1 READY on its home run list. -/
def State.newSlip (s : State) (v : Volume) (prio home wgr gidx pc holdp state : Nat) (sregs : List Desc) (args : List Word)
    (acc : Option Nat) : Nat × State :=
  let (pa, s0) := s.allotPool v.id
  let (uid, s1) := s0.fresh
  let t := (newStrand uid v.id gidx true 255 0 prio home wgr pc (Config.areaVA + pa) holdp v.det sregs acc).args args
  let s1' := (s1.saveStrand Config.cores 0 t pc state 0 0 { vol := v.id, pa := pa }).1
  let s2 : State := { s1' with circ := { s1'.circ with asides := mapIf (·.pa == pa) (fun a => { a with core := none }) s1'.circ.asides } }
  let s3 := match s2.volume v.id with
    | some v' => s2.setVolume { v' with pool := v'.pool ++ [pa] }
    | none => s2
  let s4 := s3.bumpExec v.id acc 1
  (pa, if state == 1 then s4.appendRun home prio v.id pa else s4)

/-- The instruction word at an address of a volume, as a fault record names it (R402): from the core's instruction cache, else from memory. -/
def State.wordAt (s : State) (core vol pc : Nat) : Word :=
  match (s.core core).icache.find? fun e => e.1 == vol && e.2.1 == pc with
  | some e => e.2.2
  | none => match s.translate (s.cluster (clusterOf core)).tlb vol pc .fetch with
    | .key k _ => s.rdW k
    | _ => 0

/-! ## Taking an exception (R76, R241, R398 to R402) -/

/-- The fault record (R402). -/
def faultRecord (slip : Nat) (f : FaultInfo) (pc : Nat) (word : Word) (cnt core slot gidx : Nat) : List Word :=
  [ ofN slip, ofN (pc % 2 ^ 48 + f.code * 2 ^ 48 + f.cls * 2 ^ 61), ofN f.arg, word, ofN (f.access * 2 ^ 8 + f.size * 2 ^ 12),
    ofN (cnt % 2 ^ 48), ofN (gidx + slot * 2 ^ 40 + core * 2 ^ 48), 0 ]

/-- Spawn the handler task of a FAULTED slip, or tell slot 63 of the route core (R400). -/
def State.handlerTask (s : State) (vol prio home gidx core pa : Nat) (sregs : List Desc) (cls : Nat) (record : List Word) : State :=
  match s.volume vol with
  | none => s.supMsg (some core) core 8 cls ((Config.areaVA + pa) / 16)
  | some v =>
    match s.resolveVA vol v.fhv with
    | some (i, e) =>
      if v.pool.length < v.runlist && !v.handlers.contains pa then
        let (hp, s1) := s.newSlip v prio home 0 gidx v.fhv 0 1 (codeDesc e :: sregs.drop 1) record (some i)
        match s1.volume vol with
        | some v' => s1.setVolume { v' with handlers := v'.handlers ++ [hp] }
        | none => s1
      else s.supMsg (some (v.route core)) core 8 cls ((Config.areaVA + pa) / 16)
    | none => s.supMsg (some (v.route core)) core 8 cls ((Config.areaVA + pa) / 16)

/-- The route of a strand's class-1 message (R399, R41): a core, or the cluster's curator. -/
def State.routeOf (s : State) (t : Strand) (core slot : Nat) : Option Nat :=
  match s.volume t.vol with
  | some v => if slot == 63 then (if (v.dw 7).getLsbD 63 then some (v.route core) else none) else some (v.route core)
  | none => if slot == 63 then none else some core

/-- Members of the strand's group before it have still to halt, or to go on (R42). -/
def State.haltMates (s : State) (t : Strand) : Bool :=
  t.group != 0 && s.strands.any fun e => e.2.group == t.group && decide (e.2.colI < t.colI)

/-- The halt of R40 and R399, once nothing is outstanding: results land, the halt block is written, the message is sent, and a member that
halts after it is asked again (R42). The record
names the faulting instruction: `pc` and its word. Accesses that faulted are kept, to be performed again when the strand is resumed
(R398). -/
def State.haltNow (s : State) (core slot : Nat) (t : Strand) (f : FaultInfo) (pc : Nat) (word : Word) : State :=
  let (s1, t1) := s.land core slot t
  let c := s1.core core
  let rec_ := faultRecord 0 f pc word t1.cnt core slot t1.gidx
  let s2 := s1.setCore core { c with halts := aput c.halts slot rec_ }
  let s3 := s2.setStrand core slot { t1.alone with run := .halted, prog := 0 }
  let mates := s3.strands.filter fun e => t.group != 0 && e.2.group == t.group && (match e.2.run with | .halting _ _ => true | _ => false)
  mates.foldl (fun s e => s.pushNew (.strandWake e.1.1 e.1.2)) (s3.supMsg (s3.routeOf t core slot) core 8 1 (slot * 2 ^ 38 + core * 2 ^ 27))

/-- A class-1 halt: at once, or when the outstanding operations have returned (R399) and the members before it have halted (R42). -/
def State.halt (s : State) (core slot : Nat) (t : Strand) (f : FaultInfo) (word : Word) : State :=
  if t.outstanding.isEmpty && !s.haltMates t then s.haltNow core slot t f t.pc word
  else s.setStrand core slot { t with run := .halting f word }

/-- What a failed operation of the strand is performed again with: its access, engine request or tile operation. -/
def State.againOf (s : State) (core id : Nat) : Option Again :=
  match s.flights.find? fun f => f.id == id && f.failed with
  | some f => some (.flight { f with failed := false, k := 0, acc := 0, epoch := none, joined := none, spill := none, out := false, kab := none,
                                     parts := f.parts.map fun p => { p with key := none, kpage := none, far := none } })
  | none =>
    match ((s.cluster (clusterOf core)).reqs ++ s.circ.reqs ++ s.net.reqs).find? fun r => r.id == id && r.failed with
    | some r => some (.req { r with failed := false })
    | none => ((s.core core).tileOps.find? fun o => o.id == id && o.failed).map fun o => .tile { o with failed := false }

/-- The operations of a strand whose faults it has not taken, in issue order: each is performed again on its resumption; one with nothing
to perform keeps its fault until a switch point (R76, R398). -/
def State.redoOf (s : State) (core : Nat) (t : Strand) : List (Op × Again) :=
  (t.ops.filter fun o => o.fault.isSome).map fun o => match s.againOf core o.id with
    | some a => ({ o with fault := none, stage := .sent }, a)
    | none => (o, .nothing)

/-- Take back the failed accesses and requests of a strand. -/
def State.dropFailed (s : State) (core uid : Nat) : State :=
  let k := s.core core
  let cl := s.cluster (clusterOf core)
  let gone (r : Req) : Bool := r.iss.uid == uid && r.failed
  let s1 := if (k.tileOps.any fun o => o.iss.uid == uid && o.failed) then
      (s.setCore core { k with tileOps := k.tileOps.filter fun o => !(o.iss.uid == uid && o.failed) }).pushNew (.taskStart (clusterOf core))
    else s
  let s2 := if cl.reqs.any gone then s1.setCluster (clusterOf core) { cl with reqs := cl.reqs.filter fun r => !gone r } else s1
  { s2 with flights := s2.flights.filter fun f => !(f.uid == uid && f.failed),
            circ := { s2.circ with reqs := s2.circ.reqs.filter fun r => !gone r },
            net := { s2.net with reqs := s2.net.reqs.filter fun r => !gone r } }

/-- Rounds that a `wait` has still to pass, as they are kept beside a saved slip: one more than those after the next (R101). -/
def Run.due : Run → Nat
  | .waiting n => n + 1
  | _ => 0

/-- A fault of class 3 or 5, or class 2 without an upcall, on a strand whose operations have all returned: the strand is
saved FAULTED with its PC at the faulting instruction, and the handler task is spawned (R400). A strand without a slip (slot
63, an upcall) halts in its slot instead (R242; slot 63 by assumption 14). -/
def State.faultNow (s : State) (core slot : Nat) (t : Strand) (f : FaultInfo) (pc : Nat) (word : Word) : State :=
  if slot == 63 || t.faulter.isSome then (s.endCollation t).haltNow core slot t f pc word
  else
    let redo := s.redoOf core t
    let s1 := (s.dropFailed core t.uid).endCollation t
    let (s2, lost) := s1.saveStrand core slot t t.pc 3 f.cls f.code { vol := t.vol, pa := t.slip - Config.areaVA, left := t.run.due, redo := redo }
    -- a register-lost fault of a read keeps the register that was read (R107)
    let f' := if f.cls == 5 && f.code == 1 then f else (lost.map lostFault).getD f
    (s2.handlerTask t.vol t.prio t.home t.gidx core (t.slip - Config.areaVA) t.sregs f'.cls
      (faultRecord t.slip f' pc word t.cnt core slot t.gidx)).pushNew .placement

/-- The acquire of a task that starts in an accession's code on a core: the range leaves the core's instruction cache (R225, R426). -/
def State.dropCode (s : State) (core base size : Nat) : State :=
  let c := s.core core
  s.setCore core { c with icache := c.icache.filter fun e => !(decide (base ≤ e.2.1) && decide (e.2.1 < base + 8 * size)) }

/-- A page fault (R241): the faulter is saved PARKED and the upcall starts in its slot; without an upcall it is a task
fault (R19). -/
def State.pageFault (s : State) (core slot : Nat) (t : Strand) (f : FaultInfo) (pc : Nat) (word : Word) : State :=
  let up := (s.volume t.vol).bind fun v => (s.resolveVA t.vol v.upv).map fun r => (v, r)
  match up with
  | none => s.faultNow core slot t f pc word
  | some (v, i, e) =>
    if slot == 63 || t.faulter.isSome then s.faultNow core slot t f pc word
    else
      let redo := s.redoOf core t
      let s1 := (s.dropFailed core t.uid).endCollation t
      let (s2, lost) := s1.saveStrand core slot t t.pc 2 2 f.code { vol := t.vol, pa := t.slip - Config.areaVA, left := t.run.due, redo := redo }
      match lost with
      | some n =>
        (s2.handlerTask t.vol t.prio t.home t.gidx core (t.slip - Config.areaVA) t.sregs 5
          (faultRecord t.slip (lostFault n) pc word t.cnt core slot t.gidx)).pushNew .placement
      | none =>
        let (uid, s3) := s2.fresh
        let u := newStrand uid t.vol t.gidx true 255 0 t.prio t.home t.wgr v.upv 0 0 v.det (codeDesc e :: t.sregs.drop 1) (some i)
        let u1 := { u.args [ofN t.slip, ofN f.arg, ofN (f.code + f.access * 2 ^ 8 + f.size * 2 ^ 12), ofN pc] with
                    gran := t.gran, faulter := some t.slip, segt := 0, save := 0 }
        ((s3.dropCode core e.base e.size).setStrand core slot u1).bumpExec t.vol (some i) 1

/-- An operation whose fault is taken: an access or a request is kept, to be performed again (R76); an arrival that overflowed has been
made (R191), and of the others nothing is left to perform. -/
def State.faultTaken (s : State) (core : Nat) (t : Strand) (o : Op) : State × Strand :=
  let made := s.flights.any fun f => f.id == o.id && f.failed && f.kind == .swadd && o.fault.any (·.code == 0x15)
  if made || (s.againOf core o.id).isNone then
    ({ s with flights := s.flights.filter (·.id != o.id) }, { t with ops := t.ops.filter (·.id != o.id) })
  else (s, t)

/-- Deliver a fault that a switch point found among returned operations (R76): results without fault land first, then the
fault is taken with the PC at the switch point, where the results of what is performed again land on resumption; the record names the
access's own instruction. -/
def State.faultAtSwitch (s : State) (core slot : Nat) (t : Strand) (o : Op) (f : FaultInfo) : State :=
  let r := s.land core slot { t with atSwitch := true }
  let (s1, t1) := r.1.faultTaken core r.2 o
  if f.cls == 2 then s1.pageFault core slot t1 f o.pc o.word else s1.faultNow core slot t1 f o.pc o.word

/-- A fault found at issue, at the strand's own pc (R400): a fault that has returned goes first (assumption 10), at this instruction, once
every operation has returned; else the outstanding operations are waited for. -/
def State.faultAtIssue (s : State) (core slot : Nat) (t : Strand) (f : FaultInfo) (word : Word) : State :=
  match t.faulted with
  | some o => match o.fault with
    | some g =>
      if t.outstanding.isEmpty then s.faultAtSwitch core slot t o g
      else s.setStrand core slot { t with run := .parked .results, atSwitch := true }
    | none => s
  | none =>
    if t.outstanding.isEmpty then
      (if f.cls == 2 then s.pageFault core slot t f t.pc word else s.faultNow core slot t f t.pc word)
    else (s.endCollation t).setStrand core slot { t.alone with run := .faulting f word }

end Sys2Proof.Machine
end

