-- ==== Sys2Proof/Machine/Operands.lean ====
section
/-! DEFINITION. Issue of one instruction word by the strand at `clk.cur`: operand forms, predicate, switch points and landing
(R72 to R76), window, port and parity checks, pops and pushes (R163 to R169), and how an instruction ends. -/

namespace Sys2Proof.Machine

open Sys2Proof

/-! ## What issue must know of an instruction -/

structure Form where
  h    : Hdr
  word : Word
  /-- general registers read, ds fields among them, and general registers written -/
  src  : List GOp := []
  dst  : List GOp := []
  vsrc : List (Fin 16) := []
  vdst : List (Fin 16) := []
  /-- reads the predicate word as a source; special registers read -/
  rdP  : Bool := false
  rdS  : List Nat := []
  /-- a switch point by its own description (R73) -/
  self : Bool := false
  /-- changes strand state other than one destination (R167) -/
  chg  : Bool := false
  /-- a long-latency operation, and its class under R75 -/
  long : Bool := false
  cls  : OpClass := .other
  /-- a memory access or an engine instruction (R196) -/
  access : Bool := false
  /-- waits for the strand's stores to remote windows (R196, R208) -/
  rel  : Bool := false
  /-- a control transfer of R150 -/
  ctl  : Bool := false
  /-- a spanning instruction: long-latency under collation (R150) -/
  span : Option Instr := none
deriving DecidableEq, Repr

def wordOf (i : Instr) : Word := (encode i).getD 0

def isPort : GOp → Bool
  | .g _ | .z => false
  | _ => true

def Form.pop (f : Form) : Option GOp := f.src.find? isPort
def Form.push (f : Form) : Option GOp := f.dst.find? isPort

def vgSrc : VG → List GOp
  | .g r => [r]
  | .v _ => []
def vgVec : VG → List (Fin 16)
  | .v r => [r]
  | .g _ => []

/-! ## Port queues (R163, R164) -/

/-- The lane of the partner slot of a declared pair. -/
def State.partnerLane (s : State) (t : Strand) (slot : Nat) : Nat :=
  match s.gathering t.vol t.gidx with
  | none => 0
  | some g => ((g.members.find? fun m => m.role == t.role && m.slot == (if slot % 2 == 0 then slot + 1 else slot - 1)).map
      Member.lane).getD 0

def State.coreCount (s : State) (t : Strand) : Nat := ((s.gathering t.vol t.gidx).map (·.cores.length)).getD 1

/-- The queue a port names for a strand in a slot: a queue it feeds, or one it reads. -/
def State.portQ (s : State) (t : Strand) (slot : Nat) (p : GOp) : QId :=
  let C := s.coreCount t
  let own : QId := { vol := t.vol, gidx := t.gidx, role := t.role, lane := t.lane, src := .role t.role }
  match p with
  | .qup => { own with src := .role ((t.role + C - 1) % C) }
  | .qdn => { own with role := (t.role + 1) % C }
  | .qto => { own with role := t.tgt.toNat }
  | .qa => if slot % 2 == 0 then { own with lane := s.partnerLane t slot, src := .qa } else { own with src := .qa }
  | .qc => if slot % 2 == 0 then { own with src := .qc } else { own with lane := s.partnerLane t slot, src := .qc }
  | _ => own

/-- A word that a read port may take. -/
def State.portTakes (s : State) (t : Strand) (slot : Nat) (p : GOp) (w : PortWord) : Bool :=
  match p with
  | .qin => w.q.vol == t.vol && w.q.gidx == t.gidx && w.q.role == t.role && w.q.lane == t.lane &&
      (match w.q.src with | .role _ => true | _ => false)
  | _ => w.q == s.portQ t slot p

/-- An inbox message of a strand (R172, R173). -/
def inboxTakes (t : Strand) (slot : Nat) (m : InMsg) : Bool :=
  if slot == 63 then m.vol == 0 && m.lane == 63 else m.vol == t.vol && m.lane == t.lane

/-- Remove the first element that a test finds. -/
def removeFirst {α : Type} (p : α → Bool) : List α → List α
  | [] => []
  | x :: r => if p x then r else x :: removeFirst p r

/-- An entry of a core's inbox has become free: messages that wait for one are tried again (R174). -/
def State.kickInbox (s : State) (core : Nat) : State :=
  let s1 := (s.fab.eng.filter (·.core == core)).foldl (fun s m => s.pushNew (.engineMessageDeliver m.id)) s
  (s.fab.sup.filter (·.dst == some core)).foldl (fun s m => s.pushNew (.faultMessageDeliver m.id)) s1

/-- `pop` of R166: the word and the state after it, or nothing when the queue is empty. -/
def State.popPort (s : State) (core slot : Nat) (t : Strand) (p : GOp) : Option (Word × State) :=
  let c := s.core core
  match p with
  | .ib => (c.inbox.find? (inboxTakes t slot)).map fun m =>
      (m.word, (s.setCore core { c with inbox := removeFirst (inboxTakes t slot) c.inbox }).kickInbox core)
  | _ => (c.words.find? (s.portTakes t slot p)).map fun w =>
      (w.val, (s.setCore core { c with words := removeFirst (s.portTakes t slot p) c.words }).sendMsg core slot
        (s.feederCore w.q) (.credit w.q))

/-- What a strand that pops this port waits for. -/
def State.popPark (s : State) (t : Strand) (slot : Nat) (p : GOp) : Park :=
  match p with
  | .ib => .inbox
  | .qin => .anyQueue
  | _ => .queue (s.portQ t slot p)

/-- A port fault (R169): the strand may not use this port. -/
def State.portBad (s : State) (t : Strand) (slot : Nat) (p : GOp) : Bool :=
  p != .ib && (t.free || slot == 63 || s.portDepth t.vol == 0 || (p == .qto && decide (s.coreCount t ≤ t.tgt.toNat)))

/-- A word for this read port has arrived at the core. -/
def State.portHas (s : State) (core slot : Nat) (t : Strand) (p : GOp) : Bool := (s.core core).words.any (s.portTakes t slot p)

/-- A strand waits for a queue fed only by fenced cores, or for a credit of a fenced one (R177). -/
def State.fencedWait (s : State) (vol gidx : Nat) : Park → Bool
  | .queue q => s.coreFenced (s.feederCore q)
  | .credit q => s.coreFenced (s.queueCore q)
  | .anyQueue => ((s.gathering vol gidx).map fun g => g.cores.all s.coreFenced).getD false
  | _ => false

/-- The port reaches fenced cores only, and for a read no word has arrived (R177). -/
def State.portFenced (s : State) (core slot : Nat) (t : Strand) (p : GOp) (write : Bool) : Bool :=
  match p with
  | .ib => false
  | .qin => ((s.gathering t.vol t.gidx).map fun g => g.cores.all s.coreFenced).getD false && !s.portHas core slot t p
  | _ => if write then s.coreFenced (s.queueCore (s.portQ t slot p))
    else s.coreFenced (s.feederCore (s.portQ t slot p)) && !s.portHas core slot t p

/-! ## The issuing strand -/

/-- The strand that executes an instruction, and the instruction's popped word. -/
structure Ctx where
  s    : State
  core : Nat
  slot : Nat
  t    : Strand
  word : Word
  /-- the word popped by a read port, and the pending result it became (R167) -/
  popped : Word := 0
  popOp  : Option Nat := none

/-- How an instruction ends. -/
inductive Out where
  /-- executed; the next instruction follows -/
  | go (c : Ctx)
  /-- executed; a control transfer -/
  | jump (c : Ctx) (pc : Nat)
  /-- nothing executed; the strand parks at the instruction -/
  | park (p : Park)
  /-- issued; the strand parks until operation `id` has completed and landed (R188) -/
  | block (c : Ctx) (id : Nat)
  /-- `wait`: executed, and rounds are due (R101) -/
  | rest (c : Ctx) (n : Nat)
  /-- a fault found at issue -/
  | fault (f : FaultInfo)
  /-- a fault found at issue after an effect that stays -/
  | faultAfter (c : Ctx) (f : FaultInfo)
  /-- the strand has left its slot, or the instruction has set its state itself -/
  | left (s : State)

/-- A task fault. -/
def taskFault (code : Nat) (arg : Nat := 0) : FaultInfo := { cls := 3, code := code, arg := arg }

/-- The value of a general source (R28, R167). -/
def Ctx.g (c : Ctx) : GOp → Word
  | .g n => c.t.g n
  | .z => 0
  | _ => c.popped

def Ctx.v (c : Ctx) (n : Fin 16) : Vec := c.t.v n.val

def Ctx.p (c : Ctx) (n : Fin 16) : Bool := c.t.pred.getLsbD n

/-- Raise flags in `fflg`. Raising is no read of it: it neither finds a failing parity nor mends it (DESIGN CHOICE, assumption 59). -/
def Ctx.flags (c : Ctx) (fl : FlagWord) : Ctx := { c with t := { c.t with fflg := c.t.fflg ||| fl } }

/-- Where a long-latency or held result goes. -/
def Ctx.dest (c : Ctx) : GOp → Dest
  | .g n => .g n
  | .z => .z
  | p => .push p.byte.toNat (c.s.portQ c.t c.slot p)

/-- Make the instruction's result the pending result of its pop (R167). -/
def Ctx.hold (c : Ctx) (id : Nat) (d : Dest) (v : Vec) (fl : FlagWord) : Ctx :=
  { c with t := { c.t with ops := mapIf (·.id == id) (fun o => { o with dest := d, val := v, flags := fl }) c.t.ops } }

/-- Write a general destination and raise flags: now (R72), to a write port (R165), or as a pending result (R167). -/
def Ctx.put (c : Ctx) (d : GOp) (v : Word) (fl : FlagWord := 0) : Ctx :=
  match c.popOp with
  | some id => c.hold id (c.dest d) (v.setWidth 512) fl
  | none => match d with
    | .g n => { c with t := { c.t.setG n v with fflg := c.t.fflg ||| fl } }
    | .z => c.flags fl
    | p => { c.flags fl with s := c.s.pushWord c.core c.slot (c.s.portQ c.t c.slot p) v }

def Ctx.putV (c : Ctx) (d : Fin 16) (v : Vec) (fl : FlagWord := 0) : Ctx :=
  match c.popOp with
  | some id => c.hold id (.v d) v fl
  | none => { c with t := { c.t.setV d v with fflg := c.t.fflg ||| fl } }

def Ctx.putP (c : Ctx) (d : Fin 16) (b : Bool) (fl : FlagWord := 0) : Ctx :=
  match c.popOp with
  | some id => c.hold id (.p d) (if b then 1 else 0) fl
  | none => { c with t := { c.t.setP d b with fflg := c.t.fflg ||| fl } }

/-- Add an outstanding or held operation of the strand; answers its name. -/
def Ctx.op (c : Ctx) (d : Dest) (cls : OpClass := .other) (acq access : Bool := false) : Nat × Ctx :=
  let (id, s1) := c.s.fresh
  (id, { c with s := s1, t := { c.t with ops := c.t.ops ++
    [{ id := id, pc := c.t.pc, word := c.word, seq := c.t.cnt, dest := d, cls := cls, acq := acq, access := access }] } })

/-- Change an operation of the strand. -/
def Ctx.setOp (c : Ctx) (id : Nat) (f : Op → Op) : Ctx := { c with t := { c.t with ops := mapIf (·.id == id) f c.t.ops } }

/-- An operation whose result returns after `frames` frames (R162). -/
def Ctx.replyIn (c : Ctx) (frames id : Nat) : Ctx :=
  { c with s := c.s.sendAt (c.s.clk.frame + frames) c.core c.slot c.core (.reply id) }

/-- A long-latency instruction whose value is known at issue, and whose result returns as the answer of a core does (R363, R372). -/
def Ctx.resultFrom (c : Ctx) (d : GOp) (core : Nat) (v : Word) : Ctx :=
  let (id, c1) := c.op (c.dest d)
  (c1.setOp id fun o => { o with stage := .done, val := v.setWidth 512 }).replyIn (2 * (hops c.core core + 1)) id

/-- A long-latency instruction whose value is known at issue and whose result returns within its own round: sent, done, and
on its way (assumption 1 fixes when it arrives). -/
def Ctx.result (c : Ctx) (d : GOp) (v : Word) (fl : FlagWord := 0) : Ctx :=
  let (id, c1) := c.op (c.dest d)
  let c2 := c1.setOp id fun o => { o with stage := .done, val := v.setWidth 512, flags := fl }
  { c2 with s := c2.s.push (.resultReturn c.core c.slot id) }

/-! ## Predicate and switch points -/

/-- The leader of a collation group. -/
def State.leaderOf (s : State) (t : Strand) : Option Strand :=
  (s.strands.find? fun e => e.2.group == t.group && e.2.colI == 0).map (·.2)

/-- A follower that issues a control transfer takes the leader's decision (R150). -/
def follows (f : Form) (t : Strand) : Bool := f.ctl && t.group != 0 && t.colI != 0

/-- The leader's decision on the word that a follower is to issue: none yet, or none ever where the leader has left at that word. -/
def State.leadOf (s : State) (t : Strand) : Option Decision :=
  match t.lead with
  | some d => some d
  | none => (s.leaderOf t).bind fun l => if t.colN < l.colN then some l.decision else none

/-- The predicate of R31, or the leader's. -/
def State.predTrue (s : State) (f : Form) (t : Strand) : Bool :=
  let w := if follows f t then ((s.leadOf t).map Decision.pred).getD t.pred else t.pred
  w.getLsbD f.h.pr != f.h.pn

/-- Operations that count toward the 16 of R75. -/
def Strand.counted (t : Strand) : Nat := (t.ops.filter fun o => o.stage != .held || o.pop).length

/-- An operation that is not over: it is outstanding, or it returned a fault and is performed again on resumption, so that what it orders
still comes after it (R76, R214, R215). -/
def Op.pending (o : Op) : Bool := o.stage != .held || o.fault.isSome

/-- The implicit switch points of R75. -/
def Strand.overLimit (t : Strand) (f : Form) : Bool :=
  let long := f.long || (f.span.isSome && t.group != 0)
  decide (16 < t.counted + (if long then 1 else 0) + (if f.pop.isSome then 1 else 0) ∧ (long || f.pop.isSome)) ||
  (f.cls == .ordered && (t.ops.any fun o => o.pending && o.cls == .ordered)) ||
  (f.cls == .relaxed && decide (8 ≤ (t.ops.filter fun o => o.pending && o.cls == .relaxed).length))

/-- A switch point (R73, R75, R167, R196); one at which the strand has parked is one until it is passed. -/
def State.switches (s : State) (f : Form) (t : Strand) : Bool :=
  f.h.sw || t.atSwitch || (s.predTrue f t && (f.self || (f.pop.isSome && f.chg) || t.overLimit f ||
    (f.access && (t.ops.any fun o => o.pending && o.acq))))

/-- A held push that finds no credit (assumption 11). -/
def State.pushShort (s : State) (t : Strand) : Option QId :=
  let qs := (t.ops.filter Op.lands).filterMap fun o => match o.dest with | .push _ q => some q | _ => none
  qs.find? fun q => decide (s.credits q < qs.count q)

/-- A store to a remote window of the strand that its peer has not placed (R208). -/
def State.farStores (s : State) (uid : Nat) : Bool := s.net.far.any fun r => r.uid == uid && r.write

/-! ## Checks at issue -/

def Form.regs (f : Form) : List Nat :=
  (f.src.filterMap fun g => match g with | .g n => some n.val | _ => none) ++
  (f.vsrc.flatMap fun v => (List.range 8).map (8 * v.val + ·))

/-- A register at or above the window (R30, R129). -/
def Form.outside (f : Form) (size : Nat) : Bool :=
  ((f.src ++ f.dst).any fun g => match g with | .g n => decide (size ≤ n.val) | _ => false) ||
  ((f.vsrc ++ f.vdst).any fun v => decide (size < 8 * v.val + 8))

/-- Special registers that the instruction reads: its own, and `tgt` for `qto`. -/
def Form.specials (f : Form) : List Nat := f.rdS ++ (if f.push == some .qto then [9] else [])

/-- A lost register among those read: its number as `emr` selects it (R107, R108). Naming p0 as a source reads the predicate word, and a
predicate field of p0 does not (DEDUCED, assumption 24). A special register that `mts` cannot write is checked at a read as any other is
(DESIGN CHOICE, assumption 59). -/
def Form.lost (f : Form) (t : Strand) : Option Nat :=
  (f.regs.find? t.lost.contains).orElse fun _ =>
    if t.predBad && (f.rdP || f.h.pr.val != 0) then some 128 else (f.specials.find? t.sregBad.contains).map (256 + ·)

/-- The pairings of the granules whose failing entries the instruction reads are settled (R106). -/
def Ctx.settle (c : Ctx) (f : Form) : Ctx :=
  let r := c.s.settle c.core c.t f.regs
  { c with s := r.1, t := r.2 }

/-- Reads of registers whose parity fails and that have a duplicate: repaired and counted (R107). -/
def Ctx.repair (c : Ctx) (f : Form) : Ctx :=
  let fixed := c.t.failing.filter f.regs.contains
  if fixed.isEmpty then c
  else
    let k := c.s.core c.core
    { c with s := c.s.setCore c.core { k with corrected := k.corrected + fixed.length },
             t := { c.t with bad := c.t.bad.filter fun n => !f.regs.contains (n / 2) } }

/-- The checks of an instruction that executes, in order: window, ports, fenced ports, lost registers; the ports read `tgt` for `qto`, so
that a lost one comes before them (R107). -/
def Ctx.checks (c : Ctx) (f : Form) : Option FaultInfo :=
  let ports := (f.pop.toList ++ f.push.toList)
  if f.outside c.t.size then some (taskFault 0x10)
  else if f.push == some .qto && c.t.sregBad.contains 9 then (f.lost c.t).map lostFault
  else if (ports.any (c.s.portBad c.t c.slot)) then some (taskFault 0x11)
  else if (f.pop.toList.any (c.s.portFenced c.core c.slot c.t · false)) || (f.push.toList.any (c.s.portFenced c.core c.slot c.t · true)) then
    some { cls := 5, code := 3 }
  else (f.lost c.t).map lostFault

/-! ## Ends -/

/-- The strand has issued this word: rounds and the words of its group (R91, R149). -/
def Strand.issued (t : Strand) : Strand := { t with cnt := (t.cnt + 1) % 2 ^ 48, colN := t.colN + (if t.group == 0 then 0 else 1) }

def nextPc (pc : Nat) : Nat := (pc + 8) % 2 ^ 48

/-- Store the strand back after its instruction. `c0` is the strand before the body; `s0`, `t0` what a park leaves. Where a fault of an
earlier access goes before one that the instruction meets, the instruction has had no effect (R76). -/
def finish (s0 : State) (t0 : Strand) (c0 : Ctx) : Out → State
  | .go c => c.s.after c.core c.slot { c.t.issued with pc := nextPc c.t.pc }
  | .jump c pc => c.s.after c.core c.slot { c.t.issued with pc := pc }
  | .rest c n => c.s.after c.core c.slot { c.t.issued with pc := nextPc c.t.pc, run := .waiting n }
  | .block c id => c.s.after c.core c.slot { c.t.issued with run := .parked (.op id), prog := 1 }
  | .park p => s0.setStrand c0.core c0.slot { t0 with run := .parked p }
  | .fault f => c0.s.faultAtIssue c0.core c0.slot c0.t f c0.word
  | .faultAfter c f =>
    if c0.t.faulted.isSome then c0.s.faultAtIssue c0.core c0.slot c0.t f c0.word
    else c.s.faultAtIssue c.core c.slot c.t f c.word
  | .left s => s

/-- Take the popped word as the instruction's source: directly at a switch point, else as a pending result (R167). -/
def Ctx.take (c : Ctx) (landed : Bool) (v : Word) (s1 : State) : Ctx :=
  let c1 := { c with s := s1, popped := v }
  if landed then c1
  else
    let (id, c2) := c1.op .none
    { c2.setOp id (fun o => { o with pop := true, stage := .held }) with popOp := some id }

/-- A spanning instruction of a group's member is issued: its sources join the group's operation, whose results return once every
other present member has issued it (R150). `op` is none where the member's predicate is false: it gives its sources and takes no
result (assumption 61). -/
def Ctx.joinSpan (c : Ctx) (i : Instr) (op : Option Nat) (a b : Vec) : Ctx :=
  let here (x : Span) : Bool := x.group == c.t.group && x.n == c.t.colN
  let sp := (c.s.circ.spans.find? here).getD { group := c.t.group, n := c.t.colN, instr := i, parts := [] }
  let p : SpanPart := { idx := c.t.colI, uid := c.t.uid, op := op, a := a, b := b }
  let s1 : State := { c.s with circ := { c.s.circ with
    spans := c.s.circ.spans.filter (fun x => !here x && !(x.group == c.t.group && x.parts.all (·.op.isNone))) ++
      [{ sp with parts := sp.parts ++ [p] }] } }
  { c with s := s1.wakeSpans c.t.group }

/-- A spanning word whose predicate is false still gives the member's sources to its group (R31, R150; assumption 61). -/
def Ctx.gives (c : Ctx) (f : Form) : Bool := f.span.isSome && c.t.group != 0

/-- A lost register among those sources (R107). -/
def Ctx.skipFault (c : Ctx) (f : Form) : Option FaultInfo :=
  if c.gives f then ((f.regs.find? (c.settle f).t.lost.contains)).map lostFault else none

/-- What a word whose predicate is false still does (R31): a member's part of a spanning instruction, its sources read and repaired. -/
def Ctx.skip (c0 : Ctx) (f : Form) : Ctx :=
  match f.span with
  | none => c0
  | some i =>
    if c0.t.group == 0 then c0
    else
      let c := (c0.settle f).repair f
      c.joinSpan i none ((f.vsrc[0]?.map c.v).getD 0) ((f.vsrc[1]?.map c.v).getD 0)

/-- Execute an instruction whose predicate may be false, on the strand of `c0` after any landing (R31). Where it parks, what has landed has
(R73); but results that were held, in `s0` and `t0`, stay held while it parks on a read port (R166). -/
def execute (f : Form) (s0 : State) (t0 : Strand) (c0 : Ctx) (landed : Bool) (body : Ctx → Out) : State :=
  let here : Strand := { c0.t with atSwitch := landed }
  if c0.s.predTrue f c0.t then
    let c := c0.settle f
    match c.checks f with
    | some e => finish c0.s here c (.fault e)
    | none =>
      let c1 := c.repair f
      if f.rel && c1.s.farStores c1.t.uid then finish c0.s here c1 (.park .remote)
      else match f.push with
        | some p =>
          if !f.long && c1.s.credits (c1.s.portQ c1.t c1.slot p) == 0 then
            finish c0.s here c1 (.park (.credit (c1.s.portQ c1.t c1.slot p)))
          else finish c0.s here c1 (body c1)
        | none => match f.pop with
          | none => finish c0.s here c1 (body c1)
          | some p => match c1.s.popPort c1.core c1.slot c1.t p with
            | none => finish s0 { t0 with atSwitch := landed } c1 (.park (c1.s.popPark c1.t c1.slot p))
            | some (v, s1) => finish c0.s here c1 (body (c1.take landed v s1))
  else if c0.t.predBad && f.h.pr.val != 0 then finish c0.s here c0 (.fault (lostFault 128))
  else match c0.skipFault f with
    | some e => finish c0.s here (c0.settle f) (.fault e)
    | none => finish c0.s here c0 (.go (c0.skip f))

/-- Issue a word in a slot (R73): park, take a returned fault, or land and execute. Pushes that land send each word while a credit is left,
and the rest are waited for (R165). -/
def issueAt (f : Form) (s : State) (core slot : Nat) (t : Strand) (body : Ctx → Out) : State :=
  if s.switches f t then
    if !t.outstanding.isEmpty then s.setStrand core slot { t with run := .parked .results, atSwitch := true }
    else match s.pushShort t with
      | some q =>
        let r := s.land core slot t
        r.1.setStrand core slot { r.2 with run := .parked (.credit q), atSwitch := true }
      | none => match t.faulted with
        | some o => s.faultAtSwitch core slot t o (o.fault.getD { cls := 5, code := 2 })
        | none =>
          let r := s.land core slot t
          execute f s t { s := r.1, core := core, slot := slot, t := { r.2 with atSwitch := false }, word := f.word } true body
  else execute f s t { s := s, core := core, slot := slot, t := t, word := f.word } false body

/-- Issue a word by the strand whose turn it is. -/
def issue (f : Form) (s : State) (body : Ctx → Out) : Host.Outcome State Fault Refusal :=
  match s.clk.cur with
  | none => .fault .noIssuer
  | some (core, slot) => match s.strand core slot with
    | none => .fault .noIssuer
    | some t => .next (issueAt f s core slot t body)

/-! ## Addresses (R26, R195, R231) -/

def segFault (code off : Nat) : FaultInfo := taskFault code off

def Strand.sreg (t : Strand) (n : Nat) : Desc := t.sregs.getD n 0

/-- The address of a checked strand access: SEG_TYPE for `cbuf` (R179) where the instruction is a strand access. -/
def Ctx.check (c : Ctx) (seg off size need align : Nat) : Except FaultInfo Nat :=
  match segCheck (c.t.sreg seg) off size need align with
  | .error e => .error { segFault e off with size := Nat.log2 size }
  | .ok a => .ok a

/-- The place of a strand access at [sN + off]. -/
def Ctx.place (c : Ctx) (seg off size need align : Nat) : Except FaultInfo Loc :=
  if descType (c.t.sreg seg) == 4 then .error (segFault 0x06 off)
  else (c.check seg off size need align).map fun a => locOf (c.t.sreg seg) c.core c.t.vol a

/-- The place that a segment pointer names, for a strand access. -/
def Ctx.placePtr (c : Ctx) (w : Word) (size need align : Nat) : Except FaultInfo Loc :=
  match ptrParts w with
  | .error e => .error (segFault e (fld w 60 0))
  | .ok p => c.place p.1 p.2 size need align

/-- The offset of format M: ga + sx(DISP20). -/
def Ctx.offM (c : Ctx) (a : GOp) (disp : BitVec 20) : Nat := (c.g a + sx64 disp).toNat

end Sys2Proof.Machine
end

