-- ==== Sys2Proof/Machine/Mem.lean ====
section
/-! DEFINITION. Accesses at their banks: translation of an access (R237 to R240), transactions (R196 to R205), wait lists
(R185 to R187), key-page abstracts (R298 to R303), conflict filters (R193), remote windows (R393). -/

namespace Sys2Proof.Machine

open Sys2Proof

/-! ## What an access asks for -/

/-- Rights an access needs of its leaf (R240): both where it reads and writes (assumption 63). -/
def AccKind.need : AccKind → Access
  | .ld _ | .ldf | .vld | .vldf _ _ | .vldx | .segld _ | .swwait | .swrd | .tcfg _ => .read
  | .st | .stf | .clrf | .vst | .vstf | .vstx | .segst => .write
  | .lde | .stfe | .amo _ | .cas | .amof _ | .swarm | .swadd | .kabs => .both

/-- The access code of R241's g2. -/
def AccKind.code : AccKind → Nat
  | .ld _ => 0 | .st => 1
  | .amo _ | .cas | .amof _ => 2
  | .ldf | .lde | .stf | .stfe | .clrf | .swarm | .swadd | .swwait | .swrd => 4
  | .vld | .vst | .vldf _ _ | .vstf | .vldx | .vstx => 5
  | .segld _ | .segst | .kabs | .tcfg _ => 6

/-- Instructions of full/empty bits and sync words, which the annex and remote pages do not serve (R184). -/
def AccKind.needsF : AccKind → Bool
  | .ldf | .lde | .stf | .stfe | .clrf | .swarm | .swadd | .swwait | .swrd => true
  | _ => false

def AccKind.atomic : AccKind → Bool
  | .amo _ | .cas | .amof _ => true
  | _ => false

/-- Accesses that wait on a list (R188). -/
def AccKind.waits : AccKind → Bool
  | .ldf | .lde | .stfe | .swwait => true
  | _ => false

/-- Stores that the conflict filters see (R193). -/
def AccKind.filtered : AccKind → Bool
  | .st | .stf | .stfe | .vst | .vstf | .vstx => true
  | _ => false

/-! ## Conflict filters (R193) -/

/-- A name for the bank of a key. -/
def bankOf (key : Nat) : Nat :=
  if isStack key then key / Config.sliceSize * 2 ^ 30 + key % Config.sliceSize / 64 % Config.stackBanks
  else if key < 2 ^ 48 then 2 ^ 40 + (key - Config.annexBase) / 4096 % 8
  else if key < 2 ^ 49 then
    let o := (key - 2 ^ 48) % 2 ^ 20
    2 ^ 41 + (key - 2 ^ 48) / 2 ^ 20 * 64 + (if o < 2 ^ 18 then o / 64 % 32 else 32 + (o - 2 ^ 18) / 64 % 16)
  else 2 ^ 42 + (key - 2 ^ 49) / 2 ^ 22 * 64 + (key - 2 ^ 49) % 2 ^ 22 / 64 % 64

/-- The address `dsa` takes: the VA, or the offset in a buffer or room. -/
def Loc.shown : Loc → Nat
  | .va _ a => a
  | .buf k => if k < 2 ^ 49 then (if (k - 2 ^ 48) % 2 ^ 20 < 2 ^ 18 then (k - 2 ^ 48) % 2 ^ 20 else (k - 2 ^ 48) % 2 ^ 20 - 2 ^ 18)
              else (k - 2 ^ 49) % 2 ^ 22

def State.filterStore (s : State) (f : Flight) (p : Part) (key : Nat) : State :=
  if !(f.kind.filtered && f.bound && ((s.volume f.vol).map Volume.det).getD false) then s
  else
    let b := bankOf key
    let here := s.circ.filters.filter (·.bank == b)
    let own := here.filter fun w => w.vol == f.vol && w.gidx == f.gidx
    match own.find? (·.word == key / 8) with
    | some w =>
      if w.core == f.core && w.lane == f.lane then s
      else s.mapUid f.uid fun t =>
        { t with dst := t.dst ||| 1, dsa := if t.dst.getLsbD 0 then t.dsa else BitVec.ofNat 48 (p.loc.shown / 8 * 8) }
    | none =>
      let groups := (here.map fun w => (w.vol, w.gidx)).eraseDups
      if own.length < 16 && (groups.contains (f.vol, f.gidx) || decide (groups.length < 8)) then
        { s with circ := { s.circ with filters := s.circ.filters ++
            [{ bank := b, vol := f.vol, gidx := f.gidx, word := key / 8, core := f.core, lane := f.lane }] } }
      else s.mapUid f.uid fun t => { t with dst := t.dst ||| 2 }

/-! ## Sync words (R190, R191) -/

/-- The word after an arrival of n bytes, the batches completed, and whether the count overflowed. -/
def syncArrive (w n : Nat) : Nat × Nat × Bool :=
  let t := bitsN w 63 40
  let c := bitsN w 39 16 + n
  let g := w % 2 ^ 16
  if t == 0 then
    if 2 ^ 24 ≤ c then ((2 ^ 24 - 1) * 2 ^ 16 + g, 0, true) else (c * 2 ^ 16 + g, 0, false)
  else (t * 2 ^ 40 + (c - c / t * t) * 2 ^ 16 + (g + c / t) % 2 ^ 16, c / t, false)

/-- `swarm` (R202): the word, the batches completed, the value for gD. -/
def syncArm (w tg : Nat) : Nat × Nat × Nat :=
  let c := bitsN w 39 16
  let g := w % 2 ^ 16
  let k := c / tg
  (tg * 2 ^ 40 + (c - k * tg) * 2 ^ 16 + (g + k) % 2 ^ 16, k, (if k > 0 then 2 ^ 16 else 0) + (g + k) % 2 ^ 16)

/-! ## One transaction of an access -/

/-- A fault that an access meets after issue: a vector access has the size of its 64 bytes (R402; assumption 80). -/
def Flight.faultAt (f : Flight) (p : Part) (cls code : Nat) : FaultInfo :=
  { cls := cls, code := code, arg := p.loc.shown, access := f.kind.code, size := Nat.log2 (if f.kind.code == 5 then 64 else p.n) }

def State.setFlight (s : State) (f : Flight) : State := { s with flights := replaceBy (·.id == f.id) f s.flights }
def State.dropFlight (s : State) (id : Nat) : State := { s with flights := s.flights.filter (·.id != id) }

/-- What happens to an access at its bank. -/
inductive Bank where
  /-- performed: state, value read, flags, whether F or a sync word's generation changed -/
  | did (s : State) (v : Nat) (fl : FlagWord) (served : Bool) (fault : Option FaultInfo)
  /-- the word is in the other state (R185) -/
  | wait

/-- The new value of an atomic, and its flags; no write is `none` (R199, R200). -/
def atomicNew (k : AccKind) (n old b c : Nat) : Option Nat × FlagWord :=
  let w := 8 * n
  match k with
  | .cas => (if old == b % 2 ^ w then some (c % 2 ^ w) else none, 0)
  | .amo op =>
    (some (match op with
      | .add => (old + b) % 2 ^ w
      | .and => (old &&& b) % 2 ^ w
      | .or => (old ||| b) % 2 ^ w
      | .xor => (old ^^^ b) % 2 ^ w
      | .min => if sxNat w b < sxNat w old then b % 2 ^ w else old
      | .max => if sxNat w old < sxNat w b then b % 2 ^ w else old
      | .minu => Nat.min old (b % 2 ^ w)
      | .maxu => Nat.max old (b % 2 ^ w)
      | .swap => b % 2 ^ w), 0)
  | .amof op =>
    let f := if n == 4 then fpF32 else fpF64
    let b := b % 2 ^ w
    match op with
    | .add => let r := fpAdd f .rne (f.value old) (f.value b); (some r.1, r.2)
    | .max => let r := fpMinMax f true old b; (some r.1, r.2)
    | .swap => (some b, 0)
  | _ => (none, 0)

/-- The transaction of one part at a local key (R197 to R204). -/
def State.bankDo (s : State) (f : Flight) (p : Part) (key : Nat) : Bank :=
  let wr (v : Nat) : State := (s.bankWrite key p.kpage p.n v).filterStore f p key
  match f.kind with
  | .ld _ | .vld | .vldf _ _ | .vldx | .segld _ | .swrd | .tcfg _ => .did s (s.rdN key p.n) 0 false none
  | .st | .vst | .vstf | .vstx | .segst => .did (wr p.data.toNat) 0 0 false none
  | .ldf => if s.full key then .did s (s.rdN key 8) 0 false none else .wait
  | .lde => if s.full key then .did (s.setFull key false) (s.rdN key 8) 0 true none else .wait
  | .stf => .did ((wr p.data.toNat).setFull key true) 0 0 (!s.full key) none
  | .stfe => if s.full key then .wait else .did ((wr p.data.toNat).setFull key true) 0 0 true none
  | .clrf => .did (s.setFull key false) 0 0 (s.full key) none
  | .amo _ | .cas | .amof _ =>
    let old := s.rdN key p.n
    match atomicNew f.kind p.n old f.b.toNat f.c.toNat with
    | (some v, fl) => .did (s.bankWrite key p.kpage p.n v) old fl false none
    | (none, fl) => .did s old fl false none
  | .swarm =>
    let (w, k, v) := syncArm (s.rdN key 8) f.b.toNat
    .did ((s.bankWrite key p.kpage 8 w).setFull key (k > 0)) v 0 true none
  | .swadd =>
    let (w, k, ov) := syncArrive (s.rdN key 8) (f.b.toNat % 2 ^ 24)
    let s1 := s.bankWrite key p.kpage 8 w
    .did (if k > 0 then s1.setFull key true else s1) 0 0 (k > 0) (if ov then some (f.faultAt p 3 0x15) else none)
  | .swwait => if s.rdN key 2 != f.b.toNat % 2 ^ 16 then .did s (s.rdN key 8) 0 false none else .wait
  | .kabs => .did s 0 0 false none

/-! ## Completion of an access -/

/-- An operation of a resident strand has been done: its result, flags or fault are on their way. -/
def State.opDone (s : State) (uid id : Nat) (v : Vec) (fl : FlagWord) (fault : Option FaultInfo) : State :=
  match s.byUid uid with
  | none => s
  | some ((core, slot), t) =>
    if (t.ops.any (·.id == id)) then
      (s.setStrand core slot { t with ops := mapIf (·.id == id) (fun o => { o with stage := .done, val := v, flags := fl, fault := fault }) t.ops }).push
        (.resultReturn core slot id)
    else s

/-- The event that takes a request to its unit. -/
def Req.event (r : Req) (cluster : Nat) : Instr :=
  match r.kind with
  | .cpy | .cpyRp | .gath | .scat | .cmpct | .dcpy => .copyAccept cluster r.id
  | .ksel | .kgath => .selectionAccept cluster r.id
  | .emb => .embAccept cluster r.id
  | .spec => .specAccept cluster r.id
  | .tenq => .binderyEnqueue cluster r.id
  | .nsend | .nread | .nwrite | .nrecv => .netAccept r.id
  | .launch => .launchAccept r.id

/-- Requests at the engines of a cluster, and of the device, are tried again. -/
def State.kickReqs (s : State) (cluster : Nat) : State :=
  (((s.cluster cluster).reqs.map fun r => r.event cluster) ++ ((s.circ.reqs ++ s.net.reqs).map fun r => r.event 0)).foldl State.pushNew s

/-- Requests and direct tile operations of a strand that wait for its accesses (R219). -/
def State.requestEvents (s : State) (uid : Nat) : List Instr :=
  (s.clusters.flatMap fun c => (c.2.reqs.filter (·.iss.uid == uid)).map (·.event c.1)) ++
  ((s.circ.reqs ++ s.net.reqs).filter (·.iss.uid == uid)).map (·.event 0) ++
  (s.cores.flatMap fun c => (c.2.tileOps.filter (·.iss.uid == uid)).map fun o => Instr.resultReturn c.1 o.iss.slot o.id)

/-- The clock, of the model's count (assumption 2). -/
def State.now (s : State) : Nat := 64 * s.clk.frame + s.clk.pos

/-- Every access the issuer made before the request has completed (R219): the request is at its engine. -/
def State.reqAt (s : State) (r : Req) : Bool := !(s.flights.any fun f => f.uid == r.iss.uid && decide (f.id < r.id))

/-- A request that has come to its engine has the clock at which it came. -/
def State.stamp (s : State) (r : Req) : Req := if r.at_.isNone && s.reqAt r then { r with at_ := some s.now } else r

/-- The requests of a strand that have come to their engines. -/
def State.stampReqs (s : State) (uid : Nat) : State :=
  let due (r : Req) : Bool := r.iss.uid == uid && r.at_.isNone && s.reqAt r
  let go : List Req → List Req := mapIf (fun r => r.iss.uid == uid) s.stamp
  let s1 := if (s.clusters.any fun c => c.2.reqs.any due) then
      { s with clusters := s.clusters.map fun c => (c.1, if (c.2.reqs.any due) then { c.2 with reqs := go c.2.reqs } else c.2) }
    else s
  let s2 := if (s.circ.reqs.any due) then { s1 with circ := { s1.circ with reqs := go s1.circ.reqs } } else s1
  if (s.net.reqs.any due) then { s2 with net := { s2.net with reqs := go s2.net.reqs } } else s2

/-- Accesses of a strand are tried again at their banks, in issue order, and then its requests. -/
def State.kickUid (s0 : State) (uid : Nat) : State :=
  let s := s0.stampReqs uid
  let s1 := (s.flights.filter fun f => f.uid == uid && !f.failed && f.joined.isNone && f.spill.isNone && !f.out).foldl
    (fun s f => s.pushNew (.bankTransaction f.id)) s
  (s1.requestEvents uid).foldl State.pushNew s1

/-- An access ends in a fault; it is kept to be performed again (R76). -/
def State.flightFail (s : State) (f : Flight) (e : FaultInfo) : State :=
  let s0 := if f.joined.isSome then s.roomFreed else s
  let s1 := ((s0.setFlight { f with failed := true, joined := none, spill := none, out := false }).opDone f.uid f.id 0 0 (some e)).kickUid f.uid
  match f.kind with
  | .tcfg _ => s1.pushNew (.taskStart (clusterOf f.core))
  | _ => s1

/-- The fault with which an operation of a strand has returned. -/
def State.faultOf (s : State) (uid id : Nat) : FaultInfo :=
  (((s.byUid uid).bind fun t => t.2.ops.find? (·.id == id)).bind (·.fault)).getD { cls := 5, code := 3 }

/-- The block of a `tcfg` on some of these tiles of a core is being read from its peer (R273, R393). -/
def State.tcfgOut (s : State) (core mask : Nat) : Bool :=
  s.flights.any fun f => f.core == core && !f.failed && match f.kind with
    | .tcfg m => m.toNat &&& mask != 0
    | _ => false

/-- The fault of a strand's failed access issued before operation `id`, if there is one: what stands behind it is performed with it
again, in order (R76, R196, R219). -/
def State.failedBefore (s : State) (uid id : Nat) (p : Flight → Bool) : Option FaultInfo :=
  (s.flights.find? fun e => e.uid == uid && e.failed && decide (e.id < id) && p e).map fun e => s.faultOf uid e.id

/-! ## Tiles as `tcfg` configures them (R252, R253, R274) -/

def Core.tile (c : Core) (i : Nat) : Tile := c.tiles.getD i {}
def Core.setTile (c : Core) (i : Nat) (x : Tile) : Core := { c with tiles := setAt c.tiles i x }

/-- First accumulator, and how many. -/
def Tile.first (x : Tile) : Nat := 256 * x.base
def Tile.size (x : Tile) : Nat := 256 * (x.rho + 1) * (x.kappa + 1)

/-- Zero the units of a tile. -/
def Core.zeroUnits (c : Core) (x : Tile) : Core :=
  { c with cbuf := c.cbuf.filter fun e => !(decide (x.first ≤ e.1) && decide (e.1 < x.first + x.size)) }

def tileOfEntry (e : Word) (vol gidx lane : Nat) : Tile :=
  { conf := true, vol := vol, gidx := gidx, lane := lane, modeK := e.getLsbD 19, rho := fld e 18 16, kappa := fld e 15 12, base := fld e 6 0 }

/-- An entry that breaks R252. -/
def badTileEntry (e : Word) : Bool :=
  fld e 63 20 != 0 || fld e 11 7 != 0 || decide (128 < fld e 6 0 + (fld e 18 16 + 1) * (fld e 15 12 + 1))

def tilesOverlap (a b : Tile) : Bool := decide (a.first < b.first + b.size) && decide (b.first < a.first + a.size)

/-- Configure the masked tiles from the doublewords of a block, all of them or none: the status of R274. -/
def State.configure (s : State) (core vol gidx lane m : Nat) (ws : List Word) : State × Nat :=
  let named := (List.range 16).filter (bitN m)
  let k := s.core core
  let new := named.map fun i => (i, tileOfEntry (ws.getD i 0) vol gidx lane)
  let rest := ((List.range 16).filter fun i => !bitN m i && (k.tile i).conf).map k.tile
  if m == 0 then (s, 3)
  else if (named.any fun i => badTileEntry (ws.getD i 0)) then (s, 1)
  else if (new.any fun x => (new.any fun y => x.1 != y.1 && tilesOverlap x.2 y.2) || rest.any (tilesOverlap x.2)) then (s, 2)
  else (s.setCore core (new.foldl (fun (k : Core) x => (k.zeroUnits x.2).setTile x.1 x.2) k), 0)

/-- The fault of an access whose first part this is. -/
def Flight.headFault (f : Flight) (cls code : Nat) : FaultInfo := (f.parts.head?.map fun p => f.faultAt p cls code).getD (taskFault code)

/-- The access has been performed whole; an arrival that overflowed is kept with its fault, since one that is not delivered is made
again (R191, R400; assumption 34). -/
def State.flightDone (s : State) (f : Flight) (fl : FlagWord) (fault : Option FaultInfo) : State :=
  let s1 := (s.dropFlight f.id).kickUid f.uid
  match f.kind, fault with
  | .vldf fmt rm, _ => match folioRead fmt rm f.acc.toNat with
    | some (v, g) => s1.opDone f.uid f.id (BitVec.ofNat 512 v) g none
    | none => s.flightFail f (f.headFault 3 0x14)
  | .tcfg mask, _ =>
    let r := s1.configure f.core f.vol f.gidx f.lane mask.toNat (f.parts.map (·.data))
    (r.1.opDone f.uid f.id (BitVec.ofNat 512 r.2) 0 none).pushNew (.taskStart (clusterOf f.core))
  | .segld n, _ =>
    if descWf (f.acc.extractLsb' 0 128) && n.val != 0 then s1.opDone f.uid f.id f.acc 0 none
    else s1.opDone f.uid f.id 0 0 (some (f.headFault 3 0x08))
  | .swadd, some e => s.flightFail f e
  | _, _ => s1.opDone f.uid f.id f.acc fl fault

/-- The value a part gives, put in its place in the access's value. -/
def Flight.gather (f : Flight) (p : Part) (v : Nat) : Flight :=
  match f.kind with
  | .tcfg _ => { f with parts := setAt f.parts f.k { p with data := ofN v }, k := f.k + 1 }
  | _ =>
  let w := 8 * p.n
  let x := match f.kind with
    | .ld true => wrapN 64 (sxNat w v)
    | _ => v
  { f with acc := f.acc ||| (BitVec.ofNat 512 x <<< (w * f.k)), k := f.k + 1 }

/-- One part has been performed: the next is tried, or the access is done. -/
def State.partDone (s : State) (f : Flight) (p : Part) (v : Nat) (fl : FlagWord) (fault : Option FaultInfo) : State :=
  let f1 := { f.gather p v with joined := none, spill := none, out := false }
  let s1 := if f.joined.isSome then s.roomFreed else s
  if f.parts.length ≤ f1.k then s1.flightDone f1 fl fault
  else (s1.setFlight f1).push (.bankTransaction f.id)

/-! ## Wait lists (R185 to R187) -/

/-- The next waiter of a word that finds it in the state it awaits, in the order of joining. -/
def State.nextWaiter (s : State) (key : Nat) : Option (Flight × Part) :=
  let ws := s.flights.filterMap fun f => match f.joined, f.parts[f.k]? with
    | some n, some p => if p.key.map (· / 8) == some (key / 8) then
        (match s.bankDo f p (p.key.getD 0) with | .wait => none | _ => some (n, f, p)) else none
    | _, _ => none
  (ws.foldl (fun (b : Option (Nat × Flight × Part)) x => match b with
    | none => some x
    | some y => if x.1 < y.1 then some x else some y) none).map (·.2)

/-- Serve the waiters of a word at once (R187). -/
def State.serve (s : State) (key : Nat) : Nat → State
  | 0 => s
  | n + 1 => match s.nextWaiter key with
    | none => s
    | some (f, p) => match s.bankDo f p (p.key.getD 0) with
      | .wait => s
      | .did s1 v fl _ e => State.serve (s1.partDone f p v fl e) key n

/-- Words have been zeroed with F := 1: those who wait on them are served (R187). -/
def State.serveAll (s : State) : State :=
  (s.flights.filterMap fun f => f.joined.bind fun _ => f.parts[f.k]?.bind (·.key)).foldl (fun s k => s.serve k s.flights.length) s

/-- An arrival of n bytes at a local sync word (R191); whether it overflowed. -/
def State.arriveAt (s : State) (key : Nat) (kpage : Option (Nat × Nat)) (n : Nat) : State × Bool :=
  let (w, k, ov) := syncArrive (s.rdN key 8) n
  let s1 := s.bankWrite key kpage 8 w
  (if k > 0 then (s1.setFull key true).serve key s1.flights.length else s1, ov)

/-- Wait-list entries of a cluster's pool that are free for strands without a reserved entry (R185, R189). -/
def State.poolFree (s : State) (cluster : Nat) : Nat :=
  let reserved := (s.circ.gatherings.filter fun g => g.cluster == cluster && ((s.volume g.vol).map Volume.det).getD false).map
    (·.members.length)
  let used := s.flights.filter fun f => f.joined.isSome && !(f.bound && ((s.volume f.vol).map Volume.det).getD false) &&
    ((f.parts[f.k]?.bind (·.key)).map ownerCluster) == some cluster
  256 - (reserved.foldl (· + ·) 0 + used.length)

/-- The access joins its word's list, or the overflow list when the pool is empty (R185, R186, R189). -/
def State.joinList (s : State) (f : Flight) (key : Nat) : State :=
  if f.joined.isSome then s
  else if f.spill.isSome then s
  else if (f.bound && ((s.volume f.vol).map Volume.det).getD false) || s.poolFree (ownerCluster key) > 0 then
    let (n, s1) := s.fresh
    s1.setFlight { f with joined := some n }
  else s.setFlight { f with spill := some s.clk.frame }

/-! ## Translation of an access (R237 to R240) -/

/-- Record a part's translation. -/
def Flight.setPart (f : Flight) (i : Nat) (p : Part) : Flight := { f with parts := setAt f.parts i p }

/-- The next part of an access that has no place yet: its number, the part, volume and VA. An access is translated whole before its first
part is performed, so that one which faults has performed nothing (R142, R206). -/
def Flight.unplaced (f : Flight) : Option (Nat × Part × Nat × Nat) :=
  f.parts.zipIdx.findSome? fun x => match x.1.key, x.1.far, x.1.loc with
    | none, none, .va v a => some (x.2, x.1, v, a)
    | _, _, _ => none

/-- A place found for a part: translated, or a fault (R184, R240, R393). -/
def State.placed (s : State) (f : Flight) (i : Nat) (p : Part) (va : Nat) (pl : Place) : State :=
  let ep := some (f.epoch.getD (s.cluster (clusterOf f.core)).epoch)
  match pl with
  | .key k kp =>
    if f.kind.needsF && isAnnex k then s.flightFail f (f.faultAt p 3 0x06)
    else (s.setFlight { f.setPart i { p with key := some k, kpage := kp } with epoch := ep }).pushNew (.bankTransaction f.id)
  | .far e off =>
    if f.kind == .kabs then s.flightDone { f with acc := 1 } 0 none
    else if f.kind.needsF then s.flightFail f (f.faultAt p 3 0x06)
    else if f.kind.atomic then s.flightFail f (f.faultAt p 3 0x39)
    else (s.setFlight { f.setPart i { p with far := some (e, off) } with epoch := ep }).pushNew (.bankTransaction f.id)
  | .fail c => s.flightFail f { f.faultAt p 2 c with arg := va }
  | .fenced => s.flightFail f (f.faultAt p 5 3)

/-- Walks a cluster runs at once (R238). -/
def walkers : Nat := 64

/-- log2 of the size of the page that holds a VA, by the tables as they stand; 4 KiB where no leaf is found (assumption 7). -/
def State.pageBits (s : State) (vol va : Nat) : Nat :=
  match s.walk vol va with
  | .leaf l => l.bits
  | _ => 12

/-- A walk is for the page of this VA (R238). -/
def State.walksPage (s : State) (w : WalkRun) (vol va : Nat) : Bool :=
  let b := s.pageBits vol va
  w.vol == vol && w.va / 2 ^ b == va / 2 ^ b

/-- A miss of a cluster (R238): it joins the walk of its page, starts one, or waits for a walker; its page is the one that the tables as they
stand give (DESIGN CHOICE, assumption 7). A volume without tables misses for good: its walk fails at once, in the walk's own step. -/
def State.miss (s : State) (k vol va : Nat) (m : Misser) : State :=
  let c := s.cluster k
  if (c.walks.any (·.for_.contains m)) || (c.misses.any (·.1 == m)) then s
  else if (c.walks.any (s.walksPage · vol va)) then
    s.setCluster k { c with walks := mapIf (s.walksPage · vol va) (fun w => { w with for_ := w.for_ ++ [m] }) c.walks }
  else if c.walks.length < walkers then
    let (id, s1) := s.fresh
    let w : WalkRun := { id := id, vol := vol, va := va, fuel := 4, table := ((s.spaceOf vol).root).getD 0, for_ := [m] }
    (s1.setCluster k { c with walks := c.walks ++ [w] }).push (.translationWalk id)
  else s.setCluster k { c with misses := c.misses ++ [(m, vol, va)] }

/-- Translate a part through the cluster's cache; a miss asks for a walk. -/
def State.translatePart (s : State) (f : Flight) (i : Nat) (p : Part) (vol va : Nat) : State :=
  let k := clusterOf f.core
  match s.lookup (s.cluster k).tlb vol va f.kind.need with
  | some pl => s.placed f i p va pl
  | none => s.miss k vol va (.access f.id)

/-! ## Remote windows (R393) -/

/-- The network engine and the port of a peer have reported (R416), or will not: an access waits for them. -/
def State.netUp (s : State) (port : Nat) : Bool :=
  (s.isReady .net 0 || s.isFenced .net 0) && (s.isReady .port port || s.isFenced .port port)

/-- A peer that remote accesses do not reach (R393). -/
def State.peerOut (s : State) (peer : Nat) : Bool :=
  let e := (aget s.net.peers peer).getD {}
  !e.valid || e.state == 2 || s.isFenced .net 0 || s.isFenced .port e.port

/-- Send the current part's read or write to its peer; a store is acknowledged at once (R196). Where the store fails later, the whole
instruction is performed again (R142). -/
def State.farPart (s : State) (f : Flight) (p : Part) (peer off : Nat) : State :=
  let e := (aget s.net.peers peer).getD {}
  if s.peerOut peer then s.flightFail f (f.faultAt p 3 0x38)
  else if !s.netUp e.port then s
  else
    let write := match f.kind.need with | .read => false | _ => true
    let kind : PacketKind := if write then .write f.id f.k e.window off (leBytes p.n p.data.toNat) else .readReq f.id f.k e.window off p.n
    let op := (s.byUid f.uid).bind fun e => e.2.ops.find? (·.id == f.id)
    let r : Far := { flight := f.id, part := f.k, uid := f.uid, peer := peer, off := off, write := write, vol := f.vol, gidx := f.gidx,
                     pc := (op.map Op.pc).getD 0, word := (op.map Op.word).getD 0, seq := (op.map Op.seq).getD 0,
                     va := p.loc.shown, n := p.n, access := f.kind.code, again := [f] }
    let o : OutMsg := .packet peer e.port f.id f.k kind
    let s1 : State := { s with net := { s.net with far := s.net.far ++ [r], out := s.net.out ++ [o] } }
    if write then s1.partDone f p 0 0 none else s1.setFlight { f with out := true }

/-! ## The transaction (R196, R205) -/

/-- The place of a part, as far as it is known, whatever rights its leaf gives: its key, and its K page. -/
def State.partPlace (s : State) (f : Flight) (p : Part) : Option (Nat × Option (Nat × Nat)) :=
  match p.key, p.loc with
  | some k, _ => some (k, p.kpage)
  | none, .buf k => some (k, none)
  | none, .va v a =>
    let tlb := (s.cluster (clusterOf f.core)).tlb
    [Access.read, .write, .fetch].findSome? fun acc => match s.translate tlb v a acc with
      | .key k kp => some (k, kp)
      | _ => none

/-- The word of memory a part touches. -/
def State.partWord (s : State) (f : Flight) (p : Part) : Option Nat := (s.partPlace f p).map (·.1 / 8)

/-- The word behind a remote window that a part touches, as far as it is known: the peer, and the word there. -/
def State.partFar (s : State) (f : Flight) (p : Part) : Option (Nat × Nat) :=
  match p.far, p.loc with
  | some x, _ => some (x.1, x.2 / 8)
  | none, .buf _ => none
  | none, .va v a =>
    let tlb := (s.cluster (clusterOf f.core)).tlb
    [Access.read, .write].findSome? fun acc => match s.translate tlb v a acc with
      | .far peer off => some (peer, off / 8)
      | _ => none

/-- Two parts touch one word: the same memory word, the same word of a peer, or the same word of a volume's address space. -/
def State.sameWord (s : State) (f : Flight) (p : Part) (e : Flight) (q : Part) : Bool :=
  (let w := s.partWord f p; w.isSome && s.partWord e q == w) ||
  (let w := s.partFar f p; w.isSome && s.partFar e q == w) ||
  (match p.loc, q.loc with
    | .va v a, .va w b => v == w && a / 8 == b / 8
    | _, _ => false)

/-- A `kabs` reads or writes the word of this part: the word lies in its slot, or is the geometry of its page (R303). -/
def State.kabsCovers (s : State) (e f : Flight) (p : Part) : Bool :=
  match e.parts.head?.bind (s.partPlace e), s.partWord f p with
  | some (k, some kp), some w => w == kp.1 / 8 || (match s.geometry kp.1 kp.2 with
    | some g => decide (k ≤ 8 * w + 7) && decide (8 * w < k + g.stride)
    | none => false)
  | _, _ => false

/-- An access of the strand that this one comes after (R196): it touches a word that a part of this one, still to be performed, touches;
a `kabs` comes after them all, and stands in front of every word of its slot (R303). An access that is not done counts whole: it may
be performed again (R76). -/
def State.behind (s : State) (f e : Flight) : Bool :=
  f.kind == .kabs || (f.parts.drop f.k).any fun p =>
    (e.kind == .kabs && s.kabsCovers e f p) || e.parts.any fun q => s.sameWord f p e q

/-- An earlier store of the strand to a remote word that this access touches is not placed: the word keeps the strand's order (R196, R212). -/
def State.storeDue (s : State) (f : Flight) : Bool :=
  s.net.far.any fun r => r.uid == f.uid && r.write && decide (r.flight ≤ f.id) &&
    (f.parts.drop f.k).any fun p => s.partFar f p == some (r.peer, r.off / 8)

/-- An earlier access of the strand is not done that this one comes after. -/
def State.heldBack (s : State) (f : Flight) : Bool :=
  (s.flights.any fun e => e.uid == f.uid && decide (e.id < f.id) && !e.failed && s.behind f e) || s.storeDue f

/-- A place that an access finds out of reach before it performs any part: a fenced memory, or a peer (R142, R206, R393, R411). -/
def State.partsFault (s : State) (f : Flight) : Option FaultInfo :=
  f.parts.findSome? fun p => match p.far, p.key with
    | some x, _ => if s.peerOut x.1 then some (f.faultAt p 3 0x38) else none
    | none, some k => if s.keyFenced k then some (f.faultAt p 5 3) else none
    | none, none => none

/-- Some of n bytes, at most a slice, lie in a fenced memory. -/
def State.rangeFenced (s : State) (key n : Nat) : Bool := s.keyFenced key || s.keyFenced (key + (n - 1))

/-- One step of a `kabs` (R303): a doubleword of tokens is folded, or the abstract is written. -/
def State.kabsStep (s : State) (f : Flight) (p : Part) (key : Nat) : State :=
  match p.kpage.bind fun kp => (s.geometry kp.1 kp.2).map fun g => (kp.1, g) with
  | none => s.flightDone { f with acc := 1 } 0 none
  | some (base, g) =>
    if s.keyFenced base then s.flightFail f (f.faultAt p 5 3)
    else if g.value then s.flightDone { f with acc := 1 } 0 none
    else if key < base + 64 || (key - base - 64) % g.stride != 0 || g.slots ≤ (key - base - 64) / g.stride then
      s.flightDone { f with acc := 2 } 0 none
    else match f.kab with
    | none =>
      let e := List.replicate g.chan noBound
      (s.setFlight { f with kab := some { slot := key, chan := g.chan, w := g.w, lo := e, hi := e, slo := e, shi := e } }).push
        (.bankTransaction f.id)
    | some k =>
      let fp := (fpOf g.fmt).getD fpBf16
      let per := 8 / k.w
      if s.rangeFenced (key + 8 * k.t) (if 8 * k.t < 64 * k.chan * k.w then 8 else 2 * k.chan * k.w) then s.flightFail f (f.faultAt p 5 3)
      else if 8 * k.t < 64 * k.chan * k.w then
        let k1 := (List.range per).foldl (fun (x : Kabs) i =>
          let c := (per * k.t + i) % k.chan
          let q := fold2 fp (x.lo.getD c noBound, x.hi.getD c noBound) (s.rdN (key + 8 * k.t + i * k.w) k.w)
          { x with lo := setAt x.lo c q.1, hi := setAt x.hi c q.2 }) k
        (s.setFlight { f with kab := some { k1 with t := k.t + 1 } }).push (.bankTransaction f.id)
      else
        let s1 := (List.range k.chan).foldl (fun (s : State) c =>
          let j (isMax : Bool) (a b : List Nat) : Nat :=
            let y := b.getD c noBound
            if y == noBound then a.getD c 0 else fold1 fp isMax (a.getD c noBound) y
          let lo := j false k.lo k.slo
          let hi := j true k.hi k.shi
          let nan := isNan (fp.value lo) || isNan (fp.value hi)
          (s.wrN (key + 64 * k.chan * k.w + c * k.w) k.w (if nan then fp.cnan else lo)).wrN
            (key + 65 * k.chan * k.w + c * k.w) k.w (if nan then fp.cnan else hi)) s
        s1.flightDone { f with acc := 0 } 0 none

/-- Perform the current part at its bank, or wait there. -/
def State.attempt (s : State) (f : Flight) (p : Part) (key : Nat) : State :=
  if s.keyFenced key then s.flightFail f (f.faultAt p 5 3)
  else if f.kind == .kabs then s.kabsStep f p key
  else match s.bankDo f p key with
    | .wait => s.joinList f key
    | .did s1 v fl served e =>
      let s2 := s1.partDone f p v fl e
      if served then s2.serve key s2.flights.length else s2

/-- The current part goes to its bank, or to its peer. -/
def State.perform (s : State) (f : Flight) (p : Part) : State :=
  match p.far, p.key with
  | some x, _ => s.farPart f p x.1 x.2
  | none, some k => s.attempt f p k
  | none, none => s

/-- The next step of an access: a translation, the peer, or the bank. -/
def State.bankStep (s : State) (f : Flight) : State :=
  match f.parts[f.k]? with
  | none => s
  | some p =>
    if f.failed || f.joined.isSome || f.spill.isSome || f.out then s
    else match s.failedBefore f.uid f.id (s.behind f) with
    | some e => s.flightFail f e
    | none =>
    if s.heldBack f then s
    else match f.unplaced with
      | some (i, q, v, a) => s.translatePart f i q v a
      | none => match (if f.k == 0 then s.partsFault f else none) with
        | some e => s.flightFail f e
        | none => s.perform f p

/-! ## Issue of an access -/

/-- Send an access: the strand's operation, the flight, and its first move. -/
def Ctx.send (c : Ctx) (kind : AccKind) (d : Dest) (cls : OpClass) (acq : Bool) (parts : List Part) (b d2 : Word := 0) : Nat × Ctx :=
  let (id, c1) := c.op d cls acq true
  let f : Flight := { id := id, uid := c.t.uid, core := c.core, slot := c.slot, vol := c.t.vol, gidx := c.t.gidx,
                      lane := c.t.lane, bound := !c.t.free && c.slot != 63, kind := kind, parts := parts, b := b, c := d2 }
  (id, { c1 with s := { c1.s with flights := c1.s.flights ++ [f] }.push (.bankTransaction id) })

/-- The place of a part for a buffer is its key at once. -/
def partAt (l : Loc) (n : Nat) (data : Word := 0) : Part :=
  { loc := l, n := n, data := data, key := match l with | .buf k => some k | _ => none }

/-- Move a place by some bytes. -/
def Loc.plus : Loc → Nat → Loc
  | .buf k, n => .buf (k + n)
  | .va v a, n => .va v (a + n)

end Sys2Proof.Machine
end

