-- ==== Sys2Proof/Machine/Life.lean ====
section
/-! DEFINITION. The life of a strand, a gathering and a volume: granules, taking a slip (R79, R84, R85), the end of a strand
(R77), barriers (R364), holds (R365 to R368), the end of a volume (R360), pre-emption's saves (R88). -/

namespace Sys2Proof.Machine

open Sys2Proof

/-! ## Granules (R102 to R105) -/

/-- Free granules of a core that are not held for a gathering: on a reserved cluster, those that have been free since it was reserved
(R357). -/
def State.openGran (s : State) (core : Nat) : List Nat :=
  if s.coreReserved core then (s.freeGran core).filter fun n => !(s.core core).closed.gran.contains n else s.freeGran core

/-- The lowest-numbered free granules that are not held, if there are enough. -/
def State.takeGran (s : State) (core n : Nat) : Option (List Nat) :=
  let f := s.openGran core
  if f.length < n then none else some (f.take n)

/-! ## Slots of gatherings (R84) -/

/-- A gathering is pre-empted on a core. -/
def State.isOut (s : State) (core : Nat) (g : Gathering) : Bool := (s.core core).outG.contains (g.vol, g.gidx)

/-- The gathering and member to which a slot is allotted. -/
def State.slotOwner (s : State) (core slot : Nat) : Option (Gathering × Member) :=
  s.circ.gatherings.findSome? fun g =>
    if s.isOut core g then none
    else (g.members.find? fun m => m.slot == slot && g.cores[m.role]? == some core).map fun m => (g, m)

/-! ## Taking a slip (R79, R84, R85) -/

/-- Zero fields and legal state of R78; bit 447, always 0, among them. -/
def State.slipOk (s : State) (pa : Nat) : Bool :=
  let w := fun i => s.slipDw pa i
  fld (w 0) 50 48 ≤ 4 && fld (w 0) 63 59 == 0 && fld (w 0) 2 0 == 0 && fld (w 1) 63 57 == 0 && fld (w 3) 63 59 == 0 &&
  fld (w 5) 63 48 == 0 && fld (w 6) 31 24 == 0 && fld (w 6) 63 63 == 0 && fld (w 7) 63 53 == 0

/-- Insert an operation among a strand's operations by the age of its issue. -/
def insertOp (cnt : Nat) (o : Op) : List Op → List Op
  | [] => [o]
  | x :: r =>
    let age (y : Op) : Nat := (cnt + 2 ^ 32 - y.seq % 2 ^ 32) % 2 ^ 32
    if age o > age x then o :: x :: r else x :: insertOp cnt o r

/-- A pending entry read back as a held operation (R80, R88), with what was kept beside it. -/
def readPend (entry id : Nat) (note : HeldNote) : Op :=
  let h := ofN entry
  let n := fld h 7 0
  let d : Dest := match fld h 9 8 with
    | 0 => if n < 128 then .g n else match note.queue with
      | some q => .push n q
      | none => .z
    | 1 => .v n
    | 3 => .p n
    | _ => .none
  { id := id, pc := 0, word := 0, seq := fld h 63 32, dest := d, sup := if h.getLsbD 11 then 0xFF else note.sup, pop := note.pop,
    stage := .held, val := BitVec.ofNat 512 (entry / 2 ^ 128), flags := BitVec.ofNat 7 (fld h 18 12) }

/-- What is to be performed again goes out from the slot that its strand is in now (R76). -/
def State.sendAgain (s : State) (core slot : Nat) (a : Again) : State :=
  let here (i : Issuer) : Issuer := { i with core := core, slot := slot }
  let k := clusterOf core
  match a with
  | .nothing => s
  | .flight f => State.push { s with flights := s.flights ++ [{ f with core := core, slot := slot }] } (.bankTransaction f.id)
  | .tile o =>
    let c := s.core core
    State.push (s.setCore core { c with tileOps := c.tileOps ++ [{ o with iss := here o.iss }] }) (.resultReturn core slot o.id)
  | .req r =>
    let r1 := s.stamp { r with iss := here r.iss, at_ := none, far := [] }
    match r.kind with
    | .launch => State.push { s with circ := { s.circ with reqs := s.circ.reqs ++ [r1] } } (.launchAccept r.id)
    | .nsend | .nread | .nwrite | .nrecv => State.push { s with net := { s.net with reqs := s.net.reqs ++ [r1] } } (.netAccept r.id)
    | _ => State.push (s.setCluster k { s.cluster k with reqs := (s.cluster k).reqs ++ [r1] }) (r1.event k)

/-- Load a slip into a slot with these granules: window, predicates, segments, held results, operations to perform again. A strand
that starts in an accession's code, or has come to another core, acquires that code anew (R225). What is performed again lands at the
switch point at which its fault was taken (R76), else after the strand has issued (R400). One that was parked on what only fenced cores
give issues its instruction again, and faults there (R177). -/
def State.loadSlip (s : State) (core slot vol pa : Nat) (gran : List Nat) : State :=
  let w := fun i => s.slipDw pa i
  let wgr := fld (w 0) 58 55
  let save (off n : Nat) : Nat := s.areaN vol (fld (w 2) 47 0 + off) (pa + 192 + off) n
  let a : Aside := (s.circ.asides.find? (·.pa == pa)).getD { vol := vol, pa := pa }
  let cnt := fld (w 7) 47 0
  let np := Nat.min 16 (fld (w 7) 52 48)
  let (ops0, s1) := (List.range np).foldl (fun (x : List Op × State) i =>
    let (id, s') := x.2.fresh
    (x.1 ++ [readPend (save (0x40 + 80 * i) 80) id (a.notes.getD i {})], s')) ([], s)
  let ops := a.redo.foldl (fun os r => insertOp cnt r.1 os) ops0
  let again := (a.redo.map (·.2)).filter (· != .nothing)
  let uid := a.uid
  let run : Run := match a.left with
    | n + 1 => .waiting n
    | 0 => if !again.isEmpty then .parked .results else match a.park with
      | some p => if s.fencedWait vol (fld (w 6) 23 0) p then .ready else .parked p
      | none => .ready
  let t : Strand :=
    { uid := uid, vol := vol, gidx := fld (w 6) 23 0, free := (w 0).getLsbD 51, lane := fld (w 1) 23 16, role := fld (w 1) 31 24,
      prio := fld (w 0) 54 52, home := fld (w 3) 58 48, slip := Config.areaVA + pa, segt := fld (w 5) 47 0, save := fld (w 2) 47 0,
      holdp := fld (w 4) 47 0, wgr := wgr, gran := gran, pc := fld (w 0) 47 0,
      regs := (List.range (8 * (wgr + 1))).map fun i => ofN (save (0x540 + 8 * i) 8),
      pred := BitVec.ofNat 16 (fld (w 1) 15 0) ||| 1, fflg := BitVec.ofNat 7 (fld (w 1) 46 40), rmod := BitVec.ofNat 2 (fld (w 1) 48 47),
      tgt := BitVec.ofNat 8 (fld (w 1) 39 32), dst := BitVec.ofNat 3 (fld (w 1) 56 49), dsa := BitVec.ofNat 48 (save 0 8),
      amax := BitVec.ofNat 32 (fld (w 6) 62 32), cnt := cnt,
      sregs := s.areaSegs vol (fld (w 5) 47 0) pa, acc := a.acc, ops := ops, run := run,
      prog := if a.left != 0 && !again.isEmpty then 3 else 0, atSwitch := a.sw == some (fld (w 0) 47 0) }
  let s2 := again.foldl (fun (s : State) x => s.sendAgain core slot x) s1
  let s3 := match a.acc with
    | some i => if cnt == 0 || a.core != some core then
        let e := (s2.spaceOf vol).entry i
        s2.dropCode core e.base e.size
      else s2
    | none => s2
  (State.setStrand { s3 with circ := { s3.circ with asides := s3.circ.asides.filter (·.pa != pa) } } core slot t).endPairs core gran

/-- A slip that is in no slot takes a fault at a core: it leaves its list, becomes FAULTED, and the handler task is spawned. The core is
the one that is told of it (R79, R397, R406). -/
def State.slipFaults (s : State) (core slot listCore vol pa : Nat) (f : FaultInfo) (word : Word := 0) : State :=
  let w := fun i => s.slipDw pa i
  let gidx := fld (w 6) 23 0
  let s0 := ((s.removeRun listCore pa).setSlipState pa 3).setSlipFault pa f.cls f.code
  let s1 : State := { s0 with circ := { s0.circ with asides := mapIf (·.pa == pa) (fun a => { a with core := some core }) s0.circ.asides } }
  let sregs := s.areaSegs vol (fld (w 5) 47 0) pa
  s1.handlerTask vol (fld (w 0) 54 52) (fld (w 3) 58 48) gidx core pa sregs f.cls
    (faultRecord (Config.areaVA + pa) f (fld (w 0) 47 0) word (fld (w 7) 47 0) core slot gidx)

/-- A slip that its slot refuses becomes FAULTED with FORMAT (R79). -/
def State.refuseSlip (s : State) (core slot listCore vol pa : Nat) : State :=
  s.slipFaults core slot listCore vol pa { cls := 3, code := 0x14, arg := Config.areaVA + pa }

/-- The lists an idle slot searches, in order (R84). -/
def searchOrder (core : Nat) : List (Nat × Nat) :=
  ((List.range 8).map fun i => clusterOf core * 8 + (core + i) % 8).flatMap fun k => (List.range 8).map fun p => (k, 7 - p)

/-- The head of a list may be taken by this slot (R84, R85). A slot that a determinism volume holds for a bound lane takes a free slip while it
is idle (DESIGN CHOICE, assumption 94). -/
def State.mayTake (s : State) (core slot : Nat) (g : Gathering) (m : Member) (k vol pa : Nat) : Bool :=
  let bound := !(s.slipDw pa 0).getLsbD 51
  vol == g.vol && (!bound || (k == core && (!((s.volume vol).map Volume.det).getD false ||
    (m.lane == fld (s.slipDw pa 1) 23 16 && g.gidx == fld (s.slipDw pa 6) 23 0)) && slot == m.slot))

/-- `fuel` lists or refused heads are left to look at. A malformed slip is refused before its granules are looked for (DESIGN CHOICE,
assumption 93). -/
def State.search (s : State) (core slot : Nat) (g : Gathering) (m : Member) : Nat → List (Nat × Nat) → State
  | 0, _ => s
  | _, [] => s
  | fuel + 1, (k, p) :: rest =>
    match ((s.core k).runs.getD p []).head? with
    | none => State.search s core slot g m fuel rest
    | some (vol, pa) =>
      if !s.mayTake core slot g m k vol pa then State.search s core slot g m fuel rest
      else if !s.slipOk pa then State.search (s.refuseSlip core slot k vol pa) core slot g m fuel ((k, p) :: rest)
      else match s.takeGran core (fld (s.slipDw pa 0) 58 55 + 1) with
        | none => State.search s core slot g m fuel rest
        | some gr => (s.removeRun k pa).loadSlip core slot vol pa gr

/-! ## Arrivals of engines at sync words -/

/-- The place of a location for an engine of a cluster. -/
def State.locKey (s : State) (cluster : Nat) (l : Loc) (acc : Access) : Place :=
  match l with
  | .buf k => .key k none
  | .va v a => s.translate (s.cluster cluster).tlb v a acc

/-- An arrival at a sync word named by a location: done, overflowed, or the place's failure (R191). -/
def State.arriveLoc (s : State) (cluster : Nat) (l : Loc) (n : Nat) : State × Place × Bool :=
  match s.locKey cluster l .both with
  | .key k kp =>
    if isAnnex k then (s, .fail 4, false)
    else if s.keyFenced k then (s, .fenced, false)
    else let r := s.arriveAt k kp n; (r.1, .key k kp, r.2)
  | p => (s, p, false)

/-- How an arrival of an engine ended: done; its sync word lies in a fenced memory, which engines record as HWERR (R411); or it failed
translation or overflowed (R191). -/
inductive Arrived where
  | done | fenced | lost
deriving DecidableEq, Repr

def arrived : Place → Bool → Arrived
  | .key _ _, false => .done
  | .fenced, _ => .fenced
  | _, _ => .lost

/-- The code of a failed arrival of an engine whose HWERR code is `hw`; SYNC is the next one. -/
def Arrived.code (a : Arrived) (hw : Nat) : Nat := if a == .fenced then hw else hw + 1

/-! ## Barriers (R364) -/

/-- Add one to entry i of a list of counts. -/
def bumpAt (l : List Nat) (i : Nat) : List Nat := (List.range (Nat.max l.length (i + 1))).map fun j => l.getD j 0 + (if j == i then 1 else 0)

/-- A phase whose last arrival has been counted completes; the gathering's filters are cleared (R193). -/
def State.pokeBarriers (s : State) (vol gidx : Nat) : State :=
  match s.gathering vol gidx with
  | none => s
  | some g =>
    if !(g.members.any (·.st == .live)) then s
    else
      let ph := (List.range g.phases.length).map fun b =>
        let p := g.phases.getD b 0
        if g.members.all fun m => m.st != .live || decide (p < m.seen.getD b 0) then p + 1 else p
      if ph == g.phases then s
      else
        let s1 := s.setGathering { g with phases := ph }
        { s1 with circ := { s1.circ with filters := s1.circ.filters.filter fun f => !(f.vol == vol && f.gidx == gidx) } }

/-- Change the member of a bound strand. -/
def State.setMember (s : State) (vol gidx role lane : Nat) (f : Member → Member) : State :=
  match s.gathering vol gidx with
  | none => s
  | some g => s.setGathering { g with members := mapIf (fun m => m.role == role && m.lane == lane) f g.members }

/-! ## Holds (R365, R368) -/

def handleCore (h : Word) : Nat := fld h 20 10
def handleIdx (h : Word) : Nat := fld h 9 0
def handleGen (h : Word) : Nat := fld h 23 21
def holdBad (h : Word) : Bool := fld h 63 24 != 0
def mkHandle (core idx gen : Nat) : Word := ofN (gen * 2 ^ 21 + core * 2 ^ 10 + idx)

/-- The live hold of a handle: its word is live, of this generation and volume. -/
def State.liveHold (s : State) (vol core gen idx : Nat) : Option Hold :=
  let c := s.core core
  if (aget c.gens idx).getD 0 != gen then none else c.holds.find? fun h => h.idx == idx && h.vol == vol

/-- Free a hold word: its generation advances, it joins the tail of the free list. -/
def Core.freeHold (c : Core) (idx : Nat) : Core :=
  { c with holds := c.holds.filter (·.idx != idx), gens := aput c.gens idx (((aget c.gens idx).getD 0 + 1) % 8),
           freeHolds := c.freeHolds ++ [idx] }

/-- A hold at zero (R368): its slips become READY in spawn order; bindery records are woken by their own check. -/
def State.holdZero (s : State) (core : Nat) (h : Hold) : State :=
  let s1 := s.setCore core ((s.core core).freeHold h.idx)
  let s2 := h.slips.foldl (fun (s : State) pa =>
    if s.slipState pa == 0 then s.appendRun core (s.slipPrio pa) h.vol pa else s) s1
  s2.pushNew (.taskStart (clusterOf core))

/-! ## The end of a volume (R360) -/

/-- Stop every operation of a volume at its engines (R295, R396). -/
def Cluster.stopVolume (c : Cluster) (vol : Nat) : Cluster :=
  { c with reqs := c.reqs.filter (·.iss.vol != vol), copies := c.copies.filter (·.iss.vol != vol),
           tasks := c.tasks.filter (·.iss.vol != vol), sels := c.sels.filter (·.iss.vol != vol),
           bags := c.bags.filter (·.iss.vol != vol), specs := c.specs.filter (·.iss.vol != vol),
           pages := c.pages.filter (·.vol != vol), svcs := c.svcs.filter (·.vol != vol), tlb := c.tlb.filter (·.vol != vol) }

def Core.stopVolume (c : Core) (vol : Nat) : Core :=
  let c1 := (List.range 1024).foldl (fun (c : Core) i => if (c.holds.any fun h => h.idx == i && h.vol == vol) then c.freeHold i else c) c
  { c1 with deques := c1.deques.filter (·.1 != vol), inbox := c1.inbox.filter (·.vol != vol), words := c1.words.filter (·.q.vol != vol),
            icache := c1.icache.filter (·.1 != vol), returns := c1.returns.filter fun r => match r with
              | .word w => w.q.vol != vol
              | .msg m => m.vol != vol }

/-- The 8 bytes that a volume's end brings to the sync word of its launch (R360), through the address space that it shares with
its launcher (R353). -/
def State.endArrival (s : State) (v : Volume) : State :=
  match v.sync with
  | some (.va _ a) => (s.arriveLoc 0 (.va v.id a) 8).1
  | some l => (s.arriveLoc 0 l 8).1
  | none => s

/-- A specialisation is dropped: its source is released, and an entry it had taken is FREE again (R329, R345). -/
def Space.dropSpec (p : Space) (o : SpecOp) : Space :=
  let p1 := p.bump o.src (-1) 0
  match o.taken with
  | some (i, gen, _, _) => p1.setEntry i { gen := gen }
  | none => p1

/-- The remote writes of the chunk in progress that are not settled: a stopped operation makes them still, since it stops at a chunk
boundary (R295). -/
def CopyOp.tail (o : CopyOp) : List FarAcc := o.far.filter fun a => a.data.isSome && a.res.isNone

/-- End a volume: 8 bytes arrive at the sync word of its launch, and everything it reserved is released; records that its strands
launched and that are not placed keep their entries in the store (R353). Its receives are withdrawn; its other work requests go on,
and so does the address space they reach (R391). -/
def State.endVolume (s0 : State) (v : Volume) : State :=
  let s := s0.endArrival v
  let vol := v.id
  let sp := (s.clusters.flatMap fun c => c.2.specs.filter (·.iss.vol == vol)).foldl Space.dropSpec (s.space v.space)
  let s1 := s.setSpace sp
  let s2 : State := { s1 with
    clusters := s1.clusters.map fun e => (e.1, e.2.stopVolume vol),
    cores := s1.cores.map fun e => (e.1, e.2.stopVolume vol),
    devTlb := s1.devTlb.filter (·.vol != vol),
    chips := s1.chips.filter fun e => (s1.clusters.any fun c => c.2.bags.any fun b => b.iss.vol != vol && b.id == e.2.1),
    fab := { s1.fab with eng := s1.fab.eng.filter (·.vol != vol) },
    net := { s1.net with reqs := s1.net.reqs.filter (·.iss.vol != vol),
                         wrs := s1.net.wrs.filter fun w => !(w.iss.vol == vol && w.kind == .nrecv),
                         tails := s1.net.tails ++ s1.clusters.flatMap fun c => (c.2.copies.filter (·.iss.vol == vol)).flatMap CopyOp.tail,
                         keys := s1.net.keys.filter (·.vol != vol),
                         sendNo := s1.net.sendNo.filter (·.1 != vol), recvNo := s1.net.recvNo.filter (·.1 != vol),
                         heldP := s1.net.heldP.filter fun p => ((aget s1.net.peers p.peer).getD {}).vol != vol },
    circ := { s1.circ with volumes := (s1.circ.volumes.filter (·.id != vol)).map fun x => { x with parent := x.parent.filter (· != vol) }, areas := s1.circ.areas.filter (·.1 != vol), spare := s1.circ.spare.filter (·.1 != vol),
                           asides := s1.circ.asides.filter (·.vol != vol), lasting := s1.circ.lasting.filter (·.2 != vol),
                           filters := s1.circ.filters.filter (·.vol != vol), reqs := s1.circ.reqs.filter (·.iss.vol != vol) } }
  let ghosts := if (s2.net.wrs.any (·.iss.vol == vol)) then aput s2.circ.ghosts vol v.space else s2.circ.ghosts
  let spaces := if (s2.circ.volumes.any (·.space == v.space)) then s2.circ.spaces
    else if (ghosts.any (·.2 == v.space)) then mapIf (·.id == v.space) (fun p => { p with table := [] }) s2.circ.spaces
    else s2.circ.spaces.filter (·.id != v.space)
  let s3 : State := { s2 with circ := { s2.circ with ghosts := ghosts, spaces := spaces } }
  -- operations of other volumes that waited in a copy engine's queue are tried (R284)
  let s4 := s3.clusters.foldl (fun (s : State) c => ((c.2.copies.find? (!·.started)).map fun o => s.pushNew (.copyChunk c.1 o.id)).getD s) s3
  (s4.clusters.foldl (fun (s : State) c => s.kickReqs c.1) (s4.kickReqs 0)).pushNew .placement

/-- A volume whose gatherings have all been placed and have ended, and whose free strands are all DONE, ends. -/
def State.checkVolume (s : State) (vol : Nat) : State :=
  match s.volume vol with
  | none => s
  | some v =>
    if v.next == v.count && v.ended == v.count && v.pool.isEmpty then s.endVolume v else s

/-! ## The end of a strand (R77) -/

/-- Accesses that wait on a list are withdrawn with no effect (R188). -/
def State.withdraw (s : State) (uid : Nat) : State :=
  let s1 : State := { s with flights := s.flights.filter fun f => !(f.uid == uid && (f.failed || f.kind.waits)) }
  if (s.flights.any fun f => f.uid == uid && f.joined.isSome) then s1.roomFreed else s1

/-- A free strand's pool entry is returned (R369). -/
def State.freePool (s : State) (vol pa : Nat) : State :=
  let s1 := match s.volume vol with
    | some v => s.setVolume { v with pool := v.pool.filter (· != pa), handlers := v.handlers.filter (· != pa) }
    | none => s
  let s2 := s1.dropArea pa
  State.checkVolume { s2 with circ := { s2.circ with spare := s2.circ.spare ++ [(vol, pa)] } } vol

/-- Every bound strand of the gathering is done: it retires (R99, R373). -/
def State.checkGathering (s : State) (vol gidx : Nat) : State :=
  match s.gathering vol gidx with
  | none => s
  | some g => if g.members.any (·.st == .live) then s else s.pushNew (.gatheringRetire vol gidx)

/-- End a resident strand by `stop` or `kill`: its slip is DONE, and its segment registers are not written back to its table (DESIGN CHOICE,
assumption 95). -/
def State.endStrand (s : State) (core slot : Nat) (t : Strand) : State :=
  let s1 := (((s.withdraw t.uid).dropFailed core t.uid).dropStrand core slot).bumpExec t.vol t.acc (-1)
  let s2 := s1.endCollation t
  let pa := t.slip - Config.areaVA
  let s3 :=
    if t.faulter.isSome then s2
    else if t.free then (s2.setSlipState pa 4).freePool t.vol pa
    else
      ((s2.setSlipState pa 4).setMember t.vol t.gidx t.role t.lane fun m => { m with st := .gone }).pokeBarriers t.vol t.gidx
  if t.free then s3.pushNew .placement else (s3.checkGathering t.vol t.gidx).pushNew .placement

/-- End a strand that is a slip; tasks may start on a tile that it held (R273). -/
def State.endSlip (s0 : State) (vol pa : Nat) : State :=
  let s := s0.pushNew (.taskStart (clusterOf (s0.slipHome pa)))
  let free := (s.slipDw pa 0).getLsbD 51
  let gidx := fld (s.slipDw pa 6) 23 0
  let acc := (s.circ.asides.find? (·.pa == pa)).bind (·.acc)
  let s1 := (s.setSlipState pa 4).bumpExec vol acc (-1)
  if free then s1.freePool vol pa
  else
    let role := fld (s.slipDw pa 1) 31 24
    let lane := fld (s.slipDw pa 1) 23 16
    (((s1.setMember vol gidx role lane fun m => { m with st := .gone }).pokeBarriers vol gidx).checkGathering vol gidx).pushNew .placement

/-! ## A blocking instruction completes (R188, R244) -/

/-- What a strand holds lands, and it goes on after its blocking instruction; pushes that find no credit land before the next one issues
(assumption 11). -/
def State.passBlocking (s : State) (core slot : Nat) (t : Strand) : State :=
  let r := s.land core slot t
  r.1.setStrand core slot { r.2 with run := .ready, prog := 0, pc := nextPc t.pc, atSwitch := (s.pushShort t).isSome }

/-- The operation that a parked strand waits for has returned: it lands, and the strand goes on once every push has found its credit (R165,
R188); or its fault is taken at the instruction, whose access is not kept. -/
def State.completeBlocking (s : State) (core slot : Nat) (t : Strand) (id : Nat) : State :=
  match (t.ops.find? (·.id == id)).bind fun o => o.fault.map (o, ·) with
  | some (o, f) =>
    let t1 := { t with ops := t.ops.filter (·.id != id), run := .ready, prog := 0 }
    let s1 := s.dropFlight id
    if f.cls == 2 then s1.pageFault core slot t1 f t.pc o.word else s1.faultNow core slot t1 f t.pc o.word
  | none =>
    if (s.pushShort t).isSome then let r := s.land core slot t; r.1.setStrand core slot r.2
    else s.passBlocking core slot t

/-- Before a save, a blocking instruction that has completed goes on (R188). -/
def State.pastBlocking (s : State) (core slot : Nat) (t : Strand) : State :=
  match t.run with
  | .parked (.op id) => if (t.ops.any fun o => o.id == id && o.stage != .held) then s else s.passBlocking core slot t
  | _ => s

/-! ## Saves (R88, R242) -/

/-- What a strand's park becomes in its saved slip. -/
def savedPark : Run → Option Park × Nat
  | .parked (.op _) => (none, 0)
  | .parked .group => (none, 0)
  | .parked p => (some p, 0)
  | r => (none, r.due)

/-- A parked blocking instruction is issued anew when its strand resumes: its access has been withdrawn (R82, R188). -/
def Strand.reissue (t : Strand) : Strand :=
  match t.run with
  | .parked (.op _) => { t with ops := t.ops.filter (·.stage == .held), run := .ready, prog := 0 }
  | _ => t

/-- A strand whose registers are settled is saved as a FAULTED slip: class 1, or class 5 where a register is lost, whose handler task is
spawned (R108, R400, R406). -/
def State.parkSettled (s : State) (core slot : Nat) (t : Strand) (pc : Nat) : State :=
  let pa := t.slip - Config.areaVA
  let r := (s.dropFailed core t.uid).saveSettled core slot t pc 3 1 0 { vol := t.vol, pa := pa, redo := s.redoOf core t }
  match r.2 with
  | some n => r.1.handlerTask t.vol t.prio t.home t.gidx core pa t.sregs 5
      (faultRecord t.slip (lostFault n) pc (s.wordAt core t.vol pc) t.cnt core slot t.gidx)
  | none => r.1

/-- A halted strand is saved as a FAULTED slip of class 1, and its slot and granules are freed (R406). -/
def State.parkHalted (s : State) (core slot : Nat) (t : Strand) (pc : Nat) : State :=
  let x := s.settle core t (List.range t.regs.length)
  (x.1.parkSettled core slot x.2 pc).pushNew .placement

/-- A strand kept whole while its core is out: its window is good, a lost register reads 0, and no granule of the core is its own or
duplicates one (R106, R108). -/
def Strand.kept (t : Strand) : Strand :=
  { t with regs := (List.range t.regs.length).map fun n => if t.lost.contains n then 0 else t.g n, bad := [], dups := [], noDup := [], gran := [] }

/-- Save a resident strand whose operations have returned. Upcalls and halted strands are kept whole, but for a halted strand that has lost
a register, whose slip becomes FAULTED; an upcall that has lost one has no slip, and halts (R108, R242). -/
def State.saveOne (s : State) (core slot : Nat) (t : Strand) : State × SavedSlot :=
  let s0 := s.endCollation t
  let t := t.alone
  if t.run == .halted || t.faulter.isSome then
    let x := (s0.withdraw t.uid).settle core t.reissue (List.range t.regs.length)
    match x.2.lostArg with
    | none => (x.1.dropStrand core slot, .frame slot x.2.kept)
    | some n =>
      if t.faulter.isNone then (x.1.parkSettled core slot x.2 t.pc, .slip slot t.vol (t.slip - Config.areaVA))
      else
        let s1 := if t.run == .halted then x.1.setStrand core slot x.2
          else x.1.haltNow core slot x.2 (lostFault n) t.pc (s.wordAt core t.vol t.pc)
        (s1.dropStrand core slot, .frame slot ((s1.strand core slot).getD x.2).kept)
  else
    let (p, n) := savedPark t.run
    let pa := t.slip - Config.areaVA
    let parked := match t.run with | .ready => false | _ => true
    let again := s0.redoOf core t
    let s1 := (s0.withdraw t.uid).dropFailed core t.uid
    let t1 := { t with ops := t.ops.filter (·.stage == .held), prog := 0 }
    let r := s1.saveStrand core slot t1 t.pc (if parked then 2 else 1) 0 0
      { vol := t.vol, pa := pa, park := p, left := n, redo := again }
    (match r.2 with
      | some x => r.1.handlerTask t.vol t.prio t.home t.gidx core pa t.sregs 5
          (faultRecord t.slip (lostFault x) t.pc (s.wordAt core t.vol t.pc) t.cnt core slot t.gidx)
      | none => r.1, .slip slot t.vol pa)

end Sys2Proof.Machine
end

