-- ==== Sys2Proof/Machine/Control.lean ====
section
/-! DEFINITION. Control instructions: branches, links and loops (R94 to R98), `wait` (R101), `stop` and `yield` (R99, R100, R87),
barriers (R364), collation (R147 to R152), `retire` (R373, R374). -/

namespace Sys2Proof.Machine

open Sys2Proof

/-! ## Jumps (R94) -/

/-- Base of the code segment of the routine that runs. -/
def Ctx.codeBase (c : Ctx) : Nat := descBase (c.t.sreg 0)

/-- `target_ok`. -/
def Ctx.targetOk (c : Ctx) (t : Nat) : Bool :=
  t % 8 == 0 && decide (c.codeBase ≤ t) && decide (t - c.codeBase < descLimit (c.t.sreg 0))

/-- `jump`, after effects that stay. -/
def Ctx.jump (c : Ctx) (t : Nat) : Out := if c.targetOk t then .jump c t else .faultAfter c (taskFault 0x07 t)

def Ctx.branchTo (c : Ctx) (disp : BitVec 24) : Nat := (ofN c.t.pc + 8 * sx64 disp).toNat

/-- off(pc + 8). -/
def Ctx.link (c : Ctx) : Word := ofN (c.t.pc + 8) - ofN c.codeBase

/-- Where the group's leader went (R150), or the next word where it has left the group at this one (R152). -/
def Ctx.leaderPc (c : Ctx) : Nat := ((c.s.leadOf c.t).map Decision.pc).getD (nextPc c.t.pc)

/-- A compare-branch (R95). -/
def branch (i : Instr) (h : Hdr) (a b : GOp) (disp : BitVec 24) (cond : Word → Word → Bool) (s : State) :
    Host.Outcome State Fault Refusal :=
  let f : Form := { h := h, word := wordOf i, src := [a, b], ctl := true }
  issue f s fun c =>
    if follows f c.t then .jump c c.leaderPc
    else if cond (c.g a) (c.g b) then c.jump (c.branchTo disp) else .go c

/-- `nop` (R98). -/
def execNop (h : Hdr) (s : State) : Host.Outcome State Fault Refusal :=
  issue { h := h, word := wordOf (.nop h) } s fun c => .go c

/-- `br` (R95). -/
def execBr (h : Hdr) (disp : BitVec 24) (s : State) : Host.Outcome State Fault Refusal :=
  let f : Form := { h := h, word := wordOf (.br h disp), ctl := true }
  issue f s fun c => if follows f c.t then .jump c c.leaderPc else c.jump (c.branchTo disp)

/-- `beq` (R95). -/
def execBeq (h : Hdr) (a b : GOp) (disp : BitVec 24) (s : State) : Host.Outcome State Fault Refusal :=
  branch (.beq h a b disp) h a b disp (fun x y => x == y) s

/-- `bne` (R95). -/
def execBne (h : Hdr) (a b : GOp) (disp : BitVec 24) (s : State) : Host.Outcome State Fault Refusal :=
  branch (.bne h a b disp) h a b disp (fun x y => x != y) s

/-- `blt` (R95). -/
def execBlt (h : Hdr) (a b : GOp) (disp : BitVec 24) (s : State) : Host.Outcome State Fault Refusal :=
  branch (.blt h a b disp) h a b disp (fun x y => x.slt y) s

/-- `bge` (R95). -/
def execBge (h : Hdr) (a b : GOp) (disp : BitVec 24) (s : State) : Host.Outcome State Fault Refusal :=
  branch (.bge h a b disp) h a b disp (fun x y => !x.slt y) s

/-- `bltu` (R95). -/
def execBltu (h : Hdr) (a b : GOp) (disp : BitVec 24) (s : State) : Host.Outcome State Fault Refusal :=
  branch (.bltu h a b disp) h a b disp (fun x y => x.ult y) s

/-- `bgeu` (R95). -/
def execBgeu (h : Hdr) (a b : GOp) (disp : BitVec 24) (s : State) : Host.Outcome State Fault Refusal :=
  branch (.bgeu h a b disp) h a b disp (fun x y => !x.ult y) s

/-- `call`: the link is written even when the target fails (R96). -/
def execCall (h : Hdr) (a : GOp) (disp : BitVec 24) (s : State) : Host.Outcome State Fault Refusal :=
  let f : Form := { h := h, word := wordOf (.call h a disp), dst := [a], ctl := true }
  issue f s fun c =>
    let c1 := c.put a c.link
    if follows f c.t then .jump c1 c.leaderPc else c1.jump (c.branchTo disp)

/-- `jr`: the target uses the value read before the link is written; a value at or above 2^48 writes nothing (R96). -/
def execJr (h : Hdr) (d a : GOp) (s : State) : Host.Outcome State Fault Refusal :=
  let f : Form := { h := h, word := wordOf (.jr h d a), src := [a], dst := [d], chg := true, ctl := true }
  issue f s fun c =>
    if follows f c.t then .jump (c.put d c.link) c.leaderPc
    else if 2 ^ 48 ≤ (c.g a).toNat then .fault (taskFault 0x07 (c.g a).toNat)
    else (c.put d c.link).jump (c.codeBase + (c.g a).toNat)

/-- `loop`: the decremented count stays even when the target fails (R97). -/
def execLoop (h : Hdr) (a : GOp) (disp : BitVec 24) (s : State) : Host.Outcome State Fault Refusal :=
  let f : Form := { h := h, word := wordOf (.loop h a disp), src := [a], dst := [a], ctl := true }
  issue f s fun c =>
    let n := c.g a - 1
    let c1 := c.put a n
    if follows f c.t then .jump c1 c.leaderPc
    else if n != 0 then c1.jump (c.branchTo disp) else .go c1

/-- `wait`: not a switch point; its next issue falls w + 1 rounds on (R101). -/
def execWait (h : Hdr) (a : GOp) (imm : BitVec 24) (s : State) : Host.Outcome State Fault Refusal :=
  let f : Form := { h := h, word := wordOf (.wait h a imm), src := [a], ctl := true }
  issue f s fun c =>
    let w := if follows f c.t then ((c.s.leadOf c.t).map Decision.w).getD 0 else c.g a + sx64 imm
    let c1 := { c with t := { c.t with colV := w } }
    if w.toInt ≤ 0 then .go c1 else .rest c1 w.toNat

/-! ## Ends and yields -/

/-- The strands of a collation group, or the strand alone. -/
def State.groupOf (s : State) (core slot : Nat) (t : Strand) : List ((Nat × Nat) × Strand) :=
  if t.group == 0 then [((core, slot), t)] else s.strands.filter (·.2.group == t.group)

/-- `stop`: the strand, or every member of its group, is DONE (R99, R150). -/
def execStop (h : Hdr) (s : State) : Host.Outcome State Fault Refusal :=
  let f : Form := { h := h, word := wordOf (.stop h), ctl := true }
  issue f s fun c =>
    if follows f c.t && (c.s.leadOf c.t).isNone then .go c
    else .left ((c.s.groupOf c.core c.slot c.t).foldl (fun s e => s.endStrand e.1.1 e.1.2 e.2) c.s)

/-- A slot of a declared pair (R87), whichever strand is in it. -/
def State.inPair (s : State) (core slot : Nat) : Bool :=
  slot != 63 && ((s.slotOwner core slot).map fun p => bitN (shapePairs p.1.shape) (p.2.lane / 2)).getD false

/-- `yield` (R100, R87, R242): the strand becomes a READY slip at the tail of its run list. In a collated member collation ends first,
and the other members only go past the word. -/
def execYield (h : Hdr) (s : State) : Host.Outcome State Fault Refusal :=
  issue { h := h, word := wordOf (.yield h), self := true } s fun c =>
    if c.slot == 63 || c.s.inPair c.core c.slot || c.t.faulter.isSome || c.t.colEnd.isSome then .go c
    else
      let s1 := c.s.endCollation c.t
      let t := c.t.issued.alone
      let pa := t.slip - Config.areaVA
      let r := s1.saveStrand c.core c.slot t (nextPc t.pc) 1 0 0 { vol := t.vol, pa := pa }
      .left ((match r.2 with
        | some n => r.1.handlerTask t.vol t.prio t.home t.gidx c.core pa t.sregs 5
            (faultRecord t.slip (lostFault n) t.pc c.word t.cnt c.core c.slot t.gidx)
        | none => r.1.appendRun t.home t.prio t.vol pa).pushNew .placement)

/-! ## Barriers (R364) -/

/-- The checks of `bara` and `barw`: of a strand without a gathering, which has no barriers to count, only its class is left to
check (assumption 62). -/
def Ctx.barrierBad (c : Ctx) (b : Nat) : Option FaultInfo :=
  match c.s.gathering c.t.vol c.t.gidx with
  | none => some (taskFault 0x2A)
  | some g =>
    if shapeNbar g.shape ≤ b then some (taskFault 0x28)
    else if c.t.free || c.slot == 63 then some (taskFault 0x2A)
    else none

/-- The strand's arrivals at a barrier, and the barrier's completed phases. -/
def State.barrierOf (s : State) (t : Strand) (b : Nat) : Nat × Nat :=
  match s.gathering t.vol t.gidx with
  | none => (0, 0)
  | some g => (((g.members.find? fun m => m.role == t.role && m.lane == t.lane).map fun m => m.arr.getD b 0).getD 0, g.phases.getD b 0)

/-- `bara`: a release; the arrival is counted at frame q + 2. -/
def execBara (h : Hdr) (n : BitVec 24) (s : State) : Host.Outcome State Fault Refusal :=
  issue { h := h, word := wordOf (.bara h n), self := true, rel := true } s fun c =>
    match c.barrierBad n.toNat with
    | some e => .fault e
    | none =>
      let p := c.s.barrierOf c.t n.toNat
      if p.2 < p.1 then .park (.bara n.toNat)
      else
        let s1 := c.s.setMember c.t.vol c.t.gidx c.t.role c.t.lane fun m => { m with arr := bumpAt m.arr n.toNat }
        .go { c with s := s1.sendAt (s1.clk.frame + 2) c.core c.slot c.core (.bar c.t.vol c.t.gidx c.t.role c.t.lane n.toNat) }

/-- `barw`. -/
def execBarw (h : Hdr) (n : BitVec 24) (s : State) : Host.Outcome State Fault Refusal :=
  issue { h := h, word := wordOf (.barw h n), self := true } s fun c =>
    match c.barrierBad n.toNat with
    | some e => .fault e
    | none =>
      let p := c.s.barrierOf c.t n.toNat
      if p.2 < p.1 then .park (.barw n.toNat) else .go c

/-! ## Collation (R147 to R152) -/

/-- The strands that share a group with this one: lane l of the group's other roles. -/
def State.partners (s : State) (t : Strand) (n : Nat) : List ((Nat × Nat) × Strand) :=
  let r0 := n * (t.role / n)
  s.strands.filter fun e => e.2.vol == t.vol && e.2.gidx == t.gidx && !e.2.free && e.2.lane == t.lane && e.2.uid != t.uid &&
    decide (r0 ≤ e.2.role) && decide (e.2.role < r0 + n)

def Strand.inCollate (t : Strand) (n : Nat) : Bool := t.run == .parked (.collate n)

/-- Form the group of these members, of which the strand `me` has just come: each goes on from the instruction after the leader's
`collate` (R147). -/
def State.formGroup (s : State) (ps : List ((Nat × Nat) × Strand)) (me n id : Nat) : State :=
  let pc := ((ps.find? fun e => ps.all fun x => decide (e.2.role ≤ x.2.role)).map fun e => nextPc e.2.pc).getD 0
  ps.foldl (fun s e => s.setStrand e.1.1 e.1.2
    { e.2 with colW := n, colI := e.2.role % n, group := id, colN := 0, run := if e.2.uid == me then .ready else .parked .group, pc := pc }) s

/-- Partners parked in a `collate` of another width (R148). -/
def State.clashes (s : State) (t : Strand) (n : Nat) : List ((Nat × Nat) × Strand) :=
  (s.partners t n).filter fun e => match e.2.run with | .parked (.collate m) => m != n | _ => false

/-- A collation fault of several strands, each at its own `collate` (R148). -/
def State.collateFaults (s : State) (es : List ((Nat × Nat) × Strand)) : State :=
  es.foldl (fun s e => s.faultAtIssue e.1.1 e.1.2 { e.2 with run := .ready } (taskFault 0x12) e.2.ir) s

/-- A strand that issues `collate n`, or is back in it: it faults with the partners that wait in another width; the group forms
when every partner waits; else nothing yet (R147, R148). -/
def State.collateTry (s : State) (core slot : Nat) (t : Strand) (n : Nat) : Option State :=
  let ps := s.partners t n
  if !(s.clashes t n).isEmpty then some (s.collateFaults (s.clashes t n ++ [((core, slot), t)]))
  else if ps.length + 1 == n && ps.all fun e => e.2.inCollate n then
    let (id, s1) := s.fresh
    some (s1.formGroup (ps ++ [((core, slot), t)]) t.uid n (id + 1))
  else none

/-- `collate`. -/
def execCollate (h : Hdr) (n : BitVec 24) (s : State) : Host.Outcome State Fault Refusal :=
  issue { h := h, word := wordOf (.collate h n), self := true } s fun c =>
    let n := n.toNat
    let t := { c.t with ir := c.word }
    let g := c.s.gathering t.vol t.gidx
    let width := (g.map fun g => if shapeCol g.shape == 0 then 0 else 2 ^ shapeCol g.shape).getD 0
    if t.free || c.slot == 63 || t.group != 0 || width < n || c.s.coreCount t < n * (t.role / n) + n then .fault (taskFault 0x12)
    else if !(c.s.clashes t n).isEmpty then .left (c.s.collateFaults (c.s.clashes t n ++ [((c.core, c.slot), t)]))
    else .left ((c.s.collateTry c.core c.slot t.issued n).getD
      (c.s.setStrand c.core c.slot { t.issued with run := .parked (.collate n) }))

/-- `disband` (R151): the member goes on alone, and the others once they have issued the word. -/
def execDisband (h : Hdr) (s : State) : Host.Outcome State Fault Refusal :=
  issue { h := h, word := wordOf (.disband h) } s fun c =>
    .go { c with s := c.s.endCollation c.t, t := c.t.alone }

/-! ## Retirement (R373, R374) -/

/-- Doublewords that a unit reads from a place, each through its own translation. -/
def State.readWords (s : State) (cluster : Nat) (l : Loc) (acc : Access) (n : Nat) : Except Nat (List Word) :=
  (List.range n).foldl (fun (r : Except Nat (List Word)) i => match r with
    | .error e => .error e
    | .ok ws => match s.locKey cluster (l.plus (8 * i)) acc with
      | .key k _ => if s.keyFenced k then .error 0x100 else .ok (ws ++ [s.rdW k])
      | .fail c => .error c
      | .far _ _ => .error 2
      | .fenced => .error 0x100) (.ok [])

/-- The fault of an instruction whose block does not translate: a page fault, or a fenced memory. -/
def blockFault (code va access : Nat) : FaultInfo :=
  if code == 0x100 then { cls := 5, code := 3, arg := va, access := access, size := 6 }
  else { cls := 2, code := code, arg := va, access := access, size := 6 }

/-- The fields of the shape doubleword that a successor must share: cores, slots, collation, pairs. -/
def shapeSame (a b : Word) : Bool :=
  shapeCores a == shapeCores b && shapeSlots a == shapeSlots b && shapeCol a == shapeCol b && shapePairs a == shapePairs b

/-- BEQ_SHAPE of R374: `hd` is the successor header. -/
def shapeBad (g : Gathering) (hd : List Word) (wgr : Nat) : Bool :=
  let w := fun i => hd.getD i 0
  let region (x : Word) (size : Nat) : Bool :=
    fld x 63 32 % 64 != 0 || fld x 31 0 % 64 != 0 || decide (size < fld x 63 32 + fld x 31 0)
  !shapeSame (w 0) g.shape || w 1 != g.carrel ||
  ((List.range 16).any fun i => (w 2).getLsbD i && (decide (wgr < i) || decide (shapeWgr (w 0) < i))) ||
  region (w 3) (carW g.carrel) || region (w 4) (carA g.carrel) ||
  ([w 5, w 6, w 7].any fun x => x.getLsbD 63 && (decide (carRoom g.carrel < fld x 31 0 + 8) || fld x 31 0 % 8 != 0))

/-- The expected entry of tile i in a bequest block agrees with the tile's configuration. -/
def tileEntryOk (blk : List Word) (i : Nat) (x : Tile) : Bool :=
  let e := fld (blk.getD (4 + i / 4) 0) (16 * (i % 4) + 15) (16 * (i % 4))
  e == (if x.modeK then 2 ^ 15 else 0) + x.rho * 2 ^ 12 + x.kappa * 2 ^ 8 + x.base

/-- The strand has retired: it counts as DONE for barriers and parks until its successor starts. -/
def Ctx.retired (c : Ctx) (g : Gathering) (succ : Option Word) (block : List Word) : Out :=
  let s1 := (c.s.setGathering { g with
    members := mapIf (fun m => m.role == c.t.role && m.lane == c.t.lane) (fun m => { m with st := .retired }) g.members,
    retires := true, succ := succ, block := block }).bumpExec c.t.vol c.t.acc (-1)
  let s2 := s1.setStrand c.core c.slot { c.t.issued with run := .parked .retired, acc := none }
  .left ((s2.pokeBarriers c.t.vol c.t.gidx).checkGathering c.t.vol c.t.gidx)

/-- `retire`. -/
def execRetire (h : Hdr) (a b : GOp) (s : State) : Host.Outcome State Fault Refusal :=
  issue { h := h, word := wordOf (.retire h a b), src := [a, b], self := true, rel := true } s fun c =>
    match c.s.gathering c.t.vol c.t.gidx with
    | none => .fault (taskFault 0x2A)
    | some g =>
      let earlier := g.retires
      if c.t.free || c.slot == 63 then .fault (taskFault 0x2A)
      else if a == .z then
        if earlier && g.succ.isSome then .fault (taskFault 0x2E)
        else match (if b == .z then .ok (Loc.buf 0) else c.placePtr (c.g b) 64 rR 64) with
          | .error e => .fault e
          | .ok _ => c.retired g none []
      else match c.s.codePoint c.t.vol (c.g a) with
        | none => .fault (taskFault 0x24)
        | some (i, off) =>
          if off < 8 then .fault (taskFault 0x24)
          else if earlier && g.succ != some (c.g a) then .fault (taskFault 0x2E)
          else
            let e := (c.s.spaceOf c.t.vol).entry i
            let hva := e.base + 8 * (off - 8)
            match c.s.readWords (clusterOf c.core) (.va c.t.vol hva) .fetch 8 with
            | .error x => .fault (blockFault x hva 3)
            | .ok hd =>
              match c.placePtr (c.g b) 64 rR 64 with
              | .error x => .fault x
              | .ok l => match c.s.readWords (clusterOf c.core) l .read 8 with
                | .error x => .fault (blockFault x l.shown 6)
                | .ok blk =>
                  let tiles := (c.s.core c.core).tiles
                  let own (x : Tile) : Bool := x.conf && x.vol == c.t.vol && x.gidx == c.t.gidx && x.lane == c.t.lane
                  let last := g.members.all fun m => m.role != c.t.role || m.lane == c.t.lane || m.st != .live
                  let tileBad := (List.range 16).any fun i =>
                    let x := tiles.getD i {}
                    (hd.getD 2 0).getLsbD (16 + i) && ((own x && !tileEntryOk blk i x) || (last && !x.conf))
                  if shapeBad g hd c.t.wgr then .fault (taskFault 0x2D)
                  else if blk.getD 0 0 != hd.getD 2 0 then .fault (taskFault 0x2B)
                  else if tileBad then .fault (taskFault 0x2C)
                  else c.retired g (some (c.g a)) (hd ++ blk)

end Sys2Proof.Machine
end

