-- ==== Sys2Proof/Machine/Engine.lean ====
section
/-! DEFINITION. What every engine shares: requests (R219, R283), statuses, replies over the register network (R162), inbox
messages (R172 to R174), errata records (R403, R404), memory as engines reach it. -/

namespace Sys2Proof.Machine

open Sys2Proof

/-! ## Requests -/

def Ctx.issuer (c : Ctx) : Issuer :=
  { uid := c.t.uid, core := c.core, slot := c.slot, vol := c.t.vol, gidx := c.t.gidx, lane := c.t.lane, free := c.t.free, sregs := c.t.sregs }

/-- The engine that a request goes to. -/
def ReqKind.unit : ReqKind → FuncKind
  | .cpy | .cpyRp | .gath | .scat | .cmpct | .dcpy => .copy
  | .ksel | .kgath => .sel
  | .emb => .annexif
  | .spec => .red
  | .tenq => .bind
  | .nsend | .nread | .nwrite | .nrecv => .net
  | .launch => .circ

/-- A unit of a cluster, or of the device, is fenced. -/
def State.unitFenced (s : State) (k : FuncKind) (cluster : Nat) : Bool := s.isFenced k cluster || s.clusterFenced cluster

/-- Requests wait until their unit has reported (R416). -/
def State.unitUp (s : State) (k : FuncKind) (cluster : Nat) : Bool := s.isReady k cluster || s.unitFenced k cluster

/-- The requests that stand at the same engine; an `emb` stands at the chips, with those of the other clusters whose interface has reported
and whose records are read (R317). -/
def State.reqPeers (s : State) (r : Req) : List Req :=
  let k := clusterOf r.iss.core
  match r.kind.unit with
  | .net => s.net.reqs
  | .circ => s.circ.reqs
  | .annexif => s.clusters.flatMap fun c => c.2.reqs.filter fun q => q.kind == .emb && (c.1 == k ||
      (s.unitUp .annexif c.1 && q.far.all (·.res.isSome)))
  | u => (s.cluster k).reqs.filter (·.kind.unit == u)

/-- Order of arrivals: by clock; one that has not come is last. -/
def arrivedBefore : Option Nat → Option Nat → Bool
  | some a, some b => decide (a < b)
  | some _, none => true
  | none, _ => false

/-- Order of requests at an engine: by the clock of arrival; of one clock by core and slot; those of one strand in issue order (R262, R284,
R305, R317, R353, R384). -/
def Req.before (q r : Req) : Bool :=
  arrivedBefore q.at_ r.at_ || (q.at_ == r.at_ && (decide (q.iss.core < r.iss.core) || (q.iss.core == r.iss.core &&
    (decide (q.iss.slot < r.iss.slot) || (q.iss.slot == r.iss.slot && decide (q.id < r.id))))))

/-- A request that its engine may take: it is there, and none there comes before it (assumption 88); of records for the bindery every earlier
one of the strand has been taken too (R262). -/
def State.reqReady (s : State) (r : Req) : Bool :=
  s.reqAt r && !((s.reqPeers r).any fun q => q.id != r.id && !q.failed && ((s.reqAt q && q.before r) ||
    (q.kind == .tenq && q.iss.uid == r.iss.uid && decide (q.id < r.id))))

/-- A request that is not ready stays; one behind an access that failed is put back, to be performed with it again (R76, R219). -/
def State.notReady (s : State) (r : Req) : State :=
  if r.failed then s
  else match s.failedBefore r.iss.uid r.id fun _ => true with
    | none => s
    | some e =>
      let put (l : List Req) : List Req := mapIf (·.id == r.id) (fun q => { q with failed := true }) l
      let k := clusterOf r.iss.core
      let s1 := if ((s.cluster k).reqs.any (·.id == r.id)) then s.setCluster k { s.cluster k with reqs := put (s.cluster k).reqs } else s
      State.opDone { s1 with circ := { s1.circ with reqs := put s1.circ.reqs }, net := { s1.net with reqs := put s1.net.reqs } } r.iss.uid r.id 0 0 (some e) |>.kickReqs k

/-- A request of an engine instruction: its operation, and the request that carries its name. -/
def Ctx.request (c : Ctx) (d : GOp) (kind : ReqKind) (a : Word) (b : Option Word) (imm : Nat) : Req × Ctx :=
  let (id, c1) := c.op (c.dest d)
  (c.s.stamp { id := id, iss := c.issuer, kind := kind, a := a, b := b, imm := imm, pat := (c.s.core c.core).pat }, c1)

/-- The status of a request is on its way to the strand that made it, and the next request is taken up. -/
def State.status (s : State) (iss : Issuer) (op : Nat) (v : Word) : State :=
  (s.opDone iss.uid op (v.setWidth 512) 0 none).kickReqs (clusterOf iss.core)

/-- An operation's result is decided at another core; it returns at a stated frame (R162). -/
def State.replyOp (s : State) (core slot op due : Nat) (v : Word) : State :=
  match s.strand core slot with
  | none => s
  | some t =>
    (s.setStrand core slot { t with ops := mapIf (·.id == op) (fun o => { o with stage := .done, val := v.setWidth 512 }) t.ops }).sendAt
      due core slot core (.reply op)

/-! ## Inboxes (R171 to R174) -/

/-- A volume holds an inbox reservation on a core. -/
def State.hasInbox (s : State) (vol core : Nat) : Bool :=
  (s.circ.gatherings.any fun g => g.vol == vol && g.cores.contains core) || s.circ.lasting.contains (core, vol)

/-- Messages of a volume in a core's inbox and returns queue. -/
def State.inboxUsed (s : State) (vol core : Nat) : Nat :=
  let c := s.core core
  (c.inbox.filter (·.vol == vol)).length + (c.returns.filter fun r => match r with | .msg m => m.vol == vol | _ => false).length

/-- A message goes before another of its frame when its source, or its sender, is lower (R172). -/
def InMsg.before (m x : InMsg) : Bool :=
  !m.held && !x.held && x.frame == m.frame && (decide (m.src < x.src) || (m.src == x.src && decide (m.from_ < x.from_)))

/-- A message of the same lane that was held stands among some messages: a later one does not pass it (R174). -/
def InMsg.stopped (m : InMsg) (l : List InMsg) : Bool := l.any fun x => x.held && x.vol == m.vol && x.lane == m.lane

/-- Arrival order, and within one frame lower source and lower sender first (R172). -/
def insertMsg (m : InMsg) : List InMsg → List InMsg
  | [] => [m]
  | x :: r => if m.before x && !m.stopped r then m :: x :: r else x :: insertMsg m r

/-- The messages of a returns queue. -/
def returnedMsgs (l : List Returned) : List InMsg := l.filterMap fun r => match r with | .msg m => some m | _ => none

/-- The same order among the messages of a returns queue (R176). -/
def insertReturn (m : InMsg) : List Returned → List Returned
  | [] => [.msg m]
  | .msg x :: r => if m.before x && !m.stopped (returnedMsgs r) then .msg m :: .msg x :: r else .msg x :: insertReturn m r
  | .word w :: r => .word w :: insertReturn m r

/-- The core's queues have been switched to the returns queue for a volume (R176). -/
def Core.away (c : Core) (vol gidx : Nat) : Bool := c.pre != .none && c.outG.contains (vol, gidx)
def Core.awayVol (c : Core) (vol : Nat) : Bool := c.outG.any (·.1 == vol)

/-- Put a message into a core's inbox, or into its returns queue. -/
def State.deliver (s : State) (core : Nat) (m : InMsg) : State :=
  let c := s.core core
  if c.awayVol m.vol then s.setCore core { c with returns := insertReturn m c.returns }
  else s.setCore core { c with inbox := insertMsg m c.inbox }

/-! ## Errata (R403, R404) -/

/-- Write one errata record of a volume: class, source, the issuer's core, slot and gathering, and the six doublewords after the
header. -/
def State.errata (s : State) (vol cls src core slot gidx : Nat) (body : List Word) : State :=
  match s.volume vol with
  | none => s
  | some v =>
    let cl := clusterOf core
    let at_ (off : Nat) (acc : Access) : Option (Nat × Option (Nat × Nat)) := match s.locKey cl (.va vol (v.errq + off)) acc with
      | .key k kp => if s.keyFenced k then none else some (k, kp)
      | _ => none
    match at_ 0 .both, at_ 8 .read, at_ 16 .both with
    | some (kh, hp), some (kt, _), some (kl, lp) =>
      let head := s.rdN kh 4
      let tail := s.rdN kt 4
      let lose : State := s.bankWrite kl lp 4 ((s.rdN kl 4 + 1) % 2 ^ 32)
      if v.errataN ≤ (head + 2 ^ 32 - tail) % 2 ^ 32 then lose
      else match at_ (64 + 64 * (head % v.errataN)) .write with
        | none => lose
        | some (k, kp) =>
          let w0 := cls * 2 ^ 61 + src * 2 ^ 52 + core * 2 ^ 36 + slot * 2 ^ 30 + gidx
          let ws := w0 :: head * 2 ^ 32 :: (List.range 6).map fun i => (body.getD i 0).toNat
          ((s.wrWords k ws).widen kp k 64).bankWrite kh hp 4 ((head + 1) % 2 ^ 32)
    | _, _, _ => s

/-- An errata record of an engine operation. -/
def State.errataOf (s : State) (iss : Issuer) (src : Nat) (body : List Word) : State :=
  s.errata iss.vol 4 src iss.core iss.slot iss.gidx body

/-! ## Availability (R416) and records -/

/-- The lowest-numbered doubleword that fails a check (R283). -/
def lowestBad (cs : List (Nat × Bool)) : Option Nat :=
  cs.foldl (fun (m : Option Nat) c => if c.2 then some (match m with | none => c.1 | some x => Nat.min x c.1) else m) none

/-- BADREC with its doubleword, in the layout of R283. -/
def badRec (dw : Nat) : Word := ofN (dw * 256 + 2)

/-- A volume with the determinism flag. -/
def State.det (s : State) (vol : Nat) : Bool := ((s.volume vol).map Volume.det).getD false

/-! ## Completion -/

/-- An inbox message to the lane of the strand that issued an operation (R172). -/
def State.notify (s : State) (iss : Issuer) (src tag payload : Nat) (ptr : Word := 0) : State :=
  s.engMsg iss.vol iss.core (if iss.slot == 63 then 63 else iss.lane) src tag payload iss.uid ptr

/-- Operations of an engine that keep their place until their message is delivered (R174). -/
def State.held (s : State) (cluster src : Nat) : Nat := s.fab.eng.countP fun m => m.src == src && clusterOf m.core == cluster

/-! ## Memory as engines reach it (R180) -/

/-- Where an engine's pointer leads: the descriptor's type, and the place. No engine pointer reaches a C buffer (R180). -/
def Issuer.place (iss : Issuer) (w : Word) (size need align : Nat) : Except Nat (Nat × Loc) :=
  match ptrParts w with
  | .error e => .error e
  | .ok (n, off) =>
    let d := sregOf iss.sregs n
    if descType d == 4 then .error 0x06
    else match segCheck d off size need align with
      | .error e => .error e
      | .ok a => .ok (descType d, locOf d iss.core iss.vol a)

/-- The number that some bytes hold, or the failing place. -/
inductive Mem where
  | ok (v : Nat)
  | bad (p : Place)
deriving DecidableEq, Repr

/-- The pieces of at most 4,096 bytes at a location that lie in one page each: offset and length. -/
def piecesOf (l : Loc) (n : Nat) : List (Nat × Nat) :=
  match l with
  | .buf _ => [(0, n)]
  | .va _ a => if a % 4096 + n ≤ 4096 then [(0, n)] else [(0, 4096 - a % 4096), (4096 - a % 4096, n - (4096 - a % 4096))]

/-- A cluster's engine has gone through its translation cache (R237). -/
def State.cacheFill (s : State) (cluster : Nat) (l : Loc) (n : Nat) : State :=
  let c := s.cluster cluster
  s.setCluster cluster { c with tlb := (piecesOf l n).foldl (fun t p => s.cachedFor t (l.plus p.1)) c.tlb }

/-- The place of a VA for the network engine and the annex controllers: through the device translation cache (R237). -/
def State.devPlace (s : State) (l : Loc) (acc : Access) : Place :=
  match l with
  | .buf k => .key k none
  | .va v a => s.translate s.devTlb v a acc

/-- The leaves of n bytes enter the device translation cache (R237). -/
def State.devFill (s : State) (l : Loc) (n : Nat := 8) : State :=
  { s with devTlb := (piecesOf l n).foldl (fun t p => s.cachedFor t (l.plus p.1)) s.devTlb }

/-- The VA of a place, or 0 in a buffer. -/
def Loc.vaOr0 : Loc → Nat
  | .va _ a => a
  | .buf _ => 0

/-- Read n bytes at a location. -/
def State.engRead (s : State) (cluster : Nat) (l : Loc) (n : Nat) : Mem :=
  (piecesOf l n).foldl (fun (m : Mem) p => match m with
    | .bad x => .bad x
    | .ok v => match s.locKey cluster (l.plus p.1) .read with
      | .key k _ => if s.keyFenced k then .bad .fenced else .ok (v + 2 ^ (8 * p.1) * s.rdN k p.2)
      | x => .bad x) (.ok 0)

/-- Write n bytes at a location; the failing place otherwise. -/
def State.engWrite (s : State) (cluster : Nat) (l : Loc) (n v : Nat) : State × Option Place :=
  (piecesOf l n).foldl (fun (r : State × Option Place) p => match r.2 with
    | some _ => r
    | none => match r.1.locKey cluster (l.plus p.1) .write with
      | .key k kp => if r.1.keyFenced k then (r.1, some .fenced)
        else ((r.1.cacheFill cluster (l.plus p.1) p.2).bankWrite k kp p.2 (v / 2 ^ (8 * p.1)), none)
      | x => (r.1, some x)) (s, none)

/-- Bytes that an engine may or may not have written before it stopped (R292, R313, R345, R424). -/
def State.engEither (s : State) (cluster : Nat) (l : Loc) (n v : Nat) : State :=
  (piecesOf l n).foldl (fun (s : State) p => match s.locKey cluster (l.plus p.1) .write with
    | .key k kp => if s.keyFenced k then s else (s.wrEither k (leBytes p.2 (v / 2 ^ (8 * p.1)))).widen kp k p.2
    | _ => s) s

/-- Read a record of n doublewords; a failure is its page-fault code, with 0x100 for a fenced memory and 0x101 for a remote
place. -/
def State.readRec (s : State) (cluster : Nat) (l : Loc) (n : Nat) : Except Nat (List Word) :=
  (List.range n).foldl (fun (r : Except Nat (List Word)) i => match r with
    | .error e => .error e
    | .ok ws => match s.engRead cluster (l.plus (8 * i)) 8 with
      | .ok v => .ok (ws ++ [ofN v])
      | .bad (.fail c) => .error c
      | .bad (.far _ _) => .error 0x101
      | .bad _ => .error 0x100) (.ok [])

/-! ## Remote places as engines reach them (R236, R393) -/

/-- A read of the engine: its value, a fault code, or remote pieces that have not come back. -/
inductive CRead where
  | val (v : Nat)
  | bad (code : Nat)
  | far (asks : List FarAcc)
deriving DecidableEq, Repr

def CRead.add (at_ v : Nat) : CRead → CRead
  | .val x => .val (x + 2 ^ (8 * at_) * v)
  | r => r

def CRead.ask (l : List FarAcc) : CRead → CRead
  | .val _ => .far l
  | .far a => .far (a ++ l)
  | r => r

/-- Read n bytes, at most 4,096; remote pieces come from those already read for this chunk. -/
def State.copyRead (s : State) (cluster : Nat) (far : List FarAcc) (l : Loc) (n : Nat) : CRead :=
  (piecesOf l n).foldl (fun (r : CRead) p => match r with
    | .bad c => .bad c
    | r => match s.locKey cluster (l.plus p.1) .read with
      | .key k _ => if s.keyFenced k then .bad 0x4A else r.add p.1 (s.rdN k p.2)
      | .fail c => .bad (0x40 + c)
      | .fenced => .bad 0x4A
      | .far peer off => match far.find? fun a => a.data.isNone && a.peer == peer && a.off == off && a.n == p.2 with
        | none => r.ask [{ peer := peer, off := off, n := p.2 }]
        | some a => match a.res with
          | none => r.ask []
          | some none => .bad 0x49
          | some (some v) => r.add p.1 v) (.val 0)

/-- Send the packet of a remote piece, which takes a name of its own; a peer that is not up fails it at once, and a network engine or port
that has not reported is waited for (R416). -/
def State.sendFar (s : State) (a : FarAcc) : State × FarAcc :=
  let e := (aget s.net.peers a.peer).getD {}
  if s.peerOut a.peer then (s, { a with res := some none, held := false })
  else if !s.netUp e.port then (s, { a with held := true })
  else
    let (tag, s1) := s.fresh
    let kind : PacketKind := match a.data with
      | some v => .write tag 0 e.window a.off (leBytes a.n v)
      | none => .readReq tag 0 e.window a.off a.n
    let o : OutMsg := .packet a.peer e.port tag 0 kind
    ({ s1 with net := { s1.net with out := s1.net.out ++ [o] } }, { a with tag := tag, held := false })

/-- Two remote pieces share a byte of the peer's region. -/
def FarAcc.meets (a b : FarAcc) : Bool := a.peer == b.peer && decide (a.off < b.off + b.n) && decide (b.off < a.off + a.n)

/-- Send the remote pieces that are held; a write waits until those before it of the same bytes are settled, so that the later one is
performed last (R287). -/
def State.sendHeld (s : State) (as : List FarAcc) : State × List FarAcc :=
  as.foldl (fun (r : State × List FarAcc) a =>
    if !a.held || (a.data.isSome && r.2.any fun b => b.res.isNone && b.meets a) then (r.1, r.2 ++ [a])
    else let q := r.1.sendFar a; (q.1, r.2 ++ [q.2])) (s, [])

def State.sendFars (s : State) (as : List FarAcc) : State × List FarAcc := s.sendHeld (as.map fun a => { a with held := true })

/-- A record of a request: its doublewords; the code of R292 for the failure of its read; or remote pieces to ask for, none while those
asked for are awaited. -/
inductive RecRead where
  | words (ws : List Word)
  | bad (code : Nat)
  | ask (as : List FarAcc)
deriving DecidableEq, Repr

/-- One more doubleword. -/
def RecRead.add : RecRead → CRead → RecRead
  | .bad c, _ => .bad c
  | _, .bad c => .bad c
  | .words ws, .val v => .words (ws ++ [ofN v])
  | .words _, .far as => .ask as
  | .ask as, .val _ => .ask as
  | .ask as, .far bs => .ask (as ++ bs)

/-- Read n doublewords of a request's record; those on a remote page come through the network engine (R236). -/
def State.reqRecord (s : State) (cluster : Nat) (r : Req) (l : Loc) (n : Nat) : RecRead :=
  (List.range n).foldl (fun (x : RecRead) i => x.add (s.copyRead cluster r.far (l.plus (8 * i)) 8)) (.words [])

/-- Replace a request where it stands. -/
def State.putReq (s : State) (cluster : Nat) (r : Req) : State :=
  let c := s.cluster cluster
  if r.kind.unit == .circ then { s with circ := { s.circ with reqs := replaceBy (·.id == r.id) r s.circ.reqs } }
  else s.setCluster cluster { c with reqs := replaceBy (·.id == r.id) r c.reqs }

/-- Ask for remote pieces of a request's record, or try again what is held; the request waits. -/
def State.askRecord (s : State) (cluster : Nat) (r : Req) (as : List FarAcc) : State :=
  let q := s.sendHeld (r.far ++ as.map fun a => { a with held := true })
  if q.2 == r.far then s else (q.1.putReq cluster { r with far := q.2 }).push (r.event cluster)

/-- A block that a strand reads with the load or store of a wide transfer (R241, access 6): the fault of a range that does not translate. -/
def Ctx.walk (c : Ctx) (l : Loc) (n : Nat) (acc : Access) : Option FaultInfo :=
  (piecesOf l n).findSome? fun p => match c.s.locKey (clusterOf c.core) (l.plus p.1) acc with
    | .key k _ => if c.s.keyFenced k then some (blockFault 0x100 (l.plus p.1).shown 6) else none
    | .fail e => some (blockFault e (l.plus p.1).shown 6)
    | .fenced => some (blockFault 0x100 (l.plus p.1).shown 6)
    | .far _ _ => none

/-- A pointer operand of an engine instruction: its type and place, or the segment fault at issue (R231); `out` lists the segment types
that the engine does not admit for it, beside `cbuf` (R180). What the engine finds when it reads or writes there is the engine's fault
(R240). -/
def Ctx.enginePtr (c : Ctx) (w : Word) (size need align : Nat) (out : List Nat := []) : Except FaultInfo (Nat × Loc) :=
  match c.issuer.place w size need align with
  | .error e => .error (segFault e (fld w 60 0))
  | .ok r => if out.contains r.1 then .error (segFault 0x06 (fld w 60 0)) else .ok r

end Sys2Proof.Machine
end

