-- ==== Sys2Proof/Machine/Copy.lean ====
section
/-! DEFINITION. The indirect copy engine and the distributor (R282 to R297). Bytes move in doublewords: every size, pitch and
length is a multiple of 8, so each doubleword of an extent lies in one sector. -/

namespace Sys2Proof.Machine

open Sys2Proof

/-! ## Issue (R283) -/

/-- The sync-word operand of an engine instruction: z, or a pointer that is checked. -/
def Ctx.syncPtr (c : Ctx) (b : GOp) (out : List Nat := []) : Option FaultInfo :=
  if b == .z then none
  else match c.enginePtr (c.g b) 8 (rW + rF + rE) 8 out with
    | .error e => some e
    | .ok _ => none

/-- Send a request to a unit of the cluster. -/
def Ctx.sendReq (c : Ctx) (r : Req) : Ctx :=
  let k := clusterOf c.core
  let cl := c.s.cluster k
  { c with s := (c.s.setCluster k { cl with reqs := cl.reqs ++ [r] }).push (r.event k) }

/-- An instruction that names a record of 64 bytes and a sync word (R283, R305); the selection unit only writes W buffers (R180). -/
def recordIssue (i : Instr) (h : Hdr) (kind : ReqKind) (d a b : GOp) (imm : Nat) (s : State) : Host.Outcome State Fault Refusal :=
  issue { h := h, word := wordOf i, src := [a, b], dst := [d], long := true, access := true } s fun c =>
    match c.enginePtr (c.g a) 64 (rR + rE) 64 (if kind == .ksel || kind == .kgath then [2] else []) with
    | .error e => .fault e
    | .ok _ => match c.syncPtr b with
      | some e => .fault e
      | none =>
        let (r, c1) := c.request d kind (c.g a) (if b == .z then none else some (c.g b)) imm
        .go (c1.sendReq r)

/-- `cpy`. -/
def execCpy (h : Hdr) (d a b : GOp) (s : State) : Host.Outcome State Fault Refusal := recordIssue (.cpy h d a b) h .cpy d a b 0 s

/-- `cpy.rp`. -/
def execCpyRp (h : Hdr) (d a b : GOp) (s : State) : Host.Outcome State Fault Refusal := recordIssue (.cpyRp h d a b) h .cpyRp d a b 1 s

/-- `gath`. -/
def execGath (h : Hdr) (d a b : GOp) (s : State) : Host.Outcome State Fault Refusal := recordIssue (.gath h d a b) h .gath d a b 0 s

/-- `scat`. -/
def execScat (h : Hdr) (d a b : GOp) (s : State) : Host.Outcome State Fault Refusal := recordIssue (.scat h d a b) h .scat d a b 0 s

/-- `cmpct`. -/
def execCmpct (h : Hdr) (d a b : GOp) (s : State) : Host.Outcome State Fault Refusal := recordIssue (.cmpct h d a b) h .cmpct d a b 0 s

/-- `dcpy`: the request carries the pattern register as it stands (R291). -/
def execDcpy (h : Hdr) (d a b : GOp) (s : State) : Host.Outcome State Fault Refusal := recordIssue (.dcpy h d a b) h .dcpy d a b 0 s

/-- `dpat` (R290). -/
def execDpat (h : Hdr) (a b : GOp) (s : State) : Host.Outcome State Fault Refusal :=
  issue { h := h, word := wordOf (.dpat h a b), src := [a, b], access := true } s fun c =>
    .go { c with s := c.s.setCore c.core { c.s.core c.core with pat := (c.g a, c.g b) } }

/-- `cqry` (R297): an operation whose message is not delivered still has its place (R174). -/
def execCqry (h : Hdr) (d a : GOp) (q : BitVec 16) (s : State) : Host.Outcome State Fault Refusal :=
  issue { h := h, word := wordOf (.cqry h d a q), src := [a], dst := [d], long := true, access := true } s fun c =>
    let k := clusterOf c.core
    let cl := c.s.cluster k
    let v : Word := match q.toNat with
      | 0 => ofN (256 - (cl.copies.length + c.s.held k 1))
      | 1 => match cl.copies.find? fun o => o.iss.uid == c.t.uid && o.ptr == c.g a with
        | none => if c.s.fab.eng.any (fun m => m.src == 1 && m.uid == c.t.uid && m.ptr == c.g a && clusterOf m.core == k) then 2 else 0
        | some o => if o.started then 2 else 1
      | 2 => (c.s.core c.core).pat.1
      | _ => (c.s.core c.core).pat.2
    .go (c.result d v)

/-! ## The record (R285, R286, R291) -/

def copyLen (d : Nat → Word) : Nat := fld (d 3) 39 0
def copyN (d : Nat → Word) : Nat := fld (d 3) 55 32
def copyRb (d : Nat → Word) : Nat := fld (d 3) 16 0
def copyIsz (d : Nat → Word) : Nat := 2 ^ fld (d 3) 63 62
def copyNz (d : Nat → Word) : Bool := (d 3).getLsbD 61

/-- An extent of a record fails R231, E, a right, or its segment's type. -/
def Issuer.extBad (iss : Issuer) (w : Word) (size need align : Nat) : Bool :=
  match iss.place w size (need + rE) align with
  | .error _ => true
  | .ok _ => false

/-- A pointer whose extent is checked only when reached: its form and its segment's type. -/
def Issuer.formBad (iss : Issuer) (w : Word) : Bool :=
  match ptrParts w with
  | .error _ => true
  | .ok (n, _) => let t := descType (sregOf iss.sregs n); t == 0 || t == 4

/-- The checks of R286 by doubleword. -/
def copyChecks (iss : Issuer) (kind : ReqKind) (d : Nat → Word) : List (Nat × Bool) :=
  let len := copyLen d
  let n := copyN d
  let rb := copyRb d
  let lenBad := fld (d 3) 63 40 != 0 || len == 0 || len % 8 != 0
  let rowBad (isz : Bool) := isz || fld (d 3) 60 56 != 0 || n == 0 || fld (d 3) 31 17 != 0 || rb % 8 != 0 || rb == 0 || decide (65536 < rb)
  let isz := fld (d 3) 63 62
  let pitchBad := (d 4).toNat % 8 != 0 || decide ((d 4).toNat < rb)
  let tail := [(6, fld (d 6) 62 16 != 0), (7, d 7 != 0)]
  (match kind with
  | .gath => [(0, iss.formBad (d 0)), (1, iss.extBad (d 1) (n * rb) rW 1), (2, iss.extBad (d 2) (n * copyIsz d) rR 1),
      (3, rowBad (isz < 2 || copyNz d)), (4, pitchBad), (5, d 5 != 0)]
  | .scat => [(0, iss.extBad (d 0) (n * rb) rR 1), (1, iss.formBad (d 1)), (2, iss.extBad (d 2) (n * copyIsz d) rR 1),
      (3, rowBad (isz < 2 || copyNz d)), (4, pitchBad), (5, d 5 != 0)]
  | .cmpct => [(0, iss.extBad (d 0) (n * rb) rR 1), (1, iss.extBad (d 1) (n * rb) rW 1),
      (2, if copyNz d then d 2 != 0 else iss.extBad (d 2) (ceilDiv n 8) rR 1), (3, rowBad (isz != 0)), (4, d 4 != 0),
      (5, d 5 != 0 && iss.extBad (d 5) 8 rW 8)]
  | .dcpy => [(0, iss.extBad (d 0) len rR 1), (1, d 1 != 0), (2, d 2 != 0), (3, lenBad), (4, d 4 != 0), (5, d 5 != 0)]
  | _ => [(0, iss.extBad (d 0) len rR 1), (1, iss.extBad (d 1) len rW 1), (2, d 2 != 0), (3, lenBad), (4, d 4 != 0), (5, d 5 != 0)]) ++ tail

/-! ### The pattern (R290, R291) -/

def patBlk (p : Word × Word) : Nat := fld p.1 23 0
def patCnt (p : Word × Word) : Nat := fld p.1 46 44 + 1
def patFirst (p : Word × Word) : Nat := fld p.1 42 40

/-- Role and buffer offset of block j. -/
def patAt (p : Word × Word) (j : Nat) : Nat × Nat :=
  (patFirst p + j % patCnt p, fld p.2 31 0 + j / patCnt p * fld p.2 63 32)

/-- The issuer's segment that lets `dcpy` write n bytes at an offset of its targets' buffers. -/
def Issuer.dealSeg (iss : Issuer) (p : Word × Word) (off n : Nat) : Option Desc :=
  let ty := if fld p.1 51 48 == 0 then 2 else 3
  iss.sregs.find? fun d => descType d == ty && (match segCheck d off n (rW + rE) 1 with | .ok _ => true | .error _ => false)

/-- The pattern fails (dw = 8). -/
def patBad (iss : Issuer) (cores : Nat) (p : Word × Word) (len : Nat) : Bool :=
  let blk := patBlk p
  fld p.1 63 52 != 0 || fld p.1 47 47 != 0 || fld p.1 43 43 != 0 || fld p.1 39 24 != 0 || decide (1 < fld p.1 51 48) || blk == 0 || blk % 64 != 0 ||
  fld p.2 63 32 % 64 != 0 || fld p.2 31 0 % 64 != 0 || decide (cores < patFirst p + patCnt p) ||
  (List.range (ceilDiv len blk)).any fun j => (iss.dealSeg p (patAt p j).2 (Nat.min blk (len - j * blk))).isNone

/-- Cores whose W or A buffers an operation reaches, by its extents, its sync word or its count word. -/
def copyCores (iss : Issuer) (kind : ReqKind) (shelf : List Nat) (pat : Word × Word) (sync : Option Word) (d : Nat → Word) : List Nat :=
  let buf (w : Word) : Bool := match ptrParts w with
    | .error _ => false
    | .ok (n, _) => let t := descType (sregOf iss.sregs n); t == 2 || t == 3
  let own := if buf (d 0) || buf (d 1) || ((kind == .gath || kind == .scat || kind == .cmpct) && buf (d 2)) || sync.any buf ||
      (kind == .cmpct && d 5 != 0 && buf (d 5)) then [iss.core] else []
  if kind == .dcpy then own ++ (List.range (Nat.min (patCnt pat) (ceilDiv (copyLen d) (patBlk pat)))).map fun i => shelf.getD (patFirst pat + i) 0
  else own

/-! ## Acceptance (R283, R284) -/

/-- Operations are taken from the queue in acceptance order, 16 at once; one of a determinism volume runs alone (R284, R294). -/
def State.startCopies (s : State) (cluster : Nat) : State :=
  (s.cluster cluster).copies.foldl (fun (s : State) _ =>
    let c := s.cluster cluster
    let on := c.copies.filter (·.started)
    match c.copies.find? (!·.started) with
    | none => s
    | some o =>
      if 16 ≤ on.length || (on.any fun x => s.det x.iss.vol) || (s.det o.iss.vol && !on.isEmpty) then s
      else (s.setCluster cluster { c with copies := mapIf (·.id == o.id) (fun x => { x with started := true }) c.copies }).push
        (.copyChunk cluster o.id)) s

/-- The operation of an accepted record. -/
def State.newCopy (s : State) (r : Req) (dws : List Word) (errPtr : Word) (window : Option Nat) (bitmap : Word) : CopyOp :=
  let shelf := ((s.gathering r.iss.vol r.iss.gidx).map (·.cores)).getD []
  { id := r.id, iss := r.iss, kind := r.kind, ptr := r.a, errPtr := errPtr, dws := dws, sync := r.b, pat := r.pat, window := window,
    bitmap := bitmap, cores := copyCores r.iss r.kind shelf r.pat r.b fun i => dws.getD i 0, shelf := shelf }

/-- What a request's records give: its operation, the failing doubleword, or remote pieces of a record to be waited for. -/
inductive CopyRec where
  | op (o : CopyOp)
  | bad (dw : Nat)
  | ask (as : List FarAcc)
deriving DecidableEq, Repr

/-- The records of a request, on remote pages too (R236, R283, R293). -/
def State.copyRecord (s : State) (cluster : Nat) (r : Req) : CopyRec :=
  match r.iss.place r.a 64 (rR + rE) 64 with
  | .error _ => .bad 0
  | .ok (_, l) => match s.reqRecord cluster r l 8 with
    | .ask as => .ask as
    | .bad _ => .bad 0
    | .words ws =>
      if r.kind == .cpyRp then
        let e := fun i => ws.getD i (0 : Word)
        match r.iss.place (e 2) 64 (rR + rE) 64 with
        | .error _ => .bad 2
        | .ok (_, l2) => match s.reqRecord cluster r l2 8 with
          | .ask as => .ask as
          | .bad _ => .bad 2
          | .words ds =>
            match lowestBad ((3, fld (e 3) 63 56 != 0x10) :: (copyChecks r.iss .cpy fun i => ds.getD i 0).map fun c => (16 + c.1, c.2)) with
            | some dw => .bad dw
            | none => .op (s.newCopy r ds (e 2) (some (fld (e 3) 47 0 / 16384)) (e 4))
      else
        let d := fun i => ws.getD i (0 : Word)
        let n := ((s.gathering r.iss.vol r.iss.gidx).map (·.cores.length)).getD 0
        match lowestBad (copyChecks r.iss r.kind d ++ [(8, r.kind == .dcpy && patBad r.iss n r.pat (copyLen d))]) with
        | some dw => .bad dw
        | none => .op (s.newCopy r ws r.a none 0)

/-- `COPY_ACCEPT`. -/
def execCopyAccept (cluster req : Nat) (s : State) : Host.Outcome State Fault Refusal :=
  let cl := s.cluster cluster
  match cl.reqs.find? (·.id == req) with
  | none => .next s
  | some r =>
    if !s.reqReady r then .next (s.notReady r)
    else if !s.unitUp .copy cluster then .next s
    else
      let s1 := s.setCluster cluster { cl with reqs := cl.reqs.filter (·.id != req) }
      if s.unitFenced .copy cluster then .next (s1.status r.iss req 3)
      else if 256 ≤ cl.copies.length + s.held cluster 1 then .next (s1.status r.iss req 1)
      else match s1.copyRecord cluster r with
        | .ask as => .next (s.askRecord cluster r as)
        | .bad dw => .next (s1.status r.iss req (badRec dw))
        | .op o =>
          let c := s1.cluster cluster
          .next (((s1.setCluster cluster { c with copies := c.copies ++ [o] }).status r.iss req 0).startCopies cluster)

/-! ## Reading (R287, R289, R292) -/

/-- A doubleword to be written: extent position, offset in its segment, place, value. -/
structure CopyMove where
  ext : Nat
  off : Nat
  loc : Loc
  val : Nat
deriving DecidableEq, Repr

/-- What the reads of a chunk have given so far; `lost` are the sectors whose read faulted (R292). -/
structure CopyScan where
  asks  : List FarAcc := []
  wait  : Bool := false
  marks : List (Nat × Nat × Nat) := []
  lost  : List Nat := []
  moves : List CopyMove := []
  kept  : Nat := 0
deriving DecidableEq, Repr

/-- Sectors that extent bytes [lo, lo + n) meet. -/
def sectorsOf (lo n : Nat) : List Nat := (List.range ((lo + n - 1) / 256 + 1 - lo / 256)).map (lo / 256 + ·)

/-- Mark sectors; the first mark of a sector stays. -/
def CopyScan.mark (c : CopyScan) (secs : List Nat) (code off : Nat) : CopyScan :=
  { c with marks := c.marks ++ (secs.filter fun x => !c.marks.any (·.1 == x)).map fun x => (x, code, off) }

/-- Mark the sectors of a failing read. -/
def CopyScan.lose (c : CopyScan) (secs : List Nat) (code off : Nat) : CopyScan :=
  let c1 := c.mark secs code off
  { c1 with lost := c1.lost ++ secs.filter fun x => !c1.lost.contains x }

/-- Read at an offset of a segment for some sectors. -/
def CopyScan.read (c : CopyScan) (s : State) (cluster : Nat) (far : List FarAcc) (l : Loc) (off n : Nat) (secs : List Nat) :
    CopyScan × Option Nat :=
  match s.copyRead cluster far l n with
  | .val v => (c, some v)
  | .bad code => (c.lose secs code off, none)
  | .far a => ({ c with asks := c.asks ++ a.filter fun x => !c.asks.contains x, wait := true }, none)

/-- Place of an operand's byte. -/
def Issuer.at_ (iss : Issuer) (w : Word) (off : Nat) : Loc :=
  let d := sregOf iss.sregs (fld w 63 61)
  (locOf d iss.core iss.vol (descBase d + fld w 47 0)).plus off

/-- A table row reached at its offset (R289). -/
def Issuer.row (iss : Issuer) (w : Word) (off rb need : Nat) : Option Loc :=
  let d := sregOf iss.sregs (fld w 63 61)
  if 2 ^ 48 ≤ off then none
  else match segCheck d (fld w 47 0 + off) rb (need + rE) 1 with
    | .error _ => none
    | .ok a => some (locOf d iss.core iss.vol a)

/-- Copy doublewords of extent [lo, lo + n) from places to places. -/
def CopyScan.copy (c : CopyScan) (s : State) (cluster : Nat) (far : List FarAcc) (lo n : Nat) (src dst : Nat → Nat × Loc) : CopyScan :=
  (List.range (n / 8)).foldl (fun (c : CopyScan) i =>
    let e := lo + 8 * i
    let (o, l) := src (8 * i)
    match c.read s cluster far l o 8 [e / 256] with
    | (c1, none) => c1
    | (c1, some v) => let (q, m) := dst (8 * i)
      { c1 with moves := c1.moves ++ [{ ext := e, off := q, loc := m, val := v }] }) c

/-- Where a byte of the extent of `dcpy` goes. -/
def CopyOp.dealAt (o : CopyOp) (e : Nat) : Nat × Loc :=
  let blk := patBlk o.pat
  let j := e / blk
  let (role, off) := patAt o.pat j
  let core := o.shelf.getD role o.iss.core
  match o.iss.dealSeg o.pat off (Nat.min blk (copyLen (fun i => o.dws.getD i 0) - j * blk)) with
  | some d => (off + e % blk, locOf d core o.iss.vol (descBase d + off + e % blk))
  | none => (off + e % blk, .buf (if fld o.pat.1 51 48 == 0 then wKey core (off + e % blk) else aKey core (off + e % blk)))

/-- One entry of `gath` or `scat`. -/
def CopyScan.entry (c : CopyScan) (s : State) (cluster : Nat) (o : CopyOp) (e : Nat) : CopyScan :=
  let d := fun i => o.dws.getD i (0 : Word)
  let rb := copyRb d
  let isz := copyIsz d
  let secs := sectorsOf (e * rb) rb
  let off (w : Word) (x : Nat) : Nat := fld w 47 0 + x
  match c.read s cluster o.far (o.iss.at_ (d 2) (e * isz)) (off (d 2) (e * isz)) isz secs with
  | (c1, none) => c1
  | (c1, some i) =>
    let x := i * (d 4).toNat
    if o.kind == .gath then
      match o.iss.row (d 0) x rb rR with
      | none => c1.lose secs 0x48 (off (d 0) x % 2 ^ 64)
      | some l => c1.copy s cluster o.far (e * rb) rb (fun j => (off (d 0) (x + j), l.plus j)) fun j => (off (d 1) (e * rb + j), o.iss.at_ (d 1) (e * rb + j))
    else
      match o.iss.row (d 1) x rb rW with
      | none => c1.mark secs 0x48 (off (d 1) x % 2 ^ 64)
      | some l => c1.copy s cluster o.far (e * rb) rb (fun j => (off (d 0) (e * rb + j), o.iss.at_ (d 0) (e * rb + j))) fun j => (off (d 1) (x + j), l.plus j)

/-- One row of `cmpct`: the keep decision, then the row. A failing read marks every sector of its row. -/
def CopyScan.keep (c : CopyScan) (s : State) (cluster : Nat) (o : CopyOp) (e : Nat) : CopyScan :=
  let d := fun i => o.dws.getD i (0 : Word)
  let rb := copyRb d
  let secs := sectorsOf (e * rb) rb
  let src := fld (d 0) 47 0 + e * rb
  let (c1, bit) : CopyScan × Option Nat :=
    if copyNz d then (c, some 2)
    else match c.read s cluster o.far (o.iss.at_ (d 2) (e / 8)) (fld (d 2) 47 0 + e / 8) 1 secs with
      | (c1, none) => (c1, none)
      | (c1, some v) => (c1, some (v / 2 ^ (e % 8) % 2))
  match bit with
  | none | some 0 => c1
  | some b =>
    let (c2, row) := (List.range (rb / 8)).foldl (fun (x : CopyScan × Option (List Nat)) i =>
      match x.1.read s cluster o.far (o.iss.at_ (d 0) (e * rb + 8 * i)) (src + 8 * i) 8 secs with
      | (c, none) => (c, none)
      | (c, some v) => (c, x.2.map (· ++ [v]))) (c1, some [])
    match row with
    | none => if b == 1 then { c2 with kept := c2.kept + 1 } else c2
    | some vs =>
      if b == 2 && vs.all (· == 0) then c2
      else
        let at_ := c2.kept * rb
        { c2 with
          kept := c2.kept + 1,
          moves := c2.moves ++ vs.zipIdx.map fun v =>
            { ext := e * rb + 8 * v.2, off := fld (d 1) 47 0 + at_ + 8 * v.2, loc := o.iss.at_ (d 1) (at_ + 8 * v.2), val := v.1 } }

/-- Entries or rows of a chunk. -/
def chunkRows (chunk n : Nat) : List Nat := (List.range (Nat.min 4096 (n - 4096 * chunk))).map (4096 * chunk + ·)

/-- The reads of the current chunk. -/
def State.copyScan (s : State) (cluster : Nat) (o : CopyOp) : CopyScan :=
  let d := fun i => o.dws.getD i (0 : Word)
  let c : CopyScan := { kept := o.kept }
  let src (lo j : Nat) : Nat × Loc := (fld (d 0) 47 0 + lo + j, o.iss.at_ (d 0) (lo + j))
  let dst (lo j : Nat) : Nat × Loc := (fld (d 1) 47 0 + lo + j, o.iss.at_ (d 1) (lo + j))
  match o.kind with
  | .gath | .scat => (chunkRows o.chunk (copyN d)).foldl (fun c e => c.entry s cluster o e) c
  | .cmpct => (chunkRows o.chunk (copyN d)).foldl (fun c e => c.keep s cluster o e) c
  | .cpyRp =>
    ((List.range 64).filter o.bitmap.getLsbD).foldl (fun (c : CopyScan) i =>
      let lo := 16384 * o.window.getD 0 + 256 * i
      c.copy s cluster o.far lo (Nat.min 256 (copyLen d - lo)) (src lo) (dst lo)) c
  | .dcpy =>
    let lo := 4096 * o.chunk
    c.copy s cluster o.far lo (Nat.min 4096 (copyLen d - lo)) (src lo) fun j => o.dealAt (lo + j)
  | _ =>
    let lo := 4096 * o.chunk
    c.copy s cluster o.far lo (Nat.min 4096 (copyLen d - lo)) (src lo) (dst lo)

/-- Chunks of an operation. -/
def CopyOp.chunks (o : CopyOp) : Nat :=
  let d := fun i => o.dws.getD i (0 : Word)
  match o.kind with
  | .cpyRp => 1
  | .gath | .scat | .cmpct => ceilDiv (copyN d) 4096
  | _ => ceilDiv (copyLen d) 4096

/-! ## Writing -/

/-- The fault code of a write of 8 bytes. -/
def State.copyWriteBad (s : State) (cluster : Nat) (l : Loc) : Option Nat :=
  (piecesOf l 8).findSome? fun p => match s.locKey cluster (l.plus p.1) .write with
    | .key k _ => if s.keyFenced k then some 0x4A else none
    | .fail c => some (0x40 + c)
    | .fenced => some 0x4A
    | .far _ _ => none

/-- Write a doubleword; its remote pieces are added to those to be sent. -/
def State.copyWrite (s : State) (cluster : Nat) (m : CopyMove) : State × List FarAcc :=
  (piecesOf m.loc 8).foldl (fun (r : State × List FarAcc) p =>
    let v := m.val / 2 ^ (8 * p.1) % 2 ^ (8 * p.2)
    match r.1.locKey cluster (m.loc.plus p.1) .write with
    | .key k kp => ((r.1.cacheFill cluster (m.loc.plus p.1) p.2).bankWrite k kp p.2 v, r.2)
    | .far peer off => (r.1, r.2 ++ [{ peer := peer, off := off, n := p.2, data := some v }])
    | _ => r) (s, [])

def State.putCopy (s : State) (cluster : Nat) (o : CopyOp) : State :=
  let c := s.cluster cluster
  s.setCluster cluster { c with copies := replaceBy (·.id == o.id) o c.copies }

/-- Arrivals of n bytes at an engine's sync word, each of at most 2^20 (R288, R191); the codes of those that failed (R292). -/
def State.engArrive (s : State) (cluster : Nat) (iss : Issuer) (w : Word) (n : Nat) : State × List Nat :=
  match iss.place w 8 (rW + rF + rE) 8 with
  | .error _ => (s, [0x4B])
  | .ok (_, l) => (List.range (ceilDiv n (2 ^ 20))).foldl (fun (r : State × List Nat) i =>
      let q := r.1.arriveLoc cluster l (Nat.min (2 ^ 20) (n - 2 ^ 20 * i))
      let a := arrived q.2.1 q.2.2
      (q.1, if a == .done then r.2 else r.2 ++ [a.code 0x4A])) (s, [])

/-- Add a number to an entry of an association list. -/
def addTo (l : List (Nat × Nat)) (k n : Nat) : List (Nat × Nat) := aput l k ((aget l k).getD 0 + n)

/-- The count word of `cmpct` (R289): written, or not; or on its way to a peer (R393), and then waited for. -/
inductive CountWord where
  | done (s : State) (ok : Bool)
  | wait (s : State) (a : FarAcc)
deriving DecidableEq, Repr

/-- The last write of a `cmpct`, before its last arrival (R220, R289). -/
def State.countWord (s : State) (cluster : Nat) (o : CopyOp) : CountWord :=
  let w := o.dws.getD 5 (0 : Word)
  if o.kind != .cmpct || w == 0 || o.chunk + 1 < o.chunks then .done s true
  else match o.count with
    | some ok => .done s ok
    | none => match s.locKey cluster (o.iss.at_ w 0) .write with
      | .far peer off =>
        let (s1, a) := s.sendFar { peer := peer, off := off, n := 8, data := some o.kept }
        if a.res.isSome then .done s1 false else .wait s1 a
      | _ => let r := s.engWrite cluster (o.iss.at_ w 0) 8 o.kept; .done r.1 r.2.isNone

/-- The end of a chunk: marks, bytes placed, the count word of a `cmpct` after its last chunk's writes, arrivals (R220, R288). -/
def State.endChunk (s : State) (cluster : Nat) (o : CopyOp) (marks : List (Nat × Nat × Nat)) (bytes : List (Nat × Nat)) : State :=
  let good := bytes.filter fun b => !marks.any (·.1 == b.1)
  let n := (good.map (·.2)).foldl (· + ·) 0
  let d := fun i => o.dws.getD i (0 : Word)
  let pos := match o.window with
    | some w => 16384 * w
    | none => if o.kind == .gath || o.kind == .scat || o.kind == .cmpct then 4096 * o.chunk * copyRb d else 4096 * o.chunk
  match s.countWord cluster o with
  | .wait s0 a => s0.putCopy cluster { o with far := [a], wait := [], sent := some good, marks := o.marks ++ marks, counting := true }
  | .done s0 ok =>
    let (s1, bad) := match o.sync with
      | none => (s0, [])
      | some w => s0.engArrive cluster o.iss w n
    let o1 : CopyOp := { o with
      chunk := o.chunk + 1, placed := o.placed + n, marks := o.marks ++ marks, far := [], wait := [], sent := none,
      winBytes := good.foldl (fun l b => addTo l (b.1 / 64) b.2) o.winBytes,
      extra := o.extra ++ bad.map (fun code => (pos / 16384 * 16384, code, fld (o.sync.getD 0) 47 0)) ++
        (if ok then [] else [((copyN d * copyRb d - 1) / 16384 * 16384, 0x4C, fld (d 5) 47 0)]) }
    (s1.putCopy cluster o1).push (if o1.chunks ≤ o1.chunk then .copyComplete cluster o.id else .copyChunk cluster o.id)

/-- The writes of a chunk whose reads are done; remote ones are sent and waited for. -/
def State.copyWrites (s : State) (cluster : Nat) (o : CopyOp) (c : CopyScan) : State :=
  let moves := c.moves.filter fun m => !c.lost.contains (m.ext / 256)
  let marked := moves.foldl (fun (x : CopyScan) m => match s.copyWriteBad cluster m.loc with
    | some e => x.mark [m.ext / 256] e m.off
    | none => x) c
  let isBad (m : CopyMove) : Bool := marked.marks.any (·.1 == m.ext / 256)
  let (s1, far, wait) := moves.foldl (fun (r : State × List FarAcc × List (Nat × Nat)) m =>
    if isBad m then (r.1.engEither cluster m.loc 8 m.val, r.2)
    else
      let q := r.1.copyWrite cluster m
      (q.1, r.2.1 ++ q.2, r.2.2 ++ q.2.map fun _ => (m.ext / 256, m.off))) (s, [], [])
  let bytes := (moves.filter (!isBad ·)).foldl (fun l m => addTo l (m.ext / 256) 8) []
  let o1 : CopyOp := { o with kept := c.kept }
  if far.isEmpty then s1.endChunk cluster o1 marked.marks bytes
  else
    let (s2, as) := s1.sendFars far
    (s2.putCopy cluster { o1 with far := as, wait := wait, sent := some bytes, marks := o.marks ++ marked.marks }).push (.copyChunk cluster o.id)

/-- A core whose buffer the operation reaches is pre-empted (R295): the buffer regions of its issuer's gathering, or of a free strand's
volume, are out. -/
def State.copyBlocked (s : State) (o : CopyOp) : Bool :=
  o.cores.any fun k => (s.core k).outG.any fun g => g.1 == o.iss.vol && (o.iss.free || g.2 == o.iss.gidx)

/-- `COPY_CHUNK`: the reads of a chunk, then its writes and arrivals; remote pieces are asked for and waited for. An operation that is
still queued is tried (R284). -/
def execCopyChunk (cluster op : Nat) (s : State) : Host.Outcome State Fault Refusal :=
  match (s.cluster cluster).copies.find? (·.id == op) with
  | none => .next s
  | some o =>
    if !o.started then .next (s.startCopies cluster)
    else if s.copyBlocked o then .next s
    else if o.far.any (·.res.isNone) then
      let (s1, as) := s.sendHeld o.far
      .next (if as == o.far then s else (s1.putCopy cluster { o with far := as }).push (.copyChunk cluster op))
    else if o.chunks ≤ o.chunk then .next (s.pushNew (.copyComplete cluster op))
    else match o.sent with
      | some bytes =>
        if o.counting then
          .next (s.endChunk cluster { o with counting := false, count := some ((o.far.head?.bind (·.res)).any (·.isSome)) } [] bytes)
        else
        let lost := ((o.far.zip o.wait).filter fun x => x.1.res == some none).map fun x => (x.2.1, 0x49, x.2.2)
        .next (s.endChunk cluster o lost bytes)
      | none =>
        let c := s.copyScan cluster o
        if c.wait then
          let (s1, as) := s.sendFars c.asks
          .next ((s1.putCopy cluster { o with far := o.far ++ as }).push (.copyChunk cluster op))
        else .next (s.copyWrites cluster { o with far := [] } c)

/-! ## Completion (R288, R292) -/

/-- Opcode byte of an errata record. -/
def copyOpcode : ReqKind → Nat
  | .gath => 0x11 | .scat => 0x12 | .cmpct => 0x13 | .dcpy => 0x15 | _ => 0x10

/-- The errata record of a window with marked sectors. -/
def CopyOp.windowErrata (o : CopyOp) (w : Nat) : List Word :=
  let here := o.marks.filter (·.1 / 64 == w)
  let first := here.foldl (fun (m : Nat × Nat × Nat) x => if x.1 < m.1 then x else m) (here.headD (0, 0, 0))
  let map := (here.map (·.1)).eraseDups.foldl (fun (b : Nat) x => b + 2 ^ (x % 64)) 0
  [o.errPtr, ofN (copyOpcode o.kind * 2 ^ 56 + first.2.1 * 2 ^ 48 + 16384 * w), ofN map, ofN first.2.2, ofN ((aget o.winBytes w).getD 0), 0]

/-- The errata record of a fault of the sync word or of the count word. -/
def CopyOp.extraErrata (o : CopyOp) (x : Nat × Nat × Nat) : List Word :=
  [o.errPtr, ofN (copyOpcode o.kind * 2 ^ 56 + x.2.1 * 2 ^ 48 + x.1), 0, ofN x.2.2, ofN ((aget o.winBytes (x.1 / 16384)).getD 0), 0]

/-- The errata records of an operation, in ascending window order. -/
def CopyOp.errataList (o : CopyOp) : List (List Word) :=
  let ws := (o.marks.map (fun (x : Nat × Nat × Nat) => x.1 / 64) ++ o.extra.map (fun (x : Nat × Nat × Nat) => x.1 / 16384)).foldl insertUp []
  ws.flatMap fun w =>
    (if (o.marks.any fun (x : Nat × Nat × Nat) => x.1 / 64 == w) then [o.windowErrata w] else []) ++ (o.extra.filter fun (x : Nat × Nat × Nat) => x.1 / 16384 == w).map o.extraErrata

/-- An operation has ended: the next ones are taken. A determinism volume's next operation goes before any other's (R294). -/
def State.nextCopies (s : State) (cluster : Nat) (iss : Issuer) : State :=
  let c := s.cluster cluster
  match (if s.det iss.vol && !(c.copies.any (·.started)) then c.copies.find? (·.iss.vol == iss.vol) else none) with
  | some n => (s.setCluster cluster { c with copies := mapIf (·.id == n.id) (fun x => { x with started := true }) c.copies }).push
      (.copyChunk cluster n.id)
  | none => s.startCopies cluster

/-- `COPY_COMPLETE`: the errata records, the message; then the queue goes on. -/
def execCopyComplete (cluster op : Nat) (s : State) : Host.Outcome State Fault Refusal :=
  match (s.cluster cluster).copies.find? (·.id == op) with
  | none => .next s
  | some o =>
    if o.chunk < o.chunks || s.copyBlocked o then .next s
    else
      let d := fun i => o.dws.getD i (0 : Word)
      let es := o.errataList
      let s2 := es.foldl (fun (s : State) b => s.errataOf o.iss 1 b) s
      let c := s2.cluster cluster
      let s3 := s2.setCluster cluster { c with copies := c.copies.filter (·.id != op) }
      let s4 := if (d 6).getLsbD 63 then
          s3.notify o.iss 1 (fld (d 6) 15 0) ((if es.isEmpty then 0 else 1) * 2 ^ 42 + o.placed % 2 ^ 40) o.ptr
        else s3
      .next (s4.nextCopies cluster o.iss)

end Sys2Proof.Machine
end

