-- ==== Sys2Proof/Machine/Scalar.lean ====
section
/-! DEFINITION. The scalar unit: integer instructions (R112 to R124) and scalar floating point (R125 to R128). -/

namespace Sys2Proof.Machine

open Sys2Proof

/-! ## Shared shapes -/

/-- Width in bits of a size code (R112). -/
def szN (z : Size) : Nat := 8 * 2 ^ z.code

/-- A general result from two general sources. -/
def alu2 (i : Instr) (h : Hdr) (d a b : GOp) (f : Nat → Nat → Nat × FlagWord) (s : State) : Host.Outcome State Fault Refusal :=
  issue { h := h, word := wordOf i, src := [a, b], dst := [d] } s fun c =>
    let r := f (c.g a).toNat (c.g b).toNat
    .go (c.put d (ofN r.1) r.2)

/-- A general result from one general source. -/
def alu1 (i : Instr) (h : Hdr) (d a : GOp) (f : Nat → Nat × FlagWord) (s : State) : Host.Outcome State Fault Refusal :=
  issue { h := h, word := wordOf i, src := [a], dst := [d] } s fun c =>
    let r := f (c.g a).toNat
    .go (c.put d (ofN r.1) r.2)

/-- A quotient or remainder: a zero divisor traps and writes nothing (R114). -/
def divide (i : Instr) (h : Hdr) (z : Size) (d a b : GOp) (f : Nat → Nat → Nat) (s : State) : Host.Outcome State Fault Refusal :=
  issue { h := h, word := wordOf i, src := [a, b], dst := [d] } s fun c =>
    if (c.g b).toNat % 2 ^ szN z == 0 then .fault (taskFault 0x13)
    else .go (c.put d (ofN (f (c.g a).toNat (c.g b).toNat)))

/-- A predicate result from two general sources. -/
def cmp2 (i : Instr) (h : Hdr) (d : Fin 16) (a b : GOp) (f : Nat → Nat → Bool × FlagWord) (s : State) :
    Host.Outcome State Fault Refusal :=
  issue { h := h, word := wordOf i, src := [a, b] } s fun c =>
    let r := f (c.g a).toNat (c.g b).toNat
    .go (c.putP d r.1 r.2)

/-- A predicate result from two predicates (R122). -/
def pred2 (i : Instr) (h : Hdr) (d a b : Fin 16) (f : Bool → Bool → Bool) (s : State) : Host.Outcome State Fault Refusal :=
  issue { h := h, word := wordOf i, rdP := true } s fun c => .go (c.putP d (f (c.p a) (c.p b)))

/-- The n-bit pattern of an immediate (R112). -/
def immN {k : Nat} (z : Size) (v : BitVec k) : Nat := (sx64 v).toNat % 2 ^ szN z

/-- Results without a flag. -/
def noFlag (n : Nat) : Nat × FlagWord := (n, 0)

/-! ## Results of the integer instructions -/

/-- `sa` of R113 with two operands. -/
def saTwo (o : Ovf) (z : Size) (f : Int → Int → Int) (a b : Nat) : Nat × FlagWord :=
  saDeliver o (szN z) (f (saRead o (szN z) a) (saRead o (szN z) b))

/-- `addi`: the immediate is signed in every mode. -/
def saImm (o : Ovf) (z : Size) (imm : BitVec 24) (a : Nat) : Nat × FlagWord :=
  saDeliver o (szN z) (saRead o (szN z) a + imm.toInt)

/-- `mulh` and `mulhu`: the high half of the product (R114). -/
def mulHigh (n : Nat) (p : Int) : Nat := wrapN n (p / 2 ^ n)

/-- `bfi` (R118). -/
def bfiWord (d a : Word) (low width : Nat) : Word :=
  let m : Word := ofN (2 ^ width - 1) <<< low
  (d &&& ~~~ m) ||| ((a <<< low) &&& m)

/-! ## Special registers (R110, R111) -/

/-- Bound strands in the gathering; 0 where there is none (assumption 78). -/
def State.gsz (s : State) (t : Strand) : Nat := ((s.gathering t.vol t.gidx).map (·.members.length)).getD 0

/-- The value `mfs` reads. -/
def State.special (s : State) (core slot : Nat) (t : Strand) (n : Nat) : Word :=
  let kid := clusterOf core
  match n with
  | 0 => ofN (slot % 64)
  | 1 => ofN (core % 2048)
  | 2 => ofN (kid % 256)
  | 3 => ofN (2 * (kid / 16 / 8 % 2) + kid % 16 / 8)
  | 4 => ofN (t.lane % 256)
  | 5 => ofN (t.role % 256)
  | 6 => ofN (s.gsz t % 512)
  | 7 => ofN (t.gidx % 2 ^ 24)
  | 8 => ofN (t.vol % 2 ^ 16)
  | 9 => t.tgt.setWidth 64
  | 10 => ofN (t.size % 256)
  | 11 => ofN (t.cnt % 2 ^ 48)
  | 12 => t.fflg.setWidth 64
  | 13 => t.rmod.setWidth 64
  | 14 => t.dst.setWidth 64
  | 15 => t.dsa.setWidth 64
  | 16 => ofN (((s.volume t.vol).map Volume.upv).getD 0)
  | 17 => ofN (((s.volume t.vol).map Volume.fhv).getD 0)
  | 18 => ofN (t.colW % 16 + t.colI % 8 * 16)
  | 19 => (s.cluster kid).ver.setWidth 64
  | _ => 0

/-- `mts`: the read/write bits of a special register; a write clears its parity error. -/
def Strand.setSpecial (t : Strand) (n : Nat) (v : Word) : Strand :=
  let t1 := { t with sregBad := t.sregBad.filter (· != n) }
  match n with
  | 9 => { t1 with tgt := v.setWidth 8 }
  | 12 => { t1 with fflg := v.setWidth 7 }
  | 13 => { t1 with rmod := v.setWidth 2 }
  | 14 => { t1 with dst := (t.dst &&& 4) ||| (v.setWidth 3 &&& 3) }
  | _ => t

/-- `mtp`: the predicate word, bit 0 forced to 1; held predicate results are superseded (R74). -/
def Strand.setPred (t : Strand) (v : Word) : Strand :=
  { t with pred := v.setWidth 16 ||| 1, predBad := false, ops := t.ops.map fun o => match o.dest with
      | .p _ => { o with sup := 0xFF }
      | _ => o }

/-! ## Meanings: integer -/

/-- `add` (R113). -/
def execAdd (h : Hdr) (o : Ovf) (z : Size) (d a b : GOp) (s : State) : Host.Outcome State Fault Refusal :=
  alu2 (.add h o z d a b) h d a b (saTwo o z fun x y => x + y) s

/-- `addi` (R113). -/
def execAddi (h : Hdr) (o : Ovf) (z : Size) (d a : GOp) (imm : BitVec 24) (s : State) : Host.Outcome State Fault Refusal :=
  alu1 (.addi h o z d a imm) h d a (saImm o z imm) s

/-- `sub` (R113). -/
def execSub (h : Hdr) (o : Ovf) (z : Size) (d a b : GOp) (s : State) : Host.Outcome State Fault Refusal :=
  alu2 (.sub h o z d a b) h d a b (saTwo o z fun x y => x - y) s

/-- `mul` (R113). -/
def execMul (h : Hdr) (o : Ovf) (z : Size) (d a b : GOp) (s : State) : Host.Outcome State Fault Refusal :=
  alu2 (.mul h o z d a b) h d a b (saTwo o z fun x y => x * y) s

/-- `mulh` (R114). -/
def execMulh (h : Hdr) (z : Size) (d a b : GOp) (s : State) : Host.Outcome State Fault Refusal :=
  alu2 (.mulh h z d a b) h d a b (fun x y => noFlag (mulHigh (szN z) (sxNat (szN z) x * sxNat (szN z) y))) s

/-- `mulhu` (R114). -/
def execMulhu (h : Hdr) (z : Size) (d a b : GOp) (s : State) : Host.Outcome State Fault Refusal :=
  alu2 (.mulhu h z d a b) h d a b (fun x y => noFlag (mulHigh (szN z) ((x % 2 ^ szN z : Nat) * (y % 2 ^ szN z : Nat) : Int))) s

/-- `div`, truncated toward zero (R114). -/
def execDiv (h : Hdr) (z : Size) (d a b : GOp) (s : State) : Host.Outcome State Fault Refusal :=
  divide (.div h z d a b) h z d a b (fun x y => wrapN (szN z) (divT (sxNat (szN z) x) (sxNat (szN z) y))) s

/-- `divu` (R114). -/
def execDivu (h : Hdr) (z : Size) (d a b : GOp) (s : State) : Host.Outcome State Fault Refusal :=
  divide (.divu h z d a b) h z d a b (fun x y => x % 2 ^ szN z / (y % 2 ^ szN z)) s

/-- `rem`, with the sign of the dividend (R114). -/
def execRem (h : Hdr) (z : Size) (d a b : GOp) (s : State) : Host.Outcome State Fault Refusal :=
  divide (.rem h z d a b) h z d a b (fun x y => wrapN (szN z) (remT (sxNat (szN z) x) (sxNat (szN z) y))) s

/-- `remu` (R114). -/
def execRemu (h : Hdr) (z : Size) (d a b : GOp) (s : State) : Host.Outcome State Fault Refusal :=
  divide (.remu h z d a b) h z d a b (fun x y => x % 2 ^ szN z % (y % 2 ^ szN z)) s

/-- `neg` (R113). -/
def execNeg (h : Hdr) (o : Ovf) (z : Size) (d a : GOp) (s : State) : Host.Outcome State Fault Refusal :=
  alu1 (.neg h o z d a) h d a (fun x => saDeliver o (szN z) (-(saRead o (szN z) x))) s

/-- `abs`: its operand is always signed (R113). -/
def execAbs (h : Hdr) (o : Ovf) (z : Size) (d a : GOp) (s : State) : Host.Outcome State Fault Refusal :=
  alu1 (.abs h o z d a) h d a (fun x => saDeliver o (szN z) (sxNat (szN z) x).natAbs) s

/-- `min` (R114). -/
def execMin (h : Hdr) (z : Size) (d a b : GOp) (s : State) : Host.Outcome State Fault Refusal :=
  alu2 (.min h z d a b) h d a b (fun x y => noFlag (wrapN (szN z) (if sxNat (szN z) x < sxNat (szN z) y then sxNat (szN z) x else sxNat (szN z) y))) s

/-- `max` (R114). -/
def execMax (h : Hdr) (z : Size) (d a b : GOp) (s : State) : Host.Outcome State Fault Refusal :=
  alu2 (.max h z d a b) h d a b (fun x y => noFlag (wrapN (szN z) (if sxNat (szN z) x < sxNat (szN z) y then sxNat (szN z) y else sxNat (szN z) x))) s

/-- `minu` (R114). -/
def execMinu (h : Hdr) (z : Size) (d a b : GOp) (s : State) : Host.Outcome State Fault Refusal :=
  alu2 (.minu h z d a b) h d a b (fun x y => noFlag (Nat.min (x % 2 ^ szN z) (y % 2 ^ szN z))) s

/-- `maxu` (R114). -/
def execMaxu (h : Hdr) (z : Size) (d a b : GOp) (s : State) : Host.Outcome State Fault Refusal :=
  alu2 (.maxu h z d a b) h d a b (fun x y => noFlag (Nat.max (x % 2 ^ szN z) (y % 2 ^ szN z))) s

/-- `and` (R114). -/
def execAnd (h : Hdr) (z : Size) (d a b : GOp) (s : State) : Host.Outcome State Fault Refusal :=
  alu2 (.and h z d a b) h d a b (fun x y => noFlag ((x &&& y) % 2 ^ szN z)) s

/-- `andi` (R115). -/
def execAndi (h : Hdr) (z : Size) (d a : GOp) (imm : BitVec 24) (s : State) : Host.Outcome State Fault Refusal :=
  alu1 (.andi h z d a imm) h d a (fun x => noFlag ((x &&& immN z imm) % 2 ^ szN z)) s

/-- `or` (R114). -/
def execOr (h : Hdr) (z : Size) (d a b : GOp) (s : State) : Host.Outcome State Fault Refusal :=
  alu2 (.or h z d a b) h d a b (fun x y => noFlag ((x ||| y) % 2 ^ szN z)) s

/-- `ori` (R115). -/
def execOri (h : Hdr) (z : Size) (d a : GOp) (imm : BitVec 24) (s : State) : Host.Outcome State Fault Refusal :=
  alu1 (.ori h z d a imm) h d a (fun x => noFlag ((x ||| immN z imm) % 2 ^ szN z)) s

/-- `xor` (R114). -/
def execXor (h : Hdr) (z : Size) (d a b : GOp) (s : State) : Host.Outcome State Fault Refusal :=
  alu2 (.xor h z d a b) h d a b (fun x y => noFlag ((x ^^^ y) % 2 ^ szN z)) s

/-- `xori` (R115). -/
def execXori (h : Hdr) (z : Size) (d a : GOp) (imm : BitVec 24) (s : State) : Host.Outcome State Fault Refusal :=
  alu1 (.xori h z d a imm) h d a (fun x => noFlag ((x ^^^ immN z imm) % 2 ^ szN z)) s

/-- `andn` (R114). -/
def execAndn (h : Hdr) (z : Size) (d a b : GOp) (s : State) : Host.Outcome State Fault Refusal :=
  alu2 (.andn h z d a b) h d a b (fun x y => noFlag ((x % 2 ^ szN z &&& (2 ^ szN z - 1 - y % 2 ^ szN z)) % 2 ^ szN z)) s

/-- `shl` by ub mod n (R114). -/
def execShl (h : Hdr) (z : Size) (d a b : GOp) (s : State) : Host.Outcome State Fault Refusal :=
  alu2 (.shl h z d a b) h d a b (fun x y => noFlag (shlN (szN z) x y)) s

/-- `shr` by ub mod n (R114). -/
def execShr (h : Hdr) (z : Size) (d a b : GOp) (s : State) : Host.Outcome State Fault Refusal :=
  alu2 (.shr h z d a b) h d a b (fun x y => noFlag (shrN (szN z) x y)) s

/-- `sar` by ub mod n (R114). -/
def execSar (h : Hdr) (z : Size) (d a b : GOp) (s : State) : Host.Outcome State Fault Refusal :=
  alu2 (.sar h z d a b) h d a b (fun x y => noFlag (sarN (szN z) x y)) s

/-- `rol` by ub mod n (R114). -/
def execRol (h : Hdr) (z : Size) (d a b : GOp) (s : State) : Host.Outcome State Fault Refusal :=
  alu2 (.rol h z d a b) h d a b (fun x y => noFlag (rolN (szN z) x y)) s

/-- `shli` (R115). -/
def execShli (h : Hdr) (z : Size) (d a : GOp) (imm : BitVec 24) (s : State) : Host.Outcome State Fault Refusal :=
  alu1 (.shli h z d a imm) h d a (fun x => noFlag (shlN (szN z) x imm.toNat)) s

/-- `shri` (R115). -/
def execShri (h : Hdr) (z : Size) (d a : GOp) (imm : BitVec 24) (s : State) : Host.Outcome State Fault Refusal :=
  alu1 (.shri h z d a imm) h d a (fun x => noFlag (shrN (szN z) x imm.toNat)) s

/-- `sari` (R115). -/
def execSari (h : Hdr) (z : Size) (d a : GOp) (imm : BitVec 24) (s : State) : Host.Outcome State Fault Refusal :=
  alu1 (.sari h z d a imm) h d a (fun x => noFlag (sarN (szN z) x imm.toNat)) s

/-- `clz` (R116). -/
def execClz (h : Hdr) (z : Size) (d a : GOp) (s : State) : Host.Outcome State Fault Refusal :=
  alu1 (.clz h z d a) h d a (fun x => noFlag (clzN (szN z) x)) s

/-- `ctz` (R116). -/
def execCtz (h : Hdr) (z : Size) (d a : GOp) (s : State) : Host.Outcome State Fault Refusal :=
  alu1 (.ctz h z d a) h d a (fun x => noFlag (ctzN (szN z) x)) s

/-- `popc` (R116). -/
def execPopc (h : Hdr) (z : Size) (d a : GOp) (s : State) : Host.Outcome State Fault Refusal :=
  alu1 (.popc h z d a) h d a (fun x => noFlag (popN (szN z) x)) s

/-- `bfx`: low in bits 5 to 0 of the immediate, width in bits 12 to 6 (R118). -/
def execBfx (h : Hdr) (d a : GOp) (imm : BitVec 24) (s : State) : Host.Outcome State Fault Refusal :=
  alu1 (.bfx h d a imm) h d a (fun x => noFlag (x / 2 ^ (imm.toNat % 64) % 2 ^ (imm.toNat / 64 % 128))) s

/-- `bfi`: the destination is read too (R118). -/
def execBfi (h : Hdr) (d a : GOp) (imm : BitVec 24) (s : State) : Host.Outcome State Fault Refusal :=
  issue { h := h, word := wordOf (.bfi h d a imm), src := [d, a], dst := [d] } s fun c =>
    .go (c.put d (bfiWord (c.g d) (c.g a) (imm.toNat % 64) (imm.toNat / 64 % 128)))

/-- `sext`: all 64 bits (R116). -/
def execSext (h : Hdr) (z : Size) (d a : GOp) (s : State) : Host.Outcome State Fault Refusal :=
  alu1 (.sext h z d a) h d a (fun x => noFlag (wrapN 64 (sxNat (szN z) x))) s

/-- `zext` (R116). -/
def execZext (h : Hdr) (z : Size) (d a : GOp) (s : State) : Host.Outcome State Fault Refusal :=
  alu1 (.zext h z d a) h d a (fun x => noFlag (x % 2 ^ szN z)) s

/-- `mov` (R116). -/
def execMov (h : Hdr) (z : Size) (d a : GOp) (s : State) : Host.Outcome State Fault Refusal :=
  alu1 (.mov h z d a) h d a (fun x => noFlag (x % 2 ^ szN z)) s

/-- `movi` (R117). -/
def execMovi (h : Hdr) (d : GOp) (imm : BitVec 32) (s : State) : Host.Outcome State Fault Refusal :=
  issue { h := h, word := wordOf (.movi h d imm), dst := [d] } s fun c => .go (c.put d (sx64 imm))

/-- `movhi` keeps the low half (R117). -/
def execMovhi (h : Hdr) (d : GOp) (imm : BitVec 32) (s : State) : Host.Outcome State Fault Refusal :=
  issue { h := h, word := wordOf (.movhi h d imm), src := [d], dst := [d] } s fun c =>
    .go (c.put d ((imm.setWidth 64 <<< 32) ||| (c.g d &&& 0xFFFFFFFF)))

/-- `lea` forms a segment pointer and checks nothing (R119). -/
def execLea (h : Hdr) (d a : GOp) (seg : Fin 8) (disp : BitVec 20) (s : State) : Host.Outcome State Fault Refusal :=
  issue { h := h, word := wordOf (.lea h d a seg disp), src := [a], dst := [d] } s fun c =>
    .go (c.put d ((ofN seg.val <<< 61) ||| ((c.g a + sx64 disp) &&& 0x1FFFFFFFFFFFFFFF)))

/-- `sel`: both sources are read (R120). -/
def execSel (h : Hdr) (d a b : GOp) (k : Fin 16) (s : State) : Host.Outcome State Fault Refusal :=
  issue { h := h, word := wordOf (.sel h d a b k), src := [a, b], dst := [d], rdP := true } s fun c =>
    .go (c.put d (if c.p k then c.g a else c.g b))

/-- `cmp` (R121). -/
def execCmp (h : Hdr) (cc : Cc) (z : Size) (d : Fin 16) (a b : GOp) (s : State) : Host.Outcome State Fault Refusal :=
  cmp2 (.cmp h cc z d a b) h d a b (fun x y => (ccHolds cc (szN z) x y, 0)) s

/-- `cmpi` (R121). -/
def execCmpi (h : Hdr) (cc : Cc) (z : Size) (d : Fin 16) (a : GOp) (imm : BitVec 24) (s : State) : Host.Outcome State Fault Refusal :=
  issue { h := h, word := wordOf (.cmpi h cc z d a imm), src := [a] } s fun c =>
    .go (c.putP d (ccHolds cc (szN z) (c.g a).toNat (immN z imm)))

/-- `pand` (R122). -/
def execPand (h : Hdr) (d a b : Fin 16) (s : State) : Host.Outcome State Fault Refusal :=
  pred2 (.pand h d a b) h d a b (fun x y => x && y) s

/-- `por` (R122). -/
def execPor (h : Hdr) (d a b : Fin 16) (s : State) : Host.Outcome State Fault Refusal :=
  pred2 (.por h d a b) h d a b (fun x y => x || y) s

/-- `pxor` (R122). -/
def execPxor (h : Hdr) (d a b : Fin 16) (s : State) : Host.Outcome State Fault Refusal :=
  pred2 (.pxor h d a b) h d a b (fun x y => x != y) s

/-- `pandn` (R122). -/
def execPandn (h : Hdr) (d a b : Fin 16) (s : State) : Host.Outcome State Fault Refusal :=
  pred2 (.pandn h d a b) h d a b (fun x y => x && !y) s

/-- `mfp` (R123). -/
def execMfp (h : Hdr) (d : GOp) (s : State) : Host.Outcome State Fault Refusal :=
  issue { h := h, word := wordOf (.mfp h d), dst := [d], rdP := true } s fun c => .go (c.put d ((c.t.pred ||| 1).setWidth 64))

/-- `mtp` (R123). -/
def execMtp (h : Hdr) (a : GOp) (s : State) : Host.Outcome State Fault Refusal :=
  issue { h := h, word := wordOf (.mtp h a), src := [a], chg := true } s fun c => .go { c with t := c.t.setPred (c.g a) }

/-- `mfs` (R124). -/
def execMfs (h : Hdr) (d : GOp) (n : BitVec 24) (s : State) : Host.Outcome State Fault Refusal :=
  issue { h := h, word := wordOf (.mfs h d n), dst := [d], rdS := [n.toNat] } s fun c =>
    .go (c.put d (c.s.special c.core c.slot c.t n.toNat))

/-- `mts` (R124). -/
def execMts (h : Hdr) (a : GOp) (n : BitVec 24) (s : State) : Host.Outcome State Fault Refusal :=
  issue { h := h, word := wordOf (.mts h a n), src := [a], chg := true } s fun c =>
    .go { c with t := c.t.setSpecial n.toNat (c.g a) }

/-! ## Meanings: scalar floating point -/

/-- The format of a scalar floating instruction; the decoder admits floating formats only. -/
def fpFor (f : Fmt) : FP := (fpOf f).getD fpF32

/-- The value of a source register in a format (R45). -/
def FP.src (p : FP) (x : Nat) : Num := p.value (x % 2 ^ p.w)

/-- `fadd` (R125). -/
def execFadd (h : Hdr) (f : Fmt) (rm : Rm) (d a b : GOp) (s : State) : Host.Outcome State Fault Refusal :=
  alu2 (.fadd h f rm d a b) h d a b (fun x y => fpAdd (fpFor f) rm ((fpFor f).src x) ((fpFor f).src y)) s

/-- `fsub` (R125). -/
def execFsub (h : Hdr) (f : Fmt) (rm : Rm) (d a b : GOp) (s : State) : Host.Outcome State Fault Refusal :=
  alu2 (.fsub h f rm d a b) h d a b (fun x y => fpAdd (fpFor f) rm ((fpFor f).src x) (negNum ((fpFor f).src y))) s

/-- `fmul` (R125). -/
def execFmul (h : Hdr) (f : Fmt) (rm : Rm) (d a b : GOp) (s : State) : Host.Outcome State Fault Refusal :=
  alu2 (.fmul h f rm d a b) h d a b (fun x y => fpMul (fpFor f) rm ((fpFor f).src x) ((fpFor f).src y)) s

/-- `ffma` (R125). -/
def execFfma (h : Hdr) (f : Fmt) (rm : Rm) (d a b c : GOp) (s : State) : Host.Outcome State Fault Refusal :=
  issue { h := h, word := wordOf (.ffma h f rm d a b c), src := [a, b, c], dst := [d] } s fun x =>
    let r := fpFma (fpFor f) rm ((fpFor f).src (x.g a).toNat) ((fpFor f).src (x.g b).toNat) ((fpFor f).src (x.g c).toNat)
    .go (x.put d (ofN r.1) r.2)

/-- `fmin` (R126). -/
def execFmin (h : Hdr) (f : Fmt) (rm : Rm) (d a b : GOp) (s : State) : Host.Outcome State Fault Refusal :=
  alu2 (.fmin h f rm d a b) h d a b (fun x y => fpMinMax (fpFor f) false (x % 2 ^ (fpFor f).w) (y % 2 ^ (fpFor f).w)) s

/-- `fmax` (R126). -/
def execFmax (h : Hdr) (f : Fmt) (rm : Rm) (d a b : GOp) (s : State) : Host.Outcome State Fault Refusal :=
  alu2 (.fmax h f rm d a b) h d a b (fun x y => fpMinMax (fpFor f) true (x % 2 ^ (fpFor f).w) (y % 2 ^ (fpFor f).w)) s

/-- `fcmp` (R127). -/
def execFcmp (h : Hdr) (cc : FCc) (f : Fmt) (d : Fin 16) (a b : GOp) (s : State) : Host.Outcome State Fault Refusal :=
  cmp2 (.fcmp h cc f d a b) h d a b (fun x y => fpCmp cc ((fpFor f).src x) ((fpFor f).src y)) s

/-- `fcvt`: one value under R52; AMAX takes the source (R63, R128). -/
def execFcvt (h : Hdr) (cv : CvF) (d a : GOp) (s : State) : Host.Outcome State Fault Refusal :=
  issue { h := h, word := wordOf (.fcvt h cv d a), src := [a], dst := [d], chg := true } s fun c =>
    let code := (c.g a).toNat % 2 ^ fmtWidth cv.sf
    let x := fmtValue cv.sf code
    let r := convFrom cv.df cv.sf cv.rm cv.sat code x
    let c1 := { c with t := { c.t with amax := BitVec.ofNat 32 (amaxStep c.t.amax.toNat x) } }
    .go (c1.put d (ofN r.1) r.2)

end Sys2Proof.Machine
end

