-- ==== Sys2Proof/Machine/Tiles.lean ====
section
/-! DEFINITION. Accumulator tiles, the direct tile instructions, the bindery and its tasks, sparse streams (chapter 12). -/

namespace Sys2Proof.Machine

open Sys2Proof

/-! ## Tiles and accumulators (R252, R253) -/

def Core.acc (c : Core) (i : Nat) : BitVec 96 := (aget c.cbuf i).getD 0
def Core.setAcc (c : Core) (i : Nat) (v : BitVec 96) : Core :=
  { c with cbuf := if v == 0 then adel c.cbuf i else aput c.cbuf i v }

def Tile.rows (x : Tile) : Nat := 16 * (x.rho + 1)
def Tile.cols (x : Tile) : Nat := 16 * (x.kappa + 1)
/-- `zero(q)` of R261: accumulators, latch and flags. -/
def Core.zeroTile (c : Core) (i : Nat) : Core :=
  (c.zeroUnits (c.tile i)).setTile i { c.tile i with latch := none, flags := 0 }

/-- Release a tile: its units are zeroed and it is unconfigured. -/
def Core.releaseTile (c : Core) (i : Nat) : Core := (c.zeroUnits (c.tile i)).setTile i {}

def Tile.ownedBy (x : Tile) (t : Strand) : Bool := x.vol == t.vol && x.gidx == t.gidx && x.lane == t.lane

/-! ## Tasks: fields of the record (R259) -/

def Task.dw (t : Task) (i : Nat) : Word := t.dws.getD i 0
def recKind (d : Nat → Word) : Nat := fld (d 4) 63 61
def recFa (d : Nat → Word) : Nat := fld (d 4) 60 57
def recFb (d : Nat → Word) : Nat := fld (d 4) 56 53
def recTile (d : Nat → Word) : Nat := fld (d 4) 52 49
def recRole (d : Nat → Word) : Nat := fld (d 4) 48 46
def recCoop (d : Nat → Word) : Nat := fld (d 4) 45 44
def recPrio (d : Nat → Word) : Nat := fld (d 4) 43 41
def recStrm (d : Nat → Word) : Nat := fld (d 4) 39 38
def recNm (d : Nat → Word) : Nat := fld (d 4) 37 36
def recM (d : Nat → Word) : Nat := fld (d 4) 35 29 + 1
def recN (d : Nat → Word) : Nat := fld (d 4) 28 19 + 1
def recK (d : Nat → Word) : Nat := fld (d 4) 18 0 + 1
def recDk (d : Nat → Word) : Nat := fld (d 6) 63 62
def recCk (d : Nat → Word) : Nat := fld (d 7) 63 62

def Task.kind (t : Task) : Nat := recKind t.dw
def Task.tile (t : Task) : Nat := recTile t.dw

/-- The parts of a task with their cores. -/
def Task.on (t : Task) (core : Nat) : Bool := t.cores.contains core

/-! ## Pending tasks (R273, R281) -/

/-- A task is pending on a tile of the mask, for the strand on this core; the reading of a remote block for a `tcfg` of the tile counts as
one, so that the tile is configured before another instruction acts on it (R274). -/
def State.tilePending (s : State) (core uid mask : Nat) : Bool :=
  let c := s.cluster (clusterOf core)
  (c.tasks.any fun t => t.on core && bitN mask t.tile) || s.tcfgOut core mask ||
  (mask != 0 && c.reqs.any fun r => r.kind == .tenq && r.iss.uid == uid)

/-- A sparse task that reads stream m of the core is pending. -/
def State.streamPending (s : State) (core uid m : Nat) : Bool :=
  let c := s.cluster (clusterOf core)
  (c.tasks.any fun t => t.on core && t.kind == 1 && recStrm t.dw == m) || (c.reqs.any fun r => r.kind == .tenq && r.iss.uid == uid)

/-- A direct tile instruction on a tile of the mask is being performed. -/
def State.tileBusy (s : State) (core mask : Nat) : Bool := (s.core core).tileOps.any fun o => bitN mask o.tile && !o.failed

/-- A direct tile instruction of the mask's tiles has been put back behind a failed access (R76). -/
def State.tilePutBack (s : State) (core mask : Nat) : Bool := (s.core core).tileOps.any fun o => bitN mask o.tile && o.failed

/-- A direct operation on this tile is being performed, or is to be performed again when its strand resumes (R264, R273). -/
def State.tileHeld (s : State) (core tile : Nat) : Bool :=
  ((s.core core).tileOps.any (·.tile == tile)) ||
  (s.circ.asides.any fun a => a.core == some core && a.redo.any fun r => match r.2 with
    | .tile o => o.tile == tile
    | _ => false)

/-- The first failing check of R254 over a mask: owner, then state. `need` asks that every tile be configured. -/
def Ctx.tileFault (c : Ctx) (mask : Nat) (need : Bool) : Option FaultInfo :=
  let k := c.s.core c.core
  let named := (List.range 16).filter (bitN mask)
  if c.t.free then some (taskFault 0x20)
  else if (named.any fun i => (k.tile i).conf && !(k.tile i).ownedBy c.t) then some (taskFault 0x20)
  else if need && (named.any fun i => !(k.tile i).conf) then some (taskFault 0x21)
  else none

/-! ## Configuration and release (R274, R275, R278) -/

/-- `tcfg`: a block in a remote window is read through the peer, and the strand waits for it (R393). -/
def execTcfg (h : Hdr) (d a : GOp) (mask : BitVec 16) (s : State) : Host.Outcome State Fault Refusal :=
  issue { h := h, word := wordOf (.tcfg h d a mask), src := [a], dst := [d], self := true, long := true } s fun c =>
    let m := mask.toNat
    match c.placePtr (c.g a) 128 rR 64 with
    | .error e => .fault e
    | .ok l =>
      match c.tileFault m false with
      | some e => .fault e
      | none =>
        if c.s.tilePending c.core c.t.uid m then .park (.tiles m)
        else match c.walk l 128 .read with
          | some e => .fault e
          | none => match c.s.readRec (clusterOf c.core) l 16 with
            | .ok ws =>
              let r := c.s.configure c.core c.t.vol c.t.gidx c.t.lane m ws
              .go ({ c with s := r.1 }.result d (ofN r.2))
            | .error 0x101 =>
              let r := c.send (.tcfg mask) (c.dest d) .other false ((List.range 16).map fun i => partAt (l.plus (8 * i)) 8)
              .block r.2 r.1
            | .error e => .fault (blockFault e l.shown 6)

/-- What parks `trel` and `tzero`: a pending task makes it a switch point (R275), and so does an earlier direct instruction that is to be
performed again; one that is being performed does not. -/
def releasing (i : Instr) (h : Hdr) (mask : BitVec 24) (need : Bool) (act : Core → Nat → Core) (s : State) :
    Host.Outcome State Fault Refusal :=
  let m := mask.toNat
  let here := s.clk.cur.bind fun k => (s.strand k.1 k.2).map fun t => (k.1, k.2, t)
  let pend := (here.map fun x => s.predTrue { h := h, word := wordOf i } x.2.2 &&
    (decide (x.2.2.prog = 2) || s.tilePending x.1 x.2.2.uid m || s.tilePutBack x.1 m)).getD false
  let s0 := match here with
    | some (core, slot, t) => if pend then s.setStrand core slot { t with prog := 2 } else s
    | none => s
  issue { h := h, word := wordOf i, self := pend } s0 fun c =>
    match c.tileFault m need with
    | some e => .fault e
    | none =>
      if c.s.tilePending c.core c.t.uid m || c.s.tileBusy c.core m then
        .park (.tiles m)
      else
        let k := ((List.range 16).filter (bitN m)).foldl (fun (k : Core) i => if (k.tile i).conf then act k i else k) (c.s.core c.core)
        .go { c with s := (c.s.setCore c.core k).pushNew (.taskStart (clusterOf c.core)), t := { c.t with prog := 0 } }

/-- `trel`: unconfigured tiles of the mask are ignored. -/
def execTrel (h : Hdr) (mask : BitVec 24) (s : State) : Host.Outcome State Fault Refusal :=
  releasing (.trel h mask) h mask false (fun k i => k.releaseTile i) s

/-- `tzero`. -/
def execTzero (h : Hdr) (mask : BitVec 24) (s : State) : Host.Outcome State Fault Refusal :=
  releasing (.tzero h mask) h mask true (fun k i => let k1 := k.zeroTile i; k1.setTile i { k1.tile i with halted := false }) s

/-- `twait`: unconfigured tiles of the mask are ignored. -/
def execTwait (h : Hdr) (mask : BitVec 24) (s : State) : Host.Outcome State Fault Refusal :=
  issue { h := h, word := wordOf (.twait h mask), self := true } s fun c =>
    match c.tileFault mask.toNat false with
    | some e => .fault e
    | none => if c.s.tilePending c.core c.t.uid mask.toNat then .park (.tiles mask.toNat) else .go c

/-! ## Direct tile operations (R276, R277, R279) -/

/-- Issue a direct operation on one tile: its checks, the park of R273, one long-latency operation. -/
def direct (f : Form) (tile : Nat) (dest : Ctx → Dest) (more : Ctx → Tile → Option FaultInfo) (act : Ctx → TileAct) (s : State) :
    Host.Outcome State Fault Refusal :=
  issue f s fun c =>
    let m := 2 ^ tile
    match c.tileFault m true with
    | some e => .fault e
    | none => match more c ((c.s.core c.core).tile tile) with
      | some e => .fault e
      | none =>
        if c.s.tilePending c.core c.t.uid m then .park (.tiles m)
        else
          let (id, c1) := c.op (dest c)
          let k := c1.s.core c.core
          let o : TileOp := { id := id, iss := c.issuer, tile := tile, act := act c }
          let s1 := c1.s.setCore c.core { k with tileOps := k.tileOps ++ [o] }
          .go { c1 with s := s1.push (.resultReturn c.core c.slot id) }

/-- `tld`. -/
def execTld (h : Hdr) (f : Fmt) (t : Fin 16) (a b : GOp) (s : State) : Host.Outcome State Fault Refusal :=
  direct { h := h, word := wordOf (.tld h f t a b), src := [a, b], long := true, access := true } t.val (fun _ => .none) (fun _ _ => none)
    (fun c => .tld f (c.g a) (c.g b)) s

/-- `tst`. -/
def execTst (h : Hdr) (f : Fmt) (rm : Rm) (t : Fin 16) (a b : GOp) (s : State) : Host.Outcome State Fault Refusal :=
  direct { h := h, word := wordOf (.tst h f rm t a b), src := [a, b], long := true, access := true } t.val (fun _ => .none) (fun _ _ => none)
    (fun c => .tst f rm (c.g a) (c.g b)) s

/-- An element index at or above rows · cols is TILE_STATE. -/
def indexBad (x : Tile) (i : Word) : Option FaultInfo := if x.rows * x.cols ≤ i.toNat then some (taskFault 0x21) else none

/-- `tget`. -/
def execTget (h : Hdr) (err : Bool) (t : Fin 16) (d a : GOp) (s : State) : Host.Outcome State Fault Refusal :=
  direct { h := h, word := wordOf (.tget h err t d a), src := [a], dst := [d], long := true, access := true } t.val (·.dest d) (fun c x => indexBad x (c.g a))
    (fun c => .tget err (c.g a).toNat) s

/-- `tset`. -/
def execTset (h : Hdr) (err : Bool) (t : Fin 16) (a b : GOp) (s : State) : Host.Outcome State Fault Refusal :=
  direct { h := h, word := wordOf (.tset h err t a b), src := [a, b], long := true, access := true } t.val (fun _ => .none) (fun c x => indexBad x (c.g a))
    (fun c => .tset err (c.g a).toNat (c.g b)) s

/-- Formats of the compensated mode (R257). -/
def kFormat : Fmt → Bool
  | .bf16 | .f16 | .f32 => true
  | _ => false

def quad (v : Fin 16) : List (Fin 16) := (List.range 4).map (v + Fin.ofNat 16 ·)

/-- `mmar`. -/
def execMmar (h : Hdr) (f : Fmt) (t a b : Fin 16) (s : State) : Host.Outcome State Fault Refusal :=
  direct { h := h, word := wordOf (.mmar h f t a b), vsrc := quad a ++ quad b, long := true, access := true } t.val (fun _ => .none)
    (fun _ x => if x.modeK != kFormat f then some (taskFault 0x22) else none)
    (fun c => .mmar f ((quad a).flatMap fun v => (List.range 8).map fun j => c.t.g (8 * v.val + j))
      ((quad b).flatMap fun v => (List.range 8).map fun j => c.t.g (8 * v.val + j))) s

/-! ## Streams (R281) -/

/-- `msset`. -/
def execMsset (h : Hdr) (m : Fin 4) (a b : GOp) (s : State) : Host.Outcome State Fault Refusal :=
  issue { h := h, word := wordOf (.msset h m a b), src := [a, b], self := true } s fun c =>
    let bad (e : Nat) : Out := .fault (segFault e (fld (c.g a) 60 0))
    match ptrParts (c.g a) with
    | .error e => bad e
    | .ok (n, off) =>
      let d := c.t.sreg n
      let len := (c.g b).toNat
      if descType d == 0 then bad 0x01
      else if descType d != 3 then bad 0x06
      else if !hasRights (descRights d) rR then bad 0x02
      else if len % 2 == 1 then bad 0x03
      else if len == 0 || descLimit d < off + len then bad 0x04
      else if c.s.streamPending c.core c.t.uid m.val then .park (.stream m.val)
      else
        let k := c.s.core c.core
        .go { c with s := c.s.setCore c.core { k with streams := setAt k.streams m.val { base := descBase d + off, len := len } } }

/-- `msrd`: held for gD, lands at the next switch point. -/
def execMsrd (h : Hdr) (m : Fin 4) (d : GOp) (s : State) : Host.Outcome State Fault Refusal :=
  issue { h := h, word := wordOf (.msrd h m d), dst := [d], self := true, long := true } s fun c =>
    if c.s.streamPending c.core c.t.uid m.val then .park (.stream m.val)
    else
      let x := (c.s.core c.core).streams.getD m.val {}
      .go (c.result d (ofN (x.res % 65536 * 2 ^ 32 + x.pos % 2 ^ 32)))

/-! ## Tile descriptors (R181 to R183, R255, R256) -/

structure TileDesc where
  base   : Nat
  pitch  : Nat
  tpitch : Nat
  space  : Nat
  rot    : Nat
  bad    : Bool
deriving DecidableEq, Repr

def tileDesc (a b : Word) : TileDesc :=
  { base := fld a 31 0, pitch := fld a 63 32, tpitch := fld b 31 0, space := fld b 39 36, rot := fld b 35 32, bad := fld b 63 40 != 0 }

/-- 64-byte units of a row of L elements. -/
def rowUnits (f : Fmt) (L : Nat) : Nat := if f == .e2m1b then ceilDiv L 64 else ceilDiv (L * fmtWidth f) 512

/-- The checks of a descriptor for the rows of tile t; the base of its segment, for spaces 8 to 15. -/
def TileDesc.check (d : TileDesc) (sregs : List Desc) (t rows units need : Nat) : Except Nat Nat :=
  let lo := d.base + t * d.tpitch
  let hi := lo + (rows - 1) * d.pitch + 64 * units
  if d.base % 64 != 0 || d.pitch % 64 != 0 || d.tpitch % 64 != 0 || (3 ≤ d.space && d.space ≤ 7) then .error 0x33
  else if d.bad then .error 0x30
  else if d.space < 8 then
    let ty := if d.space == 0 then 2 else if d.space == 1 then 3 else 5
    if (sregs.any fun x => descType x == ty && hasRights (descRights x) (need + rE) && decide (descBase x ≤ lo) &&
        decide (hi ≤ descBase x + descLimit x)) then .ok 0 else .error 0x30
  else
    let x := sregOf sregs (d.space - 8)
    if descType x == 1 && hasRights (descRights x) (need + rE) && decide (hi ≤ descLimit x) then .ok (descBase x) else .error 0x30

/-- Placement under a rotation code (R182). -/
def rotated (nb lin r rot : Nat) : Nat := 64 * (lin / 64 / nb * nb + (lin / 64 % nb + r * rot) % nb) + lin % 64

/-- Where unit j of row r of tile t lies, for an operation on a core. -/
def TileDesc.unit (d : TileDesc) (core vol sb t r j : Nat) : Loc :=
  let lin := d.base + t * d.tpitch + r * d.pitch + 64 * j
  match d.space with
  | 0 => .buf (wKey core (rotated 32 lin r d.rot))
  | 1 => .buf (aKey core (rotated 16 lin r d.rot))
  | 2 => .buf (roomKey (clusterOf core) (rotated 64 lin r d.rot))
  | _ => .va vol (sb + lin)

/-- The engine-fault code of a unit that the matrix engine cannot reach (R424). -/
def State.unitFault (s : State) (cluster : Nat) (l : Loc) (acc : Access) : Option Nat :=
  (piecesOf l 64).findSome? fun p => match s.locKey cluster (l.plus p.1) acc with
    | .key k _ => if isAnnex k then some 0x3A else if s.keyFenced k then some 0x3B else none
    | .far _ _ => some 0x3A
    | .fail c => some (0x33 + c)
    | .fenced => some 0x3B

def State.unitRead (s : State) (cluster : Nat) (l : Loc) : Except Nat Nat :=
  match s.unitFault cluster l .read with
  | some e => .error e
  | none => match s.engRead cluster l 64 with
    | .ok v => .ok v
    | .bad _ => .error 0x3B

/-- The values of n elements of a row from element k0, which starts a unit. -/
def State.rowVals (s : State) (d : TileDesc) (core vol sb t r : Nat) (f : Fmt) (k0 n : Nat) : Except Nat (List Num) :=
  let u0 := if f == .e2m1b then k0 / 64 else k0 * fmtWidth f / 512
  ((List.range (rowUnits f n)).foldl (fun (a : Except Nat (List Num)) j => match a with
    | .error e => .error e
    | .ok xs => match s.unitRead (clusterOf core) (d.unit core vol sb t r (u0 + j)) with
      | .error e => .error e
      | .ok v => .ok (xs ++ elemVals f v)) (.ok [])).map (·.take n)

/-- Rows 0 to rows − 1; a failure with its row. -/
def State.rowsVals (s : State) (d : TileDesc) (core vol sb t rows : Nat) (f : Fmt) (k0 n : Nat) : Except (Nat × Nat) (List (List Num)) :=
  (List.range rows).foldl (fun (a : Except (Nat × Nat) (List (List Num))) r => match a with
    | .error e => .error e
    | .ok xs => match s.rowVals d core vol sb t r f k0 n with
      | .error e => .error (e, r)
      | .ok x => .ok (xs ++ [x])) (.ok [])

/-- Cut a list into pieces of n. -/
def chunksOf {α : Type} (n : Nat) : Nat → List α → List (List α)
  | 0, _ => []
  | k + 1, xs => if xs.isEmpty then [] else xs.take n :: chunksOf n k (xs.drop n)

/-- The units of a row from its values, and the flags raised (R56, R62, R256); into e2m1b with an outer scale of 1,
elements to nearest even by R56 whatever rounding the instruction names (DESIGN CHOICE, assumption 77). -/
def rowOut (f : Fmt) (rm : Rm) (xs : List Num) : List Nat × FlagWord :=
  let units := (chunksOf (if f == .e2m1b then 64 else fmtCount f) xs.length xs).map fun ys =>
    if f == .e2m1b then let r := quantAll false { n := 1 } 8 ys; (packElems .e2m1b r.1 r.2.1, r.2.2)
    else let r := ys.map (readout f rm); (packElems f [] (r.map (·.1)), r.foldl (fun a x => a ||| x.2) 0)
  (units.map (·.1), units.foldl (fun a x => a ||| x.2) 0)

/-! ## Readout (R258, R62) -/

def unitLatch : List Nat := [127, 127, 0x3F80, 0x3F80, 0x3F80, 0x3F80, 0x3F80, 0x3F80]

/-- The values of row i of a tile. -/
def Core.readRow (c : Core) (x : Tile) (rm : Rm) (i : Nat) : List Num :=
  let l := x.latch.getD unitLatch
  (List.range x.cols).map fun j =>
    readoutVal x.modeK rm (c.acc (x.first + i * x.cols + j)) (l.getD 0 127) (l.getD 1 127) (l.getD (2 + i / 64) 0x3F80) (l.getD (4 + j / 64) 0x3F80)

/-- Write the whole tile to tile `t` of a descriptor, rows in increasing order: the state, the conversions' flags, and the
fault with its row. -/
def State.storeTile (s : State) (sregs : List Desc) (vol core : Nat) (x : Tile) (f : Fmt) (rm : Rm) (d : TileDesc) (t : Nat) :
    State × FlagWord × Option (Nat × Nat) :=
  let units := rowUnits f x.cols
  match d.check sregs t x.rows units rW with
  | .error e => (s, 0, some (e, 0))
  | .ok sb =>
    let cl := clusterOf core
    (List.range x.rows).foldl (fun (a : State × FlagWord × Option (Nat × Nat)) i => match a.2.2 with
      | some _ => a
      | none =>
        let (us, fl) := rowOut f rm ((a.1.core core).readRow x rm i)
        let at_ (j : Nat) : Loc := d.unit core vol sb t i j
        match (List.range us.length).findSome? fun j => a.1.unitFault cl (at_ j) .write with
        | some e =>
          -- the bytes of the faulting row may hold either value (R424)
          (us.zipIdx.foldl (fun (s : State) u => s.engEither cl (at_ u.2) 64 u.1) a.1, a.2.1, some (e, i))
        | none => (us.zipIdx.foldl (fun (s : State) u => (s.engWrite cl (at_ u.2) 64 u.1).1) a.1, a.2.1 ||| fl, none)) (s, 0, none)

/-! ## Performing direct operations -/

/-- The errata record of a faulting `tld` or `tst` (R424). -/
def State.tileErrata (s : State) (iss : Issuer) (kind code row : Nat) : State :=
  s.errataOf iss 2 [0, ofN (kind * 2 ^ 56 + code * 2 ^ 48 + row)]

/-- Enter one product (R257). -/
def enterProduct (modeK : Bool) (acc : BitVec 96) (a b : Num) : BitVec 96 × FlagWord := if modeK then kEnter acc a b else xEnter acc a b

/-- Add products of rows of values to the accumulators (i, j) of a tile; `keep` answers which (j, k) take part. -/
def Core.addRows (c : Core) (t : Nat) (as bs : List (List Num)) (keep : Nat → Nat → Bool) : Core :=
  let x := c.tile t
  as.zipIdx.foldl (fun (c : Core) a => bs.zipIdx.foldl (fun (c : Core) b =>
    let i := x.first + a.2 * x.cols + b.2
    let r := ((a.1.zip b.1).zipIdx.filter fun p => keep b.2 p.2).foldl (fun (r : BitVec 96 × FlagWord) p =>
      let q := enterProduct x.modeK r.1 p.1.1 p.1.2
      (q.1, r.2 ||| q.2)) (c.acc i, 0)
    (c.setAcc i r.1).setTile t { c.tile t with flags := (c.tile t).flags ||| r.2 }) c) c

/-- `tld`: every row is read before any accumulator changes; the latch becomes unset (R276; assumption 82). -/
def State.performTld (s : State) (core : Nat) (o : TileOp) (f : Fmt) (a b : Word) : State × Vec × FlagWord :=
  let c := s.core core
  let x := c.tile o.tile
  let d := tileDesc a b
  match d.check o.iss.sregs 0 x.rows (rowUnits f x.cols) rR with
  | .error e => (s.tileErrata o.iss 0xF5 e 0, 0, 0)
  | .ok sb => match s.rowsVals d core o.iss.vol sb 0 x.rows f 0 x.cols with
    | .error (e, r) => (s.tileErrata o.iss 0xF5 e r, 0, 0)
    | .ok rows =>
      let es := rows.flatten.map (tileEntry x.modeK)
      let c1 := es.zipIdx.foldl (fun (c : Core) e => c.setAcc (x.first + e.2) e.1.1) c
      (s.setCore core (c1.setTile o.tile { x with latch := none, flags := 0, halted := false }), 0, es.foldl (fun a e => a ||| e.2) 0)

/-- `tst`: the tile's flags and the conversions' enter `fflg` unless it faults. -/
def State.performTst (s : State) (core : Nat) (o : TileOp) (f : Fmt) (rm : Rm) (a b : Word) : State × Vec × FlagWord :=
  let x := (s.core core).tile o.tile
  match s.storeTile o.iss.sregs o.iss.vol core x f rm (tileDesc a b) 0 with
  | (s1, fl, none) => (s1, 0, x.flags ||| fl)
  | (s1, _, some (e, r)) => (s1.tileErrata o.iss 0xF4 e r, 0, 0)

/-- The rows of an `mmar` operand. -/
def mmarRows (f : Fmt) (ws : List Word) : List (List Num) :=
  let v := packN 64 (ws.map (·.toNat))
  let n := 128 / fmtWidth f
  (List.range 16).map fun i => (List.range n).map fun k => fmtValue f (elemN (fmtWidth f) v (n * i + k))

/-- Perform a direct operation: state, value, flags. -/
def State.performTile (s : State) (core : Nat) (o : TileOp) : State × Vec × FlagWord :=
  let c := s.core core
  let x := c.tile o.tile
  match o.act with
  | .tld f a b => s.performTld core o f a b
  | .tst f rm a b => s.performTst core o f rm a b
  | .tget err i =>
    let v := c.acc (x.first + i)
    (s, if err then (v.extractLsb' 0 32).setWidth 512 else (v.extractLsb' 32 64).setWidth 512, 0)
  | .tset err i v =>
    let old := c.acc (x.first + i)
    let new : BitVec 96 := if err then old.extractLsb' 32 64 ++ v.extractLsb' 0 32 else v ++ old.extractLsb' 0 32
    (s.setCore core (c.setAcc (x.first + i) new), 0, 0)
  | .mmar f a b => (s.setCore core (c.addRows o.tile (mmarRows f a) (mmarRows f b) fun _ _ => true), 0, 0)

/-- A direct operation is over, or has been put back: the others of its tile are tried, and tasks. -/
def State.kickTile (s : State) (core : Nat) (o : TileOp) : State :=
  (((s.core core).tileOps.filter fun x => x.tile == o.tile && x.id != o.id).foldl
    (fun (s : State) x => s.pushNew (.resultReturn core x.iss.slot x.id)) s).pushNew (.taskStart (clusterOf core))

/-- The step of a direct operation: in order on its tile; a request to the engine waits for the strand's accesses (R219), and is put
back behind one that failed, to be performed with it again, and so are the operations behind it on its tile (R76, R273). Its flags enter
`fflg` now (R276). -/
def State.tileOpStep (s : State) (core : Nat) (o : TileOp) : State :=
  let c := s.core core
  let before := c.tileOps.filter fun x => x.tile == o.tile && decide (x.id < o.id)
  let mem := match o.act with | .tld _ _ _ | .tst _ _ _ _ => true | _ => false
  let put (x : TileOp) : Core := { c with tileOps := replaceBy (·.id == o.id) x c.tileOps }
  let behind := match before.find? (·.failed) with
    | some x => some (s.faultOf o.iss.uid x.id)
    | none => if mem then s.failedBefore o.iss.uid o.id fun _ => true else none
  match behind with
  | some e => if o.failed then s else ((s.setCore core (put { o with failed := true })).opDone o.iss.uid o.id 0 0 (some e)).kickTile core o
  | none =>
    if o.failed || !before.isEmpty || (mem && s.flights.any fun f => f.uid == o.iss.uid && decide (f.id < o.id)) then s
    else
      let (s1, v, fl) := s.performTile core o
      let c1 := s1.core core
      let s2 := s1.mapUid o.iss.uid fun t => { t with fflg := t.fflg ||| fl }
      ((s2.setCore core { c1 with tileOps := c1.tileOps.filter (·.id != o.id) }).opDone o.iss.uid o.id v 0 none).kickTile core o

/-! ## The bindery (R260 to R267, R280) -/

/-- `tenq`: its records lie in memory or in the reading room; the bindery reaches no W buffer, and of A the hold area alone (R180;
assumption 30). -/
def execTenq (h : Hdr) (d a b : GOp) (s : State) : Host.Outcome State Fault Refusal :=
  issue { h := h, word := wordOf (.tenq h d a b), src := [a, b], dst := [d], long := true, access := true } s fun c =>
    let g := (c.g b).toNat
    let n := if g % 128 == 0 then 1 else g % 128
    if 128 ≤ g || 64 < n then .go (c.result d 0xFF02)
    else match c.enginePtr (c.g a) (64 * n) (rR + rE) 64 [2, 3] with
      | .error e => .fault e
      | .ok _ =>
        let (r, c1) := c.request d .tenq (c.g a) none n
        let k := clusterOf c.core
        let cl := c1.s.cluster k
        .go { c1 with s := (c1.s.setCluster k { cl with reqs := cl.reqs ++ [r] }).push (.binderyEnqueue k r.id) }

/-- Formats that a kind takes (R257, R259, R260). -/
def formatsOk (kind fa fb sa sb : Nat) (bp : Bool) : Bool :=
  let x (n : Nat) : Bool := n == 4 || n == 5 || n == 6 || n == 7
  let k (n : Nat) : Bool := n == 0 || n == 2 || n == 3
  match kind with
  | 0 | 1 => (x fa && x fb) || (k fa && k fb && !bp && sa == 127 && sb == 127)
  | 3 => decide (fa ≤ 9)
  | _ => true

/-- A tile slot of a gathering on a core: where the core is pre-empted with it, the one in the saved carrel (R363, R268). -/
def State.tileOf (s : State) (core vol gidx i : Nat) : Tile :=
  let c := s.core core
  if c.outG.contains (vol, gidx) then c.carrel.tiles.getD i {} else c.tile i

/-- The checks of R260 in order: the status of the first failure, 0 when the record passes. -/
def State.recordStatus (s : State) (iss : Issuer) (g : Gathering) (d : Nat → Word) : Nat :=
  let kind := recKind d
  let mult := kind ≤ 1
  let coop := recCoop d
  let N := recN d
  let cores := (List.range (coop + 1)).map fun q => g.cores.getD (recRole d + q) 0
  let K := kFormat ((Fmt.ofCode (recFa d)).getD .int8)
  let bp := (d 5).getLsbD 47
  if 3 < kind || recDk d == 3 || fld (d 1) 63 40 != 0 || fld (d 3) 63 40 != 0 || fld (d 5) 46 43 != 0 || fld (d 5) 23 0 != 0 ||
    fld (d 6) 61 55 != 0 || fld (d 6) 35 32 != 0 || (recDk d != 2 && fld (d 6) 54 36 != 0) || (recDk d == 2 && fld (d 6) 31 16 != 0) ||
    fld (d 7) 61 55 != 0 || fld (d 7) 35 24 != 0 || (recCk d != 1 && fld (d 7) 54 36 != 0) ||
    (kind == 0 && fld (d 4) 40 36 != 0) || (!mult && (d 2 != 0 || d 3 != 0 || fld (d 4) 56 53 != 0 || fld (d 4) 35 0 != 0)) then 2
  else if !formatsOk kind (recFa d) (recFb d) (fld (d 5) 63 56) (fld (d 5) 55 48) bp then 2
  else if g.cores.length ≤ recRole d + coop || (mult && ((coop != 0 && N ≤ 256 * coop) || 256 * (coop + 1) < N)) then 2
  else if kind == 1 && (N % (if 2 ≤ recNm d then 8 else 4) != 0 || recK d % (if 2 ≤ recNm d then 8 else 4) != 0) then 2
  else if (cores.zipIdx.any fun p =>
      let x := s.tileOf p.1 g.vol g.gidx (recTile d)
      !x.conf || x.vol != iss.vol || x.halted ||
      (mult && (x.modeK != K || decide (x.rows < recM d) || decide (x.cols < Nat.min 256 (N - 256 * p.2))))) then 3
  else if cores.any s.coreFenced then 4
  else 0

/-- Records of a request as lists of eight doublewords. -/
def recordsOf (ws : List Word) (n : Nat) : List (List Word) := (List.range n).map fun i => (ws.drop (8 * i)).take 8

/-- The lowest free place of the bindery's queue. -/
def Cluster.freePlace (c : Cluster) : Nat := ((List.range 1024).find? fun i => !c.tasks.any (·.addr == 64 * i)).getD 0

/-- The bindery that serves a request: that of the cluster whose cores hold the destination tiles, which is not the issuer's own
for a free strand away from its gathering (R262, R264; assumption 64). -/
def State.binderyOf (s : State) (cluster : Nat) (iss : Issuer) : Nat := ((s.gathering iss.vol iss.gidx).map (·.cluster)).getD cluster

/-- A `tenq` is answered; the strand's next request and the bindery go on. -/
def State.tenqEnd (s : State) (r : Req) (b v : Nat) : State :=
  let s1 := s.status r.iss r.id (ofN v)
  ((s1.requestEvents r.iss.uid).foldl State.pushNew s1).pushNew (.taskStart b)

/-- Records join the bindery's queue, each at the lowest free place (R262). -/
def State.enqueued (s : State) (b : Nat) (r : Req) (g : Gathering) (recs : List (List Word)) : State :=
  recs.foldl (fun (s : State) d =>
    let (id, s') := s.fresh
    let c := s'.cluster b
    let dw := fun i => d.getD i 0
    let cores := (List.range (recCoop dw + 1)).map fun q => g.cores.getD (recRole dw + q) 0
    let t : Task := { id := id, req := r.id, iss := r.iss, addr := 64 * c.freePlace, dws := d, cores := cores, parts := cores.map fun _ => .waiting }
    s'.setCluster b { c with tasks := c.tasks ++ [t] }) s

/-- `BINDERY_ENQUEUE`: the records of one `tenq` are taken all or none. FULL is tested after the records, and a free strand whose gathering
has ended answers BADREC with index 0 (DEDUCED, assumption 30). -/
def execBinderyEnqueue (cluster req : Nat) (s : State) : Host.Outcome State Fault Refusal :=
  let cl := s.cluster cluster
  match cl.reqs.find? (·.id == req) with
  | none => .next s
  | some r =>
    let b := s.binderyOf cluster r.iss
    if !s.reqReady r then .next (s.notReady r)
    else if !s.unitUp .bind b then .next s
    else
      let s1 := s.setCluster cluster { cl with reqs := cl.reqs.filter (·.id != req) }
      let done (v : Nat) : Host.Outcome State Fault Refusal := .next (s1.tenqEnd r b v)
      if s.unitFenced .bind b then done 4
      else match r.iss.place r.a (64 * r.imm) (rR + rE) 64 with
      | .error _ => done 0xFF02
      | .ok (_, l) => match s1.reqRecord cluster r l (8 * r.imm) with
        | .ask as => .next (s.askRecord cluster r as)
        | .bad _ => done 0xFF02
        | .words ws =>
          let recs := recordsOf ws r.imm
          match s1.gathering r.iss.vol r.iss.gidx with
          | none => done 2
          | some g =>
            let st := recs.map fun d => s1.recordStatus r.iss g fun i => d.getD i 0
            match st.zipIdx.find? (·.1 != 0) with
            | some (v, i) => done (i * 256 + v)
            | none =>
              if 1024 < (s1.cluster b).tasks.length + s1.held b 2 + recs.length then done 1
              else .next ((s1.enqueued b r g recs).tenqEnd r b 0)

/-! ### Starting tasks (R263 to R265) -/

/-- The dependence of a record is met. -/
def State.depMet (s : State) (cluster : Nat) (t : Task) : Bool :=
  let h := t.dw 6
  match recDk t.dw with
  | 1 => let w := ofN (fld h 31 0); (s.liveHold t.iss.vol (handleCore w) (handleGen w) (handleIdx w)).isNone
  | 2 => s.rdN (roomKey cluster (8 * fld h 54 36)) 2 != fld h 15 0
  | _ => true

/-- Part q of a task can start on its core, whose engine is free; on a fenced core it is only to be cancelled (R267). -/
def State.startable (s : State) (cluster core : Nat) (before : List Task) (t : Task) : Bool :=
  let c := s.core core
  s.coreFenced core || ((t.met || s.depMet cluster t) &&
    !(before.any fun x => x.on core && (x.tile == t.tile || (x.kind == 1 && t.kind == 1 && recStrm x.dw == recStrm t.dw))) &&
    !s.tileHeld core t.tile && !s.tcfgOut core (2 ^ t.tile) && (match c.pre with | .saving _ => false | _ => true) &&
    !(c.outG.contains (t.iss.vol, t.iss.gidx)))

/-- The earlier records of a task. -/
def earlier (ts : List Task) (t : Task) : List Task := ts.takeWhile (·.id != t.id)

/-- Part of a task on a core that has not started. -/
def Task.waitsOn (t : Task) (core : Nat) : Bool := (t.cores.zip t.parts).any fun p => p.1 == core && p.2 == .waiting

/-- The record that the engine of a core takes next; the first record of a determinism volume, whose records R264 takes in order whatever
their prio fields, stands beside other volumes' records with its own (DEDUCED, assumption 90). -/
def State.nextTask (s : State) (cluster core : Nat) : Option Task :=
  let ts := (s.cluster cluster).tasks
  let det (v : Nat) : Bool := ((s.volume v).map Volume.det).getD false
  let cand := ts.filter fun t => t.waitsOn core && s.startable cluster core (earlier ts t) t &&
    !(det t.iss.vol && (earlier ts t).any fun x => x.iss.vol == t.iss.vol && x.waitsOn core)
  (List.range 8).findSome? fun i => cand.find? fun t => recPrio t.dw == 7 - i

/-- Mark the part of a task on a core. -/
def Task.mark (t : Task) (core : Nat) (p : PartState) : Task :=
  { t with parts := (t.cores.zip t.parts).map fun x => if x.1 == core then p else x.2 }

def State.putTask (s : State) (cluster : Nat) (t : Task) : State :=
  let c := s.cluster cluster
  s.setCluster cluster { c with tasks := replaceBy (·.id == t.id) t c.tasks }

/-- `TASK_START`: every free engine of the cluster takes its next record. -/
def execTaskStart (cluster : Nat) (s : State) : Host.Outcome State Fault Refusal :=
  .next (((List.range 8).map (8 * cluster + ·)).foldl (fun (s : State) core =>
    if ((s.cluster cluster).tasks.any fun t => (t.cores.zip t.parts).any fun p => p.1 == core && p.2 == .started) then s
    else match s.nextTask cluster core with
      | none => s
      | some t =>
        let q := (t.cores.zipIdx.find? (·.1 == core)).map (·.2)
        (s.putTask cluster { t.mark core .started with met := true }).push (.taskPartComplete cluster t.id (q.getD 0))) s)

/-! ### Sparse operands (R269 to R271) -/

/-- Walk a skip list over some blocks: masks in order, then position and residual; none for METADATA. -/
def walkSkip (s : State) (core : Nat) (x : Stream) : Nat → Nat → Nat → Option (List Nat × Nat × Nat)
  | 0, pos, res => some ([], pos, res)
  | n + 1, pos, res =>
    if 0 < res then (walkSkip s core x n pos (res - 1)).map fun r => (0 :: r.1, r.2)
    else if x.len < pos + 2 then none
    else
      let w := s.rdN (aKey core (x.base + pos)) 2
      if w % 16 == 15 then (walkSkip s core x n (pos + 2) (w / 16)).map fun r => (0 :: r.1, r.2)
      else (walkSkip s core x n (pos + 2) 0).map fun r => (w :: r.1, r.2)

/-- Bits of row a, or column a, of a block mask. -/
def maskRow (m a : Nat) : Nat := popN 4 (m / 2 ^ (4 * a) % 16)
def maskCol (m c : Nat) : Nat := (List.range 4).countP fun a => bitN m (4 * a + c)

/-- The masks obey the pattern (R270): blocks of W columns. -/
def patternOk (nm W : Nat) (ms : List Nat) : Bool :=
  let N := if nm % 2 == 0 then 1 else 2
  let at_ (p c : Nat) : Nat := ms.getD (p * W + c) 0
  let H := if W == 0 then 0 else ms.length / W
  if nm < 2 then ms.all fun m => (List.range 4).all fun i => decide (maskRow m i ≤ N) && decide (maskCol m i ≤ N)
  else (List.range H).all fun p => (List.range W).all fun c => (List.range 4).all fun i =>
    (c % 2 == 1 || decide (maskRow (at_ p c) i + maskRow (at_ p (c + 1)) i ≤ N)) &&
    (p % 2 == 1 || decide (maskCol (at_ p c) i + maskCol (at_ (p + 1) c) i ≤ N))

/-- kept(n, k) of R270. -/
def keptAt (T : Bool) (W : Nat) (ms : List Nat) (n k : Nat) : Bool :=
  if T then bitN (ms.getD (k / 4 * W + n / 4) 0) (4 * (k % 4) + n % 4) else bitN (ms.getD (n / 4 * W + k / 4) 0) (4 * (n % 4) + k % 4)

/-! ### Running a part (R257, R258, R261, R267) -/

/-- The latch values of part q of a task (R258). -/
def State.latchOf (s : State) (cluster : Nat) (t : Task) (q : Nat) : List Nat :=
  let d := t.dw 5
  let e (i : Nat) : Nat := if d.getLsbD 47 then s.rdN (roomKey cluster (64 * fld d 42 27 + 2 * i)) 2 else 0x3F80
  [fld d 63 56, fld d 55 48, e 0, e 1] ++ (List.range 4).map fun i => e (2 + 4 * q + i)

/-- Chunks of 64 in increasing k: the state, and the code and chunk of a fault. -/
def State.runChunks (s : State) (core vol tile : Nat) (da db : TileDesc) (sa sb q M nq K : Nat) (fa fb : Fmt) (keep : Nat → Nat → Bool) :
    Nat → Nat → State × Option (Nat × Nat)
  | 0, _ => (s, none)
  | n + 1, c =>
    let k0 := 64 * c
    let m := Nat.min 64 (K - k0)
    match s.rowsVals da core vol sa 0 M fa k0 m with
    | .error e => (s, some (e.1, c))
    | .ok as => match s.rowsVals db core vol sb q nq fb k0 m with
      | .error e => (s, some (e.1, c))
      | .ok bs => State.runChunks (s.setCore core ((s.core core).addRows tile as bs fun j k => keep j (k0 + k))) core vol tile da db sa sb q M nq K
          fa fb keep n (c + 1)

/-- A dense or sparse part: the state, and the code and chunk of a fault. Where several faults hold, descriptor A is taken first, then B, then
SCALE, then METADATA (DESIGN CHOICE, assumption 96). -/
def State.runProduct (s : State) (cluster core : Nat) (t : Task) (q : Nat) : State × Option (Nat × Nat) :=
  let d := t.dw
  let fa := (Fmt.ofCode (recFa d)).getD .int8
  let fb := (Fmt.ofCode (recFb d)).getD .int8
  let M := recM d
  let nq := Nat.min 256 (recN d - 256 * q)
  let K := recK d
  let da := tileDesc (d 0) (d 1)
  let db := tileDesc (d 2) (d 3)
  match da.check t.iss.sregs 0 M (rowUnits fa K) rR, db.check t.iss.sregs q nq (rowUnits fb K) rR with
  | .error e, _ => (s, some (e, 0))
  | _, .error e => (s, some (e, 0))
  | .ok sa, .ok sb =>
    let c := s.core core
    let x := c.tile t.tile
    let l := s.latchOf cluster t q
    if !x.modeK && x.latch.isSome && x.latch != some l then (s, some (0x31, 0))
    else
      let T := (d 4).getLsbD 40
      let W := if T then nq / 4 else K / 4
      let m := recStrm d
      let strm := c.streams.getD m {}
      let walk := if t.kind == 1 then walkSkip s core strm (nq / 4 * (K / 4)) strm.pos strm.res else some ([], 0, 0)
      match walk with
      | none => (s, some (0x32, 0))
      | some (ms, pos, res) =>
        if t.kind == 1 && !patternOk (recNm d) W ms then (s, some (0x32, 0))
        else
          let c1 := if x.modeK then c else c.setTile t.tile { x with latch := some l }
          let c2 := if t.kind == 1 then { c1 with streams := setAt c1.streams m { strm with pos := pos, res := res } } else c1
          (s.setCore core c2).runChunks core t.iss.vol t.tile da db sa sb q M nq K fa fb
            (if t.kind == 1 then keptAt T W ms else fun _ _ => true) (ceilDiv K 64) 0

/-- Run part q of a task on its core. -/
def State.runPart (s : State) (cluster core : Nat) (t : Task) (q : Nat) : State × Option (Nat × Nat) :=
  let c := s.core core
  match t.kind with
  | 0 | 1 => s.runProduct cluster core t q
  | 2 => (s.setCore core (c.zeroTile t.tile), none)
  | _ =>
    let x := c.tile t.tile
    let d := t.dw
    match s.storeTile t.iss.sregs t.iss.vol core x ((Fmt.ofCode (recFa d)).getD .f32) (Rm.ofCode (fld (d 5) 26 25)) (tileDesc (d 0) (d 1)) q with
    | (s1, _, some e) => (s1, some e)
    | (s1, fl, none) =>
      let c1 := (s1.core core).setTile t.tile { x with flags := x.flags ||| fl }
      (s1.setCore core (if (d 5).getLsbD 24 then c1.zeroTile t.tile else c1), none)

/-- The errata record of a task (R267, R404). -/
def State.taskErrata (s : State) (t : Task) (code part chunk : Nat) : State :=
  s.errataOf t.iss 2 [ofN t.addr, ofN (0xF3 * 2 ^ 56 + code * 2 ^ 48 + part * 2 ^ 40 + chunk)]

/-- The completion of a task (R266): FAULT where one part faulted and another was cancelled (DEDUCED, assumption 90). -/
def State.finishTask (s : State) (cluster : Nat) (t : Task) : State :=
  let c := s.cluster cluster
  let s1 := s.setCluster cluster { c with tasks := c.tasks.filter (·.id != t.id) }
  let st := if t.parts.contains (.ended 1) then 1 else if t.parts.contains (.ended 2) then 2 else 0
  let d := t.dw 7
  let s2 := match recCk t.dw with
    | 1 =>
      if st != 0 then s1
      else
        let k := roomKey cluster (8 * fld d 54 36)
        let r := s1.arriveAt k none (fld d 23 0)
        if s1.keyFenced k then s1.taskErrata t 0x3C 0 0 else if r.2 then r.1.taskErrata t 0x3C 0 0 else r.1
    | 2 => s1.notify t.iss 2 (fld d 15 0) (st * 2 ^ 42 + (s1.tileOf (t.cores.headD 0) t.iss.vol t.iss.gidx t.tile).flags.toNat * 2 ^ 32)
    | 3 =>
      let w := ofN (fld d 23 0)
      if st != 0 then s1
      else s1.sendMsg t.iss.core t.iss.slot (handleCore w) (.dec t.iss.vol (handleGen w) (handleIdx w) 1 true t.iss.gidx w)
    | _ => s1
  s2.pushNew (.taskStart cluster)

/-- `TASK_PART_COMPLETE`: the whole part runs on its engine; a part of a halted tile or a fenced core is cancelled. -/
def execTaskPartComplete (cluster task part : Nat) (s : State) : Host.Outcome State Fault Refusal :=
  match (s.cluster cluster).tasks.find? (·.id == task) with
  | none => .next s
  | some t => match t.cores[part]? with
    | none => .next s
    | some core =>
      if t.parts[part]? != some .started then .next s
      else
        let x := (s.core core).tile t.tile
        let (s1, p) : State × PartState :=
          if x.halted || s.coreFenced core then (s, .ended 2)
          else match s.runPart cluster core t part with
            | (s1, none) => (s1, .ended 0)
            | (s1, some (code, chunk)) =>
              let c1 := s1.core core
              ((s1.setCore core (c1.setTile t.tile { c1.tile t.tile with halted := true })).taskErrata t code part chunk, .ended 1)
        let t1 := t.mark core p
        let s2 := s1.putTask cluster t1
        .next (if (t1.parts.all fun p => match p with | .ended _ => true | _ => false) then s2.finishTask cluster t1
          else s2.pushNew (.taskStart cluster))

end Sys2Proof.Machine
end

