-- ==== Sys2Proof/Machine/Select.lean ====
section
/-! DEFINITION. The selection unit: `ksel` and `kgath` (R304 to R314). -/

namespace Sys2Proof.Machine

open Sys2Proof

/-! ## Issue (R305) -/

/-- `ksel`. -/
def execKsel (h : Hdr) (note : Bool) (d a b : GOp) (s : State) : Host.Outcome State Fault Refusal :=
  recordIssue (.ksel h note d a b) h .ksel d a b (if note then 1 else 0) s

/-- `kgath`. -/
def execKgath (h : Hdr) (note : Bool) (d a b : GOp) (s : State) : Host.Outcome State Fault Refusal :=
  recordIssue (.kgath h note d a b) h .kgath d a b (if note then 1 else 0) s

/-! ## Records (R306, R310) -/

/-- A pointer's segment is not of this type. -/
def Issuer.typeBad (iss : Issuer) (w : Word) (ty : Nat) : Bool :=
  match ptrParts w with
  | .error _ => true
  | .ok (n, _) => descType (sregOf iss.sregs n) != ty

def selN (d : Nat → Word) : Nat := fld (d 3) 59 48 + 1
def selCap (d : Nat → Word) : Nat := fld (d 3) 47 36 + 1
def selThresh (d : Nat → Word) : Bool := (d 3).getLsbD 63
/-- Channels of a ccode; 3 names none. -/
def chanOf (cc : Nat) : Nat := if cc == 3 then 0 else 64 * 2 ^ cc
def selC (d : Nat → Word) : Nat := chanOf (fld (d 3) 31 30)
def selFmt (d : Nat → Word) : Fmt := if (d 3).getLsbD 29 then .bf16 else .e4m3
def selW (d : Nat → Word) : Nat := if (d 3).getLsbD 29 then 2 else 1
def selQ (d : Nat → Word) : Nat := if fld (d 3) 35 32 == 0 then 4 else 2

/-- The checks of a selection record. -/
def kselChecks (iss : Issuer) (d : Nat → Word) : List (Nat × Bool) :=
  [(0, iss.typeBad (d 0) 3 || iss.extBad (d 0) (selC d * selQ d) rR 1),
   (1, iss.typeBad (d 1) 5 || iss.extBad (d 1) (16 * selN d) rR 1),
   (2, iss.typeBad (d 2) 5 || iss.extBad (d 2) (16 + 16 * selCap d) rW 1),
   (3, fld (d 3) 62 60 != 0 || fld (d 3) 28 16 != 0 || (fld (d 3) 35 32 != 0 && fld (d 3) 35 32 != 2) || fld (d 3) 31 30 == 3),
   (4, fld (d 4) 63 32 != 0 || (if selThresh d then isNan (fpF32.value (fld (d 4) 31 0)) else d 4 != 0)),
   (5, fld (d 5) 63 24 != 0), (6, d 6 != 0), (7, d 7 != 0)]

def gathM (d : Nat → Word) : Nat := fld (d 6) 51 39
def gathE0 (d : Nat → Word) : Nat := fld (d 6) 63 52
def gathMap (d : Nat → Word) : Nat := 64 * fld (d 6) 31 16

/-- A segment of the issuer of type `ty` that covers buffer bytes [lo, hi) with these rights and E. -/
def Issuer.covers (iss : Issuer) (ty lo hi need : Nat) : Bool :=
  iss.sregs.any fun x => descType x == ty && hasRights (descRights x) (need + rE) && decide (descBase x ≤ lo) && decide (hi ≤ descBase x + descLimit x)

/-- The checks of a destination descriptor, at its two doublewords (R255, R310). -/
def destChecks (iss : Issuer) (i space m : Nat) (a b : Word) : List (Nat × Bool) :=
  let t := tileDesc a b
  [(i, t.base % 64 != 0 || t.pitch % 64 != 0 ||
      !iss.covers (if space == 0 then 2 else 3) t.base (t.base + (m - 1) * t.tpitch + 64 * t.pitch) rW),
   (i + 1, t.bad || t.space != space || t.tpitch % 64 != 0)]

/-- The checks of a gather record. -/
def kgathChecks (iss : Issuer) (d : Nat → Word) : List (Nat × Bool) :=
  let m := gathM d
  [(0, iss.typeBad (d 0) 5 || iss.extBad (d 0) 16 rR 1), (1, iss.typeBad (d 1) 5)] ++
  destChecks iss 2 0 m (d 2) (d 3) ++ destChecks iss 4 1 m (d 4) (d 5) ++
  [(6, m == 0 || decide (4096 < m) || fld (d 6) 38 32 != 0 || !iss.covers 5 (gathMap d) (gathMap d + 256 * m) rW), (7, fld (d 7) 63 24 != 0)]

/-! ## Acceptance (R305) -/

/-- The unit takes up the head of its queue. -/
def State.startSel (s : State) (cluster : Nat) : State :=
  match (s.cluster cluster).sels.head? with
  | none => s
  | some o => s.pushNew (.selectRun cluster o.id)

/-- `SELECTION_ACCEPT`. -/
def execSelectionAccept (cluster req : Nat) (s : State) : Host.Outcome State Fault Refusal :=
  let cl := s.cluster cluster
  match cl.reqs.find? (·.id == req) with
  | none => .next s
  | some r =>
    if !s.reqReady r then .next (s.notReady r)
    else if !s.unitUp .sel cluster then .next s
    else
      let s1 := s.setCluster cluster { cl with reqs := cl.reqs.filter (·.id != req) }
      if s.unitFenced .sel cluster then .next (s1.status r.iss req 3)
      else if 64 ≤ cl.sels.length + s.held cluster 3 then .next (s1.status r.iss req 1)
      else match r.iss.place r.a 64 (rR + rE) 64 with
        | .error _ => .next (s1.status r.iss req (badRec 0))
        | .ok (_, l) => match s1.reqRecord cluster r l 8 with
          | .ask as => .next (s.askRecord cluster r as)
          | .bad _ => .next (s1.status r.iss req (badRec 0))
          | .words ws =>
            let d := fun i => ws.getD i (0 : Word)
            match lowestBad (if r.kind == .ksel then kselChecks r.iss d else kgathChecks r.iss d) with
            | some dw => .next (s1.status r.iss req (badRec dw))
            | none =>
              let o : SelOp := { id := r.id, iss := r.iss, kind := r.kind, ptr := r.a, dws := ws, sync := r.b, note := r.imm == 1 }
              let c := s1.cluster cluster
              .next (((s1.setCluster cluster { c with sels := c.sels ++ [o] }).status r.iss req 0).startSel cluster)

/-! ## Faults and completion (R309, R312, R313) -/

/-- One errata record of an operation. -/
def State.selErrata (s : State) (o : SelOp) (code idx va : Nat) : State :=
  s.errataOf o.iss 3 [o.ptr, ofN ((if o.kind == .ksel then 0x20 else 0x21) * 2 ^ 56 + code * 2 ^ 48 + idx % 4096), ofN va]

/-- One arrival of n bytes, 0 to 2^24 − 1: how it ended. -/
def State.arriveOnce (s : State) (cluster : Nat) (iss : Issuer) (w : Word) (n : Nat) : State × Arrived :=
  match iss.place w 8 (rW + rF + rE) 8 with
  | .error _ => (s, .lost)
  | .ok (_, l) => let r := s.arriveLoc cluster l n; (r.1, arrived r.2.1 r.2.2)

/-- The operation is over: its message, and the next of the queue. -/
def State.endSel (s : State) (cluster : Nat) (o : SelOp) (n : Nat) : State :=
  let d := fun i => o.dws.getD i (0 : Word)
  let c := s.cluster cluster
  let s1 := s.setCluster cluster { c with sels := c.sels.filter (·.id != o.id) }
  let tag := if o.kind == .ksel then fld (d 3) 15 0 else fld (d 6) 15 0
  let s2 := if o.note then s1.notify o.iss 3 tag ((if o.errata then 1 else 0) * 2 ^ 42 + n) else s1
  s2.startSel cluster

/-! ## Key pages (R298, R307, R311) -/

/-- The slot of a K page that a VA names: its PA and geometry, or a fault code. -/
def State.slotAt (s : State) (cluster vol va : Nat) (value : Bool) : Except Nat (Nat × Geometry) :=
  match s.locKey cluster (.va vol va) .read with
  | .fail c => .error (0x50 + c)
  | .fenced => .error 0x58
  | .far _ _ => .error 0x55
  | .key k kp =>
    if s.keyFenced k then .error 0x58
    else match kp with
      | none => .error 0x55
      | some (base, bits) => match s.geometry base bits with
        | none => .error 0x56
        | some g =>
          if s.keyFenced base then .error 0x58
          else if g.value != value then .error 0x55
          else if k < base + 64 || (k - base - 64) % g.stride != 0 || g.slots ≤ (k - base - 64) / g.stride then .error 0x56
          else .ok (k, g)

/-- The VA that a segment pointer names over n bytes with right R, or BOUNDS; a segment that is no `dv` holds no K page. -/
def Issuer.pageVA (iss : Issuer) (w : Word) (n : Nat) : Except Nat Nat :=
  match ptrParts w with
  | .error _ => .error 0x57
  | .ok (i, off) => match segCheck (sregOf iss.sregs i) off n rR 1 with
    | .error _ => .error 0x57
    | .ok a => if descType (sregOf iss.sregs i) != 1 then .error 0x55 else .ok a

/-! ## Selection (R307, R308) -/

/-- bound(i): query codes as values, abstract codes of the key format. -/
def boundOf (f : FP) (q : List Num) (lo hi : List Nat) : Nat :=
  let r := (q.zip (lo.zip hi)).foldl (fun (r : Nat × Bool) x =>
    let a := (fpMul fpF32 .rup x.1 (f.value x.2.1)).1
    let b := (fpMul fpF32 .rup x.1 (f.value x.2.2)).1
    let nan := isNan (fpF32.value a) || isNan (fpF32.value b)
    let v := (fpAdd fpF32 .rup (fpF32.value r.1) (fpF32.value (fpMinMax fpF32 true a b).1)).1
    (v, r.2 || nan || isNan (fpF32.value v))) (0x80000000, false)
  if r.2 then 0x7F800000 else r.1

/-- The bound of a descriptor and the VA of its key page, or a fault code and its VA. -/
def State.descBound (s : State) (cluster : Nat) (o : SelOp) (q : List Num) (w : Word) : Except (Nat × Nat) (Nat × Nat) :=
  let d := fun i => o.dws.getD i (0 : Word)
  let C := selC d
  let w8 := selW d
  match o.iss.pageVA w (66 * C * w8) with
  | .error e => .error (e, 0)
  | .ok va => match s.slotAt cluster o.iss.vol va false with
    | .error e => .error (e, va)
    | .ok (k, g) =>
      if g.chan != C || g.fmt != selFmt d then .error (0x56, va)
      else
        if s.rangeFenced (k + 64 * C * w8) (2 * C * w8) then .error (0x58, va) else
        let rd (row : Nat) : List Nat := (List.range C).map fun c => s.rdN (k + row * C * w8 + c * w8) w8
        .ok (boundOf (fpFor g.fmt) q (rd 64) (rd 65), va)

/-- a is a greater bound than b. -/
def boundGt (a b : Nat) : Bool := numLt false (fpF32.value b) (fpF32.value a)

/-- The pages chosen: (index, bound, VA), the pages that passed, and whether some were dropped. -/
def choosePages (thresh : Bool) (cap tau : Nat) (xs : List (Nat × Nat × Nat)) : List (Nat × Nat × Nat) × Nat × Bool :=
  if thresh then
    let ok := xs.filter fun x => !boundGt tau x.2.1
    (ok.take cap, ok.length, decide (cap < ok.length))
  else
    (xs.filter fun x => (xs.countP fun y => boundGt y.2.1 x.2.1 || (!boundGt x.2.1 y.2.1 && decide (y.1 < x.1))) < cap, xs.length, false)

/-- The buffers of its issuer's gathering, which a selection's operands lie in, are out with a pre-empted core (R295). -/
def State.selBlocked (s : State) (o : SelOp) : Bool :=
  (s.core o.iss.core).outG.any fun g => g.1 == o.iss.vol && (o.iss.free || g.2 == o.iss.gidx)

def State.putSel (s : State) (cluster : Nat) (o : SelOp) : State :=
  let c := s.cluster cluster
  s.setCluster cluster { c with sels := replaceBy (·.id == o.id) o c.sels }

/-- The gather list of a `ksel`, its errata, its arrival and its message (R308, R309, R313). -/
def State.endKsel (s : State) (cluster : Nat) (o : SelOp) : State :=
  let d := fun i => o.dws.getD i (0 : Word)
  let (ch, pass, ovf) := choosePages (selThresh d) (selCap d) (fld (d 4) 31 0) o.good
  let ws := [(0, 0, pass * 2 ^ 16 + (if ovf then 2 ^ 13 else 0) + ch.length), (0, 8, 0)] ++
    ch.zipIdx.flatMap fun x => [(x.1.1, 16 + 16 * x.2, x.1.1 * 2 ^ 48 + x.1.2.2 % 2 ^ 48), (x.1.1, 24 + 16 * x.2, x.1.2.1)]
  let (s1, lostW) := ws.foldl (fun (r : State × List (Nat × Nat × Nat)) w =>
    let q := r.1.engWrite cluster (o.iss.at_ (d 2) w.2.1) 8 w.2.2
    (q.1, if q.2.isSome && !(r.2.any (·.1 == w.1)) then r.2 ++ [(w.1, 0x58, 0)] else r.2)) (s, [])
  let bad := o.bad ++ lostW
  let s2 := bad.foldl (fun (s : State) b => s.selErrata o b.2.1 b.1 b.2.2) s1
  let (s3, e) : State × Arrived := match o.sync with
    | none => (s2, .done)
    | some w => s2.arriveOnce cluster o.iss w (fld (d 5) 23 0)
  let s4 := if e == .done then s3 else s3.selErrata o (e.code 0x58) 0 (o.iss.at_ (o.sync.getD 0) 0).vaOr0
  s4.endSel cluster { o with errata := e != .done || !bad.isEmpty } ch.length

/-- One step of a `ksel`: its query is read; then the abstract of its next descriptor, one at a time, so that each bound has the value
which its own read returns (R307, R314); then its end. -/
def State.runKsel (s : State) (cluster : Nat) (o : SelOp) : State :=
  let d := fun i => o.dws.getD i (0 : Word)
  let qb := selQ d
  let qf := if qb == 4 then fpF32 else fpBf16
  match o.qry with
  | none =>
    let qs := (List.range (selC d)).map fun c => s.engRead cluster (o.iss.at_ (d 0) (c * qb)) qb
    if (qs.any fun m => match m with | .ok _ => false | .bad _ => true) then s.endKsel cluster { o with bad := [(0, 0x58, 0)] }
    else (s.putSel cluster { o with qry := some (qs.map fun m => match m with | .ok v => v | .bad _ => 0) }).push (.selectRun cluster o.id)
  | some q =>
    if selN d ≤ o.e then s.endKsel cluster o
    else
      let r := match s.engRead cluster (o.iss.at_ (d 1) (16 * o.e)) 8 with
        | .ok v => s.descBound cluster o (q.map qf.value) (ofN v)
        | .bad _ => .error (0x58, 0)
      let o1 : SelOp := match r with
        | .ok x => { o with e := o.e + 1, good := o.good ++ [(o.e, x)] }
        | .error e => { o with e := o.e + 1, bad := o.bad ++ [(o.e, e)] }
      let va := match r with | .ok x => x.2 | .error e => e.2
      ((s.cacheFill cluster (.va o.iss.vol va) 8).putSel cluster o1).push (.selectRun cluster o.id)

/-! ## Gathering (R311) -/

/-- Words of the token map of entry position i. -/
def State.mapWords (s : State) (cluster : Nat) (o : SelOp) (i : Nat) (f : Nat → Nat) : State :=
  let d := fun i => o.dws.getD i (0 : Word)
  (List.range 64).foldl (fun (s : State) t => (s.engWrite cluster (.buf (roomKey cluster (gathMap d + 256 * i + 4 * t))) 4 (f t)).1) s

def noToken (_ : Nat) : Nat := 0xFFFFFFFF

/-- The header of a `kgath` cannot be read: nothing is moved and nothing arrives, every map word names no token, and there is one errata
record (R311). -/
def State.headerFails (s : State) (cluster : Nat) (o : SelOp) : State :=
  let d := fun i => o.dws.getD i (0 : Word)
  let s1 := (List.range (gathM d)).foldl (fun (s : State) i => s.mapWords cluster o i noToken) s
  (s1.selErrata o 0x58 (gathE0 d) 0).endSel cluster { o with errata := true } 0

/-- The place of the header of a `kgath`. -/
def SelOp.header (o : SelOp) : Loc := o.iss.at_ (o.dws.getD 0 (0 : Word)) 0

/-- `SELECT_RUN`: the next step of a `ksel`; the header of a `kgath`. -/
def execSelectRun (cluster op : Nat) (s : State) : Host.Outcome State Fault Refusal :=
  match (s.cluster cluster).sels.head? with
  | none => .next s
  | some o =>
    if o.id != op || s.unitFenced .sel cluster || o.hdr.isSome || s.selBlocked o then .next s
    else if o.kind == .ksel then .next (s.runKsel cluster o)
    else
      match s.engRead cluster o.header 8 with
      | .ok v => .next ((s.putSel cluster { o with hdr := some (v % 2 ^ 13) }).push (.gatherEntry cluster op))
      | .bad _ => .next (s.headerFails cluster o)

/-- The rows of one slot, as doublewords at the units of a destination. -/
def slotMoves (s : State) (t : TileDesc) (core vol i k rowBytes : Nat) : List (Loc × Nat) :=
  (List.range 64).flatMap fun r => (List.range (rowBytes / 64)).map fun j =>
    (t.unit core vol 0 i r j, s.rdN (k + r * rowBytes + 64 * j) 64)

/-- One entry: its slots and descriptor index, or the fault code, the index and the VA; and the key slot when only the value
page fails. -/
def State.gatherSlots (s : State) (cluster : Nat) (o : SelOp) (e k : Nat) :
    Except (Nat × Nat × Nat × Option (Nat × Geometry)) (Nat × (Nat × Geometry) × (Nat × Geometry)) :=
  let d := fun i => o.dws.getD i (0 : Word)
  let pos := e - gathE0 d
  if k ≤ e then .error (0x5A, pos, 0, none)
  else match o.iss.place (d 0 + ofN (16 + 16 * e)) 16 (rR + rE) 1 with
    | .error _ => .error (0x57, pos, 0, none)
    | .ok (_, l) => match s.engRead cluster l 8 with
      | .bad _ => .error (0x58, pos, 0, none)
      | .ok w =>
        let idx := bitsN w 59 48
        let va := bitsN w 47 0
        match o.iss.place (d 1 + ofN (16 * idx)) 16 (rR + rE) 1 with
        | .error _ => .error (0x57, idx, 0, none)
        | .ok (_, l2) => match s.engRead cluster (l2.plus 8) 8 with
          | .bad _ => .error (0x58, idx, 0, none)
          | .ok pv => match s.slotAt cluster o.iss.vol va false with
            | .error c => .error (c, idx, va, none)
            | .ok kg =>
              if (tileDesc (d 2) (d 3)).pitch < kg.2.chan * kg.2.w then .error (0x56, idx, va, none)
              else if s.rangeFenced kg.1 (64 * kg.2.chan * kg.2.w) then .error (0x58, idx, va, none)
              else match o.iss.pageVA (ofN pv) 1 with
                | .error c => .error (c, idx, 0, some kg)
                | .ok vva => match s.slotAt cluster o.iss.vol vva true with
                  | .error c => .error (c, idx, vva, some kg)
                  | .ok vg => match o.iss.pageVA (ofN pv) (64 * vg.2.chan * vg.2.w) with
                    | .error c => .error (c, idx, vva, some kg)
                    | .ok _ =>
                      if (tileDesc (d 4) (d 5)).pitch < vg.2.chan * vg.2.w then .error (0x56, idx, vva, some kg)
                      else if s.rangeFenced vg.1 (64 * vg.2.chan * vg.2.w) then .error (0x58, idx, vva, some kg)
                      else .ok (idx, kg, vg)

/-- The key and the value slot of an entry are moved to their destinations; whether a write failed (R311). -/
def State.gathered (s : State) (cluster : Nat) (o : SelOp) (kg vg : Nat × Geometry) : State × Bool :=
  let d := fun i => o.dws.getD i (0 : Word)
  (slotMoves s (tileDesc (d 2) (d 3)) o.iss.core o.iss.vol o.e kg.1 (kg.2.chan * kg.2.w) ++
   slotMoves s (tileDesc (d 4) (d 5)) o.iss.core o.iss.vol o.e vg.1 (vg.2.chan * vg.2.w)).foldl
    (fun (r : State × Bool) m => let q := r.1.engWrite cluster m.1 64 m.2; (q.1, r.2 || q.2.isSome)) (s, false)

/-- A `kgath` goes on to its next entry. -/
def State.nextEntry (s : State) (cluster : Nat) (o : SelOp) : State :=
  (s.putSel cluster { o with e := o.e + 1 }).push (.gatherEntry cluster o.id)

/-- An entry is not gathered: its map words name no token, and it has its errata record (R311, R313). -/
def State.entryFails (s : State) (cluster : Nat) (o : SelOp) (code idx va : Nat) : State :=
  ((s.mapWords cluster o o.e noToken).selErrata o code idx va).nextEntry cluster { o with errata := true }

/-- `GATHER_ENTRY`: the next entry of a `kgath`; after the last, its message. -/
def execGatherEntry (cluster op : Nat) (s : State) : Host.Outcome State Fault Refusal :=
  match (s.cluster cluster).sels.head? with
  | none => .next s
  | some o => match o.hdr with
    | none => .next s
    | some k =>
      if o.id != op || s.unitFenced .sel cluster || s.selBlocked o then .next s
      else
        let d := fun i => o.dws.getD i (0 : Word)
        if gathM d ≤ o.e then .next (s.endSel cluster o o.moved)
        else match s.gatherSlots cluster o (gathE0 d + o.e) k with
          | .error (code, idx, va, ks) =>
            let s1 := match ks with
              | none => s
              | some (kk, g) => (slotMoves s (tileDesc (d 2) (d 3)) o.iss.core o.iss.vol o.e kk (g.chan * g.w)).foldl
                  (fun (s : State) (m : Loc × Nat) => s.engEither cluster m.1 64 m.2) s
            .next (s1.entryFails cluster o code idx va)
          | .ok (idx, kg, vg) =>
            let r := s.gathered cluster o kg vg
            if r.2 then .next (r.1.entryFails cluster o 0x58 idx 0)
            else
              let s2 := r.1.mapWords cluster o o.e fun t => idx * 64 + t
              match o.sync with
              | none => .next (s2.nextEntry cluster { o with moved := o.moved + 1 })
              | some w =>
                let (s3, e) := s2.arriveOnce cluster o.iss w (fld (d 7) 23 0)
                .next (if e != .done then s3.entryFails cluster o (e.code 0x58) idx (o.iss.at_ w 0).vaOr0
                  else s3.nextEntry cluster { o with moved := o.moved + 1 })

end Sys2Proof.Machine
end

