-- ==== Sys2Proof/Machine/Annex.lean ====
section
/-! DEFINITION. Pooling in the annex: `emb`, the chips' partials and the annex interface (R315 to R325). -/

namespace Sys2Proof.Machine

open Sys2Proof

/-- `emb`: the record's segment must translate to the annex, and the sync word lies in the room or the stacks (R319, R180). -/
def execEmb (h : Hdr) (note : Bool) (d a b : GOp) (s : State) : Host.Outcome State Fault Refusal :=
  issue { h := h, word := wordOf (.emb h note d a b), src := [a, b], dst := [d], long := true, access := true } s fun c =>
    match c.enginePtr (c.g a) 64 (rR + rE) 64 with
    | .error e => .fault e
    | .ok (ty, l) =>
      let annex := ty == 1 && (match c.s.locKey (clusterOf c.core) l .read with | .key k _ => isAnnex k | _ => false)
      if !annex then .fault (segFault 0x06 (fld (c.g a) 60 0))
      else match c.syncPtr b [2, 3] with
        | some e => .fault e
        | none =>
          let (r, c1) := c.request d .emb (c.g a) (if b == .z then none else some (c.g b)) (if note then 1 else 0)
          .go (c1.sendReq r)

/-! ## The record (R316, R320, R321) -/

def bagMode (d : Nat → Word) : Nat := fld (d 5) 63 62
def bagFmt (d : Nat → Word) : Fmt := (Fmt.ofCode (fld (d 5) 61 58)).getD .f32
def bagIs (d : Nat → Word) : Nat := if (d 5).getLsbD 56 then 8 else 4
def bagNb (d : Nat → Word) : Nat := fld (d 5) 55 50 + 1
def bagD (d : Nat → Word) : Nat := fld (d 5) 37 26 + 1
def bagOb (d : Nat → Word) : Nat := if (d 5).getLsbD 57 then 2 else 4
def bagPitch (d : Nat → Word) : Nat := fld (d 6) 63 32
def bagOpitch (d : Nat → Word) : Nat := fld (d 6) 31 0
def bagRow (d : Nat → Word) : Nat := bagD d * fmtWidth (bagFmt d) / 8

/-- A row pitch of R316. -/
def pitchOk (p : Nat) : Bool := [64, 128, 256, 512, 1024, 2048, 4096].contains p

/-- Segment types of the output. -/
def Issuer.outBad (iss : Issuer) (w : Word) : Bool := iss.typeBad w 1 && iss.typeBad w 5

/-- The checks of R321; `offs` is none when the offsets cannot be read from the annex. -/
def bagChecks (iss : Issuer) (d : Nat → Word) (offs : Option (List Nat)) : List (Nat × Bool) :=
  let nb := bagNb d
  let os := offs.getD []
  let n := os.getD nb 0
  let fmt := fld (d 5) 61 58
  let va := match ptrParts (d 0) with | .error _ => 1 | .ok (i, o) => descBase (sregOf iss.sregs i) + o
  [(0, iss.typeBad (d 0) 1 || iss.extBad (d 0) 1 rR 1 || va % 4096 != 0),
   (1, iss.typeBad (d 1) 1 || iss.extBad (d 1) (n * bagIs d) rR 1),
   (2, iss.typeBad (d 2) 1 || iss.extBad (d 2) (4 * (nb + 1)) rR 1),
   (3, (bagMode d == 2) != (d 3 != 0) || (d 3 != 0 && (iss.typeBad (d 3) 1 || iss.extBad (d 3) (4 * n) rR 1))),
   (4, iss.outBad (d 4) || iss.extBad (d 4) ((nb - 1) * bagOpitch d + bagD d * bagOb d) rW 1),
   (5, !([0, 2, 3, 4, 5, 7].contains fmt) || fld (d 5) 49 38 != 0 || fld (d 5) 25 0 != 0),
   (6, !pitchOk (bagPitch d) || decide (bagPitch d < bagRow d) || bagOpitch d % 64 != 0 || decide (bagOpitch d < bagD d * bagOb d)),
   (7, fld (d 7) 63 16 != 0),
   (8, offs.isNone || os.headD 0 != 0 || decide (2 ^ 20 < n) || (os.zip os.tail).any fun p => decide (p.2 < p.1))]

/-- Read n bytes in the annex through the device translation cache (R237), or the code of R325. -/
def State.annexRead (s : State) (l : Loc) (n : Nat) : Except Nat Nat :=
  (piecesOf l n).foldl (fun (r : Except Nat Nat) p => match r with
    | .error e => .error e
    | .ok v => match s.devPlace (l.plus p.1) .read with
      | .key k _ => if !isAnnex k then .error 0x65 else if s.keyFenced k then .error 0x67 else .ok (v + 2 ^ (8 * p.1) * s.rdN k p.2)
      | .far _ _ => .error 0x65
      | .fail c => .error (0x60 + c)
      | .fenced => .error 0x67) (.ok 0)

/-- The nb + 1 offsets. -/
def State.readOffs (s : State) (iss : Issuer) (d : Nat → Word) : Option (List Nat) :=
  if iss.typeBad (d 2) 1 || iss.extBad (d 2) (4 * (bagNb d + 1)) rR 1 then some (List.replicate (bagNb d + 1) 0)
  else (List.range (bagNb d + 1)).foldl (fun (r : Option (List Nat)) i => r.bind fun xs =>
    match s.annexRead (iss.at_ (d 2) (4 * i)) 4 with
    | .ok v => some (xs ++ [v])
    | .error _ => none) (some [])

/-! ## Acceptance and start (R317, R319, R324) -/

/-- Chips that are not fenced. -/
def State.liveChips (s : State) : List Nat := (List.range 8).filter fun c => !s.isFenced .chip c

/-- Start operations that may run: those of a determinism volume one at a time. -/
def State.startBags (s : State) (cluster : Nat) : State :=
  (s.cluster cluster).bags.foldl (fun (s : State) o =>
    let c := s.cluster cluster
    if o.started || (s.det o.iss.vol && c.bags.any fun x => x.started && x.iss.vol == o.iss.vol) then s
    else
      let s1 := s.setCluster cluster { c with bags := mapIf (·.id == o.id) (fun x => { x with started := true }) c.bags }
      let mine := s1.chips.filter (·.2.1 == o.id)
      (mine.foldl (fun (s : State) e => s.push (.chipPartial cluster o.id e.2.2 e.1)) s1).push (.bagWrite cluster o.id)) s

/-- Every `emb` that waits is tried again: those of the clusters that have come to the chips are taken in their order (R317, R416). -/
def State.kickEmbs (s : State) : State :=
  (s.clusters.flatMap fun c => (c.2.reqs.filter (·.kind == .emb)).map (·.event c.1)).foldl State.pushNew s

/-- An `emb` is answered. -/
def State.embStatus (s : State) (r : Req) (v : Word) : State := (s.status r.iss r.id v).kickEmbs

/-- `EMB_ACCEPT`. -/
def execEmbAccept (cluster req : Nat) (s : State) : Host.Outcome State Fault Refusal :=
  let cl := s.cluster cluster
  match cl.reqs.find? (·.id == req) with
  | none => .next s
  | some r =>
    if !s.reqReady r then .next (s.notReady r)
    else if !s.unitUp .annexif cluster || (List.range 8).any fun c => !(s.isReady .chip c || s.isFenced .chip c) then .next s
    else
      let s1 := s.setCluster cluster { cl with reqs := cl.reqs.filter (·.id != req) }
      if s.unitFenced .annexif cluster then .next (s1.embStatus r 3)
      else match r.iss.place r.a 64 (rR + rE) 64 with
        | .error _ => .next (s1.embStatus r (badRec 0))
        | .ok (_, l) => match s1.reqRecord cluster r l 8 with
          | .ask as => .next (s.askRecord cluster r as)
          | .bad _ => .next (s1.embStatus r (badRec 0))
          | .words ws =>
            let d := fun i => ws.getD i (0 : Word)
            let offs := s1.readOffs r.iss d
            match lowestBad (bagChecks r.iss d offs) with
            | some dw => .next (s1.embStatus r (badRec dw))
            | none =>
              let nb := bagNb d
              if s1.liveChips.any fun c => decide (256 < (s1.chips.filter (·.1 == c)).length + nb) then .next (s1.embStatus r 1)
              else
                let o : BagOp := { id := r.id, iss := r.iss, ptr := r.a, dws := ws, sync := r.b, note := r.imm == 1, offs := offs.getD [] }
                let c := s1.cluster cluster
                let s2 : State := { s1.setCluster cluster { c with bags := c.bags ++ [o] } with
                  chips := s1.chips ++ (List.range nb).flatMap fun b => s1.liveChips.map fun c => (c, r.id, b) }
                .next ((s2.embStatus r 0).startBags cluster)

/-! ## Rows (R315, R322, R325) -/

/-- The chip of an annex address. -/
def chipOf (key : Nat) : Nat := (key - Config.annexBase) / 4096 % 8

/-- A row of a bag: its chip, its key, its weight. -/
structure BagRow where
  chip : Nat
  key  : Nat
  wt   : Nat
deriving DecidableEq, Repr

/-- Index positions of a bag. -/
def BagOp.positions (o : BagOp) (b : Nat) : List Nat :=
  (List.range (o.offs.getD (b + 1) 0 - o.offs.getD b 0)).map (o.offs.getD b 0 + ·)

/-- The row of an index position, or code and VA of the failing access. -/
def State.bagRowAt (s : State) (o : BagOp) (j : Nat) : Except (Nat × Nat) BagRow :=
  let d := fun i => o.dws.getD i (0 : Word)
  let il := o.iss.at_ (d 1) (j * bagIs d)
  match s.annexRead il (bagIs d) with
  | .error e => .error (e, il.shown)
  | .ok i =>
    let x := i * bagPitch d
    match o.iss.row (d 0) x (bagRow d) rR with
    | none => .error (0x66, 0)
    | some l => match s.devPlace l .read with
      | .key k _ =>
        if !isAnnex k then .error (0x65, l.shown)
        else if s.keyFenced k then .error (0x67, l.shown)
        else if bagMode d != 2 then .ok { chip := chipOf k, key := k, wt := 0 }
        else
          let wl := o.iss.at_ (d 3) (4 * j)
          match s.annexRead wl 4 with
          | .error e => .error (e, wl.shown)
          | .ok w => .ok { chip := chipOf k, key := k, wt := w }
      | .far _ _ => .error (0x65, l.shown)
      | .fail c => .error (0x60 + c, l.shown)
      | .fenced => .error (0x67, l.shown)

/-- The rows of a bag in ascending position, or code, position and VA of its first failing access. -/
def State.bagRows (s : State) (o : BagOp) (b : Nat) : Except (Nat × Nat × Nat) (List BagRow) :=
  (o.positions b).foldl (fun (r : Except (Nat × Nat × Nat) (List BagRow)) j => match r with
    | .error e => .error e
    | .ok xs => match s.bagRowAt o j with
      | .error (c, va) => .error (c, j, va)
      | .ok x => .ok (xs ++ [x])) (.ok [])

/-- The leaves of a bag's indices, rows and weights enter the device translation cache (R237). -/
def State.bagFill (s : State) (o : BagOp) (b : Nat) : State :=
  let d := fun i => o.dws.getD i (0 : Word)
  (o.positions b).foldl (fun (s : State) j =>
    let il := o.iss.at_ (d 1) (j * bagIs d)
    let s1 := s.devFill il
    let s2 := match (s.annexRead il (bagIs d)).toOption.bind fun i => o.iss.row (d 0) (i * bagPitch d) (bagRow d) rR with
      | some l => s1.devFill l
      | none => s1
    if bagMode d == 2 then s2.devFill (o.iss.at_ (d 3) (4 * j)) else s2) s

/-! ## Partials (R322) -/

/-- `fmax` of an f32 and an element's value (R126). -/
def maxInto (p : Nat) : Num → Nat × FlagWord
  | .nan true => nanResult fpF32 true
  | .nan false => (p, 0)
  | x => fpMinMax fpF32 true p (conv .f32 .rne false x).1

/-- Where a partial starts. -/
def bagStart (mode : Nat) : Nat := if mode == 3 then 0xFF800000 else 0x80000000

/-- One row's element enters a partial. -/
def bagStep (mode : Nat) (p wt : Nat) (x : Num) : Nat × FlagWord :=
  match mode with
  | 3 => maxInto p x
  | 2 => fpFma fpF32 .rne (fpF32.value wt) x (fpF32.value p)
  | _ => fpAdd fpF32 .rne (fpF32.value p) x

/-- Element e of a row. -/
def State.rowElem (s : State) (f : Fmt) (key e : Nat) : Num :=
  let n := fmtWidth f / 8
  fmtValue f (s.rdN (key + e * n) n)

/-- A chip's partial of a bag, element by element. -/
def State.partialOf (s : State) (d : Nat → Word) (rows : List BagRow) : List Nat × FlagWord :=
  let mode := bagMode d
  let es := (List.range (bagD d)).map fun e => rows.foldl (fun (r : Nat × FlagWord) x =>
    let q := bagStep mode r.1 x.wt (s.rowElem (bagFmt d) x.key e)
    (q.1, r.2 ||| q.2)) (bagStart mode, 0)
  (es.map (·.1), es.foldl (fun f e => f ||| e.2) 0)

def State.putBag (s : State) (cluster : Nat) (o : BagOp) : State :=
  let c := s.cluster cluster
  s.setCluster cluster { c with bags := replaceBy (·.id == o.id) o c.bags }

/-- `CHIP_PARTIAL`: a chip delivers its partial of a bag and its entry is released; a failing access makes the bag a faulted
one. -/
def execChipPartial (cluster op bag chip : Nat) (s : State) : Host.Outcome State Fault Refusal :=
  match (s.cluster cluster).bags.find? (·.id == op) with
  | none => .next s
  | some o =>
    if !o.started || !s.chips.contains (chip, op, bag) then .next s
    else
      let d := fun i => o.dws.getD i (0 : Word)
      let s1 : State := State.bagFill { s with chips := s.chips.filter (· != (chip, op, bag)) } o bag
      let o1 := match s.bagRows o bag with
        | .error (c, j, va) =>
          if (o.bad.any (·.1 == bag)) then o else { o with bad := o.bad ++ [(bag, c, j, va)] }
        | .ok rows =>
          let p := s.partialOf d (rows.filter (·.chip == chip))
          { o with partials := o.partials ++ [(bag, chip, p.1)], flags := o.flags ||| p.2 }
      .next ((s1.putBag cluster o1).pushNew (.bagWrite cluster op))

/-! ## Bags (R322, R323) -/

/-- r / n in f32. -/
def divCount (r n : Nat) : Nat × FlagWord :=
  match fpF32.value r with
  | .fin neg m e => if m == 0 then (fpF32.signed neg 0, 0) else fpF32.deliver .rne false neg { n := m, d := n, e := e }
  | .inf neg => (fpF32.signed neg 0x7F800000, 0)
  | .nan sig => nanResult fpF32 sig

/-- One element of a bag's vector from the chips' partials, in chip order. -/
def combineElem (mode count : Nat) (ps : List Nat) : Nat × FlagWord :=
  if count == 0 then (0, 0)
  else
    let r := ps.foldl (fun (r : Nat × FlagWord) p =>
      let q := if mode == 3 then fpMinMax fpF32 true r.1 p else fpAdd fpF32 .rne (fpF32.value r.1) (fpF32.value p)
      (q.1, r.2 ||| q.2)) (bagStart mode, 0)
    if mode == 1 then let q := divCount r.1 count; (q.1, r.2 ||| q.2) else r

/-- The fault code of an output write: the room or the stacks only. -/
def State.outCode (s : State) (cluster : Nat) (l : Loc) (n : Nat) : Option Nat :=
  (piecesOf l n).findSome? fun p => match s.locKey cluster (l.plus p.1) .write with
    | .key k _ => if isAnnex k then some 0x64 else if s.keyFenced k then some 0x67 else none
    | .far _ _ => some 0x64
    | .fail c => some (0x60 + c)
    | .fenced => some 0x67

def State.bagErrata (s : State) (o : BagOp) (bag code pos va : Nat) : State :=
  s.errataOf o.iss 4 [o.ptr, ofN (0x23 * 2 ^ 56 + code * 2 ^ 48 + bag * 2 ^ 20 + pos % 2 ^ 20), ofN va]

/-- The operation is over. -/
def State.endBag (s : State) (cluster : Nat) (o : BagOp) (status : Nat) : State :=
  let d := fun i => o.dws.getD i (0 : Word)
  let c := s.cluster cluster
  let s1 : State := { s.setCluster cluster { c with bags := c.bags.filter (·.id != o.id) } with chips := s.chips.filter (·.2.1 != o.id) }
  let s2 := if o.note then s1.notify o.iss 4 (fld (d 7) 15 0) (status * 2 ^ 42 + o.flags.toNat * 2 ^ 35 + o.written) else s1
  s2.startBags cluster

/-- The elements of the next bag: the chips' partials combined and rounded to the output format (R323, R324). -/
def BagOp.sums (o : BagOp) : List (Nat × FlagWord) :=
  let d := fun i => o.dws.getD i (0 : Word)
  let ps := (List.range 8).map fun c => ((o.partials.find? fun p => p.1 == o.bag && p.2.1 == c).map (·.2.2)).getD []
  (List.range (bagD d)).map fun e =>
    let r := combineElem (bagMode d) (o.positions o.bag).length (ps.map fun p => p.getD e (bagStart (bagMode d)))
    let q := conv (if bagOb d == 2 then .bf16 else .f32) .rne false (fpF32.value r.1)
    (q.1, r.2 ||| q.2)

/-- The place of element e of the next bag (R322). -/
def BagOp.out (o : BagOp) (e : Nat) : Loc :=
  let d := fun i => o.dws.getD i (0 : Word)
  o.iss.at_ (d 4) (o.bag * bagOpitch d + e * bagOb d)

/-- The elements of the next bag are written. -/
def State.bagStored (s : State) (cluster : Nat) (o : BagOp) : State :=
  o.sums.zipIdx.foldl (fun (s : State) v => (s.engWrite cluster (o.out v.2) (bagOb fun i => o.dws.getD i 0) v.1.1).1) s

/-- An operation whose bag has been written: one more, its flags raised, its partials gone. -/
def BagOp.pooled (o : BagOp) : BagOp :=
  { o with written := o.written + 1, flags := o.sums.foldl (fun f v => f ||| v.2) o.flags, partials := o.partials.filter (·.1 != o.bag) }

/-- An operation goes on to its next bag. -/
def State.nextBag (s : State) (cluster : Nat) (o : BagOp) : State :=
  (s.putBag cluster { o with bag := o.bag + 1 }).push (.bagWrite cluster o.id)

/-- The next bag is not written: it has its errata record (R325). -/
def State.bagLost (s : State) (cluster : Nat) (o : BagOp) (code pos va : Nat) : State :=
  (s.bagErrata o o.bag code pos va).nextBag cluster { o with errata := true }

/-- `BAG_WRITE`: the next bag, in ascending order, once its partials have been delivered; after the last, the message. -/
def execBagWrite (cluster op : Nat) (s : State) : Host.Outcome State Fault Refusal :=
  match (s.cluster cluster).bags.find? (·.id == op) with
  | none => .next s
  | some o =>
    let d := fun i => o.dws.getD i (0 : Word)
    let b := o.bag
    if !o.started || s.unitFenced .annexif cluster then .next s
    else if bagNb d ≤ b then .next (s.endBag cluster o (if o.errata then 1 else 0))
    else if (s.chips.any fun e => e.2.1 == op && e.2.2 == b) then .next s
    else match o.bad.find? (·.1 == b) with
      | some (_, code, pos, va) => .next (s.bagLost cluster o code pos va)
      | none => match (List.range (bagD d)).findSome? fun e => (s.outCode cluster (o.out e) (bagOb d)).map fun c => (c, (o.out e).vaOr0) with
        | some (code, va) => .next (s.bagLost cluster o code 0 va)
        | none =>
          let s1 := s.bagStored cluster o
          match o.sync with
          | none => .next (s1.nextBag cluster o.pooled)
          | some w =>
            let (s2, e) := s1.arriveOnce cluster o.iss w (bagD d * bagOb d)
            .next (if e != .done then (s2.bagErrata o b (e.code 0x67) 0 (o.iss.at_ w 0).vaOr0).nextBag cluster { o.pooled with errata := true }
              else s2.nextBag cluster o.pooled)

end Sys2Proof.Machine
end

