-- ==== Sys2Proof/Machine/Circulation.lean ====
section
/-! DEFINITION. Launches, holds, free strands, deques, pre-emption (R349 to R372), `post` and the arrivals on the register
network (R162 to R176). -/

namespace Sys2Proof.Machine

open Sys2Proof

/-! ## Holds and free strands (R365 to R369) -/

/-- `hold`. -/
def execHold (h : Hdr) (d a : GOp) (imm : BitVec 24) (s : State) : Host.Outcome State Fault Refusal :=
  issue { h := h, word := wordOf (.hold h d a imm), src := [a], dst := [d] } s fun c =>
    let n := (c.g a + sx64 imm).toNat
    if n == 0 || 2 ^ 31 ≤ n then .go (c.put d 0xFFFFFFFFFFFFFFFE)
    else
      let k := c.s.core c.core
      match k.freeHolds with
      | [] => .go (c.put d 0xFFFFFFFFFFFFFFFF)
      | i :: r =>
        let k1 := { k with freeHolds := r, holds := k.holds ++ [{ idx := i, vol := c.t.vol, count := n }] }
        .go ({ c with s := c.s.setCore c.core k1 }.put d (mkHandle c.core i ((aget k.gens i).getD 0)))

/-- `dech`: a release; the decrement travels to the hold's core. -/
def execDech (h : Hdr) (a : GOp) (imm : BitVec 24) (s : State) : Host.Outcome State Fault Refusal :=
  issue { h := h, word := wordOf (.dech h a imm), src := [a], self := true, rel := true } s fun c =>
    let w := c.g a
    if imm.toInt < 1 || holdBad w then .fault (taskFault 0x29)
    else
      let k : MsgKind := .dec c.t.vol (handleGen w) (handleIdx w) imm.toNat false c.t.gidx w
      .go { c with s := c.s.sendMsg c.core c.slot (handleCore w) k }

/-- With bit 7, `spawn` reads g0 to g7 (R369). -/
def spawnArgs (imm : BitVec 16) : List GOp := if imm.getLsbD 7 then (List.range 8).map fun i => GOp.g (Fin.ofNat 128 i) else []

/-- `spawn`: a free strand behind a hold, or READY at once. -/
def execSpawn (h : Hdr) (d a b : GOp) (imm : BitVec 16) (s : State) : Host.Outcome State Fault Refusal :=
  issue { h := h, word := wordOf (.spawn h d a b imm), src := a :: b :: spawnArgs imm, dst := [d], self := true, rel := true } s fun c =>
    match c.s.codePoint c.t.vol (c.g a) with
    | none => .fault (taskFault 0x24)
    | some (i, off) =>
      if b != .z && holdBad (c.g b) then .fault (taskFault 0x29)
      else match c.s.volume c.t.vol with
        | none => .go (c.put d 0)
        | some v =>
          if v.runlist ≤ v.pool.length then .go (c.put d 0)
          else
            let e := (c.s.spaceOf v.id).entry i
            let hc := handleCore (c.g b)
            let hi := handleIdx (c.g b)
            let live := if b == .z then none else c.s.liveHold v.id hc (handleGen (c.g b)) hi
            let home := if b == .z then c.core else hc
            let holdp := if b == .z then 0 else 0xFF0000000000 + hc * 4096 + hi * 4
            let args := if imm.getLsbD 7 then (List.range 8).map c.t.g else []
            let (pa, s1) := c.s.newSlip v (imm.toNat % 8) home (imm.toNat / 8 % 16) c.t.gidx (e.base + 8 * off) holdp
              (if live.isSome then 0 else 1) (codeDesc e :: c.t.sregs.drop 1) args (some i)
            let s2 := match live with
              | some _ =>
                let k := s1.core hc
                s1.setCore hc { k with holds := mapIf (·.idx == hi) (fun x => { x with slips := x.slips ++ [pa] }) k.holds }
              | none => s1
            let s3 := (s2.dropCode c.core e.base e.size).dropCode home e.base e.size
            .go ({ c with s := s3 }.put d (ofN (Config.areaVA + pa)))

/-! ## Range deques (R370 to R372) -/

def rangeHi (w : Word) : Nat := fld w 63 32
def rangeLo (w : Word) : Nat := fld w 31 0
def mkRange (lo hi : Nat) : Word := ofN (hi * 2 ^ 32 + lo)

/-- `pushr`. -/
def execPushr (h : Hdr) (d a : GOp) (s : State) : Host.Outcome State Fault Refusal :=
  issue { h := h, word := wordOf (.pushr h d a), src := [a], dst := [d] } s fun c =>
    let r := c.g a
    let k := c.s.core c.core
    let n := ((c.s.volume c.t.vol).map Volume.dequeN).getD 0
    if rangeHi r ≤ rangeLo r then .go (c.put d 2)
    else if n ≤ (k.deques.filter (·.1 == c.t.vol)).length then .go (c.put d 1)
    else .go ({ c with s := c.s.setCore c.core { k with deques := k.deques ++ [(c.t.vol, r)] } }.put d 0)

/-- The bottom entry of a volume's deque, and the other entries. -/
def bottomOf (vol : Nat) (l : List (Nat × Word)) : Option (Word × List (Nat × Word)) :=
  match l.reverse.find? (·.1 == vol) with
  | none => none
  | some e => some (e.2, (removeFirst (·.1 == vol) l.reverse).reverse)

/-- `popr`. -/
def execPopr (h : Hdr) (d : GOp) (s : State) : Host.Outcome State Fault Refusal :=
  issue { h := h, word := wordOf (.popr h d), dst := [d] } s fun c =>
    let k := c.s.core c.core
    match bottomOf c.t.vol k.deques with
    | none => .go (c.put d 0)
    | some (w, l) => .go ({ c with s := c.s.setCore c.core { k with deques := l } }.put d w)

/-- `splitr`. -/
def execSplitr (h : Hdr) (d : GOp) (s : State) : Host.Outcome State Fault Refusal :=
  issue { h := h, word := wordOf (.splitr h d), dst := [d] } s fun c =>
    let k := c.s.core c.core
    match bottomOf c.t.vol k.deques with
    | none => .go (c.put d 0)
    | some (w, l) =>
      let n := rangeHi w - rangeLo w
      if n < 2 then .go (c.put d 0)
      else
        let m := rangeLo w + n / 2
        .go ({ c with s := c.s.setCore c.core { k with deques := l ++ [(c.t.vol, mkRange m (rangeHi w))] } }.put d (mkRange (rangeLo w) m))

/-- `stealr`: a request to the victim core. -/
def execStealr (h : Hdr) (d a : GOp) (s : State) : Host.Outcome State Fault Refusal :=
  issue { h := h, word := wordOf (.stealr h d a), src := [a], dst := [d], long := true } s fun c =>
    let w := c.g a
    if fld w 63 11 != 0 then .go (c.resultFrom d (fld w 10 0) 0)
    else
      let (id, c1) := c.op (c.dest d)
      .go { c1 with s := c1.s.sendMsg c.core c.slot (fld w 10 0) (.steal c.t.vol id) }

/-- A steal reaches its victim: the volume's top entry gives its low half. -/
def execStealPerform (msg : Nat) (s : State) : Host.Outcome State Fault Refusal :=
  match s.fab.msgs.find? (·.id == msg) with
  | none => .next s
  | some m => match m.kind with
    | .steal vol op =>
      if s.clk.frame < m.due then .next s
      else
        let s1 : State := { s with fab := { s.fab with msgs := s.fab.msgs.filter (·.id != msg) } }
        let k := s1.core m.dst
        let back := s1.clk.frame + hops m.core m.dst + 1
        match k.deques.find? (·.1 == vol) with
        | none => .next (s1.replyOp m.core m.slot op back 0)
        | some (_, w) =>
          let mid := rangeLo w + (rangeHi w - rangeLo w + 1) / 2
          let l := if rangeHi w ≤ mid then removeFirst (·.1 == vol) k.deques
                   else replaceBy (·.1 == vol) (vol, mkRange mid (rangeHi w)) k.deques
          let s2 := s1.setCore m.dst { k with deques := l }
          .next (State.replyOp (if (l.any (·.1 == vol)) then s2 else s2.roomFreed) m.core m.slot op back (mkRange (rangeLo w) mid))
    | _ => .next s

/-! ## post (R175) -/

/-- `post`: its destination decides the status, which a malformed one returns by way of the poster's own core (assumption 72). -/
def execPost (h : Hdr) (d a b : GOp) (tag : BitVec 16) (s : State) : Host.Outcome State Fault Refusal :=
  issue { h := h, word := wordOf (.post h d a b tag), src := [a, b], dst := [d], self := true, rel := true, chg := true, long := true } s fun c =>
    let w := c.g a
    let (id, c1) := c.op (c.dest d)
    let byRole := w.getLsbD 31
    let role := fld w 26 24
    let shape := fld w 63 32 != 0 || fld w 30 27 != 0 || fld w 15 11 != 0 ||
      (byRole && (c.t.free || c.slot == 63 || decide (c.s.coreCount c.t ≤ role) || fld w 10 0 != 0))
    let dst := if shape then c.core
      else if byRole then ((c.s.gathering c.t.vol c.t.gidx).bind (·.cores[role]?)).getD c.core
      else fld w 10 0
    let msg := ofN (tag.toNat * 2 ^ 48 + (c.g b).toNat % 2 ^ 44)
    .go { c1 with s := c1.s.sendMsg c.core c.slot dst (.post c.t.vol (fld w 23 16) byRole msg c.t.gidx (if shape then 2 else 0) id) }

/-- An engine's message enters the inbox when the volume's reservation has room (R174); else it waits, and no later message to
the lane passes it. -/
def State.deliverEng (s : State) (m : EngMsg) : State :=
  let first := !(s.fab.eng.any fun x => decide (x.id < m.id) && x.core == m.core && x.vol == m.vol && x.lane == m.lane)
  let room := if m.vol == 0 then (s.core m.core).inbox.countP (·.vol == 0) < 16
    else s.inboxUsed m.vol m.core < ((s.volume m.vol).map Volume.inboxN).getD 0
  if first && room then
    State.deliver { s with fab := { s.fab with eng := s.fab.eng.filter (·.id != m.id) } } m.core
      { vol := m.vol, lane := m.lane, src := m.src, from_ := m.core, frame := s.clk.frame, word := m.word, held := m.held }
  else { s with fab := { s.fab with eng := mapIf (·.id == m.id) (fun x => { x with held := true }) s.fab.eng } }

/-- The engines' messages to one volume's inbox on a core. -/
def State.engFor (s : State) (core vol : Nat) : List EngMsg := s.fab.eng.filter fun x => x.core == core && x.vol == vol

/-- Those that wait go before a post to it. -/
def State.heldFirst (s : State) (core vol : Nat) : State := (s.engFor core vol).foldl State.deliverEng s

/-- The status of a post that is well-formed, as its core finds it (R175): 0 delivered, 1 no room, 2 no such inbox or lane,
3 the core is fenced. -/
def State.postStatus (s : State) (m : Msg) (vol lane : Nat) (byRole : Bool) (gidx : Nat) : Nat :=
  let laneHeld := s.circ.gatherings.any fun g => g.vol == vol && g.cores.contains m.dst && (!byRole || g.gidx == gidx) &&
    (g.members.any fun x => x.lane == lane && g.cores[x.role]? == some m.dst)
  if s.coreFenced m.dst then 3
  else if !(lane ≤ 62 || lane == 255) || !s.hasInbox vol m.dst then 2
  else if lane ≤ 62 && !laneHeld then 2
  else if ((s.volume vol).map Volume.inboxN).getD 0 ≤ s.inboxUsed vol m.dst then 1
  else 0

/-- A post arrives, after the engines' messages that wait for its inbox (R174): the status of R175, the message, and the reply. -/
def execPostArrive (msg : Nat) (s : State) : Host.Outcome State Fault Refusal :=
  match s.fab.msgs.find? (·.id == msg) with
  | none => .next s
  | some m => match m.kind with
    | .post vol lane byRole word gidx bad op =>
      if s.clk.frame < m.due then .next s
      else
        let s0 : State := { s with fab := { s.fab with msgs := s.fab.msgs.filter (·.id != msg) } }
        let s1 := s0.heldFirst m.dst vol
        let back := s1.clk.frame + hops m.core m.dst + 1
        let st : Nat := if bad != 0 then 2 else s1.postStatus m vol lane byRole gidx
        let s2 := if st == 0 then
            s1.deliver m.dst { vol := vol, lane := lane, src := 0, from_ := m.core, frame := s1.clk.frame, word := word }
          else s1
        .next (s2.replyOp m.core m.slot op back (ofN st))
    | _ => .next s

/-! ## Arrivals of port words and credits (R162, R176) -/

/-- Port words of one arrival frame: lower sender role first (R164). -/
def srcRank : QSrc → Nat
  | .role r => r
  | .qa => 256 | .qc => 257

def insertWord (w : PortWord) : List PortWord → List PortWord
  | [] => [w]
  | x :: r => if x.frame == w.frame && decide (srcRank w.q.src < srcRank x.q.src) then w :: x :: r else x :: insertWord w r

/-- A port word arrives at its core: into its queue, or into the returns queue; words of a retired gathering are gone (R170). -/
def execPortWordArrive (msg : Nat) (s : State) : Host.Outcome State Fault Refusal :=
  match s.fab.msgs.find? (·.id == msg) with
  | none => .next s
  | some m => match m.kind with
    | .word q v =>
      if s.clk.frame < m.due then .next s
      else
        let s1 : State := { s with fab := { s.fab with msgs := s.fab.msgs.filter (·.id != msg) } }
        if (s1.gathering q.vol q.gidx).isNone then .next s1
        else
          let k := s1.core m.dst
          let w : PortWord := { q := q, val := v, frame := s1.clk.frame }
          .next (s1.setCore m.dst (if k.away q.vol q.gidx then { k with returns := k.returns ++ [.word w] }
            else { k with words := insertWord w k.words }))
    | _ => .next s

/-- A credit returns to the sender of its queue (R163). -/
def execCreditReturn (msg : Nat) (s : State) : Host.Outcome State Fault Refusal :=
  match s.fab.msgs.find? (·.id == msg) with
  | none => .next s
  | some m => match m.kind with
    | .credit q =>
      if s.clk.frame < m.due then .next s
      else .next (State.spend { s with fab := { s.fab with msgs := s.fab.msgs.filter (·.id != msg) } } q (-1))
    | _ => .next s

/-- An engine's message is delivered if it can be, and the next ones of its inbox are tried (R174). -/
def execEngineMessageDeliver (id : Nat) (s : State) : Host.Outcome State Fault Refusal :=
  match s.fab.eng.find? (·.id == id) with
  | none => .next s
  | some m =>
    let s1 := s.deliverEng m
    if s1.fab.eng.any (·.id == id) then .next s1
    else .next ((s1.engFor m.core m.vol).foldl (fun s x => s.pushNew (.engineMessageDeliver x.id)) s1)

/-- A fault or pre-emption message reaches slot 63's reserved entries, or a curator (R41, R71, R174). -/
def execFaultMessageDeliver (id : Nat) (s : State) : Host.Outcome State Fault Refusal :=
  match s.fab.sup.find? (·.id == id) with
  | none => .next s
  | some m =>
    let s1 : State := { s with fab := { s.fab with sup := s.fab.sup.filter (·.id != id) } }
    match m.dst with
    | none => .next { s1 with fab := { s1.fab with curator := s1.fab.curator ++ [m] } }
    | some k =>
      if (s.core k).inbox.countP (·.vol == 0) < 16 then
        let c := s1.core k
        let x : InMsg := { vol := 0, lane := 63, src := m.src, from_ := m.from_, frame := s1.clk.frame, word := m.word }
        .next (s1.setCore k { c with inbox := insertMsg x c.inbox })
      else .next s

/-- A barrier arrival is counted (R364). -/
def execBarrierArrival (msg : Nat) (s : State) : Host.Outcome State Fault Refusal :=
  match s.fab.msgs.find? (·.id == msg) with
  | none => .next s
  | some m => match m.kind with
    | .bar vol gidx role lane b =>
      if s.clk.frame < m.due then .next s
      else
        let s1 : State := { s with fab := { s.fab with msgs := s.fab.msgs.filter (·.id != msg) } }
        .next ((s1.setMember vol gidx role lane fun x => { x with seen := bumpAt x.seen b }).pokeBarriers vol gidx)
    | _ => .next s

/-- A decrement reaches its hold (R367, R368). -/
def execHoldDecrement (msg : Nat) (s : State) : Host.Outcome State Fault Refusal :=
  match s.fab.msgs.find? (·.id == msg) with
  | none => .next s
  | some m => match m.kind with
    | .dec vol gen idx amount _ gidx handle =>
      if s.clk.frame < m.due then .next s
      else
        let s1 : State := { s with fab := { s.fab with msgs := s.fab.msgs.filter (·.id != msg) } }
        let bad (code : Nat) : State := s1.errata vol 4 0 m.core m.slot gidx
          [handle, ofN (0x41 * 2 ^ 56 + code * 2 ^ 48 + amount % 2 ^ 32), ofN (m.core * 2 ^ 16 + m.slot)]
        match s1.liveHold vol m.dst gen idx with
        | none => .next (bad 0x71)
        | some h =>
          if h.count < amount then .next (bad 0x72)
          else if h.count == amount then .next (s1.holdZero m.dst h)
          else
            let k := s1.core m.dst
            .next (s1.setCore m.dst { k with holds := mapIf (·.idx == idx) (fun x => { x with count := x.count - amount }) k.holds })
    | _ => .next s

/-! ## Launches (R352 to R354, R362) -/

/-- `launch`: the record goes to the circulation unit. -/
def execLaunch (h : Hdr) (d a b : GOp) (s : State) : Host.Outcome State Fault Refusal :=
  issue { h := h, word := wordOf (.launch h d a b), src := [a, b], dst := [d], long := true, access := true } s fun c =>
    match c.enginePtr (c.g a) 256 (rR + rE) 64 with
    | .error e => .fault e
    | .ok _ => match (if b == .z then Except.ok (0, Loc.buf 0) else c.enginePtr (c.g b) 8 (rW + rF + rE) 8) with
      | .error e => .fault e
      | .ok _ =>
        let (r, c1) := c.request d .launch (c.g a) (if b == .z then none else some (c.g b)) 0
        let s1 : State := { c1.s with circ := { c1.s.circ with reqs := c1.s.circ.reqs ++ [r] } }
        .go { c1 with s := s1.push (.launchAccept r.id) }

/-- A VA lies in a present mapping of a space, and not in the range of strand areas. -/
def State.mapped (s : State) (vol va : Nat) : Bool :=
  va < Config.areaVA && (match s.walk vol va with | .leaf _ => true | _ => false)

/-- The lowest-numbered doubleword of a record that fails R352, if any. `asVol` names the volume whose space it is in. -/
def State.badRecord (s : State) (asVol : Nat) (r : List Word) : Option Nat :=
  let w := fun i => r.getD i 0
  let va (i align : Nat) (opt : Bool) : Bool := (opt && w i == 0) || (fld (w i) 63 48 == 0 && (w i).toNat % align == 0 && s.mapped asVol (w i).toNat)
  let args := fld (w 12) 3 0
  let col := shapeCol (w 1)
  let pairsBad := (List.range 31).any fun k => bitN (shapePairs (w 1)) k && decide (shapeSlots (w 1) ≤ 2 * k + 1)
  let tmpl : Bool := match s.readRec 0 (.va asVol (fld (w 4) 47 0)) 16 with
    | .ok ds => (List.range 8).all fun i =>
      let d : Desc := BitVec.ofNat 128 ((ds.getD (2 * i) 0).toNat + (ds.getD (2 * i + 1) 0).toNat * 2 ^ 64)
      let e := descBase d + descLimit d
      descWf d && (match descType d with
        | 2 => decide (e ≤ carW (w 3)) | 3 => decide (e ≤ carA (w 3)) | 5 => decide (e ≤ carRoom (w 3)) | _ => true)
    | .error _ => false
  let ok (i : Nat) : Bool := match i with
    | 0 => (s.codePoint asVol (w 0)).isSome
    | 1 => fld (w 1) 63 56 == 0 && decide (col ≤ 3) && decide ((if col == 0 then 1 else 2 ^ col) ≤ shapeCores (w 1)) && !pairsBad &&
        decide (shapeSlots (w 1) * (shapeWgr (w 1) + 1) ≤ 252) && decide (1 ≤ shapeSlots (w 1)) && decide (shapeNbar (w 1) ≤ 31)
    | 2 => fld (w 2) 63 24 == 0
    | 3 => fld (w 3) 63 45 == 0 && fld (w 3) 31 25 == 0 && fld (w 3) 15 9 == 0
    | 4 => va 4 64 false && tmpl
    | 5 => va 5 1 true
    | 6 => va 6 1 true
    | 7 => fld (w 7) 62 11 == 0
    | 8 => va 8 64 false
    | 9 => va 9 65536 false
    | 10 => (w 10).toNat % 65536 == 0 && decide ((w 9).toNat + (w 10).toNat ≤ Config.areaVA)
    | 11 => va 11 1 (args == 0) && (args == 0 || s.mapped asVol ((w 11).toNat + 8 * args - 1))
    | 12 => fld (w 12) 63 4 == 0 && decide ((w 12).toNat ≤ 8)
    | 13 => fld (w 13) 31 23 == 0 && fld (w 13) 7 5 == 0
    | 14 => fld (w 14) 63 44 == 0
    | i => w i == 0
  (List.range 32).find? fun i => !ok i

/-- A shape that can never fit one cluster (R354, reason 1), or a port count above 16 (R171), or more than 64 range-deque entries, for which the
spec names no status (R351; DESIGN CHOICE, assumption 99). -/
def shapeNever (s : State) (r : List Word) : Bool :=
  let w := fun i => r.getD i 0
  let n := shapeCores (w 1) * shapeSlots (w 1)
  let usable := (List.range Config.clusters).any fun k =>
    decide (shapeCores (w 1) ≤ ((List.range 8).filter fun i => !s.coreFenced (8 * k + i)).length)
  !usable || decide (240 < fld (w 13) 15 8) || decide (16 < fld (w 13) 4 0) || decide (64 < fld (w 13) 22 16) || decide (16 < shapeNbar (w 1)) || decide (Config.roomSize < carRoom (w 3)) ||
  decide (Config.aSize < carA (w 3)) || decide (Config.wSize < carW (w 3)) || decide (63 < shapeSlots (w 1)) || (shapeDet (w 1) && decide (256 < n))

/-- Pending-launch entries in use: volumes not wholly placed, and entries reserved by volumes for their strands' launches. -/
def State.pending (s : State) : Nat := (s.circ.volumes.filter fun v => v.next < v.count && v.parent.isNone).length +
  (s.circ.volumes.map Volume.launchN).foldl (· + ·) 0

/-- Launches of a volume's strands whose records still hold an entry. -/
def State.launched (s : State) (vol : Nat) : Nat := (s.circ.volumes.filter fun v => v.parent == some vol && v.next < v.count).length

/-- Identifiers of volumes and of their address spaces, those included whose work requests go on after their end (R391). -/
def State.volumeIds (s : State) : List Nat := (s.circ.volumes.flatMap fun v => [v.id, v.space]) ++ s.circ.ghosts.flatMap fun g => [g.1, g.2]

/-- The lowest free volume identifier, from 1 to 0xFFFE (R354; assumption 8). -/
def State.freeVolume (s : State) : Option Nat :=
  let ids := s.volumeIds
  ((List.range (ids.length + 1)).map (· + 1)).find? fun i => !ids.contains i && i ≤ 0xFFFE

/-- Bytes of a cluster's stack slice that a gathering's saves, areas and returns queues take (R171, R356). -/
def sliceNeed (v : Volume) : Nat :=
  let C := shapeCores (v.dw 1)
  let S := shapeSlots (v.dw 1)
  let P := popN 31 (shapePairs (v.dw 1))
  C * (768 * 1024 + S * Config.areaSize + 16 * (S * C * v.portN + 2 * P * v.portN + v.inboxN))

/-- Room in the stacks that placed gatherings have taken: of one cluster's slice, of all. -/
def State.placedIn (s : State) (k : Nat) : Nat :=
  ((s.circ.gatherings.filter (·.cluster == k)).map fun g => ((s.volume g.vol).map sliceNeed).getD 0).foldl (· + ·) 0
def State.placedBytes (s : State) : Nat :=
  (s.circ.gatherings.map fun g => ((s.volume g.vol).map sliceNeed).getD 0).foldl (· + ·) 0

/-- The slip pools of all volumes, and the part of them in one slice: they take the room that placements leave from the last slice
down (R354; assumption 8). -/
def State.poolBytes (s : State) : Nat := (s.circ.volumes.map Volume.runlist).foldl (· + ·) 0 * Config.areaSize
def State.poolIn (s : State) (k : Nat) : Nat :=
  ((List.range (Config.clusters - k)).foldl (fun (x : Nat × Nat) i =>
    if x.1 == 0 then (0, 0)
    else
      let n := Nat.min x.1 (Config.sliceSize - s.placedIn (Config.clusters - 1 - i))
      (x.1 - n, n)) (s.poolBytes, 0)).2

/-- The launch record of a host's volume declares the code arena of its space (R349, R328); a strand's launch takes its launcher's
(R353; assumption 65). -/
def State.declareArena (s : State) (own : Option Nat) (space : Nat) (r : List Word) : State :=
  if own.isSome || r.getD 10 0 == 0 || (s.circ.volumes.any (·.space == space)) then s
  else s.setSpace { s.space space with arena := some ((r.getD 9 0).toNat, (r.getD 10 0).toNat) }

/-- Admission (R354): the status of R362, and the state with the volume admitted. `own` is the launching volume, if a strand
launched; `space` the address space; `want` an identifier the host has set up. -/
def State.grantLaunch (s : State) (r : List Word) (own : Option Nat) (asVol : Nat) (want : Option Nat) (sync : Option Loc) : Word × State :=
  match s.badRecord asVol r with
  | some i => (ofN (i * 2 ^ 8 + 2), s)
  | none =>
    if shapeNever s r then (ofN (1 * 2 ^ 8 + 3), s)
    else
      let full := match own with
        | some v => decide (((s.volume v).map Volume.launchN).getD 0 ≤ s.launched v)
        | none => decide (4096 ≤ s.pending)
      if full then (1, s)
      else
        let w13 := r.getD 13 0
        if Config.stacksEnd < s.poolBytes + fld w13 63 32 * Config.areaSize + s.placedBytes then (ofN (2 * 2 ^ 8 + 3), s)
        else if 4096 < s.pending + fld (r.getD 14 0) 43 32 + (if own.isNone then 1 else 0) then (ofN (3 * 2 ^ 8 + 3), s)
        else
          let id := match want with
            | some v => if !s.volumeIds.contains v && 1 ≤ v && v ≤ 0xFFFE then some v else s.freeVolume
            | none => s.freeVolume
          match id with
          | none => (ofN (4 * 2 ^ 8 + 3), s)
          | some v =>
            let vol : Volume := { id := v, space := (s.spaceOf asVol).id, rec_ := r, parent := own, sync := sync }
            let s0 := s.declareArena own vol.space r
            let s1 : State := { s0 with
              circ := { s0.circ with volumes := s0.circ.volumes ++ [vol] },
              net := { s0.net with doneMsg := s0.net.doneMsg.filter (·.1 != v), gotPk := s0.net.gotPk.filter (·.1 != v) } }
            (ofN (v * 2 ^ 16), s1.pushNew .placement)

/-- The sync word that a launch names. -/
def Req.syncLoc (r : Req) : Option Loc :=
  r.b.bind fun w => match r.iss.place w 8 (rW + rF + rE) 8 with
    | .ok (_, l) => some l
    | .error _ => none

/-- The fault of a launch whose record cannot be read: a fenced memory, a peer, or the translation (R240, R393, R411). -/
def launchFault (code va : Nat) : FaultInfo :=
  if code == 0x4A then { cls := 5, code := 3, arg := va }
  else if code == 0x49 then { cls := 3, code := 0x38, arg := va, access := 6, size := 8 }
  else { cls := 2, code := code - 0x40, arg := va, access := 6, size := 8 }

/-- The circulation unit takes a launch request (R353, R362). -/
def execLaunchAccept (req : Nat) (s : State) : Host.Outcome State Fault Refusal :=
  match s.circ.reqs.find? (·.id == req) with
  | none => .next s
  | some r =>
    if !s.reqReady r then .next (s.notReady r)
    else if !(s.isReady .circ 0 || s.isFenced .circ 0) then .next s
    else
      let s1 : State := { s with circ := { s.circ with reqs := s.circ.reqs.filter (·.id != req) } }
      let k := clusterOf r.iss.core
      if s.isFenced .circ 0 then .next ((s1.opDone r.iss.uid req 0 0 (some { cls := 5, code := 3 })).kickReqs k)
      else match r.iss.place r.a 256 (rR + rE) 64 with
      | .error _ => .next (s1.status r.iss req 2)
      | .ok (_, l) =>
        match s1.reqRecord k r l 32 with
        | .ask as => .next (s.askRecord k r as)
        | .bad c => .next ((s1.opDone r.iss.uid req 0 0 (some (launchFault c l.shown))).kickReqs k)
        | .words ws =>
          let (st, s2) := s1.grantLaunch ws (some r.iss.vol) r.iss.vol none r.syncLoc
          .next (s2.status r.iss req st)

/-! ## Placement (R355 to R359) -/

/-- Free user slots of a core. -/
def State.freeSlots (s : State) (core : Nat) : List Nat := (List.range 63).filter fun i => (s.slotOwner core i).isNone && (s.strand core i).isNone

/-- Slots for lanes 0 upward, each above the one before it: a pair takes an even slot and the one above it (R90, R356). -/
def pickSlots (pairs n : Nat) : Nat → Nat → List Nat → Option (List Nat)
  | 0, _, _ => some []
  | fuel + 1, lane, free =>
    if n ≤ lane then some []
    else if lane % 2 == 0 && bitN pairs (lane / 2) then
      match free.find? fun e => e % 2 == 0 && free.contains (e + 1) with
      | none => none
      | some e => (pickSlots pairs n fuel (lane + 2) (free.filter fun x => decide (e + 1 < x))).map fun r => e :: (e + 1) :: r
    else match free with
      | [] => none
      | e :: r => (pickSlots pairs n fuel (lane + 1) r).map (e :: ·)

/-- The lowest offset at which a region of `n` bytes fits among regions in use. -/
def fitRegion (total n : Nat) (used : List (Nat × Nat)) : Option Nat :=
  if n == 0 then some 0
  else (0 :: used.map fun u => u.1 + u.2).foldl (fun (b : Option Nat) o =>
    if o + n ≤ total && !(used.any fun u => decide (o < u.1 + u.2) && decide (u.1 < o + n) && u.2 != 0) then
      match b with
      | some x => if o < x then some o else b
      | none => some o
    else b) none

/-- Regions of a buffer that gatherings hold on a core. -/
def State.regions (s : State) (core : Nat) (abuf : Bool) : List (Nat × Nat) :=
  s.circ.gatherings.filterMap fun g =>
    if s.isOut core g then none
    else (g.cores.zipIdx.find? fun c => c.1 == core).map fun c =>
      if abuf then (g.aOff.getD c.2 0, carA g.carrel) else (g.wOff.getD c.2 0, carW g.carrel)

/-- Reservations a core holds for volumes: inbox entries and deque entries. -/
def State.coreVolumes (s : State) (core : Nat) : List Nat :=
  ((s.circ.gatherings.filter fun g => g.cores.contains core).map (·.vol) ++ (s.circ.lasting.filter (·.1 == core)).map (·.2)).eraseDups

/-- Volumes whose deque reservations a core holds: those placed on it, and those that have entries there (R370). -/
def State.dequeVolumes (s : State) (core : Nat) : List Nat := (s.coreVolumes core ++ (s.core core).deques.map (·.1)).eraseDups

/-- The retired strand of a member, wherever it is now, if it did not stop. -/
def State.retiree (s : State) (g : Gathering) (m : Member) : Option ((Nat × Nat) × Strand) :=
  s.strands.find? fun e => e.2.vol == g.vol && e.2.gidx == g.gidx && !e.2.free && e.2.role == m.role && e.2.lane == m.lane &&
    e.2.run == .parked .retired

/-- The successor header of a retiring gathering; granules of the window that each of its strands' successors gets (R373). -/
def Gathering.header (g : Gathering) (i : Nat) : Word := g.block.getD i 0
def Gathering.newGran (g : Gathering) : Nat := shapeWgr (g.header 0) + 1

/-- Granules that a member's successor needs beside those of its predecessor. -/
def State.granNeed (s : State) (g : Gathering) (m : Member) : Nat := g.newGran - ((s.retiree g m).map fun t => t.2.gran.length).getD 0

/-- Granules of a core that gatherings which have retired wait for: no placement takes them (R375). -/
def State.granOwed (s : State) (core : Nat) : Nat :=
  ((s.circ.gatherings.filter fun g => g.succ.isSome && !(g.members.any (·.st == .live))).flatMap fun g =>
    (g.members.filter fun m => g.cores[m.role]? == some core).map (s.granNeed g)).foldl (· + ·) 0

/-- A core may be given to a gathering: it has reported with its curator and slice, and it is not fenced (R356, R416, R417). A resume that
is asked for waits for its room (R363). -/
def State.coreOpen (s : State) (core : Nat) : Bool :=
  !s.coreFenced core && s.isReady .core core && s.isReady .curator (clusterOf core) && s.isReady .slice (clusterOf core)

/-- A core can take a gathering of this volume: its slots and region offsets (R356). -/
def State.coreFits (s : State) (v : Volume) (core : Nat) : Option (List Nat × Nat × Nat) :=
  if !s.coreOpen core then none
  else
    let sum (vols : List Nat) (f : Volume → Nat) : Nat :=
      ((if vols.contains v.id then vols else v.id :: vols).map fun x => ((s.volume x).map f).getD 0).foldl (· + ·) 0
    if 240 < sum (s.coreVolumes core) Volume.inboxN || 64 < sum (s.dequeVolumes core) Volume.dequeN then none
    else if (s.freeGran core).length < shapeSlots (v.dw 1) * (shapeWgr (v.dw 1) + 1) + s.granOwed core then none
    else match pickSlots (shapePairs (v.dw 1)) (shapeSlots (v.dw 1)) 64 0 (s.freeSlots core),
        fitRegion Config.wSize (carW (v.dw 3)) (s.regions core false), fitRegion Config.aSize (carA (v.dw 3)) (s.regions core true) with
      | some sl, some w, some a => some (sl, w, a)
      | _, _, _ => none

/-- Entries of a cluster's wait pool that strands without a reserved entry hold now (R185, R189). -/
def State.unreservedWaits (s : State) (k : Nat) : Nat :=
  s.flights.countP fun f => f.joined.isSome && !(f.bound && s.det f.vol) && ((f.parts[f.k]?.bind (·.key)).map ownerCluster) == some k

/-- The cores of a cluster that a gathering takes, with their slots and region offsets, and its room offset. -/
def State.clusterFits (s : State) (v : Volume) (k : Nat) : Option (List (Nat × List Nat × Nat × Nat) × Nat) :=
  let here := s.circ.gatherings.filter (·.cluster == k)
  let fits := (List.range 8).filterMap fun i => (s.coreFits v (8 * k + i)).map fun x => (8 * k + i, x)
  let C := shapeCores (v.dw 1)
  let bars := (here.map fun g => shapeNbar g.shape).foldl (· + ·) 0
  let det := (here.map fun g => if ((s.volume g.vol).map Volume.det).getD false then g.members.length else 0).foldl (· + ·) 0
  if fits.length < C || 16 < bars + shapeNbar (v.dw 1) || (v.det && 256 < det + s.unreservedWaits k + C * shapeSlots (v.dw 1)) ||
    Config.sliceSize < s.placedIn k + s.poolIn k + sliceNeed v then none
  else (fitRegion Config.roomSize (carRoom (v.dw 3)) (here.map fun g => (g.roomOff, carRoom g.carrel))).map fun r => (fits.take C, r)

/-- Add the start of the allotted region to a template descriptor (R358). -/
def rebase (w a room : Nat) (d : Desc) : Desc :=
  match descType d with
  | 2 => mkDesc 2 (descRights d) (descBase d + w) (descLimit d)
  | 3 => mkDesc 3 (descRights d) (descBase d + a) (descLimit d)
  | 5 => mkDesc 5 (descRights d) (descBase d + room) (descLimit d)
  | _ => d

/-- The rebased template of a volume, with s0 for an accession. -/
def State.template (s : State) (v : Volume) (cluster w a room : Nat) (s0 : Desc) : List Desc :=
  match s.readRec cluster (.va v.id (fld (v.dw 4) 47 0)) 16 with
  | .ok ds => s0 :: ((List.range 7).map fun j =>
      let i := j + 1
      rebase w a room (BitVec.ofNat 128 ((ds.getD (2 * i) 0).toNat + (ds.getD (2 * i + 1) 0).toNat * 2 ^ 64)))
  | .error _ => s0 :: List.replicate 7 0

/-- Clear a core's streams, pattern register and tiles (R253, R281, R290, R358). -/
def State.clearCore (s : State) (core : Nat) : State :=
  let c := s.core core
  s.setCore core { c with streams := List.replicate 4 {}, pat := (0, 0), tiles := List.replicate 16 {}, cbuf := [] }

/-- Start one bound strand (R81, R358): its first turn is in the next frame, as every other member's is (R22). -/
def State.startBound (s : State) (v : Volume) (g : Gathering) (core : Nat) (m : Member) (pc : Nat) (acc : Nat) (sregs : List Desc)
    (args : List Word) : State :=
  let (pa, s1) := s.allotArea g.cluster v.id
  let (uid, s2) := s1.fresh
  let gr := (s2.freeGran core).take (shapeWgr g.shape + 1)
  let t := (newStrand uid v.id g.gidx false m.lane m.role (shapePrio (v.dw 1)) core (shapeWgr g.shape) pc (Config.areaVA + pa) 0 v.det sregs (some acc)).args args
  let s3 := s2.wrWords pa (slipWords t pc 1 0 0 0 0)
  let s4 := s3.wrWords (pa + 64) (sregs.flatMap fun d => [descLow d, descHigh d])
  (((s4.setStrand core m.slot { t with gran := gr, run := .waiting 0 }).endPairs core gr).bumpExec v.id (some acc) 1).setMember v.id g.gidx m.role m.lane fun x => { x with slip := Config.areaVA + pa }

/-- Place the next gathering of a volume on a cluster (R358). An argument block that can no longer be read gives zeros (DESIGN CHOICE,
assumption 91). -/
def State.place (s : State) (v : Volume) (k : Nat) (fits : List (Nat × List Nat × Nat × Nat)) (room : Nat) : State :=
  match s.codePoint v.id (v.dw 0) with
  | none => s
  | some (i, off) =>
    let e := (s.spaceOf v.id).entry i
    let members := fits.zipIdx.flatMap fun f => f.1.2.1.zipIdx.map fun sl => ({ role := f.2, lane := sl.2, slot := sl.1, slip := 0 } : Member)
    let g : Gathering := {
      vol := v.id, gidx := v.next, cluster := k, cores := fits.map (·.1), members := members, shape := v.dw 1, carrel := v.dw 3,
      phases := List.replicate (shapeNbar (v.dw 1)) 0, wOff := fits.map (·.2.2.1), aOff := fits.map (·.2.2.2), roomOff := room }
    let s1 : State := { s with circ := { s.circ with gatherings := s.circ.gatherings ++ [g] } }
    let s2 := s1.setVolume { v with next := v.next + 1, tries := 0, reserved := none }
    let s3 := s2.zeroRange (roomKey k room) (carRoom (v.dw 3))
    let n := fld (v.dw 12) 3 0
    let args := match s3.readRec k (.va v.id (fld (v.dw 11) 47 0)) n with
      | .ok ws => if n == 0 then [] else ws
      | .error _ => List.replicate n 0
    let s4 := fits.zipIdx.foldl (fun (s : State) f =>
      let core := f.1.1
      let (w, a) := (f.1.2.2.1, f.1.2.2.2)
      let s4 := ((s.zeroRange (wKey core w) (carW (v.dw 3))).zeroRange (aKey core a) (carA (v.dw 3))).clearCore core
      let s5 := s4.dropCode core e.base e.size
      let sregs := s5.template v k w a room (codeDesc e)
      (members.filter (·.role == f.2)).foldl (fun s m => s.startBound v g core m (e.base + 8 * off) i sregs args) s5) s3
    s4.serveAll

/-- Volumes in placement order: priority from 7 down, then acceptance (R355). -/
def State.placeOrder (s : State) : List Nat :=
  ((List.range 8).map (7 - ·)).flatMap fun p => (s.circ.volumes.filter fun v => shapePrio (v.dw 1) == p && v.next < v.count).map (·.id)

/-- Try to place a volume's next gathering: the lowest cluster that fits and is not held for another (R356, R357). -/
def State.tryPlace (s : State) (id : Nat) : Option State :=
  match s.volume id with
  | none => none
  | some v =>
    if v.count ≤ v.next then none
    else
      let held := (s.circ.volumes.filter (·.id != id)).filterMap (·.reserved)
      let ks := match v.reserved with
        | some k => [k]
        | none => (List.range Config.clusters).filter fun k => !held.contains k
      (ks.findSome? fun k => (s.clusterFits v k).map fun f => (k, f)).map fun (k, f) => s.place v k f.1 f.2

/-- One pass over the volumes; passes repeat while one places something. -/
def placePass : Nat → State → List Nat → State
  | 0, s, _ => s
  | fuel + 1, s, ids =>
    let r := ids.foldl (fun (x : State × Bool) id => match x.1.tryPlace id with
      | some s' => (s', true)
      | none => x) (s, false)
    if r.2 then placePass fuel r.1 ids else r.1

/-- A cluster is reserved: of what each of its cores has in use, all that frees is held (R357). -/
def State.closeCluster (s : State) (k : Nat) : State :=
  ((List.range 8).map (8 * k + ·)).foldl (fun (s : State) i =>
    let free := s.freeGran i
    let slots := s.freeSlots i
    s.setCore i { s.core i with closed := {
      slots := (List.range 63).filter fun n => !slots.contains n,
      gran := ((List.range 252).map (· + 4)).filter fun n => !free.contains n,
      w := s.regions i false, a := s.regions i true } }) s

/-- The first unplaced gathering has failed once more; at 16 a cluster is reserved for it (R357). -/
def State.countFail (s : State) : State :=
  match s.placeOrder.head?.bind s.volume with
  | none => s
  | some v =>
    if 15 ≤ v.tries && v.reserved.isNone then
      let taken := s.circ.volumes.filterMap (·.reserved)
      let free (k : Nat) : Nat := (((List.range 8).filter fun i => s.coreOpen (8 * k + i)).map fun i => (s.freeSlots (8 * k + i)).length).foldl (· + ·) 0
      let best := ((List.range Config.clusters).filter fun k => !taken.contains k && !s.clusterFenced k).foldl
        (fun (b : Option (Nat × Nat)) k => match b with
          | none => some (k, free k)
          | some (_, n) => if n < free k then some (k, free k) else b) none
      let s1 := s.setVolume { v with tries := v.tries + 1, reserved := best.map (·.1) }
      (best.map (·.1)).elim s1 s1.closeCluster
    else s.setVolume { v with tries := v.tries + 1 }

/-- `PLACEMENT`. -/
def execPlacement (s : State) : Host.Outcome State Fault Refusal :=
  let ids := s.placeOrder
  if !s.isReady .circ 0 || s.isFenced .circ 0 then .next s
  else .next (placePass ((ids.map fun i => ((s.volume i).map Volume.count).getD 0).foldl (· + ·) 0 + 1) s ids).countFail

/-! ## Pre-emption (R363, R88, R176) -/

/-- `pmt`. -/
def execPmt (h : Hdr) (d a : GOp) (s : State) : Host.Outcome State Fault Refusal :=
  issue { h := h, word := wordOf (.pmt h d a), src := [a], dst := [d], long := true } s fun c =>
    let w := c.g a
    if fld w 62 11 != 0 then .go (c.resultFrom d (fld w 10 0) 2)
    else
      let (id, c1) := c.op (c.dest d)
      .go { c1 with s := c1.s.sendMsg c.core c.slot (fld w 10 0) (if w.getLsbD 63 then .resume id else .preempt id) }

/-- User strands of a core, in slot order. -/
def State.users (s : State) (core : Nat) : List (Nat × Strand) :=
  (List.range 63).filterMap fun i => (s.strand core i).map fun t => (i, t)

/-- Start a pre-emption: its status (R363). Collation ends at the strands that it stops (R152). -/
def State.startPreempt (s : State) (core : Nat) (by_ : Option Nat) : Nat × State :=
  if 2048 ≤ core || s.coreFenced core then (2, s)
  else if (s.core core).pre != .none then (1, s)
  else if (s.users core).isEmpty then (3, s)
  else
    let s1 := (s.users core).foldl (fun s e => ((s.strand core e.1).map s.endCollation).getD s) s
    (0, (s1.setCore core { s1.core core with pre := .saving by_ }).pushNew (.preemptSave core))

def State.startResume (s : State) (core : Nat) (by_ : Option Nat) : Nat × State :=
  if 2048 ≤ core || s.coreFenced core then (2, s)
  else if (s.core core).pre != .out then (1, s)
  else (0, (s.setCore core { s.core core with pre := .resuming by_ }).pushNew (.coreResume core))

/-- A pre-emption request reaches its core: it enters slot 63's inbox there (R71), and the pre-emption starts (R363). -/
def State.preemptAsked (s : State) (core : Nat) (by_ : Option Nat) : Nat × State := (s.preemptMsg core (by_.getD core)).startPreempt core by_

/-- A pre-emption request of a `pmt` reaches its core. -/
def execPreemptRequest (msg : Nat) (s : State) : Host.Outcome State Fault Refusal :=
  match s.fab.msgs.find? (·.id == msg) with
  | none => .next s
  | some m => match m.kind with
    | .preempt op =>
      if s.clk.frame < m.due then .next s
      else
        let (st, s1) := State.preemptAsked { s with fab := { s.fab with msgs := s.fab.msgs.filter (·.id != msg) } } m.dst (some m.core)
        .next (s1.replyOp m.core m.slot op (s1.clk.frame + hops m.core m.dst + 1) (ofN st))
    | _ => .next s

/-- A resume request reaches its core. -/
def execResumeRequest (msg : Nat) (s : State) : Host.Outcome State Fault Refusal :=
  match s.fab.msgs.find? (·.id == msg) with
  | none => .next s
  | some m => match m.kind with
    | .resume op =>
      if s.clk.frame < m.due then .next s
      else
        let (st, s1) := State.startResume { s with fab := { s.fab with msgs := s.fab.msgs.filter (·.id != msg) } } m.dst (some m.core)
        .next (s1.replyOp m.core m.slot op (s1.clk.frame + hops m.core m.dst + 1) (ofN st))
    | _ => .next s

/-- Engine work in progress that reads or writes a core's buffers: started parts of tile tasks, copy operations, the operation that the
selection unit runs, direct tile operations but those that stand behind a failed access (R268, R295, R363). -/
def State.carrelBusy (s : State) (core : Nat) : Bool :=
  let c := s.cluster (clusterOf core)
  (c.tasks.any fun t => (t.cores.zip t.parts).any fun p => p.1 == core && p.2 == .started) ||
  (c.copies.any fun o => o.started && o.cores.contains core) || (c.sels.head?.any fun o => o.iss.core == core) ||
  ((s.core core).tileOps.any fun o => !o.failed)

/-- The saves of a pre-emption may be made: nothing of the user strands is outstanding (accesses that wait on lists are
withdrawn), and no engine works on the carrel. -/
def State.savesReady (s : State) (core : Nat) : Bool :=
  !s.carrelBusy core && ((s.users core).all fun e =>
    (e.2.outstanding.all fun o => s.flights.any fun f => f.id == o.id && f.kind.waits && (f.joined.isSome || f.spill.isSome)) &&
    (match e.2.run with | .halting _ _ | .faulting _ _ => false | _ => true))

/-- A returned fault of a resident strand, taken before its save (R398). -/
def State.takeFault (s : State) (core slot : Nat) (t : Strand) : Option State :=
  match t.faulted with
  | none => none
  | some o => match o.fault with
    | none => none
    | some f => if t.prog == 1 then some (s.completeBlocking core slot t o.id) else some (s.faultAtSwitch core slot t o f)

/-- Save one slot: a returned fault is taken first, and a blocking instruction that has completed goes on (R398, R188). -/
def State.saveSlot (s : State) (core slot : Nat) (acc : List SavedSlot) : State × List SavedSlot :=
  match s.strand core slot with
  | none => (s, acc)
  | some t =>
    let s1 := match s.takeFault core slot t with
      | some x => x
      | none => s.pastBlocking core slot t
    match s1.strand core slot with
    | none => (s1, acc)
    | some t1 =>
      let r := s1.saveOne core slot t1
      -- a window with a lost register is FAULTED and does not return to its slot by itself (R108)
      match r.2 with
      | .slip _ _ pa => if r.1.slipState pa == 3 then (r.1, acc) else (r.1, acc ++ [r.2])
      | _ => (r.1, acc ++ [r.2])

/-- `PREEMPT_SAVE`: the strands in slot order, the carrel and the streams, and the switch to the returns queue. -/
def execPreemptSave (core : Nat) (s : State) : Host.Outcome State Fault Refusal :=
  match (s.core core).pre with
  | .saving by_ =>
    if !s.savesReady core then .next s
    else
      let (s1, saved) := (List.range 63).foldl (fun (x : State × List SavedSlot) i => x.1.saveSlot core i x.2) (s, [])
      let c := s1.core core
      let gs := (s1.circ.gatherings.filter fun g => g.cores.contains core && !s1.isOut core g).map fun g => (g.vol, g.gidx)
      let inBuf (k : Nat) : Bool := decide (wKey core 0 ≤ k) && decide (k < wKey core 0 + 2 ^ 20)
      let car : Carrel := { bytes := s1.mem.filter fun b => inBuf b.1, empty := s1.empty.filter fun w => inBuf (8 * w),
                            acc := c.cbuf, tiles := c.tiles, streams := c.streams }
      let mine (vol gidx : Nat) : Bool := gs.contains (vol, gidx)
      let back := (c.words.filter fun w => mine w.q.vol w.q.gidx).map Returned.word ++
        (c.inbox.filter fun m => gs.any (·.1 == m.vol)).map Returned.msg
      let c1 := { c with pre := .out, saved := saved, outG := gs, carrel := car, returns := back,
                         tiles := List.replicate 16 {}, cbuf := [], streams := List.replicate 4 {},
                         words := c.words.filter fun w => !mine w.q.vol w.q.gidx,
                         inbox := c.inbox.filter fun m => !gs.any (·.1 == m.vol) }
      let s2 : State := { s1.setCore core c1 with mem := s1.mem.filter fun b => !inBuf b.1, empty := s1.empty.filter fun w => !inBuf (8 * w) }
      let s3 := match by_ with
        | some k => s2.supMsg (some k) core 7 1 core
        | none => s2
      .next (s3.pushNew .placement)
  | _ => .next s

/-- The gatherings that are out with a core, and the regions of a buffer that they have there. -/
def State.outHere (s : State) (core : Nat) : List Gathering := s.circ.gatherings.filter fun g => s.isOut core g
def State.outRegions (s : State) (core : Nat) (abuf : Bool) : List (Nat × Nat) :=
  (s.outHere core).filterMap fun g => (g.cores.zipIdx.find? fun c => c.1 == core).map fun c =>
    if abuf then (g.aOff.getD c.2 0, carA g.carrel) else (g.wOff.getD c.2 0, carW g.carrel)

/-- No region of one list meets one of the other. -/
def regionsApart (a b : List (Nat × Nat)) : Bool :=
  a.all fun x => b.all fun y => x.2 == 0 || y.2 == 0 || decide (x.1 + x.2 ≤ y.1) || decide (y.1 + y.2 ≤ x.1)

/-- Tiles that a carrel brings back into a core: those of the gatherings that are still there. -/
def State.tilesBack (s : State) (core : Nat) : List Tile :=
  (List.range 16).map fun i =>
    let x := (s.core core).carrel.tiles.getD i {}
    if x.conf && (s.outHere core).any fun g => g.vol == x.vol && g.gidx == x.gidx then x else {}

/-- The carrel room of a core's gatherings is free there: their regions of W and A, the tiles and the units of C (R363). -/
def State.carrelFree (s : State) (core : Nat) : Bool :=
  regionsApart (s.outRegions core false) (s.regions core false) && regionsApart (s.outRegions core true) (s.regions core true) &&
  ((s.tilesBack core).zipIdx.all fun x => !x.1.conf || (!((s.core core).tile x.2).conf &&
    (s.core core).tiles.all fun y => !y.conf || !tilesOverlap x.1 y))

/-- The slots that a core's resume needs: those of the members that are out with it. -/
def State.outSlots (s : State) (core : Nat) : List Nat :=
  (s.outHere core).flatMap fun g => (g.members.filter fun m => g.cores[m.role]? == some core).map (·.slot)

/-- No slot and no region that a resume needs is held for another gathering (R357). -/
def State.heldApart (s : State) (core : Nat) : Bool :=
  let x := (s.core core).closed
  !s.coreReserved core || ((s.outSlots core).all fun i => !x.slots.contains i) && regionsApart (s.outRegions core false) x.w &&
    regionsApart (s.outRegions core true) x.a

/-- What a resume takes on a reserved cluster is held when it frees again (R357). -/
def State.closeOut (s : State) (core : Nat) (slots : List Nat) (w a : List (Nat × Nat)) : State :=
  if s.coreReserved core then
    let c := s.core core
    s.setCore core { c with closed := { c.closed with slots := c.closed.slots ++ slots, w := c.closed.w ++ w, a := c.closed.a ++ a } }
  else s

/-- What a resume needs is free (R363): the same slots, the granules, and the carrel room (assumption 66). -/
def State.resumeFits (s : State) (core : Nat) : Bool :=
  let c := s.core core
  let gran := (c.saved.map fun x => match x with
    | .slip _ _ pa => fld (s.slipDw pa 0) 58 55 + 1
    | .frame _ t => t.wgr + 1).foldl (· + ·) 0
  ((s.outSlots core).all fun i => (s.slotOwner core i).isNone && (s.strand core i).isNone) && decide (gran ≤ (s.openGran core).length) &&
  s.heldApart core && s.carrelFree core

/-- Return a saved strand to its slot, which refuses a slip that has come to be none (R79). -/
def State.restoreSlot (s : State) (core : Nat) : SavedSlot → State
  | .slip slot vol pa =>
    if 3 ≤ s.slipState pa || !(s.circ.areas.any (·.2 == pa)) then s
    else if !s.slipOk pa then s.refuseSlip core slot core vol pa
    else s.loadSlip core slot vol pa ((s.openGran core).take (fld (s.slipDw pa 0) 58 55 + 1))
  | .frame slot t =>
    let gr := (s.openGran core).take (t.wgr + 1)
    (s.setStrand core slot { t with gran := gr }).endPairs core gr

/-- Merge the saved bytes of a carrel back. -/
def mergeMem (m : Memory) (bs : Memory) : Memory := bs.foldl (fun m b => m.set b.1 b.2) m

/-- `CORE_RESUME`. -/
def execCoreResume (core : Nat) (s : State) : Host.Outcome State Fault Refusal :=
  match (s.core core).pre with
  | .resuming by_ =>
    if !s.resumeFits core then .next s
    else
      let c := s.core core
      let back (k : Nat) : Bool := ((s.outRegions core false).any fun r => decide (wKey core r.1 ≤ k) && decide (k < wKey core (r.1 + r.2))) ||
        (s.outRegions core true).any fun r => decide (aKey core r.1 ≤ k) && decide (k < aKey core (r.1 + r.2))
      let tiles := s.tilesBack core
      let acc := c.carrel.acc.filter fun e => tiles.any fun x => x.conf && decide (x.first ≤ e.1) && decide (e.1 < x.first + x.size)
      let c1 := { c with pre := .none, saved := [], outG := [], carrel := {}, returns := [],
                         tiles := tiles.zipIdx.map fun x => if x.1.conf then x.1 else c.tile x.2,
                         cbuf := acc.foldl (fun l e => aput l e.1 e.2) c.cbuf, streams := c.carrel.streams, pat := (0, 0),
                         words := c.words ++ c.returns.filterMap fun r => match r with | .word w => some w | _ => none,
                         inbox := c.inbox ++ c.returns.filterMap fun r => match r with | .msg m => some m | _ => none }
      let s1 : State := { s.setCore core c1 with mem := mergeMem s.mem (c.carrel.bytes.filter fun b => back b.1),
                                                 empty := (c.carrel.empty.filter fun w => back (8 * w)).foldl insertUp s.empty }
      let s2 := (c.saved.foldl (fun s x => s.restoreSlot core x) s1).closeOut core (s.outSlots core) (s.outRegions core false) (s.outRegions core true)
      let s3 := match by_ with
        | some k => s2.supMsg (some k) core 7 2 core
        | none => s2
      .next (s3.pushNew .placement)
  | _ => .next s

end Sys2Proof.Machine
end

