-- ==== Sys2Proof/Machine/Code.lean ====
section
/-! DEFINITION. Accessions: `acall`, `aref`, `arel`, `ainf` (R326 to R335), and the redactor (R336 to R346). -/

namespace Sys2Proof.Machine

open Sys2Proof

/-! ## Calls and counts (R332 to R335) -/

/-- What `acall` finds under its value: index, entry, instruction offset, and whether it is a return link. -/
def State.callTarget (s : State) (vol : Nat) (w : Word) : Option (Nat × Entry × Nat × Bool) :=
  let i := fld w 43 32
  let e := (s.spaceOf vol).entry i
  if e.state != 1 || e.gen != fld w 63 48 then none
  else if fld w 47 44 == 8 then (if fld w 31 0 < e.size then some (i, e, fld w 31 0, true) else none)
  else if fld w 47 44 == 0 && e.size == fld w 31 0 then some (i, e, 0, false)
  else none

/-- The index of a current handle (R327). -/
def State.currentHandle (s : State) (vol : Nat) (w : Word) : Option Nat :=
  match s.callTarget vol w with
  | some (i, _, _, false) => some i
  | _ => none

/-- `acall`. A collated follower takes its leader's value (R150), which the leader keeps in `colV`. -/
def execAcall (h : Hdr) (d a : GOp) (s : State) : Host.Outcome State Fault Refusal :=
  let f : Form := { h := h, word := wordOf (.acall h d a), src := [a], dst := [d], self := true, chg := true, ctl := true }
  issue f s fun c =>
    let v := if follows f c.t then ((c.s.leadOf c.t).map Decision.w).getD 0 else c.g a
    match c.s.callTarget c.t.vol v with
    | none => .fault (taskFault 0x24)
    | some (i, e, off, link) =>
      let ci := c.t.acc.getD 0
      let cur := (c.s.spaceOf c.t.vol).entry ci
      let ret := ofN (cur.gen * 2 ^ 48 + 8 * 2 ^ 44 + ci * 2 ^ 32 + ((c.t.pc - cur.base) / 8 + 1) % 2 ^ 32)
      let s1 := if link then c.s else c.s.bumpExec c.t.vol (some i) 1
      let s2 := if link || d == .z then s1.bumpExec c.t.vol c.t.acc (-1) else s1
      let s3 := s2.dropCode c.core e.base e.size
      let c1 := { c with s := s3 }.put d ret
      let c2 := { c1 with t := { c1.t with acc := some i, colV := v, sregs := setAt c1.t.sregs 0 (codeDesc e) } }
      .jump c2 (e.base + 8 * off)

/-- `aref` and `arel`: a current handle's reference count (R334). -/
def refCount (i : Instr) (h : Hdr) (a : GOp) (bad : Nat) (by_ : Int) (s : State) : Host.Outcome State Fault Refusal :=
  issue { h := h, word := wordOf i, src := [a], self := true, chg := true } s fun c =>
    match c.s.currentHandle c.t.vol (c.g a) with
    | none => .fault (taskFault 0x24)
    | some k =>
      let p := c.s.spaceOf c.t.vol
      if (p.entry k).refs == bad then .fault (taskFault 0x25)
      else .go { c with s := c.s.setSpace (p.bump k by_ 0) }

/-- `aref`. -/
def execAref (h : Hdr) (a : GOp) (s : State) : Host.Outcome State Fault Refusal :=
  refCount (.aref h a) h a (2 ^ 32 - 1) 1 s

/-- `arel`. -/
def execArel (h : Hdr) (a : GOp) (s : State) : Host.Outcome State Fault Refusal :=
  refCount (.arel h a) h a 0 (-1) s

/-- An item of an accession-table entry (R326). -/
def Entry.item (e : Entry) (i item : Nat) : Word :=
  match item with
  | 0 => ofN (e.gen * 2 ^ 48 + i * 2 ^ 32 + e.state)
  | 1 => ofN e.base
  | 2 => ofN (e.refs * 2 ^ 32 + e.exec)
  | _ => ofN (e.sgen * 2 ^ 48 + e.sidx * 2 ^ 32 + e.size)

/-- `ainf` (R335). -/
def execAinf (h : Hdr) (item : Fin 4) (d a : GOp) (s : State) : Host.Outcome State Fault Refusal :=
  issue { h := h, word := wordOf (.ainf h item d a), src := [a], dst := [d], long := true } s fun c =>
    let w := c.g a
    let i := fld w 43 32
    let v := if fld w 47 44 == 0 || fld w 47 44 == 8 then ((c.s.spaceOf c.t.vol).entry i).item i item.val else 0xFFFFFFFFFFFFFFFF
    .go (c.result d v)

/-! ## The arena (R328) -/

/-- The key of a VA of the arena, and its K page: a page of the stacks, read and written whatever its leaf's rights. -/
def State.arenaPlace (s : State) (vol va : Nat) : Option (Nat × Option (Nat × Nat)) :=
  match s.walk vol va with
  | .leaf l =>
    let k := ptAddr l.entry + va % 2 ^ l.bits
    if ptM l.entry || !isStack k || s.keyFenced k then none
    else some (k, if ptK l.entry then some (ptAddr l.entry, l.bits) else none)
  | _ => none

def State.arenaKey (s : State) (vol va : Nat) : Option Nat := (s.arenaPlace vol va).map (·.1)

/-- The lowest-numbered FREE entry. -/
def Space.freeEntry (p : Space) : Option Nat := (List.range 4096).find? fun i => (p.entry i).state == 0

/-- The lowest 64-byte-aligned VA of the arena at which n words fit, on mapped pages, clear of every other accession. -/
def State.arenaFit (s : State) (vol n : Nat) : Option Nat :=
  let p := s.spaceOf vol
  match p.arena with
  | none => none
  | some (base, size) =>
    let used := (p.table.filter (·.2.state != 0)).map fun e => (e.2.base, e.2.base + 8 * e.2.size)
    let cands := base :: used.map fun r => ceilDiv r.2 64 * 64
    let ok (a : Nat) : Bool := decide (base ≤ a) && decide (a + 8 * n ≤ base + size) &&
      (used.all fun r => decide (a + 8 * n ≤ r.1) || decide (r.2 ≤ a)) &&
      ((List.range n).all fun i => (s.arenaKey vol (a + 8 * i)).isSome)
    (cands.filter ok).foldl (fun (m : Option Nat) a => some (match m with | none => a | some b => Nat.min a b)) none

/-- Place code (R327, R328): its words are written; entry index, generation and base of its place. -/
def State.placeCode (s : State) (vol : Nat) (ws : List Word) : Option (State × Nat × Nat × Nat) :=
  let p := s.spaceOf vol
  match p.freeEntry, s.arenaFit vol ws.length with
  | some i, some a =>
    let g := ((p.entry i).gen + 1) % 2 ^ 16
    let s1 := (List.range ws.length).foldl (fun (s : State) j => match s.arenaPlace vol (a + 8 * j) with
      | some (k, kp) => s.bankWrite k kp 8 (ws.getD j 0).toNat
      | none => s) s
    some (s1, i, if g == 0 then 1 else g, a)
  | _, _ => none

/-- Mark a placed accession LIVE. -/
def State.publish (s : State) (vol i gen base size sgen sidx : Nat) : State :=
  s.setSpace ((s.spaceOf vol).setEntry i
    { gen := gen, state := 1, base := base, refs := 1, exec := 0, sgen := sgen, sidx := sidx, size := size })

/-! ## `spec` and its acceptance (R337, R338) -/

/-- `spec`. -/
def execSpec (h : Hdr) (d a b : GOp) (tag : BitVec 16) (s : State) : Host.Outcome State Fault Refusal :=
  issue { h := h, word := wordOf (.spec h d a b tag), src := [a, b], dst := [d], long := true, access := true } s fun c =>
    match c.enginePtr (c.g b) 64 (rR + rW + rE) 64 with
    | .error e => .fault e
    | .ok (ty, _) =>
      if ty != 1 then .fault (segFault 0x06 (fld (c.g b) 60 0))
      else
        let (r, c1) := c.request d .spec (c.g a) (some (c.g b)) tag.toNat
        let k := clusterOf c.core
        let cl := c1.s.cluster k
        .go { c1 with s := (c1.s.setCluster k { cl with reqs := cl.reqs ++ [r] }).push (r.event k) }

def specSteps (d : Nat → Word) : Nat := fld (d 0) 63 43
def specLim (d : Nat → Word) : Nat := fld (d 0) 42 26
def specN (d : Nat → Word) : Nat := fld (d 0) 7 0
/-- The registers of a pair of mask doublewords. -/
def maskRegs (lo hi : Word) : List Nat := (List.range 128).filter fun k => if k < 64 then lo.getLsbD k else hi.getLsbD (k - 64)

/-- The checks of R338. -/
def specChecks (d : Nat → Word) : List (Nat × Bool) :=
  [(0, specSteps d == 0 || decide (2 ^ 20 < specSteps d) || specLim d == 0 || decide (65536 < specLim d) || fld (d 0) 25 8 != 0 ||
      decide (128 < specN d) || specN d != (maskRegs (d 1) (d 2)).length),
   (5, fld (d 5) 63 16 != 0 || (d 5).getLsbD 0)]

/-- Read a doubleword of the block, which lies in the stacks (R180): outside its segment, or unreadable, it gives BADREC (R337). -/
def State.blockDw (s : State) (cluster : Nat) (iss : Issuer) (ptr : Word) (i : Nat) : Option Word :=
  match ptrParts ptr with
  | .error _ => none
  | .ok (n, off) => match segCheck (sregOf iss.sregs n) (off + 8 * i) 8 (rR + rW + rE) 8 with
    | .error _ => none
    | .ok a => match s.locKey cluster (locOf (sregOf iss.sregs n) iss.core iss.vol a) .read with
      | .key k _ => if isStack k && !s.keyFenced k then some (s.rdW k) else none
      | _ => none

/-- The redactor takes up the head of its queue. -/
def State.startSpec (s : State) (cluster : Nat) : State :=
  match (s.cluster cluster).specs.head? with
  | none => s
  | some o => s.pushNew (.specRun cluster o.id)

/-- `SPEC_ACCEPT`. -/
def execSpecAccept (cluster req : Nat) (s : State) : Host.Outcome State Fault Refusal :=
  let cl := s.cluster cluster
  match cl.reqs.find? (·.id == req) with
  | none => .next s
  | some r =>
    if !s.reqReady r then .next (s.notReady r)
    else if !s.unitUp .red cluster then .next s
    else
      let s1 := s.setCluster cluster { cl with reqs := cl.reqs.filter (·.id != req) }
      let ptr := r.b.getD 0
      let blk := (List.range 8).map fun i => s1.blockDw cluster r.iss ptr i
      let d := fun i => (blk.getD i none).getD (0 : Word)
      let early := (List.range (specN d)).map fun i => s1.blockDw cluster r.iss ptr (8 + i)
      if s.unitFenced .red cluster then .next (s1.status r.iss req 3)
      else if 32 ≤ cl.specs.length + s.held cluster 5 then .next (s1.status r.iss req 1)
      else if blk.any (·.isNone) then .next (s1.status r.iss req (badRec 0))
      else match lowestBad (specChecks d) with
        | some dw => .next (s1.status r.iss req (badRec dw))
        | none => match early.findIdx? (·.isNone) with
          | some i => .next (s1.status r.iss req (badRec (8 + i)))
          | none => match s1.currentHandle r.iss.vol r.a with
            | none => .next (s1.status r.iss req 4)
            | some src =>
              let o : SpecOp := { id := r.id, iss := r.iss, ptr := ptr, tag := r.imm, dws := blk.map fun x => x.getD 0,
                                  early := early.map fun x => x.getD 0, src := src }
              let s2 := s1.setSpace ((s1.spaceOf r.iss.vol).bump src 1 0)
              let c := s2.cluster cluster
              .next (((s2.setCluster cluster { c with specs := c.specs ++ [o] }).status r.iss req 0).startSpec cluster)

end Sys2Proof.Machine

namespace Sys2Proof

open Machine (bitsN)

/-! ## Registers that a word reads and writes (R38, R129, R336)

Registers are numbered g0 to g127, then p0 to p15 as 128 to 143. -/

/-- The registers a field names. -/
def fieldRegs (bc : Bool) (cl : Cls) (v : Nat) : List Nat :=
  let vec (n : Nat) : List Nat := (List.range n).map (8 * v + ·)
  match cl with
  | .g => if v < 128 then [v] else []
  | .v => vec 8
  | .v4 => vec 32
  | .vg => if bc then (if v < 128 then [v] else []) else vec 8
  | .p => [128 + v]
  | .c | .k => []

def useReads : Use → Bool
  | .d => false
  | _ => true
def useWrites : Use → Bool
  | .s => false
  | _ => true

def Raw.bc (r : Raw) (i : OpInfo) : Bool := i.fmt == .r && r.x.getLsbD 7

/-- The registers of a word's fields whose use a test admits. -/
def Raw.fieldsBy (r : Raw) (p : Use → Bool) : List Nat :=
  match opInfo r.op.toNat with
  | none => []
  | some i => (r.fields i).flatMap fun f => match f.2 with
    | some (cl, u) => if p u then fieldRegs (r.bc i) cl f.1.toNat else []
    | none => []

def predRegs : List Nat := (List.range 15).map (129 + ·)

/-- Registers read, the predicate field apart: fields, `sel`'s predicate, `mfp`, and `spawn` with imm[7] (R369). -/
def Raw.reads (r : Raw) : List Nat :=
  r.fieldsBy useReads ++
  (if r.op == 0x059 then [128 + r.x.toNat % 16] else []) ++ (if r.op == 0x060 then predRegs else []) ++
  (if r.op == 0x147 && r.imm16.getLsbD 7 then List.range 8 else [])

/-- Registers written; p0 is never written. -/
def Raw.writes (r : Raw) : List Nat := (r.fieldsBy useWrites).filter (· != 128) ++ (if r.op == 0x061 then predRegs else [])

/-- Port registers that a word names, with their uses. -/
def Raw.ports (r : Raw) : List (Nat × Use) :=
  match opInfo r.op.toNat with
  | none => []
  | some i => portUses (r.bc i) (r.fields i)

def Raw.pops (r : Raw) : Bool := r.ports.any (·.2 == .s)

/-! ## Switch points and long-latency words (R72, R73), as R344 asks -/

/-- Ordering field of a memory word is release. -/
def Raw.isRel (r : Raw) : Bool :=
  match opInfo r.op.toNat with
  | some i => (match i.fn with
      | .mem _ _ => fnMid r.fn == 2
      | .at _ _ => bitsN r.x.toNat 4 3 == 2
      | _ => false)
  | none => false

/-- Opcodes whose own description makes them a switch point: `retire`, `yield`, `bara`, `barw`, `collate`, `svc`, `ldf`, `lde`,
`stfe`, `fence`, `cfence`, `swarm`, `swadd`, `swwait`, `segld`, `tcfg`, `trel`, `tzero`, `msset`, `msrd`, `twait`, `aref`, `arel`,
`acall`, `dech`, `post`, `spawn`. -/
def switchOps : List Nat :=
  [0x00C, 0x00D, 0x00E, 0x00F, 0x010, 0x018, 0x0C3, 0x0C4, 0x0C6, 0x0CB, 0x0CC, 0x0CD, 0x0CE, 0x0CF, 0x0E0, 0x0F0, 0x0F1, 0x0F2, 0x0F8, 0x0F9, 0x0FA,
   0x131, 0x132, 0x133, 0x141, 0x146, 0x147]

/-- Instructions that change strand state other than one destination: a pop makes them a switch point (R167). -/
def changeOps : List Nat := [0x061, 0x063, 0x06B, 0x097, 0x09A, 0x0A1]

def Raw.switches (r : Raw) : Bool :=
  r.sw || switchOps.contains r.op.toNat || r.isRel || (r.pops && changeOps.contains r.op.toNat)

/-- Long-latency opcodes: memory accesses, special functions, engine instructions that write a general register; `vperm`, `vred` and `vdot`,
which are so in a strand that runs the residual collated (R150). -/
def longOps : List Nat :=
  [0x093, 0x094, 0x095, 0x018, 0x01F, 0x09B, 0x09C, 0x09D, 0x09E, 0x09F, 0x0A0, 0x0A1,
   0x0C0, 0x0C1, 0x0C2, 0x0C3, 0x0C4, 0x0C5, 0x0C6, 0x0C7, 0x0C8, 0x0C9, 0x0CA, 0x0CD, 0x0CE, 0x0CF, 0x0D0, 0x0E0, 0x0E1, 0x0E6,
   0x0F0, 0x0F3, 0x0F4, 0x0F5, 0x0F6, 0x0F7, 0x0F9, 0x0FB, 0x110, 0x111, 0x112, 0x113, 0x115, 0x116, 0x120, 0x121, 0x122, 0x123,
   0x130, 0x134, 0x145, 0x146, 0x150, 0x151, 0x152, 0x153, 0x154]

def Raw.isLong (r : Raw) : Bool := longOps.contains r.op.toNat || r.pops

/-- Words after which the strand parks until they have completed and landed: `ldf`, `lde`, `stfe`, `swwait` (R188). The status of `svc`
lands at the next switch point (R408). -/
def blockOps : List Nat := [0x0C3, 0x0C4, 0x0C6, 0x0CF]

/-- The result lands at a later switch point: a word that blocks, or that is a switch point and pops, writes it as it executes (R167, R188). -/
def Raw.late (r : Raw) : Bool :=
  (longOps.contains r.op.toNat && !blockOps.contains r.op.toNat) || (r.pops && !r.switches)

/-! ## Classes of R340, and the words of R344 -/

def Raw.isControl (r : Raw) : Bool := 1 ≤ r.op.toNat && r.op.toNat ≤ 0x00A

def Raw.isTerminal (r : Raw) : Bool := r.op == 0x00B || r.op == 0x00C || r.op == 0x133

def Raw.isFold (r : Raw) : Bool :=
  ((0x030 ≤ r.op.toNat && r.op.toNat ≤ 0x05F) || ((r.op == 0x0C0 || r.op == 0x0C1) && r.emA)) && r.ports.isEmpty

/-- Rewrite the general source fields that name gD to gA. -/
def Raw.renameSrc (r : Raw) (d a : Nat) : Raw :=
  match opInfo r.op.toNat with
  | none => r
  | some i =>
    let fix (b : Byte) (f : Option (Cls × Use)) : Byte := match f with
      | some (cl, .s) => if isG (r.bc i) cl && b.toNat == d then BitVec.ofNat 8 a else b
      | _ => b
    match i.fmt with
    | .r => { r with lo := fix r.b4 i.D ++ fix r.b3 i.A ++ fix r.b2 i.B ++ fix r.b1 i.C ++ r.x }
    | .i => { r with lo := fix r.b4 i.D ++ fix r.b3 i.A ++ r.imm24 }
    | .w => { r with lo := fix r.b4 i.D ++ r.imm32 }
    | .m => { r with lo := fix r.b4 i.D ++ fix r.b3 i.A ++ r.imm24 }
    | .b => { r with lo := fix r.b4 i.A ++ fix r.b3 i.B ++ r.imm24 }
    | .e => { r with lo := fix r.b4 i.D ++ fix r.b3 i.A ++ fix r.b2 i.B ++ r.imm16 }

/-- An unpredicated `mov.d` between distinct general registers. -/
def Raw.copyOf (r : Raw) : Option (Nat × Nat) :=
  if r.op == 0x055 && fnSz r.fn == 3 && r.pr == 0 && r.b4.toNat < 128 && r.b3.toNat < 128 && r.b4 != r.b3 then
    some (r.b4.toNat, r.b3.toNat) else none

/-- A word that dead removal may drop. -/
def Raw.droppable (r : Raw) : Bool :=
  0x030 ≤ r.op.toNat && r.op.toNat ≤ 0x05F && !(0x036 ≤ r.op.toNat && r.op.toNat ≤ 0x039) && r.ports.isEmpty &&
  !((match opInfo r.op.toNat with | some i => i.fn == .sa | none => false) && fnMid r.fn != 0)

end Sys2Proof

namespace Sys2Proof.Machine

open Sys2Proof

/-! ## The trace (R339 to R343) -/

/-- A register's state: LATE is none; KNOWN has a value and whether the residual already holds it (R336). -/
abbrev Known := Option (Nat × Bool)

/-- A trace under way: pc, steps, pended marker, the 144 registers, the words appended. -/
structure Trace where
  pc    : Nat := 0
  steps : Nat := 0
  pend  : Bool := false
  regs  : List Known
  out   : List Raw := []
deriving DecidableEq, Repr

/-- How a trace stands: it goes on, has met its terminal, or has ended with a status (R345). -/
inductive Traced where
  | on (t : Trace)
  | done (t : Trace)
  | end_ (t : Trace) (status : Nat)
deriving DecidableEq, Repr

def Trace.reg (t : Trace) (k : Nat) : Known := if k == 128 then some (1, true) else t.regs.getD k none

def Trace.setReg (t : Trace) (k : Nat) (v : Known) : Trace := if k == 128 then t else { t with regs := setAt t.regs k v }

/-- A general field: z is KNOWN 0, a port is LATE. -/
def Trace.gen (t : Trace) (b : Byte) : Option Nat :=
  if b == 128 then some 0 else if b.toNat < 128 then (t.reg b.toNat).map (·.1) else none

/-- Make a general field's register KNOWN and absent. -/
def Trace.know (t : Trace) (b : Byte) (v : Nat) : Trace := if b.toNat < 128 then t.setReg b.toNat (some (v, false)) else t

/-- The predicate of a word. -/
def Trace.pred (t : Trace) (r : Raw) : Option Bool := (t.reg (128 + r.pr.toNat)).map fun v => (v.1 == 1) != r.pn

/-- An early-marked operand is LATE. -/
def Trace.unbound (t : Trace) (r : Raw) : Bool :=
  match opInfo r.op.toNat with
  | none => false
  | some i =>
    let late (b : Byte) (f : Option (Cls × Use)) : Bool := match f with
      | none => false
      | some (cl, _) => (isG (r.bc i) cl && 129 ≤ b.toNat) || ((fieldRegs (r.bc i) cl b.toNat).any fun k => (t.reg k).isNone)
    let a := if i.fmt == .b then r.b4 else r.b3
    let b := if i.fmt == .b then r.b3 else r.b2
    (r.emA && late a i.A) || (r.emB && late b i.B) || (r.emC && late r.b1 i.C)

def noHdr : Hdr := { sw := false, emA := false, emB := false, emC := false, pr := 0, pn := false }

/-- The words that put a KNOWN value into its register (R343). -/
def materialise (k v : Nat) : List Raw :=
  if k < 128 then
    let b : Byte := BitVec.ofNat 8 k
    let lo : BitVec 32 := BitVec.ofNat 32 v
    if (sx64 lo).toNat == v then [rawW noHdr 0x056 b lo]
    else [rawW noHdr 0x056 b lo, rawW noHdr 0x057 b (BitVec.ofNat 32 (v / 2 ^ 32))]
  else [rawR noHdr (if v == 1 then 0x05D else 0x05F) 0 (BitVec.ofNat 8 (k - 128)) 0 0 0 0]

/-- Emit a word (R343); `live` are the registers that a terminal needs; `lim` is the output limit. -/
def Trace.emit (t : Trace) (lim : Nat) (r : Raw) (known : Bool) (live : List Nat) : Except Trace Trace :=
  let r1 := if known then { r with pr := 0, pn := false } else r
  let need := r1.reads ++ (if known then [] else r1.writes) ++ live
  let ks := (List.range 144).filter fun k => need.contains k && (match t.reg k with | some (_, false) => true | _ => false)
  let t1 := ks.foldl (fun (t : Trace) k => match t.reg k with
    | some (v, _) => { (t.setReg k (some (v, true))) with out := t.out ++ materialise k v }
    | none => t) t
  let t2 := { t1 with out := t1.out ++ [{ r1 with sw := r1.sw || t1.pend }], pend := false }
  let t3 := r1.writes.foldl (fun (t : Trace) k => t.setReg k none) t2
  if lim < t3.out.length then .error { t3 with out := t3.out.take (lim + 1) } else .ok t3

/-- The general forms of R342. -/
inductive Ident where
  | mov | neg | zero
deriving DecidableEq, Repr

/-- The identity of a word whose one KNOWN operand is c (at n bits): `first` when it is the first operand. -/
def identOf (op : Nat) (first : Bool) (c n : Nat) : Option Ident :=
  match op with
  | 0x030 | 0x031 | 0x042 | 0x043 => if c == 0 then some .mov else none
  | 0x032 => if c == 0 && !first then some .mov else none
  | 0x033 => if c == 0 then some .zero else if c == 1 then some .mov else if c == 2 ^ n - 1 then some .neg else none
  | _ => none

/-- An identity that applies to a word with predicate TRUE: which, and the late operand. -/
def Trace.ident (t : Trace) (r : Raw) : Option (Ident × Byte) :=
  let n := 8 * 2 ^ fnSz r.fn
  let ops := [0x030, 0x031, 0x032, 0x033]
  if (ops.contains r.op.toNat && fnMid r.fn != 0) || !(ops ++ [0x042, 0x043]).contains r.op.toNat then none
  else
    let imm := r.op == 0x031 || r.op == 0x043
    let b := if imm then some ((sx64 r.imm24).toNat) else t.gen r.b2
    match t.gen r.b3, b with
    | some c, none => (identOf r.op.toNat true (c % 2 ^ n) n).map fun i => (i, r.b2)
    | none, some c => (identOf r.op.toNat false (c % 2 ^ n) n).map fun i => (i, r.b3)
    | _, _ => none

/-- The meaning that evaluates a fold-class scalar word, 0x030 to 0x05F. -/
def foldExec (i : Instr) (s : State) : Option (Host.Outcome State Fault Refusal) :=
  match i with
  | .add h o z d a b => some (execAdd h o z d a b s)
  | .addi h o z d a imm => some (execAddi h o z d a imm s)
  | .sub h o z d a b => some (execSub h o z d a b s)
  | .mul h o z d a b => some (execMul h o z d a b s)
  | .mulh h z d a b => some (execMulh h z d a b s)
  | .mulhu h z d a b => some (execMulhu h z d a b s)
  | .div h z d a b => some (execDiv h z d a b s)
  | .divu h z d a b => some (execDivu h z d a b s)
  | .rem h z d a b => some (execRem h z d a b s)
  | .remu h z d a b => some (execRemu h z d a b s)
  | .neg h o z d a => some (execNeg h o z d a s)
  | .abs h o z d a => some (execAbs h o z d a s)
  | .min h z d a b => some (execMin h z d a b s)
  | .max h z d a b => some (execMax h z d a b s)
  | .minu h z d a b => some (execMinu h z d a b s)
  | .maxu h z d a b => some (execMaxu h z d a b s)
  | .and h z d a b => some (execAnd h z d a b s)
  | .andi h z d a imm => some (execAndi h z d a imm s)
  | .or h z d a b => some (execOr h z d a b s)
  | .ori h z d a imm => some (execOri h z d a imm s)
  | .xor h z d a b => some (execXor h z d a b s)
  | .xori h z d a imm => some (execXori h z d a imm s)
  | .andn h z d a b => some (execAndn h z d a b s)
  | .shl h z d a b => some (execShl h z d a b s)
  | .shr h z d a b => some (execShr h z d a b s)
  | .sar h z d a b => some (execSar h z d a b s)
  | .rol h z d a b => some (execRol h z d a b s)
  | .shli h z d a imm => some (execShli h z d a imm s)
  | .shri h z d a imm => some (execShri h z d a imm s)
  | .sari h z d a imm => some (execSari h z d a imm s)
  | .clz h z d a => some (execClz h z d a s)
  | .ctz h z d a => some (execCtz h z d a s)
  | .popc h z d a => some (execPopc h z d a s)
  | .bfx h d a imm => some (execBfx h d a imm s)
  | .bfi h d a imm => some (execBfi h d a imm s)
  | .sext h z d a => some (execSext h z d a s)
  | .zext h z d a => some (execZext h z d a s)
  | .mov h z d a => some (execMov h z d a s)
  | .movi h d imm => some (execMovi h d imm s)
  | .movhi h d imm => some (execMovhi h d imm s)
  | .lea h d a g disp => some (execLea h d a g disp s)
  | .sel h d a b k => some (execSel h d a b k s)
  | .cmp h cc z d a b => some (execCmp h cc z d a b s)
  | .cmpi h cc z d a imm => some (execCmpi h cc z d a imm s)
  | .pand h d a b => some (execPand h d a b s)
  | .por h d a b => some (execPor h d a b s)
  | .pxor h d a b => some (execPxor h d a b s)
  | .pandn h d a b => some (execPandn h d a b s)
  | _ => none

/-- A strand whose registers are the KNOWN values, alone in an empty machine: a fold-class word is evaluated on it. -/
def Trace.bench (t : Trace) : State :=
  let pred := (List.range 16).foldl (fun (w : BitVec 16) k => match t.reg (128 + k) with
    | some (1, _) => w ||| BitVec.ofNat 16 (2 ^ k)
    | _ => w) 0
  let st : Strand := { uid := 0, wgr := 15, regs := (List.range 128).map fun k => ofN (((t.reg k).map (·.1)).getD 0),
                       pred := pred, sregs := List.replicate 8 0 }
  { strands := [((0, 0), st)], clk := { cur := some (0, 0) } }

/-- Evaluate a fold-class scalar word (R341): the trace, `none` when it would raise a flag, or a zero divisor. -/
def Trace.evaluate (t : Trace) (r : Raw) : Except Unit (Option Trace) :=
  let div := 0x036 ≤ r.op.toNat && r.op.toNat ≤ 0x039
  if div && ((t.gen r.b2).getD 0) % 2 ^ (8 * 2 ^ fnSz r.fn) == 0 then .error ()
  else
    match (r.build.bind fun i => foldExec i t.bench) with
    | some (.next s) => match s.strand 0 0 with
      | some u =>
        if u.fflg != 0 then .ok none
        else .ok (some (r.writes.foldl (fun (t : Trace) k =>
          t.setReg k (some (if k < 128 then (u.g k).toNat else if u.pred.getLsbD (k - 128) then 1 else 0, false))) t))
      | none => .ok none
    | _ => .ok none

/-- An early load (R341): the value, or FOLD_MEM. -/
def State.earlyLoad (s : State) (cluster : Nat) (o : SpecOp) (t : Trace) (r : Raw) : Option Nat :=
  let n := 2 ^ fnSz r.fn
  let seg := sregOf o.iss.sregs r.seg.toNat
  let off := (ofN ((t.gen r.b3).getD 0) + sx64 r.disp20).toNat
  if fnMid r.fn != 0 || descType seg != 1 || hasRights (descRights seg) rW then none
  else match segCheck seg off n rR n with
    | .error _ => none
    | .ok a => match s.locKey cluster (.va o.iss.vol a) .read with
      | .key k _ =>
        if !isStack k || s.keyFenced k then none
        else some (if r.op == 0x0C1 then wrapN 64 (sxNat (8 * n) (s.rdN k n)) else s.rdN k n)
      | _ => none

/-- The next word after a control transfer (R340): the trace with the effects, and the target as a word number. -/
def Trace.control (t : Trace) (r : Raw) : Option (Trace × Int) :=
  let here : Int := t.pc
  let there : Int := here + r.imm24.toInt
  let cond (f : Word → Word → Bool) : Option (Trace × Int) :=
    match t.gen r.b4, t.gen r.b3 with
    | some a, some b => some (t, if f (ofN a) (ofN b) then there else here + 1)
    | _, _ => none
  match r.op.toNat with
  | 0x001 => some (t, there)
  | 0x002 => cond fun a b => a == b
  | 0x003 => cond fun a b => a != b
  | 0x004 => cond fun a b => a.slt b
  | 0x005 => cond fun a b => !a.slt b
  | 0x006 => cond fun a b => a.ult b
  | 0x007 => cond fun a b => !a.ult b
  | 0x008 => some (t.know r.b4 (8 * (t.pc + 1)), there)
  | 0x009 => if 128 < r.b4.toNat then none else (t.gen r.b3).map fun v =>
      (t.know r.b4 (8 * (t.pc + 1)), if v % 8 == 0 then ((v / 8 : Nat) : Int) else -1)
  | 0x00A => (t.gen r.b4).map fun v =>
      let n := (ofN v - 1).toNat
      (t.know r.b4 n, if n != 0 then there else here + 1)
  | _ => none

/-- What the trace needs of its operation. -/
structure TraceEnv where
  s       : State
  cluster : Nat
  op      : SpecOp
  src     : Entry
  live    : List Nat
deriving DecidableEq, Repr

/-- Emit and go on at the next word. -/
def Trace.emitOn (t : Trace) (lim : Nat) (r : Raw) (known : Bool) : Traced :=
  match t.emit lim r known [] with
  | .ok t1 => .on { t1 with pc := t1.pc + 1 }
  | .error t1 => .end_ t1 1

/-- A folded word's marker is pended. -/
def Trace.folded (t : Trace) (r : Raw) : Traced := .on { t with pend := t.pend || r.sw, pc := t.pc + 1 }

/-- An identity is applied (R342). -/
def Trace.applyIdent (t : Trace) (lim : Nat) (r : Raw) (i : Ident) (x : Byte) : Traced :=
  let h : Hdr := { noHdr with sw := r.sw }
  match i with
  | .zero => (t.know r.b4 0).folded r
  | .mov =>
    if fnSz r.fn == 3 && x == r.b4 then t.folded r
    else t.emitOn lim (rawR h 0x055 (fnOf (fnSz r.fn)) r.b4 x 0 0 0) true
  | .neg => t.emitOn lim (rawR h 0x03A (fnOf (fnSz r.fn)) r.b4 x 0 0 0) true

/-- A fold-class word. -/
def Trace.fold (t : Trace) (e : TraceEnv) (lim : Nat) (r : Raw) (known : Bool) : Traced :=
  if known && r.reads.all fun k => (t.reg k).isSome then
    if r.op == 0x0C0 || r.op == 0x0C1 then
      match e.s.earlyLoad e.cluster e.op t r with
      | none => .end_ t 2
      | some v => (t.know r.b4 v).folded r
    else match t.evaluate r with
      | .error _ => .end_ t 3
      | .ok (some t1) => t1.folded r
      | .ok none => t.emitOn lim r known
  else match (if known then t.ident r else none) with
    | some (i, x) => t.applyIdent lim r i x
    | none => t.emitOn lim r known

/-- One turn of the trace's loop. -/
def Trace.step (t0 : Trace) (e : TraceEnv) : Traced :=
  let d := fun i => e.op.dws.getD i (0 : Word)
  if e.src.size ≤ t0.pc then .end_ t0 4
  else match e.s.arenaKey e.op.iss.vol (e.src.base + 8 * t0.pc) with
    | none => .end_ t0 4
    | some k =>
      let r := Raw.ofWord (e.s.rdW k)
      let t := { t0 with steps := t0.steps + 1 }
      if specSteps d < t.steps then .end_ t 1
      else if !r.legal || supervisorOnly r.op.toNat then .end_ t 4
      else if t.unbound r then .end_ t 5
      else
        let known := (t.pred r).isSome
        if t.pred r == some false || r.op == 0 then t.folded r
        else if r.isControl then
          match (if known then t.control r else none) with
          | none => .end_ t 6
          | some (t1, n) => if n < 0 || (e.src.size : Int) ≤ n then .end_ t1 4
              else .on { t1 with pend := t1.pend || r.sw, pc := n.toNat }
        else if r.isTerminal then
          match t.emit (specLim d) r known e.live with
          | .ok t1 => .done t1
          | .error t1 => .end_ t1 1
        else if r.isFold then t.fold e (specLim d) r known
        else t.emitOn (specLim d) r known

/-- The trace; its step budget bounds the turns. -/
def traceFrom (e : TraceEnv) : Nat → Trace → Traced
  | 0, t => .end_ t 1
  | n + 1, t => match t.step e with
    | .on t1 => traceFrom e n t1
    | x => x

/-! ## The passes of R344 -/

/-- Propagate one copy over the words after it. -/
def propagate (d a : Nat) : List Raw → List Raw
  | [] => []
  | r :: rest =>
    if r.switches || r.isLong then r :: rest
    else
      let r1 := r.renameSrc d a
      if r1.writes.contains d || r1.writes.contains a then r1 :: rest else r1 :: propagate d a rest

/-- Copy propagation, over at most `n` words. -/
def copyPass : Nat → List Raw → List Raw
  | 0, ws => ws
  | _, [] => []
  | n + 1, r :: rest => r :: copyPass n (match r.copyOf with
    | some (d, a) => propagate d a rest
    | none => rest)

/-- What dead removal knows, going backward: registers written again before any read; registers that a result issued here would
reach before any read; the words kept; a marker that awaits the next remaining word is put on it at once. -/
structure Dead where
  dead : List Nat := []
  land : List Nat := []
  out  : List Raw := []
deriving DecidableEq, Repr

/-- Registers that a result issued just before a word reaches before any read: at a switch point it lands before the word reads (R73). A word
that is one by its description alone is none while it is predicated off, and then reads its predicate only (R31). -/
def Dead.landAt (x : Dead) (r : Raw) : List Nat :=
  let p := if r.pr == 0 then [] else [128 + r.pr.toNat]
  if r.sw || (r.pr == 0 && r.switches) then List.range 144
  else x.land.filter fun k => !(if r.switches then p else r.reads ++ p).contains k

/-- The effect of a kept word on what is known of the registers before it; a late result never lands at its own word. -/
def Dead.keep (x : Dead) (r : Raw) : Dead :=
  let rd := r.reads ++ (if r.pr == 0 then [] else [128 + r.pr.toNat])
  let dead0 := if r.pr != 0 then x.dead
    else if r.late then x.dead ++ (r.writes.filter x.land.contains)
    else x.dead ++ r.writes
  { dead := (dead0.filter fun k => !rd.contains k).eraseDups,
    land := x.landAt r, out := r :: x.out }

/-- One word, met backward. -/
def Dead.visit (x : Dead) (r : Raw) : Dead :=
  if r.droppable && r.writes.all x.dead.contains then
    { x with out := match x.out with
        | [] => []
        | y :: rest => { y with sw := y.sw || r.sw } :: rest }
  else x.keep r

/-- One pass of dead removal; `live` counts as read at the terminal, the last word. -/
def deadOnce (live : List Nat) (ws : List Raw) : List Raw :=
  match ws.reverse with
  | [] => []
  | term :: rest =>
    let x := ({} : Dead).keep term
    (rest.foldl Dead.visit { x with dead := x.dead.filter fun k => !live.contains k }).out

/-- Dead removal to its fixed point: a pass that removes nothing is the last, and a word fewer is left for each other. -/
def deadUntil (live : List Nat) : Nat → List Raw → List Raw
  | 0, ws => ws
  | n + 1, ws =>
    let r := deadOnce live ws
    if r.length == ws.length then r else deadUntil live n r

def deadPass (live : List Nat) (ws : List Raw) : List Raw := deadUntil live ws.length ws

/-! ## The operation (R345) -/

/-- Write doublewords 6 and 7 of the block; whether it failed. -/
def State.blockOut (s : State) (cluster : Nat) (o : SpecOp) (handle stats : Nat) : State × Bool :=
  match o.iss.place o.ptr 64 (rR + rW + rE) 64 with
  | .error _ => (s, true)
  | .ok (_, l) =>
    let r := s.engWrite cluster (l.plus 48) 16 (handle + stats * 2 ^ 64)
    match r.2 with
    | none => (r.1, false)
    | some _ => (s.engEither cluster (l.plus 48) 16 (handle + stats * 2 ^ 64), true)

/-- The operation is over: the hold on the source is released, the message is sent, the next operation starts. -/
def State.endSpec (s : State) (cluster : Nat) (o : SpecOp) (status : Nat) : State :=
  let c := s.cluster cluster
  let s1 := s.setCluster cluster { c with specs := c.specs.filter (·.id != o.id) }
  let s2 := s1.setSpace ((s1.spaceOf o.iss.vol).bump o.src (-1) 0)
  (s2.notify o.iss 5 o.tag (status * 2 ^ 40)).startSpec cluster

/-- Doubleword 7 of the block. -/
def specStats (emitted : Nat) (t : Trace) : Nat := emitted % 2 ^ 17 * 2 ^ 47 + t.steps % 2 ^ 21 * 2 ^ 26 + t.pc % 2 ^ 24

/-- A failure: handle 0 and the statistics; the spec gives no count of instructions when there is no residual (assumption 46). -/
def State.specFail (s : State) (cluster : Nat) (o : SpecOp) (t : Trace) (status : Nat) : State :=
  let (w, s1) := s.drawWord
  ((s1.blockOut cluster o 0 (specStats w.toNat t)).1).endSpec cluster o status

/-- A residual exists: its words are written, and its entry is PENDING (R326, R345); or there is no room for it, and the statistics
give its count. -/
def State.specPublish (s : State) (cluster : Nat) (o : SpecOp) (src : Entry) (t : Trace) (live : List Nat) : State :=
  let ws := deadPass live (copyPass t.out.length t.out)
  let vol := o.iss.vol
  let n := ws.length
  match s.placeCode vol (ws.map Raw.toWord) with
  | none => ((s.blockOut cluster o 0 (specStats n t)).1).endSpec cluster o 7
  | some (s1, i, gen, base) =>
    let s2 := s1.setSpace ((s1.spaceOf vol).setEntry i { gen := gen, state := 2, base := base, sgen := src.gen, sidx := o.src, size := n })
    let c := s2.cluster cluster
    (s2.setCluster cluster { c with specs := mapIf (·.id == o.id) (fun x => { x with taken := some (i, gen, base, specStats n t) }) c.specs }).push
      (.specRun cluster o.id)

/-- The block is written and the accession published; or the block cannot be written, and the entry, whose generation stays advanced
(R327), and its place are returned (R345). -/
def State.specEnd (s : State) (cluster : Nat) (o : SpecOp) (i gen base stats : Nat) : State :=
  let vol := o.iss.vol
  let e := (s.spaceOf vol).entry i
  match s.blockOut cluster o (gen * 2 ^ 48 + i * 2 ^ 32 + e.size) stats with
  | (s1, true) => (s1.setSpace ((s1.spaceOf vol).setEntry i { gen := gen })).endSpec cluster o 8
  | (s1, false) => (s1.publish vol i gen base e.size e.sgen e.sidx).endSpec cluster o 0

/-- The live registers and predicates of a block. -/
def specLive (d : Nat → Word) : List Nat :=
  maskRegs (d 3) (d 4) ++ ((List.range 16).filter fun k => k != 0 && (d 5).getLsbD k).map (128 + ·)

/-- The trace of an operation. -/
def State.specTrace (s : State) (cluster : Nat) (o : SpecOp) : Traced :=
  let d := fun i => o.dws.getD i (0 : Word)
  let early := maskRegs (d 1) (d 2)
  let regs := (List.range 144).map fun k => match early.findIdx? (· == k) with
    | some i => some ((o.early.getD i 0).toNat, false)
    | none => none
  let e : TraceEnv := { s := s, cluster := cluster, op := o, src := (s.spaceOf o.iss.vol).entry o.src, live := specLive d }
  traceFrom e (specSteps d + 1) { regs := regs }

/-- `SPEC_RUN`: the trace and the passes of the head of the queue; then its publication. -/
def execSpecRun (cluster op : Nat) (s : State) : Host.Outcome State Fault Refusal :=
  match (s.cluster cluster).specs.head? with
  | none => .next s
  | some o =>
    if o.id != op then .next s
    else match o.taken with
    | some (i, gen, base, stats) => .next (s.specEnd cluster o i gen base stats)
    | none => match s.specTrace cluster o with
      | .done t => .next (s.specPublish cluster o ((s.spaceOf o.iss.vol).entry o.src) t (specLive fun i => o.dws.getD i (0 : Word)))
      | .end_ t st => .next (s.specFail cluster o t st)
      | .on t => .next (s.specFail cluster o t 1)

end Sys2Proof.Machine
end

