-- ==== Sys2Proof/Machine/Sha3.lean ====
section
/-! DEFINITION. SHA3-256, which the spec names for the measurement registers and quotes (R419, R421); its steps are those of
the standard FIPS 202 (assumption 16). -/

namespace Sys2Proof.Machine.Sha3

open Sys2Proof

/-- The 25 lanes, lane x of plane y at index x + 5y. -/
abbrev Lanes := List (BitVec 64)

def lane (a : Lanes) (x y : Nat) : BitVec 64 := a.getD (x % 5 + 5 * (y % 5)) 0

/-- A lane for every place. -/
def table (f : Nat → Nat → BitVec 64) : Lanes := (List.range 25).map fun i => f (i % 5) (i / 5)

/-- The parity of column x, counted round from 0 to 4. -/
def column (a : Lanes) (x : Nat) : BitVec 64 := (List.range 5).foldl (fun p y => p ^^^ lane a x y) 0

/-- Each lane takes the parity of the column before it and of the column after it, turned by one. -/
def theta (a : Lanes) : Lanes := table fun x y => lane a x y ^^^ column a (x + 4) ^^^ (column a (x + 1)).rotateLeft 1

/-- The walk that meets every lane but (0, 0) once: from (1, 0), and from (x, y) to (y, 2x + 3y). -/
def walk : Nat → Nat → Nat → List (Nat × Nat)
  | 0, _, _ => []
  | n + 1, x, y => (x, y) :: walk n y ((2 * x + 3 * y) % 5)

/-- How far lane (x, y) is turned: the t-th lane of the walk (t from 1) by the t-th triangular number; (0, 0) stands. -/
def turns (x y : Nat) : Nat :=
  let t := (walk 24 1 0).idxOf (x, y) + 1
  if t ≤ 24 then t * (t + 1) / 2 % 64 else 0

/-- Turned lanes move from (x + 3y, x) to (x, y). -/
def rhoPi (a : Lanes) : Lanes :=
  table fun x y => (lane a (x + 3 * y) x).rotateLeft (turns ((x + 3 * y) % 5) x)

def chi (a : Lanes) : Lanes := table fun x y => lane a x y ^^^ (~~~ lane a (x + 1) y &&& lane a (x + 2) y)

/-- A shift register of 8 bits that is fed back by x⁸ + x⁶ + x⁵ + x⁴ + 1: its low bit at each of n steps from a value. -/
def feed : Nat → Nat → List Bool
  | 0, _ => []
  | n + 1, v => (v % 2 == 1) :: feed n (if 2 * v < 256 then 2 * v else (2 * v) ^^^ 0x171)

/-- What is added to lane 0 in a round, from the round's 7 bits of the shift register: bit j goes to place 2^j - 1. -/
def constant (bits : List Bool) : BitVec 64 :=
  (List.range 7).foldl (fun k j => if bits.getD j false then k ||| (1 <<< (2 ^ j - 1)) else k) 0

/-- The 24 rounds, each with its own 7 bits. -/
def rounds : Nat → List Bool → Lanes → Lanes
  | 0, _, a => a
  | n + 1, bits, a => rounds n (bits.drop 7) ((chi (rhoPi (theta a))).modifyHead (· ^^^ constant bits))

def permute (a : Lanes) : Lanes := rounds 24 (feed 168 1) a

/-- Bytes absorbed at a time. -/
def rate : Nat := 136

/-- Lane i of a block of bytes. -/
def blockLane (b : List Byte) (i : Nat) : BitVec 64 :=
  (List.range 8).foldl (fun (w : BitVec 64) j => w ||| ((b.getD (8 * i + j) 0).setWidth 64 <<< (8 * j))) 0

def absorb (a : Lanes) (b : List Byte) : Lanes := permute ((List.range 25).map fun i => a.getD i 0 ^^^ (if i < 17 then blockLane b i else 0))

/-- The last block: 0x06, zeros, and bit 7 of the last byte. -/
def pad (b : List Byte) : List Byte :=
  (List.range rate).map fun i => (if i < b.length then b.getD i 0 else if i == b.length then 0x06 else 0) ^^^ (if i == rate - 1 then 0x80 else 0)

/-- Absorb whole blocks, then the last one. -/
def run : Nat → Lanes → List Byte → Lanes
  | 0, a, b => absorb a (pad b)
  | n + 1, a, b => run n (absorb a (b.take rate)) (b.drop rate)

end Sys2Proof.Machine.Sha3

namespace Sys2Proof.Machine

open Sys2Proof

/-- SHA3-256 of some bytes: 32 bytes. -/
def sha3 (b : List Byte) : List Byte :=
  let a := Sha3.run (b.length / Sha3.rate) (List.replicate 25 0) b
  (List.range 32).map fun i => (a.getD (i / 8) 0).extractLsb' (8 * (i % 8)) 8

end Sys2Proof.Machine
end

