-- ==== Sys2Proof/Machine/Calls.lean ====
section
/-! DEFINITION. Twiyn RPC calls: their order, their replies (R394), and what every call meets before its effect (R415, R418). -/

namespace Sys2Proof.Machine

open Sys2Proof

/-! ## Calls and replies -/

/-- The call that a step answers. -/
def callOf : Instr → Option Call
  | .loadCode c _ => some c
  | .map c _ => some c
  | .unmap c _ _ _ => some c
  | .hostRead c _ _ => some c
  | .hostWrite c _ _ => some c
  | .hostLaunch c _ _ => some c
  | .hostPreempt c _ _ => some c
  | .answerPageRequest c _ _ => some c
  | .query c _ => some c
  | .repeatSelfTest c => some c
  | .identityKey c => some c
  | .deviceIdentifier c => some c
  | .temperaturePower c => some c
  | .firmwareUpdate c _ _ _ => some c
  | .attestationQuote c _ => some c
  | .unknownCommand c _ => some c
  | _ => none

/-- Send a message out of the device. -/
def State.sendHost (s : State) (o : OutMsg) : State := { s with net := { s.net with out := s.net.out ++ [o] } }

/-- The 32-byte header of a datagram (R394): command and call identifier, volume and argument bytes, status. -/
def rpcHead (command cid vol args status : Nat) : List Word :=
  [ofN (command % 2 ^ 16 * 2 ^ 48 + cid % 2 ^ 48), ofN (vol % 2 ^ 16 * 2 ^ 48 + args % 2 ^ 32), ofN status, 0]

/-- The header of a call's reply: the call's own command, identifier and volume, the bytes that follow, the status. -/
def replyHead (c : Call) (args status : Nat) : List Word := rpcHead c.command c.cid c.vol args status

def State.reply (s : State) (c : Call) (status : Nat) (words : List Word := []) : State :=
  s.sendHost (.reply c.session (replyHead c (8 * words.length) status) words)

def State.replyBytes (s : State) (c : Call) (bytes : List Byte) : State := s.sendHost (.replyBytes c.session (replyHead c bytes.length 0) bytes)

/-! ## The order of a session's calls -/

/-- An earlier call of the session is not over: an unmap, a firmware update or a self-test under way, or a call that waits. -/
def State.callBusy (s : State) (c : Call) : Bool :=
  let mine (d : Call) : Bool := d.session == c.session && d.cid != c.cid
  let earlier (i : Instr) : Bool := (callOf i).any fun d => d.session == c.session && decide (d.cid < c.cid)
  s.root.update.any mine || s.root.again.any mine || (s.tlbis.any fun x => x.host.any mine) || s.root.waiting.any earlier ||
  s.clk.due.any earlier

def insertCall (i : Instr) : List Instr → List Instr
  | [] => [i]
  | j :: r => if ((callOf i).map Call.cid).getD 0 < ((callOf j).map Call.cid).getD 0 then i :: j :: r else j :: insertCall i r

/-- Calls that waited are taken up again, those of each session in call-identifier order. -/
def State.releaseCalls (s : State) (which : Call → Bool) : State :=
  let go := s.root.waiting.filter fun i => (callOf i).any which
  let s1 : State := { s with root := { s.root with waiting := s.root.waiting.filter fun i => !(callOf i).any which } }
  (go.foldr insertCall []).foldl State.push s1

/-- A call that is answered later is answered: the session's next call is taken up. -/
def State.replyLate (s : State) (c : Call) (status : Nat) : State :=
  (s.reply c status).releaseCalls fun d => d.session == c.session

/-! ## What every call meets -/

/-- A call arrives: the most recent one over the management port says where reports go (R415); one that was put aside arrived before. -/
def State.heard (s : State) (c : Call) : State :=
  let old := s.root.known.contains c
  { s with root := { s.root with mgmt := if c.mgmt && !old then some c.session else s.root.mgmt, known := s.root.known.erase c } }

/-- The network engine and the data port that a call came by are up (R3). -/
def State.portsUp (s : State) (c : Call) : Bool :=
  s.isReady .net 0 && !s.isFenced .net 0 && s.isReady .port c.port && !s.isFenced .port c.port

/-- A call is not executed yet: during the root's self-test, before an earlier call of its session, a launch before the
circulation unit has reported, an update during another. -/
def State.callWaits (s : State) (i : Instr) (c : Call) : Bool :=
  match s.root.st with
  | .off => false
  | .testing => c.mgmt
  | .safe => c.mgmt && s.callBusy c
  | .passed => (c.mgmt || s.portsUp c) && (s.callBusy c || match i with
    | .hostLaunch _ _ _ => !(s.isReady .circ 0 || s.isFenced .circ 0)
    | .firmwareUpdate _ _ _ _ => s.root.update.isSome
    | _ => false)

/-- A step that comes to its turn: a call that may not be executed yet is put aside; nothing when it may. -/
def State.defer (s : State) (i : Instr) : Option State :=
  match callOf i with
  | none => none
  | some c =>
    if s.callWaits i c then
      let s1 := s.heard c
      some { s1 with root := { s1.root with waiting := s1.root.waiting ++ [i], known := s1.root.known ++ [c] } }
    else none

/-- A call that is executed: before power-on nothing hears it; over a data port only while the network engine and that port are up (R3); in the
safe state only the management port answers, with SAFE but for some queries (R418). Out of turn it has no effect. -/
def State.call (s : State) (c : Call) (safe : Bool) (f : State → State) : State :=
  let s1 := s.heard c
  match s.root.st with
  | .off => s
  | .testing => if c.mgmt then s1 else s
  | .safe => if !c.mgmt then s else if s.callBusy c then s1 else if !safe then s1.reply c 3 else if !c.argsOk then s1.reply c 2 else f s1
  | .passed => if !c.mgmt && !s.portsUp c then s else if s.callBusy c then s1 else if !c.argsOk then s1.reply c 2 else f s1

/-! ## Firmware updates (R409, R420) -/

/-- A cluster whose curator is not yet under an update's version: it is still switching, or has not reported and starts under it (R420). -/
def State.switching (s : State) (k : Nat) : Bool :=
  !s.isFenced .curator k && !s.clusterFenced k && ((s.cluster k).switch.isSome || !s.isReady .curator k)

/-- An update is answered once no cluster that is not fenced is still switching; its version is then the one that quotes report
(R423; assumption 68), and calls that waited for its end are taken up. -/
def State.checkUpdate (s : State) : State :=
  match s.root.update with
  | none => s
  | some c =>
    if (List.range Config.clusters).any s.switching then s
    else (State.reply { s with root := { s.root with update := none, next := none, ver := s.root.next.getD s.root.ver } } c 0).releaseCalls
      fun _ => true

/-! ## The supervisor program (R71, R201, R416) -/

/-- The curator installs a supervisor program for its cluster's cores. -/
def State.installSup (s : State) (cluster : Nat) (program : List Byte) : State := s.wrBytes (supKey (supVA cluster)) (program.take supSize)

/-! ## Reports (R415) -/

/-- Kind codes of a report. -/
def kindCode : FuncKind → Nat
  | .root => 0 | .core => 1 | .curator => 2 | .slice => 3 | .chip => 4 | .port => 5 | .circ => 6 | .net => 7 | .copy => 8 | .sel => 9
  | .red => 10 | .bind => 11 | .sfu => 12 | .annexif => 13 | .cluster => 14

/-- How many functions of a kind the module has. -/
def kindCount : FuncKind → Nat
  | .core => Config.cores
  | .port => 16
  | .chip => 8
  | .root | .circ | .net => 1
  | _ => Config.clusters

def reportWord (f : Func) (result : Nat) (diag : Nat) : Word :=
  ofN (kindCode f.kind * 2 ^ 60 + f.index % 2 ^ 12 * 2 ^ 48 + result * 2 ^ 40 + diag % 2 ^ 32)

/-- Send a report, and keep it. -/
def State.report (s : State) (f : Func) (result diag : Nat) : State :=
  let w := reportWord f result diag
  State.sendHost { s with root := { s.root with log := s.root.log ++ [w] } }
    (.report s.root.mgmt (rpcHead 0x8001 s.root.log.length 0 8 0) w)

/-! ## Measurement (R419) -/

/-- Extend a measurement register with an image's digest. -/
def State.extend (s : State) (i : Nat) (digest : List Byte) : State :=
  { s with root := { s.root with m := setAt s.root.m i (sha3 (s.root.m.getD i [] ++ digest)) } }

/-- Engines that load microcode, in the order of M3. -/
def microKinds : List FuncKind := [.copy, .sel, .red, .bind, .net]

/-- No function of a kind is left that could still load its microcode. -/
def State.kindGone (s : State) (k : FuncKind) : Bool :=
  (List.range (kindCount k)).all fun i => s.isFenced k i || (k != .net && s.clusterFenced i)

/-- Microcode is measured in the order copy engine, selection unit, redactor, bindery, network engine; a kind all of whose engines are fenced
before any image of theirs verified is passed over (R419; assumption 69). -/
def State.extendMicro (s : State) : State :=
  microKinds.zipIdx.foldl (fun (s : State) k =>
    if s.root.microN != k.2 then s
    else match s.root.micro.find? (·.1 == k.2) with
      | some (_, d) =>
        let s1 := s.extend 3 d
        { s1 with root := { s1.root with microN := k.2 + 1, micro := s1.root.micro.filter (·.1 != k.2) } }
      | none => if s.kindGone k.1 then { s with root := { s.root with microN := k.2 + 1 } } else s) s

end Sys2Proof.Machine
end

