-- ==== Sys2Proof/Machine/Sfn.lean ====
section
/-! DEFINITION. The special functions of R155 to R157: fixed-point values at 512 fraction bits, rounded once (assumption 12). -/

namespace Sys2Proof.Machine

open Sys2Proof

/-! ## Fixed-point numbers: an integer k stands for k ÷ 2^512 -/

def fxP : Nat := 512
def fxOne : Int := 2 ^ fxP
def fxMul (a b : Int) : Int := a * b / fxOne
def fxDiv (a b : Int) : Int := a * fxOne / b

/-- Integer square root by Newton's steps, from above. -/
def sqrtStep : Nat → Nat → Nat → Nat
  | 0, _, r => r
  | k + 1, n, r => let q := (r + n / r) / 2; if q < r then sqrtStep k n q else r

def natSqrt (n : Nat) : Nat := if n == 0 then 0 else sqrtStep 4000 n (2 ^ (Nat.log2 n / 2 + 1))

/-- √ of a fixed-point value. -/
def fxSqrt (a : Int) : Int := natSqrt (a.toNat * 2 ^ fxP)

/-- Σ z^(2i+1) ÷ (2i+1), with alternating signs when `alt`: atanh z, or atan z. -/
def oddSeries (alt : Bool) (z2 : Int) : Nat → Nat → Int → Int
  | 0, _, _ => 0
  | k + 1, i, p => (if alt && i % 2 == 1 then -(p / (2 * i + 1 : Nat)) else p / (2 * i + 1 : Nat)) + oddSeries alt z2 k (i + 1) (fxMul p z2)

def fxAtanh (z : Int) : Int := oddSeries false (fxMul z z) 180 0 z
def fxAtanSmall (z : Int) : Int := oddSeries true (fxMul z z) 120 0 z

def fxLn2 : Int := 2 * fxAtanh (fxOne / 3)

/-- π by Machin's formula. -/
def fxPi : Int := 16 * oddSeries true (fxOne / 25) 120 0 (fxOne / 5) - 4 * oddSeries true (fxOne / (239 * 239)) 40 0 (fxOne / 239)

/-- atan z for 0 ≤ z ≤ 1: three halvings of the angle, then the series. -/
def fxAtan (z : Int) : Int :=
  let half (z : Int) : Int := fxDiv z (fxOne + fxSqrt (fxOne + fxMul z z))
  8 * fxAtanSmall (half (half (half z)))

/-- Σ t^i ÷ i! from i on. -/
def expSeries (t : Int) : Nat → Nat → Int → Int
  | 0, _, _ => 0
  | k + 1, i, p => p + expSeries t k (i + 1) (fxMul p t / (i + 1 : Nat))

/-- e^t. -/
def fxExp (t : Int) : Int :=
  let k := t / fxLn2
  let r := expSeries (t - k * fxLn2) 110 0 fxOne
  if 0 ≤ k then r * 2 ^ k.toNat else r / 2 ^ (-k).toNat

/-- sin and cos of a reduced angle. -/
def trigSeries (t2 : Int) : Nat → Nat → Int → Int
  | 0, _, _ => 0
  | k + 1, i, p => p + trigSeries t2 k (i + 2) (-(fxMul p t2 / ((i + 1) * (i + 2) : Nat)))

def fxSin (t : Int) : Int := trigSeries (fxMul t t) 60 1 t
def fxCos (t : Int) : Int := trigSeries (fxMul t t) 60 0 fxOne

/-- sin (or cos) of any angle below 2^24: reduction by multiples of π/2. -/
def fxTrig (cos : Bool) (x : Int) : Int :=
  let h := fxPi / 2
  let n := (x + h / 2) / h
  let r := x - n * h
  let q := ((n + (if cos then 1 else 0)) % 4).toNat
  match q with
  | 0 => fxSin r | 1 => fxCos r | 2 => -fxSin r | _ => -fxCos r

/-- The fixed-point value of m · 2^e. -/
def fxOf (m : Nat) (e : Int) : Int :=
  let s := e + fxP
  if 0 ≤ s then m * 2 ^ s.toNat else m / 2 ^ (-s).toNat

/-- A value that no f32 represents exactly, as a magnitude: half a unit is added so that it rounds as inexact. -/
def fxMag (a : Int) : Mag := { n := 2 * a.natAbs + 1, d := 1, e := -(fxP : Int) - 1 }

/-! ## The functions on f32 values -/

/-- An f32 result: code and flags. -/
def r32 (rm : Rm) (neg : Bool) (x : Mag) : Nat × FlagWord := fpF32.deliver rm false neg x

def rFx (a : Int) : Nat × FlagWord := r32 .rne (decide (a < 0)) (fxMag a)

def nan32 (inv : Bool) : Nat × FlagWord := nanResult fpF32 inv
def inf32 (neg : Bool) (fl : FlagWord := 0) : Nat × FlagWord := (fpF32.signed neg 0x7F800000, fl)
def zero32 (neg : Bool) : Nat × FlagWord := (fpF32.signed neg 0, 0)

def sfRcp (rm : Rm) : Num → Nat × FlagWord
  | .nan s => nan32 s
  | .inf n => zero32 n
  | .fin n m e => if m == 0 then inf32 n flDz else r32 rm n { n := 1, d := m, e := -e }

/-- √(m · 2^e) with an even exponent: 600 more bits, and a last bit that says whether it was exact. -/
def sqrtMag (m : Nat) (e : Int) : Mag :=
  let odd := e % 2 != 0
  let m1 := (if odd then 2 * m else m) * 2 ^ 600
  let e1 := (if odd then e - 1 else e) - 600
  let r := natSqrt m1
  { n := 2 * r + (if r * r == m1 then 0 else 1), d := 1, e := e1 / 2 - 1 }

def sfSqrt (rm : Rm) : Num → Nat × FlagWord
  | .nan s => nan32 s
  | .inf n => if n then nan32 true else inf32 false
  | .fin n m e => if m == 0 then zero32 n else if n then nan32 true else r32 rm false (sqrtMag m e)

/-- 1 ÷ √(m · 2^e), truncated at 600 more bits with a sticky last bit. -/
def rsqrtMag (m : Nat) (e : Int) : Mag :=
  let odd := e % 2 != 0
  let m1 := if odd then 2 * m else m
  let e1 := if odd then e - 1 else e
  let q := 2 ^ 1200 / m1
  let r := natSqrt q
  { n := 2 * r + (if r * r * m1 == 2 ^ 1200 then 0 else 1), d := 1, e := -600 - 1 - e1 / 2 }

def sfRsqrt : Num → Nat × FlagWord
  | .nan s => nan32 s
  | .inf n => if n then nan32 true else zero32 false
  | .fin n m e => if m == 0 then inf32 n flDz else if n then nan32 true else r32 .rne false (rsqrtMag m e)

/-- 2^x: exact at integers. -/
def sfExp2 : Num → Nat × FlagWord
  | .nan s => nan32 s
  | .inf n => if n then zero32 false else inf32 false
  | .fin n m e =>
    if m == 0 then (0x3F800000, 0)
    else if 160 * 2 ^ 200 ≤ fxOf m (e + 200 - fxP) then
      r32 .rne false { n := 1, d := 1, e := if n then -200 else 129 }
    else if 200 < e then r32 .rne false { n := 1, d := 1, e := if n then -200 else 129 }
    else
      let x := if n then -fxOf m e else fxOf m e
      let k := x / fxOne
      let f := x - k * fxOne
      if f == 0 then r32 .rne false { n := 1, d := 1, e := k }
      else
        let g := fxMag (fxExp (fxMul f fxLn2))
        r32 .rne false { g with e := g.e + k }

def sfLog2 : Num → Nat × FlagWord
  | .nan s => nan32 s
  | .inf n => if n then nan32 true else inf32 false
  | .fin n m e =>
    if m == 0 then inf32 true flDz
    else if n then nan32 true
    else
      let l := Nat.log2 m
      let k : Int := (l : Int) + e
      if m == 2 ^ l then
        (if k == 0 then zero32 false else r32 .rne (decide (k < 0)) { n := k.natAbs, d := 1, e := 0 })
      else
        let y := fxOf m (-(l : Int))
        rFx (k * fxOne + fxDiv (2 * fxAtanh (fxDiv (y - fxOne) (y + fxOne))) fxLn2)

def sfTrig (cos : Bool) : Num → Nat × FlagWord
  | .nan s => nan32 s
  | .inf _ => nan32 true
  | .fin n m e =>
    if m == 0 then (if cos then (0x3F800000, 0) else zero32 n)
    else if 24 ≤ (Nat.log2 m : Int) + e then (fpF32.cnan, flRange)
    else
      let x := fxOf m e
      rFx (fxTrig cos (if n then -x else x))

/-- The magnitude of an argument, no more than a bound past which the rounded result no longer changes. -/
def fxClamp (m : Nat) (e : Int) (bound : Nat) : Int :=
  if 20 ≤ (Nat.log2 m : Int) + e then bound * fxOne else min (fxOf m e) (bound * fxOne)

def sfTanh : Num → Nat × FlagWord
  | .nan s => nan32 s
  | .inf n => (fpF32.signed n 0x3F800000, 0)
  | .fin n m e =>
    if m == 0 then zero32 n
    else
      let u := fxExp (-2 * fxClamp m e 150)
      let y := fxDiv (fxOne - u) (fxOne + u)
      rFx (if n then -y else y)

def sfSigm : Num → Nat × FlagWord
  | .nan s => nan32 s
  | .inf n => if n then zero32 false else (0x3F800000, 0)
  | .fin n m e =>
    if m == 0 then (0x3F000000, 0)
    else
      let x := fxClamp m e 200
      if n then (let u := fxExp (-x); rFx (fxDiv u (fxOne + u)))
      else rFx (fxDiv fxOne (fxOne + fxExp (-x)))

/-- ± a multiple of π ÷ 4. -/
def piFrac (neg : Bool) (k : Nat) : Nat × FlagWord := rFx (if neg then -(k * fxPi / 4) else k * fxPi / 4)

/-- The quotient of two magnitudes, at most 1. -/
def fxQuot (m1 : Nat) (e1 : Int) (m2 : Nat) (e2 : Int) : Int :=
  let s := e1 - e2 + fxP
  if 0 ≤ s then (m1 * 2 ^ s.toNat / m2 : Nat) else (m1 / (m2 * 2 ^ (-s).toNat) : Nat)

/-- atan2(y, x) of IEEE 754-2019, clause 9.2 (R156). -/
def sfAtan2 (y x : Num) : Nat × FlagWord :=
  match y, x with
  | .nan s, z => nan32 (s || isSig z)
  | _, .nan s => nan32 s
  | .inf n, .inf nx => piFrac n (if nx then 3 else 1)
  | .inf n, .fin _ _ _ => piFrac n 2
  | .fin n _ _, .inf nx => if nx then piFrac n 4 else zero32 n
  | .fin n m e, .fin nx mx ex =>
    if m == 0 then (if nx then piFrac n 4 else zero32 n)
    else if mx == 0 then piFrac n 2
    else
      let less := Mag.lt { n := m, e := e } { n := mx, e := ex }
      let a := if less then fxAtan (fxQuot m e mx ex) else fxPi / 2 - fxAtan (fxQuot mx ex m e)
      let b := if nx then fxPi - a else a
      rFx (if n then -b else b)

/-- Function number fn of R155 on f32 operands. -/
def sfn32 (fn : Nat) (rm : Rm) (a b : Num) : Nat × FlagWord :=
  match fn with
  | 0 => sfRcp rm a | 1 => sfSqrt rm a | 2 => sfRsqrt a | 3 => sfExp2 a | 4 => sfLog2 a
  | 5 => sfTrig false a | 6 => sfTrig true a | 7 => sfTanh a | 8 => sfSigm a
  | _ => sfAtan2 a b

/-- `sfn` in f32, bf16 or f16: for the narrow formats the f32 result is rounded once more under RNE (R155). -/
def sfnValue (fn : Nat) (rm : Rm) (f : Fmt) (a b : Nat) : Nat × FlagWord :=
  let p := (fpOf f).getD fpF32
  let r := sfn32 fn rm (p.value (a % 2 ^ p.w)) (p.value (b % 2 ^ p.w))
  match f with
  | .f32 => r
  | _ =>
    let q := conv f .rne false (fpF32.value r.1)
    -- a second rounding cannot be exact where the first was not: inexact stays
    (q.1, q.2 ||| r.2)

end Sys2Proof.Machine
end

