-- ==== Sys2Proof/Machine/Vector.lean ====
section
/-! DEFINITION. The vector unit (R129 to R146, R64 to R67) and the special-function ring (R153 to R158). -/

namespace Sys2Proof.Machine

open Sys2Proof

/-! ## Elements -/

/-- Apply an operation to elements; the flags of all are joined (R131). -/
def mapElems {α : Type} (f : Fmt) (g : α → Nat × FlagWord) (xs : List α) : Vec × FlagWord :=
  let r := xs.map g
  (BitVec.ofNat 512 (packElems f [] (r.map (·.1))), r.foldl (fun a x => a ||| x.2) 0)

/-- The element codes of field B: a register, or the broadcast element (R131). -/
def Ctx.vb (c : Ctx) (f : Fmt) : VG → List Nat
  | .v r => elems f (c.v r).toNat
  | .g r => List.replicate (fmtCount f) ((c.g r).toNat % 2 ^ fmtWidth f)

/-- The rounding code or overflow mode in FN[45:44]. -/
def modeRm (m : BitVec 2) : Rm := Rm.ofCode m.toNat
def modeOvf (m : BitVec 2) : Ovf := (Ovf.ofCode m.toNat).getD .wrap

/-- Elementwise arithmetic of two operands: floats as R133, integers as R134. -/
def arith2 (f : VfF) (fp : FP → Rm → Num → Num → Nat × FlagWord) (int : Int → Int → Int) (x y : Nat) : Nat × FlagWord :=
  match fpOf f.fmt with
  | some p => fp p (modeRm f.mode) (p.value x) (p.value y)
  | none =>
    let o := modeOvf f.mode
    let n := fmtWidth f.fmt
    saDeliver o n (int (saRead o n x) (saRead o n y))

/-- `vmin` and `vmax` of an element. -/
def minMax2 (f : VfF) (isMax : Bool) (x y : Nat) : Nat × FlagWord :=
  match fpOf f.fmt with
  | some p => fpMinMax p isMax x y
  | none =>
    let n := fmtWidth f.fmt
    let lt := if modeOvf f.mode == .us then decide (x % 2 ^ n < y % 2 ^ n) else decide (sxNat n x < sxNat n y)
    (if lt == isMax then y else x, 0)

/-- `vabs` and `vneg` of a floating element (R133). -/
def signOp (p : FP) (g : Bool → Bool) (x : Nat) : Nat × FlagWord :=
  match p.value x with
  | .nan s => nanResult p s
  | _ => (p.signed (g (x / 2 ^ (p.w - 1) % 2 == 1)) (x % 2 ^ (p.w - 1)), 0)

/-- A vector result from vA and B. -/
def vec2 (i : Instr) (h : Hdr) (f : Fmt) (d a : Fin 16) (b : VG) (g : Nat → Nat → Nat × FlagWord) (s : State) :
    Host.Outcome State Fault Refusal :=
  issue { h := h, word := wordOf i, src := vgSrc b, vsrc := a :: vgVec b, vdst := [d] } s fun c =>
    let r := mapElems f (fun p : Nat × Nat => g p.1 p.2) ((elems f (c.v a).toNat).zip (c.vb f b))
    .go (c.putV d r.1 r.2)

/-- A vector result from vA alone. -/
def vec1 (i : Instr) (h : Hdr) (f : Fmt) (d a : Fin 16) (g : Nat → Nat × FlagWord) (s : State) : Host.Outcome State Fault Refusal :=
  issue { h := h, word := wordOf i, vsrc := [a], vdst := [d] } s fun c =>
    let r := mapElems f g (elems f (c.v a).toNat)
    .go (c.putV d r.1 r.2)

/-- A bitwise operation on all 512 bits; a broadcast repeats 64 bits eight times (R135). -/
def vecBits (i : Instr) (h : Hdr) (d a : Fin 16) (b : VG) (g : Vec → Vec → Vec) (s : State) : Host.Outcome State Fault Refusal :=
  issue { h := h, word := wordOf i, src := vgSrc b, vsrc := a :: vgVec b, vdst := [d] } s fun c =>
    let y : Vec := match b with
      | .v r => c.v r
      | .g r => BitVec.ofNat 512 (packN 64 (List.replicate 8 (c.g r).toNat))
    .go (c.putV d (g (c.v a) y))

/-- A condition of `vcmp` on elements (R136). -/
def vcmpElem (cc : VCc) (f : Fmt) (x y : Nat) : Bool × FlagWord :=
  match fpOf f with
  | some p =>
    let a := p.value x
    let b := p.value y
    let un := isNan a || isNan b
    let sig := flagIf (isSig a || isSig b) flInvalid
    match cc with
    | .eq => (!un && numEq a b, sig)
    | .ne => (un || !numEq a b, sig)
    | .lt => (!un && numLt false a b, flagIf un flInvalid)
    | .ge => (!un && !numLt false a b, flagIf un flInvalid)
    | .un => (un, sig)
    | .ltu | .geu => (false, 0)
  | none =>
    let n := fmtWidth f
    let c := fun k => (ccHolds k n x y, (0 : FlagWord))
    match cc with
    | .eq => c .eq | .ne => c .ne | .lt => c .lt | .ge => c .ge | .ltu => c .ltu | .geu => c .geu
    | .un => (false, 0)

/-! ## Spanning instructions (R139 to R141, R150) -/

/-- `vperm`: elements of the concatenated vA chosen by the member's own vB. -/
def permValue (f : Fmt) (all own : List Nat) : Nat :=
  packElems f [] (own.map fun j => all.getD (j % all.length) 0)

/-- One step of `vred`. -/
def redStep (op : RedOp) (f : VfF) (a x : Nat × FlagWord) : Nat × FlagWord :=
  let r := match op with
    | .add => arith2 f fpAdd (· + ·) a.1 x.1
    | .min => minMax2 f false a.1 x.1
    | .max => minMax2 f true a.1 x.1
  (r.1, a.2 ||| r.2)

/-- `vred` (R140): floats step by step; an integer sum is exact and delivered once. -/
def redValue (op : RedOp) (f : VfF) (xs : List Nat) : Nat × FlagWord :=
  match fpOf f.fmt, op with
  | none, .add =>
    let n := fmtWidth f.fmt
    let o := modeOvf f.mode
    saDeliver o n (xs.foldl (fun a x => a + saRead o n x) 0)
  | _, _ => match xs with
    | [] => (0, 0)
    | x :: r => r.foldl (fun a y => redStep op f a (y, 0)) (x, 0)

/-- The exact sum of finite products, as a signed integer multiple of 2^e. -/
def sumProducts (ps : List Num) (e : Int) : Int :=
  ps.foldl (fun a p => match p with
    | .fin n m x => let v : Int := (m * 2 ^ (x - e).toNat : Nat); a + (if n then -v else v)
    | _ => a) 0

/-- `vdot` (R141). -/
def dotValue (f : VfF) (as bs : List Nat) : Nat × FlagWord :=
  match fpOf f.fmt with
  | none =>
    let n := fmtWidth f.fmt
    (wrapN 64 (((as.zip bs).map fun p => sxNat n p.1 * sxNat n p.2).foldl (· + ·) 0), 0)
  | some p =>
    let xs := (as.zip bs).map fun q => (p.value q.1, p.value q.2)
    let sig := xs.any fun q => isSig q.1 || isSig q.2
    let nan := xs.any fun q => isNan q.1 || isNan q.2
    let ps := xs.map fun q => mulNum q.1 q.2
    let zeroInf := ps.any fun q => q == none
    let ps := ps.filterMap id
    let pinf := ps.any (· == .inf false)
    let ninf := ps.any (· == .inf true)
    if nan then nanResult fpF32 (sig || zeroInf || (pinf && ninf))
    else if zeroInf || (pinf && ninf) then nanResult fpF32 true
    else if pinf || ninf then (fpF32.signed ninf 0x7F800000, 0)
    else
      let e := ps.foldl (fun a q => match q with | .fin _ _ x => if x < a then x else a | _ => a) 0
      let t := sumProducts ps e
      let rm := modeRm f.mode
      if t == 0 then
        let allNeg := ps.all fun q => match q with | .fin n m _ => n && m == 0 | _ => false
        (fpF32.signed (allNeg || rm == .rdn) 0, 0)
      else fpF32.deliver rm false (decide (t < 0)) { n := t.natAbs, d := 1, e := e }

/-- The result of a spanning instruction for one member, from the members' sources in member order. -/
def spanValue (i : Instr) (parts : List SpanPart) (own : SpanPart) : Vec × FlagWord :=
  let cat (f : Fmt) (g : SpanPart → Vec) : List Nat := parts.flatMap fun p => elems f (g p).toNat
  match i with
  | .vperm _ f _ _ _ => (BitVec.ofNat 512 (permValue f (cat f (·.a)) (elems f own.b.toNat)), 0)
  | .vred _ op f _ _ => let r := redValue op f (cat f.fmt (·.a)); (BitVec.ofNat 512 r.1, r.2)
  | .vdot _ f _ _ _ => let r := dotValue f (cat f.fmt (·.a)) (cat f.fmt (·.b)); (BitVec.ofNat 512 r.1, r.2)
  | _ => (0, 0)

/-- Sort the parts by member. -/
def sortParts (ps : List SpanPart) : List SpanPart := (List.range 8).flatMap fun i => ps.filter (·.idx == i)

/-- A spanning instruction: at once alone, or as a part of its group's operation. -/
def spanning (i : Instr) (d : Dest) (a b : Vec) (put : Ctx → Vec → FlagWord → Ctx) (c : Ctx) : Out :=
  if c.t.group == 0 then
    let me : SpanPart := { idx := c.t.colI, uid := c.t.uid, op := none, a := a, b := b }
    let r := spanValue i [me] me
    .go (put c r.1 r.2)
  else
    let r := c.op d
    .go (r.2.joinSpan i (some r.1) a b)

/-! ## Meanings -/

/-- `vadd` (R133, R134). -/
def execVadd (h : Hdr) (f : VfF) (d a : Fin 16) (b : VG) (s : State) : Host.Outcome State Fault Refusal :=
  vec2 (.vadd h f d a b) h f.fmt d a b (arith2 f fpAdd (· + ·)) s

/-- `vsub` (R133, R134). -/
def execVsub (h : Hdr) (f : VfF) (d a : Fin 16) (b : VG) (s : State) : Host.Outcome State Fault Refusal :=
  vec2 (.vsub h f d a b) h f.fmt d a b (arith2 f (fun p rm x y => fpAdd p rm x (negNum y)) (· - ·)) s

/-- `vmul` (R133, R134). -/
def execVmul (h : Hdr) (f : VfF) (d a : Fin 16) (b : VG) (s : State) : Host.Outcome State Fault Refusal :=
  vec2 (.vmul h f d a b) h f.fmt d a b (arith2 f fpMul (· * ·)) s

/-- `vfma`: one rounding per element (R133). -/
def execVfma (h : Hdr) (f : VfF) (d a : Fin 16) (b : VG) (c : Fin 16) (s : State) : Host.Outcome State Fault Refusal :=
  issue { h := h, word := wordOf (.vfma h f d a b c), src := vgSrc b, vsrc := a :: c :: vgVec b, vdst := [d] } s fun x =>
    let p := fpFor f.fmt
    let r := mapElems f.fmt (fun q : Nat × Nat × Nat => fpFma p (modeRm f.mode) (p.value q.1) (p.value q.2.1) (p.value q.2.2))
      ((elems f.fmt (x.v a).toNat).zip ((x.vb f.fmt b).zip (elems f.fmt (x.v c).toNat)))
    .go (x.putV d r.1 r.2)

/-- `vmin` (R133, R134). -/
def execVmin (h : Hdr) (f : VfF) (d a : Fin 16) (b : VG) (s : State) : Host.Outcome State Fault Refusal :=
  vec2 (.vmin h f d a b) h f.fmt d a b (minMax2 f false) s

/-- `vmax` (R133, R134). -/
def execVmax (h : Hdr) (f : VfF) (d a : Fin 16) (b : VG) (s : State) : Host.Outcome State Fault Refusal :=
  vec2 (.vmax h f d a b) h f.fmt d a b (minMax2 f true) s

/-- `vabs`: an integer operand is always signed (R113, R133, R134). -/
def execVabs (h : Hdr) (f : VfF) (d a : Fin 16) (s : State) : Host.Outcome State Fault Refusal :=
  vec1 (.vabs h f d a) h f.fmt d a (fun x => match fpOf f.fmt with
    | some p => signOp p (fun _ => false) x
    | none => saDeliver (modeOvf f.mode) (fmtWidth f.fmt) (sxNat (fmtWidth f.fmt) x).natAbs) s

/-- `vneg` (R133, R134). -/
def execVneg (h : Hdr) (f : VfF) (d a : Fin 16) (s : State) : Host.Outcome State Fault Refusal :=
  vec1 (.vneg h f d a) h f.fmt d a (fun x => match fpOf f.fmt with
    | some p => signOp p (!·) x
    | none => saDeliver (modeOvf f.mode) (fmtWidth f.fmt) (-(saRead (modeOvf f.mode) (fmtWidth f.fmt) x))) s

/-- `vand` (R135). -/
def execVand (h : Hdr) (d a : Fin 16) (b : VG) (s : State) : Host.Outcome State Fault Refusal :=
  vecBits (.vand h d a b) h d a b (· &&& ·) s

/-- `vor` (R135). -/
def execVor (h : Hdr) (d a : Fin 16) (b : VG) (s : State) : Host.Outcome State Fault Refusal :=
  vecBits (.vor h d a b) h d a b (· ||| ·) s

/-- `vxor` (R135). -/
def execVxor (h : Hdr) (d a : Fin 16) (b : VG) (s : State) : Host.Outcome State Fault Refusal :=
  vecBits (.vxor h d a b) h d a b (· ^^^ ·) s

/-- `vshl` (R135). -/
def execVshl (h : Hdr) (f : Fmt) (d a : Fin 16) (b : VG) (s : State) : Host.Outcome State Fault Refusal :=
  vec2 (.vshl h f d a b) h f d a b (fun x y => (shlN (fmtWidth f) x y, 0)) s

/-- `vshr` (R135). -/
def execVshr (h : Hdr) (f : Fmt) (d a : Fin 16) (b : VG) (s : State) : Host.Outcome State Fault Refusal :=
  vec2 (.vshr h f d a b) h f d a b (fun x y => (shrN (fmtWidth f) x y, 0)) s

/-- `vsar` (R135). -/
def execVsar (h : Hdr) (f : Fmt) (d a : Fin 16) (b : VG) (s : State) : Host.Outcome State Fault Refusal :=
  vec2 (.vsar h f d a b) h f d a b (fun x y => (sarN (fmtWidth f) x y, 0)) s

/-- `vcmp`: a mask of the elements (R136). -/
def execVcmp (h : Hdr) (cc : VCc) (f : Fmt) (d : GOp) (a : Fin 16) (b : VG) (s : State) : Host.Outcome State Fault Refusal :=
  issue { h := h, word := wordOf (.vcmp h cc f d a b), src := vgSrc b, dst := [d], vsrc := a :: vgVec b } s fun c =>
    let r := ((elems f (c.v a).toNat).zip (c.vb f b)).map fun p => vcmpElem cc f p.1 p.2
    .go (c.put d (ofN (packN 1 (r.map fun x => if x.1 then 1 else 0))) (r.foldl (fun z x => z ||| x.2) 0))

/-- `vsel` (R137). -/
def execVsel (h : Hdr) (f : Fmt) (d a b : Fin 16) (c : GOp) (s : State) : Host.Outcome State Fault Refusal :=
  issue { h := h, word := wordOf (.vsel h f d a b c), src := [c], vsrc := [a, b], vdst := [d] } s fun x =>
    let m := x.g c
    let es := ((elems f (x.v a).toNat).zip (elems f (x.v b).toNat)).zipIdx
    .go (x.putV d (BitVec.ofNat 512 (packElems f [] (es.map fun e => if m.getLsbD e.2 then e.1.1 else e.1.2))))

/-- `vbc` (R137). -/
def execVbc (h : Hdr) (f : Fmt) (d : Fin 16) (a : GOp) (s : State) : Host.Outcome State Fault Refusal :=
  issue { h := h, word := wordOf (.vbc h f d a), src := [a], vdst := [d] } s fun c =>
    .go (c.putV d (BitVec.ofNat 512 (packElems f [] (List.replicate (fmtCount f) (c.g a).toNat))))

/-- `vget` (R138). -/
def execVget (h : Hdr) (f : Fmt) (d : GOp) (a : Fin 16) (idx : BitVec 6) (s : State) : Host.Outcome State Fault Refusal :=
  issue { h := h, word := wordOf (.vget h f d a idx), dst := [d], vsrc := [a] } s fun c =>
    .go (c.put d (ofN (elemN (fmtWidth f) (c.v a).toNat idx.toNat)))

/-- `vput`: the other elements are unchanged (R138). -/
def execVput (h : Hdr) (f : Fmt) (d : Fin 16) (a : GOp) (idx : BitVec 6) (s : State) : Host.Outcome State Fault Refusal :=
  issue { h := h, word := wordOf (.vput h f d a idx), src := [a], vsrc := [d], vdst := [d] } s fun c =>
    .go (c.putV d (BitVec.ofNat 512 (packElems f [] (setAt (elems f (c.v d).toNat) idx.toNat (c.g a).toNat))))

/-- `vperm` (R139). -/
def execVperm (h : Hdr) (f : Fmt) (d a b : Fin 16) (s : State) : Host.Outcome State Fault Refusal :=
  issue { h := h, word := wordOf (.vperm h f d a b), vsrc := [a, b], vdst := [d], span := some (.vperm h f d a b) } s fun c =>
    spanning (.vperm h f d a b) (.v d) (c.v a) (c.v b) (fun c v fl => c.putV d v fl) c

/-- `vred` (R140). -/
def execVred (h : Hdr) (op : RedOp) (f : VfF) (d : GOp) (a : Fin 16) (s : State) : Host.Outcome State Fault Refusal :=
  issue { h := h, word := wordOf (.vred h op f d a), dst := [d], vsrc := [a], span := some (.vred h op f d a) } s fun c =>
    spanning (.vred h op f d a) (c.dest d) (c.v a) 0 (fun c v fl => c.put d (v.extractLsb' 0 64) fl) c

/-- `vdot` (R141). -/
def execVdot (h : Hdr) (f : VfF) (d : GOp) (a b : Fin 16) (s : State) : Host.Outcome State Fault Refusal :=
  issue { h := h, word := wordOf (.vdot h f d a b), dst := [d], vsrc := [a, b], span := some (.vdot h f d a b) } s fun c =>
    spanning (.vdot h f d a b) (c.dest d) (c.v a) (c.v b) (fun c v fl => c.put d (v.extractLsb' 0 64) fl) c

/-- `vcvt` (R64); AMAX takes the sources (R63). -/
def execVcvt (h : Hdr) (cv : CvF) (d a : Fin 16) (s : State) : Host.Outcome State Fault Refusal :=
  issue { h := h, word := wordOf (.vcvt h cv d a), vsrc := [a], vdst := [d] } s fun c =>
    let r := vcvt cv.df cv.sf cv.rm cv.sat c.t.amax.toNat (c.v a).toNat
    .go ({ c with t := { c.t with amax := BitVec.ofNat 32 r.2.2 } }.putV d (BitVec.ofNat 512 r.1) r.2.1)

/-- `vqnt` (R65); AMAX takes the sources (R63). -/
def execVqnt (h : Hdr) (fine : Bool) (df : Fmt) (d a : Fin 16) (b : GOp) (s : State) : Host.Outcome State Fault Refusal :=
  issue { h := h, word := wordOf (.vqnt h fine df d a b), src := [b], vsrc := [a], vdst := [d], chg := true } s fun c =>
    let r := vqnt fine df c.t.amax.toNat (c.v a).toNat (c.g b).toNat
    .go ({ c with t := { c.t with amax := BitVec.ofNat 32 r.2.2 } }.putV d (BitVec.ofNat 512 r.1) r.2.1)

/-- `vdeq`, rounding by `rmod` (R66). -/
def execVdeq (h : Hdr) (sf : Fmt) (d a : Fin 16) (b : GOp) (s : State) : Host.Outcome State Fault Refusal :=
  issue { h := h, word := wordOf (.vdeq h sf d a b), src := [b], vsrc := [a], vdst := [d], rdS := [13] } s fun c =>
    let r := vdeq sf (modeRm c.t.rmod) (c.v a).toNat (c.g b).toNat
    .go (c.putV d (BitVec.ofNat 512 r.1) r.2)

/-- `amxrd` (R67). -/
def execAmxrd (h : Hdr) (d : GOp) (s : State) : Host.Outcome State Fault Refusal :=
  issue { h := h, word := wordOf (.amxrd h d), dst := [d] } s fun c => .go (c.put d (c.t.amax.setWidth 64))

/-- `amxsw` (R67). -/
def execAmxsw (h : Hdr) (d a : GOp) (s : State) : Host.Outcome State Fault Refusal :=
  issue { h := h, word := wordOf (.amxsw h d a), src := [a], dst := [d], chg := true } s fun c =>
    let v := (c.g a).toNat % 2 ^ 31
    let nan := isNan (fpF32.value v)
    let c1 := { c with t := { c.t with amax := BitVec.ofNat 32 (if nan then 0 else v) } }
    .go (c1.put d (c.t.amax.setWidth 64) (flagIf nan flInvalid))

/-! ## Vector memory (R142 to R146) -/

/-- A class under R75 from RX. -/
def memClass (rx : Bool) : OpClass := if rx then .relaxed else .ordered

/-- Eight doubleword parts from a place. -/
def parts8 (l : Loc) (v : Vec) : List Part := (List.range 8).map fun i => partAt (l.plus (8 * i)) 8 (v.extractLsb' (64 * i) 64)

/-- A 64-byte vector access at [sN + gA + disp]. -/
def vecMem (i : Instr) (h : Hdr) (rx : Bool) (ord : MOrd) (seg : Fin 8) (disp : BitVec 20) (d : Fin 16) (a : GOp) (store : Bool)
    (kind : Ctx → AccKind) (data : Vec → Vec) (s : State) (rdS : List Nat := []) : Host.Outcome State Fault Refusal :=
  issue { h := h, word := wordOf i, src := [a], vsrc := if store then [d] else [], vdst := if store then [] else [d], rdS := rdS,
          self := ord == .rel, rel := ord == .rel, long := true, cls := memClass rx, access := true } s fun c =>
    match c.place seg.val (c.offM a disp) 64 (if store then rW else rR) 64 with
    | .error e => .fault { e with access := 5, size := 6 }
    | .ok l =>
      let v := if store then data (c.v d) else 0
      .go (c.send (kind c) (if store then .none else .v d) (memClass rx) (ord == .acq) (parts8 l v)).2

/-- `vld` (R143). -/
def execVld (h : Hdr) (m : MemF) (d : Fin 16) (a : GOp) (s : State) : Host.Outcome State Fault Refusal :=
  vecMem (.vld h m d a) h m.rx m.ord m.seg m.disp d a false (fun _ => .vld) id s

/-- `vst` (R143). -/
def execVst (h : Hdr) (m : MemF) (d : Fin 16) (a : GOp) (s : State) : Host.Outcome State Fault Refusal :=
  vecMem (.vst h m d a) h m.rx m.ord m.seg m.disp d a true (fun _ => .vst) id s

/-- `vldf`: a folio, converted under `rmod` (R144). -/
def execVldf (h : Hdr) (m : FolF) (d : Fin 16) (a : GOp) (s : State) : Host.Outcome State Fault Refusal :=
  vecMem (.vldf h m d a) h m.rx .pln m.seg m.disp d a false (fun c => .vldf m.fmt (modeRm c.t.rmod)) id s [13]

/-- `vstf` (R145). -/
def execVstf (h : Hdr) (m : FolF) (d : Fin 16) (a : GOp) (s : State) : Host.Outcome State Fault Refusal :=
  vecMem (.vstf h m d a) h m.rx .pln m.seg m.disp d a true (fun _ => .vstf) (fun v => BitVec.ofNat 512 (folioWrite m.fmt v.toNat)) s

/-- The places of the elements of `vldx` and `vstx` (R146), or the first failing check. -/
def Ctx.places (c : Ctx) (seg : Nat) (n need : Nat) : List Nat → Except FaultInfo (List Loc)
  | [] => .ok []
  | off :: r => match c.place seg off n need n with
    | .error e => .error e
    | .ok l => match c.places seg n need r with
      | .error e => .error e
      | .ok ls => .ok (l :: ls)

/-- An indexed vector access: elements in ascending order. -/
def vecIdx (i : Instr) (h : Hdr) (m : MemF) (d a : Fin 16) (store : Bool) (s : State) : Host.Outcome State Fault Refusal :=
  issue { h := h, word := wordOf i, vsrc := if store then [a, d] else [a], vdst := if store then [] else [d],
          long := true, cls := memClass m.rx, access := true } s fun c =>
    let n := 2 ^ m.sz.code
    let idx := (List.range (64 / n)).map fun j => elemN (8 * n) (c.v a).toNat j
    match c.places m.seg.val n (if store then rW else rR) (idx.map fun x => (ofN (wrapN 64 (sxNat (8 * n) x)) + sx64 m.disp).toNat) with
    | .error e => .fault { e with access := 5, size := 6 }
    | .ok ls =>
      let ps := ls.zipIdx.map fun p => partAt p.1 n (ofN (if store then elemN (8 * n) (c.v d).toNat p.2 else 0))
      .go (c.send (if store then .vstx else .vldx) (if store then .none else .v d) (memClass m.rx) false ps).2

/-- `vldx` (R146). -/
def execVldx (h : Hdr) (m : MemF) (d : Fin 16) (a : Fin 16) (s : State) : Host.Outcome State Fault Refusal :=
  vecIdx (.vldx h m d a) h m d a false s

/-- `vstx` (R146). -/
def execVstx (h : Hdr) (m : MemF) (d : Fin 16) (a : Fin 16) (s : State) : Host.Outcome State Fault Refusal :=
  vecIdx (.vstx h m d a) h m d a true s

/-! ## Special functions (R153 to R158) -/

/-- `sfn`: its result returns in round q + 2 (R153); on a fenced unit it is a FENCED fault at the next switch point (R158).
Before the unit has reported, the request waits (R416). -/
def execSfn (h : Hdr) (f : Fmt) (d a b : GOp) (fn : BitVec 16) (s : State) : Host.Outcome State Fault Refusal :=
  issue { h := h, word := wordOf (.sfn h f d a b fn), src := [a, b], dst := [d], chg := true, long := true, rdS := [13] } s fun c =>
    let (id, c1) := c.op (c.dest d)
    let k := clusterOf c.core
    let r := sfnValue fn.toNat (modeRm c.t.rmod) f (c.g a).toNat (c.g b).toNat
    let bad := c.s.isFenced .sfu k || c.s.clusterFenced k
    let up := bad || c.s.isReady .sfu k
    let c2 := c1.setOp id fun o => { o with
      stage := if up then .done else .sent, val := BitVec.ofNat 512 r.1, flags := if bad then 0 else r.2,
      fault := if bad then some { cls := 5, code := 3 } else none }
    .go (if up then c2.replyIn 2 id else c2)

end Sys2Proof.Machine
end

