-- ==== Sys2Proof/Machine/Memory.lean ====
section
/-! DEFINITION. The memory group (R194 to R205), segments and translation (R243 to R251), `kabs` (R303). -/

namespace Sys2Proof.Machine

open Sys2Proof

/-! ## Shared shapes -/

/-- Bytes of a size code. -/
def szB (z : Size) : Nat := 2 ^ z.code

/-- A format-M access at [sN + gA + disp]: load into gD, or store of gD read at issue (R195 to R198). -/
def memM (i : Instr) (h : Hdr) (m : MemF) (d a : GOp) (store : Bool) (kind : AccKind) (need n : Nat) (s : State) :
    Host.Outcome State Fault Refusal :=
  issue { h := h, word := wordOf i, src := if store then [a, d] else [a], dst := if store then [] else [d],
          self := kind.waits || m.ord == .rel, rel := m.ord == .rel, long := true, cls := memClass m.rx, access := true } s fun c =>
    match c.place m.seg.val (c.offM a m.disp) n need n with
    | .error e => .fault { e with access := kind.code, size := Nat.log2 n }
    | .ok l =>
      let r := c.send kind (if store then .none else c.dest d) (memClass m.rx) (m.ord == .acq) [partAt l n (if store then c.g d else 0)]
      if kind.waits then .block r.2 r.1 else .go r.2

/-- The place is a remote page as the tables stand at issue (R393). -/
def Ctx.remote (c : Ctx) (l : Loc) : Bool :=
  match c.s.locKey (clusterOf c.core) l .both with
  | .far _ _ => true
  | _ => false

/-- An atomic at [sN + gA] (R199, R200). -/
def atomic (i : Instr) (h : Hdr) (m : AtF) (d a : GOp) (srcs : List GOp) (kind : AccKind) (b c2 : Ctx → Word) (s : State) :
    Host.Outcome State Fault Refusal :=
  issue { h := h, word := wordOf i, src := a :: srcs, dst := [d], self := m.ord == .rel, rel := m.ord == .rel, long := true,
          cls := memClass m.rx, access := true } s fun c =>
    let n := szB m.sz
    match c.place m.seg.val (c.g a).toNat n (rR + rW + rA) n with
    | .error e => .fault { e with access := 2, size := Nat.log2 n }
    | .ok l =>
      if c.remote l then .fault { taskFault 0x39 l.shown with access := 2, size := Nat.log2 n }
      else .go (c.send kind (c.dest d) (memClass m.rx) (m.ord == .acq) [partAt l n] (b c) (c2 c)).2

/-- An access through a segment pointer of `n` doublewords: its form, its checks and its flight. -/
def ptrMem (f : Form) (a : GOp) (kind : AccKind) (d : Ctx → Dest) (need size align : Nat) (acq : Bool)
    (b : Ctx → Word) (parts : Ctx → Loc → List Part) (pre : Ctx → Option FaultInfo) (s : State) : Host.Outcome State Fault Refusal :=
  issue f s fun c =>
    match c.placePtr (c.g a) size need align with
    | .error e => .fault { e with access := kind.code, size := Nat.log2 size }
    | .ok l => match pre c with
      | some e => .fault e
      | none =>
        let r := c.send kind (d c) f.cls acq (parts c l) (b c)
        if kind.waits || (match kind with | .segld _ => true | _ => false) then .block r.2 r.1 else .go r.2

/-! ## Loads, stores, full and empty -/

/-- `ld` (R197). -/
def execLd (h : Hdr) (m : MemF) (d a : GOp) (s : State) : Host.Outcome State Fault Refusal :=
  memM (.ld h m d a) h m d a false (.ld false) rR (szB m.sz) s

/-- `lds`: sign-extended to 64 bits (R197). -/
def execLds (h : Hdr) (m : MemF) (d a : GOp) (s : State) : Host.Outcome State Fault Refusal :=
  memM (.lds h m d a) h m d a false (.ld true) rR (szB m.sz) s

/-- `st` (R197). -/
def execSt (h : Hdr) (m : MemF) (d a : GOp) (s : State) : Host.Outcome State Fault Refusal :=
  memM (.st h m d a) h m d a true .st rW (szB m.sz) s

/-- `ldf`: blocking (R198). -/
def execLdf (h : Hdr) (m : MemF) (d a : GOp) (s : State) : Host.Outcome State Fault Refusal :=
  memM (.ldf h m d a) h m d a false .ldf (rR + rF) 8 s

/-- `lde`: blocking (R198). -/
def execLde (h : Hdr) (m : MemF) (d a : GOp) (s : State) : Host.Outcome State Fault Refusal :=
  memM (.lde h m d a) h m d a false .lde (rR + rW + rF) 8 s

/-- `stf` (R198). -/
def execStf (h : Hdr) (m : MemF) (d a : GOp) (s : State) : Host.Outcome State Fault Refusal :=
  memM (.stf h m d a) h m d a true .stf (rW + rF) 8 s

/-- `stfe`: blocking (R198). -/
def execStfe (h : Hdr) (m : MemF) (d a : GOp) (s : State) : Host.Outcome State Fault Refusal :=
  memM (.stfe h m d a) h m d a true .stfe (rW + rF) 8 s

/-- `clrf` (R198). -/
def execClrf (h : Hdr) (m : MemF) (a : GOp) (s : State) : Host.Outcome State Fault Refusal :=
  memM (.clrf h m a) h m .z a true .clrf (rW + rF) 8 s

/-! ## Atomics -/

/-- `amo` (R199). -/
def execAmo (h : Hdr) (op : AmoOp) (m : AtF) (d a b : GOp) (s : State) : Host.Outcome State Fault Refusal :=
  atomic (.amo h op m d a b) h m d a [b] (.amo op) (·.g b) (fun _ => 0) s

/-- `cas` (R199). -/
def execCas (h : Hdr) (m : AtF) (d a b c : GOp) (s : State) : Host.Outcome State Fault Refusal :=
  atomic (.cas h m d a b c) h m d a [b, c] .cas (·.g b) (·.g c) s

/-- `amof` (R200). -/
def execAmof (h : Hdr) (op : AmofOp) (m : AtF) (d a b : GOp) (s : State) : Host.Outcome State Fault Refusal :=
  atomic (.amof h op m d a b) h m d a [b] (.amof op) (·.g b) (fun _ => 0) s

/-! ## Fences (R201) -/

/-- `fence`: kind and scope fix what a program may rely on, not the wait; device scope waits for stores to remote windows. -/
def execFence (h : Hdr) (k : FenceKind) (sc : FenceScope) (s : State) : Host.Outcome State Fault Refusal :=
  issue { h := h, word := wordOf (.fence h k sc), self := true, rel := sc == .dev } s fun c => .go c

/-- `cfence`: the core's whole instruction cache is invalidated. -/
def execCfence (h : Hdr) (s : State) : Host.Outcome State Fault Refusal :=
  issue { h := h, word := wordOf (.cfence h), self := true } s fun c =>
    let k := c.s.core c.core
    .go { c with s := c.s.setCore c.core { k with icache := [] } }

/-! ## Sync words (R202 to R204) -/

/-- `swarm`: a target of 0 or above 2^24 − 1 is BADTARGET and has no effect, whatever the page of its word (assumption 79). -/
def execSwarm (h : Hdr) (d a b : GOp) (s : State) : Host.Outcome State Fault Refusal :=
  let f : Form := { h := h, word := wordOf (.swarm h d a b), src := [a, b], dst := [d], self := true, rel := true, long := true,
                    cls := .ordered, access := true }
  issue f s fun c =>
    match c.placePtr (c.g a) 8 (rW + rF) 8 with
    | .error e => .fault { e with access := 4, size := 3 }
    | .ok l =>
      if c.g b == 0 || 2 ^ 24 ≤ (c.g b).toNat then .go (c.result d (ofN (2 * 2 ^ 16)))
      else .go (c.send .swarm (c.dest d) .ordered false [partAt l 8] (c.g b)).2

/-- `swadd`: bits above 23 of gb are SYNCARG (R203). -/
def execSwadd (h : Hdr) (a b : GOp) (s : State) : Host.Outcome State Fault Refusal :=
  ptrMem { h := h, word := wordOf (.swadd h a b), src := [a, b], self := true, rel := true, long := true, cls := .ordered, access := true }
    a .swadd (fun _ => .none) (rW + rF) 8 8 false (·.g b) (fun _ l => [partAt l 8])
    (fun c => if 2 ^ 24 ≤ (c.g b).toNat then some (taskFault 0x15) else none) s

/-- `swwait`: blocking, an acquire (R204). -/
def execSwwait (h : Hdr) (a b : GOp) (s : State) : Host.Outcome State Fault Refusal :=
  ptrMem { h := h, word := wordOf (.swwait h a b), src := [a, b], self := true, long := true, cls := .ordered, access := true }
    a .swwait (fun _ => .none) (rR + rF) 8 8 true (·.g b) (fun _ l => [partAt l 8]) (fun _ => none) s

/-- `swrd`: an acquire (R204); it completes before any later access of the strand issues (R196). -/
def execSwrd (h : Hdr) (d a : GOp) (s : State) : Host.Outcome State Fault Refusal :=
  ptrMem { h := h, word := wordOf (.swrd h d a), src := [a], dst := [d], long := true, cls := .ordered, access := true }
    a .swrd (·.dest d) (rR + rF) 8 8 true (fun _ => 0) (fun _ l => [partAt l 8]) (fun _ => none) s

/-! ## Segment registers (R244 to R246) -/

/-- `segld`: two ordered reads; a malformed descriptor, or s0, is SEG_DESC. -/
def execSegld (h : Hdr) (d : Fin 8) (a : GOp) (s : State) : Host.Outcome State Fault Refusal :=
  ptrMem { h := h, word := wordOf (.segld h d a), src := [a], self := true, long := true, cls := .ordered, access := true }
    a (.segld d) (fun _ => .s d.val) rR 16 16 false (fun _ => 0) (fun _ l => [partAt l 8, partAt (l.plus 8) 8]) (fun _ => none) s

/-- `segst`: two ordered writes, low then high. -/
def execSegst (h : Hdr) (a : GOp) (b : Fin 8) (s : State) : Host.Outcome State Fault Refusal :=
  ptrMem { h := h, word := wordOf (.segst h a b), src := [a], long := true, cls := .ordered, access := true }
    a .segst (fun _ => .none) rW 16 16 false (fun _ => 0)
    (fun c l => [partAt l 8 (ofN (descLow (c.t.sreg b.val))), partAt (l.plus 8) 8 (ofN (descHigh (c.t.sreg b.val)))]) (fun _ => none) s

/-- `segrd`. -/
def execSegrd (h : Hdr) (hi : Bool) (d : GOp) (a : Fin 8) (s : State) : Host.Outcome State Fault Refusal :=
  issue { h := h, word := wordOf (.segrd h hi d a), dst := [d] } s fun c =>
    .go (c.put d (ofN (if hi then descHigh (c.t.sreg a.val) else descLow (c.t.sreg a.val))))

/-! ## Invalidation (R247, R248) -/

/-- `tlbi`: the invalidation is broadcast, and takes effect by itself. -/
def execTlbi (h : Hdr) (a b : GOp) (s : State) : Host.Outcome State Fault Refusal :=
  issue { h := h, word := wordOf (.tlbi h a b), src := [a, b], self := true, rel := true } s fun c =>
    let v := c.g a
    let lo := fld v 47 0
    let len := (c.g b).toNat
    let hi := if len == 0 || 2 ^ 48 < lo + len then 2 ^ 48 else lo + len
    let (id, s1) := c.s.fresh
    let s2 : State := { s1 with tlbis := s1.tlbis ++ [{ id := id, uid := c.t.uid, vol := fld v 63 48, lo := lo, hi := hi }] }
    .go { c with s := s2.push (.tlbiTakesEffect id), t := { c.t with tlbis := c.t.tlbis ++ [id] } }

/-- Accesses that have been translated and are not over: of strands, at their banks or at peers, and the remote pieces of copies and
service calls (R239, R248, R393). -/
def State.translated (s : State) : List Nat :=
  let out (l : List FarAcc) : List Nat := (l.filter fun a => a.res.isNone && !a.held).map (·.tag)
  ((s.flights.filter fun f => f.epoch.isSome && !f.failed).map (·.id)) ++ s.net.far.map (·.flight) ++
  s.clusters.flatMap fun c => c.2.copies.flatMap (fun o => out o.far) ++ c.2.svcs.flatMap fun x => out (x.rd.toList ++ x.wr.toList)

/-- An invalidation has taken effect and the accesses tagged before it are over (R248). -/
def State.tlbiOver (s : State) (x : Tlbi) : Bool := x.done && !(x.old.any s.translated.contains)

def State.tlbsyncDone (s : State) (t : Strand) : Bool :=
  t.tlbis.all fun i => match s.tlbis.find? (·.id == i) with
    | some x => s.tlbiOver x
    | none => true

/-- `tlbsync`. -/
def execTlbsync (h : Hdr) (s : State) : Host.Outcome State Fault Refusal :=
  issue { h := h, word := wordOf (.tlbsync h), self := true } s fun c =>
    if c.s.tlbsyncDone c.t then
      .go { c with s := { c.s with tlbis := c.s.tlbis.filter fun x => !(c.t.tlbis.contains x.id) }, t := { c.t with tlbis := [] } }
    else .park .tlbsync

/-! ## Page faults (R250, R251) -/

/-- `upret`: a faulter becomes READY; an upcall that names its own faulter gives it the slot at once, which refuses a slip that has come to
be none (R79). -/
def execUpret (h : Hdr) (a : GOp) (s : State) : Host.Outcome State Fault Refusal :=
  issue { h := h, word := wordOf (.upret h a), src := [a] } s fun c =>
    let va := (c.g a).toNat
    match c.s.slipAt c.t.vol va with
    | none => .fault (taskFault 0x01 va)
    | some pa =>
      if c.s.slipVol pa != c.t.vol || c.s.slipState pa != 2 || (c.s.slipFault pa).1 != 2 then .fault (taskFault 0x01 va)
      else
        let s1 := c.s.setSlipFault pa 0 0
        if c.t.faulter == some va then
          let s2 := s1.endStrand c.core c.slot c.t
          .left (if s2.slipOk pa then s2.loadSlip c.core c.slot c.t.vol pa c.t.gran else s2.refuseSlip c.core c.slot c.core c.t.vol pa)
        else .go { c with s := s1.appendRun (s1.slipHome pa) (s1.slipPrio pa) c.t.vol pa }

/-- `pgrq`: a request for a page already queued is merged. It needs no right to the page, and W for its result word (assumption 81). -/
def execPgrq (h : Hdr) (d a b : GOp) (s : State) : Host.Outcome State Fault Refusal :=
  issue { h := h, word := wordOf (.pgrq h d a b), src := [a, b], dst := [d], long := true, access := true } s fun c =>
    match ptrParts (c.g a) with
    | .error e => .fault (segFault e (fld (c.g a) 60 0))
    | .ok (n, off) =>
      let res : Except FaultInfo (Option Loc) :=
        if b == .z then .ok none
        else match c.placePtr (c.g b) 8 rW 1 with
          | .error e => .error e
          | .ok (.va v x) => .ok (some (.va v x))
          | .ok (.buf _) => .error (segFault 0x06 (fld (c.g b) 47 0))
      match res with
      | .error e => .fault e
      | .ok r =>
        match segCheck (c.t.sreg n) off 1 0 1 with
        | .error _ => .go (c.result d 2)
        | .ok va =>
          if descType (c.t.sreg n) != 1 then .go (c.result d 2)
          else
            let k := clusterOf c.core
            let cl := c.s.cluster k
            let page := va / 4096 * 4096
            let w : PageWaiter := { core := c.core, lane := c.t.lane, res := r, svc := none }
            if (cl.pages.any fun p => p.vol == c.t.vol && p.page == page) then
              let cl1 := { cl with pages := mapIf (fun p => p.vol == c.t.vol && p.page == page) (fun p => { p with waiters := p.waiters ++ [w] }) cl.pages }
              .go ({ c with s := c.s.setCluster k cl1 }.result d 0)
            else if 64 ≤ cl.pages.length then .go (c.result d 1)
            else
              let (id, s1) := c.s.fresh
              let q : PageReq := { id := id, vol := c.t.vol, page := page, waiters := [w], core := c.core, slot := c.slot, gidx := c.t.gidx }
              let s2 := (s1.setCluster k { cl with pages := cl.pages ++ [q] }).pushNew (.pageRequestForward k)
              .go ({ c with s := s2 }.result d 0)

/-! ## Abstracts (R303) -/

/-- `kabs`: performed after every earlier access of the strand. -/
def execKabs (h : Hdr) (d a : GOp) (s : State) : Host.Outcome State Fault Refusal :=
  ptrMem { h := h, word := wordOf (.kabs h d a), src := [a], dst := [d], long := true, access := true }
    a .kabs (·.dest d) (rR + rW) 1 1 false (fun _ => 0) (fun _ l => [partAt l 1]) (fun _ => none) s

end Sys2Proof.Machine
end

