-- ==== Sys2Proof/Machine/Retire.lean ====
section
/-! DEFINITION. The retirement of a gathering: waits, bequest to a successor, or its end (R99, R174, R375, R376). -/

namespace Sys2Proof.Machine

open Sys2Proof

/-! ## Waiting (R375 step 1, R376) -/

/-- The items that a gathering hands on. -/
def Gathering.items (g : Gathering) : Nat := if g.succ.isSome then (g.header 2).toNat else 0

def Issuer.memberOf (iss : Issuer) (g : Gathering) : Bool := !iss.free && iss.vol == g.vol && iss.gidx == g.gidx

/-- Accesses, remote stores and engine operations that retirement waits for; copies of free strands that name the gathering among them
(R414; assumption 67). -/
def State.retireWaits (s : State) (g : Gathering) : Bool :=
  (s.flights.any fun f => f.bound && f.vol == g.vol && f.gidx == g.gidx && !f.failed) ||
  (s.net.far.any fun r => r.write && r.vol == g.vol && r.gidx == g.gidx) ||
  (s.clusters.any fun e =>
    (e.2.reqs.any fun r => r.kind != .spec && r.iss.memberOf g) || (e.2.copies.any fun o => o.iss.vol == g.vol && o.iss.gidx == g.gidx) || (e.2.sels.any (·.iss.memberOf g)) ||
    (e.2.bags.any (·.iss.memberOf g)) || (e.2.tasks.any fun t => t.iss.memberOf g && !bitN g.items (16 + t.tile))) ||
  (g.cores.any fun k => (match (s.core k).pre with | .saving _ => true | _ => s.isOut k g) || (s.core k).tileOps.any (·.iss.memberOf g))

/-- The slots of a gathering: core and slot. -/
def Gathering.slots (g : Gathering) : List (Nat × Nat) := g.members.map fun m => (g.cores.getD m.role 0, m.slot)

/-- Other strands resident in its slots, which are saved: free ones, and bound ones of another gathering of the volume (R84); an upcall, or
one with operations outstanding, is waited for. -/
def State.strangers (s : State) (g : Gathering) : List ((Nat × Nat) × Strand) :=
  s.strands.filter fun e => g.slots.contains e.1 && (e.2.free || e.2.faulter.isSome || e.2.vol != g.vol || e.2.gidx != g.gidx)

def Strand.canSave (s : State) (t : Strand) : Bool :=
  t.faulter.isNone && (t.outstanding.all fun o => s.flights.any fun f => f.id == o.id && f.kind.waits && (f.joined.isSome || f.spill.isSome)) &&
  (match t.run with | .halting _ _ | .faulting _ _ => false | _ => true)

/-- Save one free strand to its run list (R88); a halted one becomes a FAULTED slip of class 1, as `resume` with park leaves it. -/
def State.evict (s : State) (core slot : Nat) (t : Strand) : State :=
  let pa := t.slip - Config.areaVA
  match t.faulted.bind (·.fault) with
  | some f => match t.faulted with
    | some o => s.faultAtSwitch core slot t o f
    | none => s
  | none =>
    if t.run == .halted then
      s.parkHalted core slot t t.pc
    else
      let s0 := s.pastBlocking core slot t
      let t := (s0.strand core slot).getD t
      let parked := t.run != .ready
      let s1 := (s0.saveOne core slot t).1
      if s1.slipState pa == 3 then s1
      else
        let s2 := (s1.appendRun t.home t.prio t.vol pa).pushNew .placement
        if parked then s2.setSlipState pa 2 else s2

/-! ## Discards (R375 step 2, R170) -/

def Gathering.feeds (g : Gathering) (q : QId) : Bool := q.vol == g.vol && q.gidx == g.gidx

/-- Port words, messages on their way, unread messages of its lanes, whose entries held messages then take (R174), filters. -/
def State.discard (s : State) (g : Gathering) : State :=
  let lanes (core : Nat) : List Nat := (g.members.filter fun m => g.cores[m.role]? == some core).map (·.lane)
  let s1 := g.cores.foldl (fun (s : State) k =>
    let c := s.core k
    s.setCore k { c with words := c.words.filter fun w => !g.feeds w.q,
                         inbox := c.inbox.filter fun m => !(m.vol == g.vol && (lanes k).contains m.lane) }) s
  let s2 := g.cores.foldl (fun (s : State) k => s.kickInbox k) s1
  { s2 with
    fab := { s2.fab with msgs := s2.fab.msgs.filter fun m => match m.kind with
      | .word q _ => !g.feeds q
      | .credit q => !g.feeds q
      | .bar v x _ _ _ => !(v == g.vol && x == g.gidx)
      | _ => true },
    circ := { s2.circ with filters := s2.circ.filters.filter fun f => !(f.vol == g.vol && f.gidx == g.gidx) } }

/-- Release every tile of the gathering on a core outside a mask. -/
def Core.releaseTiles (c : Core) (vol gidx mask : Nat) : Core :=
  (List.range 16).foldl (fun (c : Core) i =>
    let x := c.tile i
    if x.conf && x.vol == vol && x.gidx == gidx && !bitN mask i then c.releaseTile i else c) c

/-! ## A successor (R375 steps 3 to 6) -/

/-- Zero a range with F := 1 but for some places in it. -/
def State.zeroExcept (s : State) (key n : Nat) (keeps : List (Nat × Nat)) : State :=
  let gone (a : Nat) : Bool := decide (key ≤ a) && decide (a < key + n) && !(keeps.any fun k => decide (k.1 ≤ a) && decide (a < k.1 + k.2))
  { s with mem := s.mem.filter fun c => !gone c.1, empty := s.empty.filter fun w => !gone (8 * w) }

/-- Step 3 on one core. -/
def State.carryCarrel (s : State) (g : Gathering) (role core : Nat) : State :=
  let region (i : Nat) : Nat × Nat := (fld (g.header i) 31 0, fld (g.header i) 63 32)
  let w := wKey core (g.wOff.getD role 0)
  let a := aKey core (g.aOff.getD role 0)
  let c := (s.core core).releaseTiles g.vol g.gidx (g.items / 2 ^ 16 % 2 ^ 16)
  ((s.setCore core { c with streams := List.replicate 4 {} }).zeroExcept w (carW g.carrel) [(w + (region 3).1, (region 3).2)]).zeroExcept
    a (carA g.carrel) [(a + (region 4).1, (region 4).2)]

/-- The room region: kept whole, or but for the kept sync words. -/
def State.carryRoom (s : State) (g : Gathering) : State :=
  if bitN g.items 33 then s
  else
    let r := roomKey g.cluster g.roomOff
    let syncs := [5, 6, 7].filterMap fun i => if (g.header i).getLsbD 63 then some (r + fld (g.header i) 31 0, 8) else none
    s.zeroExcept r (carRoom g.carrel) syncs

/-- Every core has the new granules (surplus granules are freed first). -/
def State.granFits (s : State) (g : Gathering) : Bool :=
  g.cores.zipIdx.all fun c =>
    let ms := g.members.filter (·.role == c.2)
    let need := (ms.map (s.granNeed g)).foldl (· + ·) 0
    let spare := (ms.map fun m => ((s.retiree g m).map fun t => t.2.gran.length - g.newGran).getD 0).foldl (· + ·) 0
    decide (need ≤ (s.freeGran c.1).length + spare)

/-- Free the surplus granules of a member's window. -/
def State.trim (s : State) (g : Gathering) (m : Member) : State :=
  match s.retiree g m with
  | none => s
  | some e => s.setStrand e.1.1 e.1.2 { e.2 with gran := e.2.gran.take g.newGran }

/-- The slots in which the members' successors start: a strand's own where it retired in a slot of its gathering, else the remaining ones
in order. -/
def State.successorSlots (s : State) (g : Gathering) : List Member :=
  let at_ (m : Member) : Option (Nat × Nat) := ((s.retiree g m).map (·.1)).filter g.slots.contains
  let taken := g.members.filterMap at_
  (g.members.foldl (fun (x : List Member × List (Nat × Nat)) m => match at_ m with
    | some k => (x.1 ++ [{ m with slot := k.2 }], x.2)
    | none => match x.2.find? (fun k => some k.1 == g.cores[m.role]?) with
      | some k => (x.1 ++ [{ m with slot := k.2 }], x.2.filter (· != k))
      | none => (x.1 ++ [m], x.2)) ([], g.slots.filter fun k => !taken.contains k)).1

/-- The successor of one member: the strand, with granules of a core (steps 4 to 6). R375 does not say in which frame successors take their
first turns: here they wait for the next frame, as the strands of a placement do (R22; DESIGN CHOICE, assumption 2). -/
def successor (old : Option Strand) (v : Volume) (g : Gathering) (m : Member) (uid core pc i : Nat) (gran : List Nat) (sregs : List Desc) : Strand :=
  let kept (n : Nat) : Bool := bitN g.items n && (old.map fun t => decide (n ≤ t.wgr)).getD false
  { newStrand uid g.vol g.gidx false m.lane m.role (shapePrio (v.dw 1)) core (g.newGran - 1) pc m.slip 0 v.det sregs (some i) with
    gran := gran,
    regs := (List.range (8 * g.newGran)).map fun n => if kept (n / 8) then (old.map (·.g n)).getD 0 else 0,
    pred := if bitN g.items 32 then (old.map Strand.pred).getD 1 else 1,
    predBad := bitN g.items 32 && (old.map Strand.predBad).getD false,
    amax := (old.map Strand.amax).getD 0,
    bad := ((old.map Strand.bad).getD []).filter fun n => kept (n / 16),
    dups := ((old.map Strand.dups).getD []).filter fun d => kept d.1,
    noDup := ((old.map Strand.noDup).getD []).filter fun n => kept (n / 8), run := .waiting 0 }

/-- Start the successor of one member in its slot; the retired strand leaves the slot that it is in (steps 4 to 6). -/
def State.succeed (s : State) (v : Volume) (g : Gathering) (i pc : Nat) (m : Member) : State :=
  let core := g.cores.getD m.role 0
  let e := (s.spaceOf g.vol).entry i
  let old := s.retiree g m
  let gran0 := (old.map (·.2.gran)).getD []
  let new := (s.freeGran core).take (g.newGran - gran0.length)
  let sregs := s.template v g.cluster (g.wOff.getD m.role 0) (g.aOff.getD m.role 0) g.roomOff (codeDesc e)
  let (uid, s1) := s.fresh
  let t := successor (old.map (·.2)) v g m uid core pc i (gran0 ++ new) sregs
  let pa := m.slip - Config.areaVA
  let s2 := (s1.wrWords pa (slipWords t pc 1 0 0 0 0)).wrWords (pa + 64) (sregs.flatMap fun d => [descLow d, descHigh d])
  let s3 := match old with
    | some k => if k.1 == (core, m.slot) then s2 else s2.dropStrand k.1.1 k.1.2
    | none => s2
  (((s3.dropCode core e.base e.size).setStrand core m.slot t).endPairs core new).bumpExec g.vol (some i) 1

/-- The gathering goes on with its successor. -/
def State.handOn (s : State) (v : Volume) (g : Gathering) (i off : Nat) : State :=
  let e := (s.spaceOf g.vol).entry i
  let s1 := ((g.cores.zipIdx.foldl (fun (s : State) c => s.carryCarrel g c.2 c.1) (s.discard g)).carryRoom g).serveAll
  let s2 := g.members.foldl (fun (s : State) m => s.trim g m) s1
  let ms := s2.successorSlots g
  let s3 := (ms.filter fun m => (s2.retiree g m).isSome).foldl (fun (s : State) m => s.succeed v g i (e.base + 8 * off) m) s2
  let s4 := (ms.filter fun m => !(s2.retiree g m).isSome).foldl (fun (s : State) m => s.succeed v g i (e.base + 8 * off) m) s3
  let keep := fld g.shape 55 52 * 2 ^ 52
  (s4.setGathering { g with
    members := ms.map fun m => { m with st := .live, arr := [], seen := [] },
    shape := ofN ((g.header 0).toNat % 2 ^ 52 + keep), phases := List.replicate (shapeNbar (g.header 0)) 0, spent := [], retires := false, succ := none, block := [] }).pushNew
      .placement

/-! ## The end of a gathering (R99, R174, R360) -/

/-- Operations that a volume's strands issued on a core and that report to its inbox, requests that may, or messages not yet delivered
(R174). -/
def State.owesMessages (s : State) (core vol : Nat) : Bool :=
  let mine (iss : Issuer) : Bool := iss.vol == vol && iss.core == core
  let c := s.cluster (clusterOf core)
  (s.fab.eng.any fun m => m.vol == vol && m.core == core) || (c.reqs.any fun r => mine r.iss) ||
  (c.copies.any fun o => mine o.iss && (o.dws.getD 6 0).getLsbD 63) || (s.clusters.any fun e => e.2.tasks.any fun t => mine t.iss && recCk t.dw == 2) ||
  (c.sels.any fun o => mine o.iss && o.note) || (c.bags.any fun o => mine o.iss && o.note) || (c.specs.any fun o => mine o.iss) ||
  (s.net.wrs.any fun w => mine w.iss && w.note) || (s.net.reqs.any fun r => mine r.iss) ||
  (c.pages.any fun p => p.vol == vol && p.waiters.any fun w => w.core == core && w.svc.isNone)

/-- Inbox reservations that nothing needs any more are released, which frees room for placements (R174, R355). -/
def State.pruneLasting (s : State) : State :=
  let l := s.circ.lasting.filter fun e => s.owesMessages e.1 e.2
  if l == s.circ.lasting then s else State.pushNew { s with circ := { s.circ with lasting := l } } .placement

/-- The gathering ends: slots, granules, tiles, areas and regions are free. -/
def State.endGathering (s : State) (g : Gathering) : State :=
  let s1 := g.members.foldl (fun (s : State) m =>
    let pa := m.slip - Config.areaVA
    let s1 := match s.retiree g m with
      | some e => s.dropStrand e.1.1 e.1.2
      | none => s
    (s1.setSlipState pa 4).dropArea pa) (s.discard g)
  let s2 := g.cores.foldl (fun (s : State) k => s.setCore k ((s.core k).releaseTiles g.vol g.gidx 0)) s1
  let gs := s2.circ.gatherings.filter fun x => !(x.vol == g.vol && x.gidx == g.gidx)
  let s3 : State := { s2 with circ := { s2.circ with gatherings := gs } }
  let owe := g.cores.filter fun k => s3.owesMessages k g.vol && !s3.hasInbox g.vol k
  let s4 : State := { s3 with circ := { s3.circ with lasting := s3.circ.lasting ++ owe.map fun k => (k, g.vol) } }
  let s5 := match s4.volume g.vol with
    | some v => s4.setVolume { v with ended := v.ended + 1 }
    | none => s4
  (s5.checkVolume g.vol).pushNew .placement

/-- `GATHERING_RETIRE`. -/
def execGatheringRetire (vol gidx : Nat) (s : State) : Host.Outcome State Fault Refusal :=
  match s.gathering vol gidx, s.volume vol with
  | some g, some v =>
    if (g.members.any (·.st == .live)) || s.retireWaits g || !((s.strangers g).all fun e => e.2.canSave s) then .next s
    else
      let s1 := (s.strangers g).foldl (fun (s : State) e => s.evict e.1.1 e.1.2 e.2) s
      -- a fault that an evicted strand took can have started an upcall in the slot
      if !(s1.strangers g).isEmpty then .next s1
      else match g.succ.bind (s1.codePoint vol) with
        | some (i, off) => .next (if s1.granFits g then s1.handOn v g i off else s1)
        | none => .next (s1.endGathering g)
  | _, _ => .next s

end Sys2Proof.Machine
end

