-- ==== Sys2Proof/Machine/Events.lean ====
section
/-! DEFINITION. Steps of the cores and their memories that are no instruction words: results, wakes, rounds, slips, fetch,
transactions, walks, invalidations. -/

namespace Sys2Proof.Machine

open Sys2Proof

/-! ## Results (R72, R153, R150) -/

/-- The value of a part of a spanning instruction, from the parts that were issued (R150, R152). -/
def Span.value (x : Span) (p : SpanPart) : Vec × FlagWord := spanValue x.instr (sortParts x.parts) p

/-- A strand that waited for its operations to return before a halt or a fault goes on (R399, R400): a halt of a group's member after
those before it (R42); and where an earlier access met a fenced function, that fault goes first (R411; assumption 10). -/
def State.afterReturn (s : State) (core slot : Nat) : State :=
  match s.strand core slot with
  | none => s
  | some t =>
    if !t.outstanding.isEmpty then s
    else match t.run with
      | .halting f w => if s.haltMates t then s else s.haltNow core slot { t with run := .ready } f t.pc w
      | .faulting f w =>
        let t1 := { t with run := .ready }
        match t.ops.find? fun o => o.fault.any fun g => g.cls == 5 && g.code == 3 with
        | some o => s.faultAtSwitch core slot t1 o (o.fault.getD f)
        | none => if f.cls == 2 then s.pageFault core slot t1 f t.pc w else s.faultNow core slot t1 f t.pc w
      | _ => s

/-- An operation's result is held at the core. -/
def State.holdResult (s : State) (core slot op : Nat) (f : Op → Op) : State :=
  match s.strand core slot with
  | none => s
  | some t => (s.setStrand core slot { t with ops := mapIf (·.id == op) (fun o => { f o with stage := .held }) t.ops }).afterReturn core slot

/-- Every present member of the group has issued the spanning word (R150). -/
def State.spanReady (s : State) (x : Span) : Bool := !(s.strands.any fun e => e.2.group == x.group && decide (e.2.colN ≤ x.n))

/-- A part of the span still waits for its result. -/
def State.spanLeft (s : State) (x : Span) : Bool :=
  x.parts.any fun q => s.strands.any fun e => e.2.ops.any fun o => some o.id == q.op && o.stage == .sent

/-- The result of a spanning instruction for one member. -/
def State.spanReturn (s : State) (core slot op : Nat) : State :=
  match s.circ.spans.findSome? fun x => (x.parts.find? (·.op == some op)).map fun p => (x, p) with
  | none => s
  | some (x, p) =>
    if !s.spanReady x then s
    else
      let r := x.value p
      let s1 := s.holdResult core slot op fun o => { o with val := r.1, flags := r.2 }
      { s1 with circ := { s1.circ with spans := s1.circ.spans.filter fun y => !(y.group == x.group && y.n == x.n) || s1.spanLeft x } }

/-- `RESULT_RETURN`: a result arrives at its core and is held; an operation of the core's own engine or of a collation group is
performed first. -/
def execResultReturn (core slot op : Nat) (s : State) : Host.Outcome State Fault Refusal :=
  match (s.core core).tileOps.find? fun o => o.id == op && !o.failed with
  | some o => .next (s.tileOpStep core o)
  | none =>
    match (s.strand core slot).bind fun t => t.ops.find? (·.id == op) with
    | none => .next s
    | some o => match o.stage with
      | .held => .next s
      | .done => .next (s.holdResult core slot op id)
      | .sent => .next (s.spanReturn core slot op)

/-! ## Wakes (R92, R101) -/

/-- The event that a parked strand waits for has come. -/
def State.wakeable (s : State) (core slot : Nat) (t : Strand) : Bool :=
  let c := s.core core
  let opHeld (id : Nat) : Bool := !(t.ops.any fun o => o.id == id && o.stage != .held)
  match t.run with
  | .parked p => match p with
    | .results => t.outstanding.isEmpty
    | .remote => !s.farStores t.uid
    | .credit q => decide (0 < s.credits q)
    | .queue q => (c.words.any fun w => w.q == q) || s.fencedWait t.vol t.gidx p
    | .anyQueue => c.words.any (s.portTakes t slot .qin) || s.fencedWait t.vol t.gidx p
    | .inbox => c.inbox.any (inboxTakes t slot)
    | .collate n => let ps := s.partners t n; !(s.clashes t n).isEmpty || (ps.length + 1 == n && ps.all fun e => e.2.inCollate n)
    | .bara b | .barw b => let p := s.barrierOf t b; decide (p.1 ≤ p.2)
    | .op id => opHeld id && (t.faulted.isSome || (s.pushShort t).all fun q => decide (0 < s.credits q))
    | .svc id => opHeld id
    | .tiles m => !s.tilePending core t.uid m
    | .stream m => !s.streamPending core t.uid m
    | .tlbsync => s.tlbsyncDone t
    | .retired => false
    | .group => true
  | .halting _ _ => t.outstanding.isEmpty && !s.haltMates t
  | _ => false

/-- `STRAND_WAKE`: a parked strand whose event has come is ready; a blocking instruction has completed (R188). -/
def execStrandWake (core slot : Nat) (s : State) : Host.Outcome State Fault Refusal :=
  match s.strand core slot with
  | none => .next s
  | some t =>
    if !s.wakeable core slot t then .next s
    else match t.run with
      | .parked (.op id) => .next (s.completeBlocking core slot t id)
      | .parked (.svc id) =>
        if (t.ops.any fun o => o.id == id && o.fault.isSome) then .next (s.completeBlocking core slot t id)
        else .next (s.setStrand core slot { t with run := .ready, prog := 0, pc := nextPc t.pc })
      | .parked (.collate n) => .next ((s.collateTry core slot t n).getD s)
      | .halting _ _ => .next (s.afterReturn core slot)
      | _ => .next (s.setStrand core slot { t with run := .ready })

/-- `WAIT_EXPIRY`: one round of a `wait` has passed (R101). A strand whose accesses are being performed again waits for them before it
issues (R400). -/
def execWaitExpiry (core slot : Nat) (s : State) : Host.Outcome State Fault Refusal :=
  match s.strand core slot with
  | none => .next s
  | some t => match t.run with
    | .waiting 0 => .next (s.setStrand core slot
        (if t.prog == 3 then { t with run := .parked .results, prog := 0 } else { t with run := .ready }))
    | .waiting (n + 1) => .next (s.setStrand core slot { t with run := .waiting n })
    | _ => .next s

/-! ## Idle slots (R84, R85, R375) -/

/-- A slot that may look for a slip: allotted, empty, its gathering not retiring, its core not fenced or pre-empted. -/
def State.idleSlot (s : State) (core slot : Nat) : Option (Gathering × Member) :=
  if (s.strand core slot).isSome || s.coreFenced core || (match (s.core core).pre with | .saving _ => true | _ => false) then none
  else (s.slotOwner core slot).filter fun p => !p.1.retires

/-- `IDLE_SLOT_SEARCH`. -/
def execIdleSlotSearch (core slot : Nat) (s : State) : Host.Outcome State Fault Refusal :=
  match s.idleSlot core slot with
  | none => .next s
  | some (g, m) => .next (s.search core slot g m (64 + s.circ.areas.length) (searchOrder core))

/-! ## Instruction fetch (R70, R231, R240) -/

/-- A follower of a group, which takes the words that its leader fetches, up to the last word of the group (R149). -/
def Strand.follower (t : Strand) : Bool := t.group != 0 && t.colI != 0

/-- Whose fetch gives a strand its next word: its own, or its group leader's (R149): the core, and the strand with the leader's segments. -/
def State.fetcher (s : State) (core : Nat) (t : Strand) : Nat × Strand :=
  if t.follower then
    match s.strands.find? fun e => e.2.group == t.group && e.2.colI == 0 with
    | some e => (e.1.1, { e.2 with pc := t.pc })
    | none => (core, t)
  else (core, t)

/-- The word that a strand issues next, if it is at hand: the one that its leader has issued, or had when it left, or the cached word at its
pc. -/
def State.cached (s : State) (core : Nat) (t : Strand) : Option Word :=
  let (k, l) := s.fetcher core t
  if t.follower && decide (t.colN < l.colN) then some l.ir
  else match (if t.follower && (s.leaderOf t).isNone then t.gword.filter (·.1 == t.colN) else none) with
    | some w => some w.2
    | none => s.inCache k l

/-- A word enters an instruction cache of 64 KiB (R1; assumption 6). -/
def Core.cache (c : Core) (vol va : Nat) (w : Word) : Core :=
  let l := c.icache ++ [(vol, va, w)]
  { c with icache := l.drop (l.length - 8192) }

/-- A fetch of the word at a strand's pc cannot be made. -/
def fetchFault (cls code va : Nat) : FaultInfo := { cls := cls, code := code, arg := va, access := 3, size := 3 }

/-- The word at a place is read into the core's cache, or the fetch faults. -/
def State.fetchAt (s : State) (core slot : Nat) (t : Strand) (va : Nat) : Place → State
  | .key x _ =>
    if s.keyFenced x then s.faultAtIssue core slot t (fetchFault 5 3 va) 0
    else s.setCore core ((s.core core).cache t.vol va (s.rdW x))
  | .fail c => s.faultAtIssue core slot t (fetchFault 2 c va) 0
  | .far _ _ => s.faultAtIssue core slot t (fetchFault 2 2 va) 0
  | .fenced => s.faultAtIssue core slot t (fetchFault 5 3 va) 0

/-- `FETCH_FILL`: the word at a strand's pc is read into the cache, its walk is asked for, or its fetch faults. A follower's words
are fetched by its leader (R149). -/
def execFetchFill (core slot : Nat) (s : State) : Host.Outcome State Fault Refusal :=
  match s.strand core slot with
  | none => .next s
  | some t =>
    if t.run != .ready || (s.cached core t).isSome || (t.follower && (s.leaderOf t).isSome) then .next s
    else match t.fetchCheck with
      | .error e => .next (s.faultAtIssue core slot t (fetchFault 3 e (t.pc - descBase (t.sregs.getD 0 0))) 0)
      | .ok va => match s.lookup (s.cluster (clusterOf core)).tlb t.vol va .fetch with
        | some p => .next (s.fetchAt core slot t va p)
        | none => .next (s.miss (clusterOf core) t.vol va (.fetch core slot))

/-! ## Memory (R186, R205, R237 to R239) -/

/-- `BANK_TRANSACTION`: the next transaction of an access. -/
def execBankTransaction (flight : Nat) (s : State) : Host.Outcome State Fault Refusal :=
  match s.flights.find? (·.id == flight) with
  | none => .next s
  | some f => .next (s.bankStep f)

/-- `OVERFLOW_RETRY`: once every 64 rounds from its entry on the overflow list. -/
def execOverflowRetry (flight : Nat) (s : State) : Host.Outcome State Fault Refusal :=
  match s.flights.find? (·.id == flight) with
  | none => .next s
  | some f => match f.spill, f.parts[f.k]? with
    | some q, some p =>
      if s.clk.frame ≤ q || (s.clk.frame - q) % 64 != 0 then .next s
      else match s.bankDo f p (p.key.getD 0) with
        | .wait => .next s
        | _ => .next (s.attempt { f with spill := none } p (p.key.getD 0))
    | _, _ => .next s

/-- What a walk gives an address. -/
def State.walkPlace (s : State) (r : Walk) (va : Nat) (acc : Access) : Place :=
  match r with
  | .leaf l => s.leafPlace l va acc
  | .fail c => .fail c
  | .fenced => .fenced

/-- The address lies in the page that a walk was for: the leaf's, or 4 KiB where it found none. -/
def Walk.covers (r : Walk) (w : WalkRun) (va : Nat) : Bool :=
  let bits := match r with | .leaf l => l.bits | _ => 12
  va / 2 ^ bits == w.va / 2 ^ bits

/-- A walk's outcome reaches one that waited for it: an access goes to its place, a fetch reads its word, if they still want it. -/
def State.walked (s : State) (w : WalkRun) (r : Walk) (m : Misser) : State :=
  let page (va : Nat) : Bool := r.covers w va
  match m with
  | .access id =>
    match s.flights.find? (·.id == id) with
    | none => s
    | some f => match f.unplaced with
      | none => s
      | some (i, p, v, a) =>
        if f.failed || v != w.vol then s
        else if !page a then s.pushNew (.bankTransaction id)
        else s.placed f i p a (s.walkPlace r a f.kind.need)
  | .fetch core slot =>
    match s.strand core slot with
    | none => s
    | some t => match t.fetchCheck with
      | .error _ => s
      | .ok va =>
        if t.run != .ready || t.vol != w.vol || !page va || (s.cached core t).isSome then s
        else s.fetchAt core slot t va (s.walkPlace r va .fetch)

/-- A walk is over (R237, R238): the cluster's cache takes the leaf, those who wait for it go on, and misses that wait for a walker
are taken in arrival order. -/
def State.walkEnds (s : State) (k : Nat) (w : WalkRun) (r : Walk) : State :=
  let c := s.cluster k
  let tlb := match r with
    | .leaf l => tlbFill c.tlb w.vol w.va l
    | _ => c.tlb
  let s1 := s.setCluster k { c with tlb := tlb, walks := c.walks.filter (·.id != w.id) }
  let s2 := w.for_.foldl (fun s m => s.walked w r m) s1
  let c2 := s2.cluster k
  c2.misses.foldl (fun s m => s.miss k m.2.1 m.2.2 m.1) (s2.setCluster k { c2 with misses := [] })

/-- The walk of this name, with its cluster. -/
def State.walkRun (s : State) (walk : Nat) : Option (Nat × WalkRun) :=
  s.clusters.findSome? fun c => (c.2.walks.find? (·.id == walk)).map fun w => (c.1, w)

/-- `TRANSLATION_WALK`: a walk reads one entry. -/
def execTranslationWalk (walk : Nat) (s : State) : Host.Outcome State Fault Refusal :=
  match s.walkRun walk with
  | none => .next s
  | some (k, w) =>
    if w.fuel == 4 && (s.spaceOf w.vol).root.isNone then .next (s.walkEnds k w (.fail 1))
    else match walkLevel s w.va w.fuel w.table w.p with
      | .inl r => .next (s.walkEnds k w r)
      | .inr n =>
        let c := s.cluster k
        .next ((s.setCluster k { c with walks := replaceBy (·.id == walk) { w with fuel := w.fuel - 1, table := n.1, p := n.2 } c.walks }).push
          (.translationWalk walk))

/-! ## Invalidation (R247, R248) -/

/-- An entry that an invalidation drops. -/
def Tlbi.hits (x : Tlbi) (e : TlbEntry) : Bool :=
  (x.vol == 0xFFFF || x.vol == e.vol) && decide (e.page < x.hi) && decide (x.lo < e.page + 2 ^ e.bits)

/-- The 4-KiB page that a walk is for, as an entry; the walk from its start. -/
def WalkRun.page (w : WalkRun) : TlbEntry := { vol := w.vol, page := w.va / 4096 * 4096, bits := 12, leaf := 0 }
def WalkRun.again (w : WalkRun) (root : Nat) : WalkRun := { w with fuel := 4, table := root, p := 0 }

/-- `TLBI_TAKES_EFFECT`: walks under way for the range start anew, every cache drops the entries and raises its epoch; accesses already translated are the older ones.
An unmap call (R396) is answered once they are over. -/
def execTlbiTakesEffect (id : Nat) (s : State) : Host.Outcome State Fault Refusal :=
  match s.tlbis.find? (·.id == id) with
  | none => .next s
  | some x =>
    if x.done then
      match x.host with
      | some c =>
        if s.tlbiOver x then .next (State.replyLate { s with tlbis := s.tlbis.filter (·.id != id) } c 0) else .next s
      | none => .next s
    else
      let old := s.translated
      let s1 := (List.range Config.clusters).foldl (fun (s : State) k =>
        let c := s.cluster k
        s.setCluster k { c with tlb := c.tlb.filter fun e => !x.hits e, epoch := c.epoch + 1,
                                walks := mapIf (x.hits ·.page) (fun w => w.again (((s.spaceOf w.vol).root).getD 0)) c.walks }) s
      let s2 : State := { s1 with
        devTlb := s1.devTlb.filter fun e => !x.hits e, devEpoch := s1.devEpoch + 1,
        tlbis := mapIf (·.id == id) (fun y => { y with done := true, old := old }) s1.tlbis }
      .next (if x.host.isSome then s2.push (.tlbiTakesEffect id) else s2)

end Sys2Proof.Machine
end

