-- ==== Sys2Proof/Machine/Service.lean ====
section
/-! DEFINITION. Illegal encodings (R40 to R42), `trap`, the supervisor's instructions on strands (R406), service calls and the
curator's page requests (R408 to R410). -/

namespace Sys2Proof.Machine

open Sys2Proof

/-! ## Illegal encodings -/

/-- What the decoder knows of a slot (R29, R37). -/
def State.decCtx (s : State) (core slot : Nat) : DecCtx :=
  { sup := slot == 63, pair := if s.inPair core slot then (if slot % 2 == 0 then .even else .odd) else .none }

/-- The members of a group that an illegal word halts with the issuer, in member order: those that are to issue that word next. A member
that is parked in the word before it comes to the word by itself, and is then halted in its turn (R42). -/
def State.illegalMates (s : State) (t : Strand) : List ((Nat × Nat) × Strand) :=
  (List.range 8).flatMap fun i => s.strands.filter fun e => e.2.group == t.group && e.2.colI == i && e.2.run == .ready && e.2.colN == t.colN

/-- A word that only the pairs of some slots make illegal: collation ends, and the members that are to issue it next in such slots halt in
member order as a group of their own; the others go on alone, past the word (R42). -/
def State.pairHalt (s : State) (core slot : Nat) (t : Strand) (f : FaultInfo) (w : Word) : State :=
  let bad := (s.strands.filter fun e => e.2.group == t.group && e.2.colN == t.colN && illegalByPairOnly (s.decCtx e.1.1 e.1.2) w).map (·.2.uid)
  let (g, s1) := s.fresh
  let s2 := s1.endCollation t
  let apart (x : Strand) : Strand :=
    { x with group := g, colI := if x.uid == t.uid then t.colI else x.colI, colN := t.colN, colEnd := some (t.colN + 1), lead := none }
  let s3 : State := { s2 with strands := s2.strands.map fun e => (e.1, if bad.contains e.2.uid then apart e.2 else e.2) }
  match s3.strand core slot with
  | none => s3
  | some t1 => (s3.illegalMates t1).foldl (fun (s : State) e => s.halt e.1.1 e.1.2 e.2 f w) s3

/-- `ILLEGAL_ENCODING`: the word has no effect; the strand halts with its pc at it (R40), and with it its group (R42). -/
def execIllegalEncoding (w : Word) (s : State) : Host.Outcome State Fault Refusal :=
  match s.clk.cur with
  | none => .fault .noIssuer
  | some (core, slot) => match s.strand core slot with
    | none => .fault .noIssuer
    | some t =>
      let f : FaultInfo := { cls := 1, code := 0 }
      if t.group == 0 then .next (s.halt core slot t f w)
      else if illegalByPairOnly (s.decCtx core slot) w then .next (s.pairHalt core slot t f w)
      else .next ((s.illegalMates t).foldl (fun (s : State) e => s.halt e.1.1 e.1.2 e.2 f w) s)

/-! ## trap (R407) -/

/-- `trap`. -/
def execTrap (h : Hdr) (code : BitVec 24) (s : State) : Host.Outcome State Fault Refusal :=
  issue { h := h, word := wordOf (.trap h code) } s fun _ => .fault (taskFault 0x16 code.toNat)

/-! ## Strand handles (R406) -/

/-- The strand a handle names, if the issuer's core may act on it: resident and halted, or a FAULTED slip. -/
inductive Target where
  | halted (core slot : Nat) (t : Strand)
  | slip (vol pa : Nat)
  | none
deriving DecidableEq, Repr

/-- The volume of the strand area at a slip VA. -/
def State.areaOf (s : State) (va : Nat) : Option (Nat × Nat) :=
  if va < Config.areaVA then none else s.circ.areas.find? fun a => a.2 == va - Config.areaVA

/-- The core on which a saved strand ran last, whose slot 63 is told of it (R397); its home core if it has not run. -/
def State.lastCore (s : State) (pa : Nat) : Nat := ((s.circ.asides.find? (·.pa == pa)).bind (·.core)).getD (s.slipHome pa)

def State.target (s : State) (me : Nat) (h : Word) : Target :=
  if fld h 60 48 != 0 then .none
  else if h.getLsbD 63 then
    if fld h 47 27 != 0 || fld h 15 6 != 0 then .none
    else match s.strand (fld h 26 16) (fld h 5 0) with
      | some t => if t.run == .halted && s.routeOf t (fld h 26 16) (fld h 5 0) == some me then .halted (fld h 26 16) (fld h 5 0) t else .none
      | none => .none
  else match s.areaOf (fld h 47 0) with
    | some (vol, pa) =>
      if s.slipState pa == 3 && ((s.volume vol).map fun v => v.route (s.lastCore pa)) == some me then .slip vol pa else .none
    | none => .none

/-- A doubleword of a slip's save area. -/
def State.saveDw (s : State) (vol pa off : Nat) : Word := ofN (s.areaN vol (fld (s.slipDw pa 2) 47 0 + off) (pa + 192 + off) 8)

/-- Write a doubleword of a slip's save area. -/
def State.setSaveDw (s : State) (vol pa off : Nat) (v : Word) : State :=
  s.areaPut vol (fld (s.slipDw pa 2) 47 0 + off) (pa + 192 + off) (leBytes 8 v.toNat)

/-- A special register of a saved strand (R406). -/
def State.slipSpecial (s : State) (me vol pa n : Nat) : Word :=
  let w := fun i => s.slipDw pa i
  let home := fld (w 3) 58 48
  let k := clusterOf home
  match n with
  | 0 => 64
  | 1 => ofN home
  | 2 => ofN k
  | 3 => ofN (2 * (k / 16 / 8 % 2) + k % 16 / 8)
  | 4 => ofN (fld (w 1) 23 16)
  | 5 => ofN (fld (w 1) 31 24)
  | 6 => ofN (((s.gathering vol (fld (w 6) 23 0)).map (·.members.length)).getD 0)
  | 7 => ofN (fld (w 6) 23 0)
  | 8 => ofN (fld (w 2) 63 48)
  | 9 => ofN (fld (w 1) 39 32)
  | 10 => ofN (8 * (fld (w 0) 58 55 + 1))
  | 11 => ofN (fld (w 7) 47 0)
  | 12 => ofN (fld (w 1) 46 40)
  | 13 => ofN (fld (w 1) 48 47)
  | 14 => ofN (fld (w 1) 51 49)
  | 15 => ofN (fld (s.saveDw vol pa 0) 47 0)
  | 16 => ofN (((s.volume vol).map Volume.upv).getD 0)
  | 17 => ofN (((s.volume vol).map Volume.fhv).getD 0)
  | 18 => 1
  | 19 => (s.cluster (clusterOf me)).ver.setWidth 64
  | _ => 0

/-- Replace bits [hi:lo] of a number. -/
def putBits (w hi lo v : Nat) : Nat := w - bitsN w hi lo * 2 ^ lo + v % 2 ^ (hi + 1 - lo) * 2 ^ lo

/-- Write a special register of a saved strand: its read/write bits only. -/
def State.setSlipSpecial (s : State) (pa n : Nat) (v : Word) : State :=
  let w := (s.slipDw pa 1).toNat
  match n with
  | 9 => s.setSlipDw pa 1 (putBits w 39 32 v.toNat)
  | 12 => s.setSlipDw pa 1 (putBits w 46 40 v.toNat)
  | 13 => s.setSlipDw pa 1 (putBits w 48 47 v.toNat)
  | 14 => s.setSlipDw pa 1 (putBits w 50 49 v.toNat)
  | _ => s

/-- A register of a halted strand is read: an entry whose parity fails is repaired from its duplicate and counted, or it is lost (R107). -/
def State.readHalted (s : State) (core slot n : Nat) (t : Strand) : Except (FaultInfo × State) (Word × State) :=
  if n < 128 then
    if t.size ≤ n then .ok (0xFFFFFFFFFFFFFFFF, s)
    else if !t.failing.contains n then .ok (t.g n, s)
    else
      let (s1, t1) := s.settle core t [n]
      if t1.lost.contains n then .error (lostFault n, s1.setStrand core slot t1)
      else
        let k := s1.core core
        .ok (t1.g n, (s1.setCore core { k with corrected := k.corrected + 1 }).setStrand core slot { t1 with bad := t1.bad.filter (· / 2 != n) })
  else if n == 128 then (if t.predBad then .error (lostFault n, s) else .ok (t.pred.setWidth 64, s))
  else if t.sregBad.contains (n - 256) then .error (lostFault n, s)
  else .ok (s.special core slot t (n - 256), s)

/-- `emr`: its value is held at once. -/
def execEmr (h : Hdr) (d a : GOp) (rs : BitVec 24) (s : State) : Host.Outcome State Fault Refusal :=
  issue { h := h, word := wordOf (.emr h d a rs), src := [a], dst := [d], self := true, long := true } s fun c =>
    let n := rs.toNat
    let ones : Word := 0xFFFFFFFFFFFFFFFF
    let r : Except (FaultInfo × State) (Word × State) := match c.s.target c.core (c.g a) with
      | .halted core slot t => c.s.readHalted core slot n t
      | .slip vol pa => .ok
        (if n < 128 then (if 8 * (fld (c.s.slipDw pa 0) 58 55 + 1) ≤ n then ones else c.s.saveDw vol pa (0x540 + 8 * n))
         else if n == 128 then ofN (fld (c.s.slipDw pa 1) 15 0)
         else c.s.slipSpecial c.core vol pa (n - 256), c.s)
      | .none => .ok (ones, c.s)
    match r with
    | .error (f, s1) => .faultAfter { c with s := s1 } f
    | .ok (v, s1) =>
      let c0 : Ctx := { c with s := s1 }
      let (id, c1) := c0.op (c0.dest d)
      .go (c1.setOp id fun o => { o with stage := .held, val := v.setWidth 512 })

/-- `emw`. -/
def execEmw (h : Hdr) (d a : GOp) (rs : BitVec 24) (s : State) : Host.Outcome State Fault Refusal :=
  issue { h := h, word := wordOf (.emw h d a rs), src := [d, a], self := true } s fun c =>
    let n := rs.toNat
    let v := c.g d
    match c.s.target c.core (c.g a) with
    | .halted core slot t =>
      let t1 := if n < 128 then (if t.size ≤ n then t else t.setG n v)
        else if n == 128 then t.setPred v
        else t.setSpecial (n - 256) v
      .go { c with s := c.s.setStrand core slot t1 }
    | .slip vol pa =>
      let s1 := if n < 128 then (if 8 * (fld (c.s.slipDw pa 0) 58 55 + 1) ≤ n then c.s else c.s.setSaveDw vol pa (0x540 + 8 * n) v)
        else if n == 128 then c.s.setSlipDw pa 1 (putBits (c.s.slipDw pa 1).toNat 15 0 (v.toNat / 2 * 2 + 1))
        else c.s.setSlipSpecial pa (n - 256) v
      .go { c with s := s1 }
    | .none => .go c

/-- A FAULTED slip goes on (R406). -/
def State.resumeSlip (s : State) (vol pa : Nat) (skip : Bool) : State :=
  let pc := fld (s.slipDw pa 0) 47 0
  let s1 := (s.setSlipPc pa (if skip then nextPc pc else pc)).setSlipFault pa 0 0
  s1.appendRun (s1.slipHome pa) (s1.slipPrio pa) vol pa

/-- A halted strand goes on in its slot; accesses of it that faulted are performed again before it issues (R76, R398, R406). -/
def State.continueHalted (s : State) (core slot : Nat) (t : Strand) (pc : Nat) : State :=
  let redo := s.redoOf core t
  let ops := t.ops.map fun o => ((redo.find? (·.1.id == o.id)).map (·.1)).getD o
  let s1 := redo.foldl (fun (s : State) r => s.sendAgain core slot r.2) (s.dropFailed core t.uid)
  s1.setStrand core slot { t with run := if redo.isEmpty then .ready else .parked .results, ops := ops, pc := pc, atSwitch := t.atSwitch && pc == t.pc }

/-- `resume`: a release; with park a halted strand is saved as a FAULTED slip of class 1 and its slot is freed; that does
nothing in slot 63, to an upcall, or to a FAULTED slip (DESIGN CHOICE, assumption 97). -/
def execResume (h : Hdr) (a : GOp) (s : State) : Host.Outcome State Fault Refusal :=
  issue { h := h, word := wordOf (.resume h a), src := [a], self := true, rel := true } s fun c =>
    let w := c.g a
    let skip := w.getLsbD 62
    let park := w.getLsbD 61
    match c.s.target c.core w with
    | .halted core slot t =>
      let pc := if skip then nextPc t.pc else t.pc
      if !park then .go { c with s := c.s.continueHalted core slot t pc }
      else if slot == 63 || t.faulter.isSome then .go c
      else .go { c with s := c.s.parkHalted core slot t pc }
    | .slip vol pa => .go (if park then c else { c with s := c.s.resumeSlip vol pa skip })
    | .none => .go c

/-- `kill`. -/
def execKill (h : Hdr) (a : GOp) (s : State) : Host.Outcome State Fault Refusal :=
  issue { h := h, word := wordOf (.kill h a), src := [a], self := true } s fun c =>
    match c.s.target c.core (c.g a) with
    | .halted core slot t => .go { c with s := c.s.endStrand core slot t }
    | .slip vol pa => .go { c with s := (c.s.removeRun (c.s.slipHome pa) pa).endSlip vol pa }
    | .none => .go c

/-! ## Service calls (R408, R409) -/

/-- A pointer that `svc` does not reach: a buffer or room segment, or s1. -/
def Ctx.svcReach (c : Ctx) (w : Word) : Bool :=
  match ptrParts w with
  | .error _ => false
  | .ok (n, _) => n == 1 || decide (2 ≤ descType (c.t.sreg n))

/-- The VA of a service block, or its segment fault. -/
def Ctx.svcBlock (c : Ctx) (w : Word) (need : Nat) : Except FaultInfo Nat :=
  match ptrCheck c.t.sregs w 64 need 64 with
  | .error e => .error (segFault e (fld w 60 0))
  | .ok (_, a) => .ok a

def svcEvent (n core slot : Nat) : Instr :=
  match n with
  | 0 => .svcVersion core slot
  | 1 => .svcResume core slot
  | 2 => .svcKill core slot
  | 3 => .svcPage core slot
  | _ => .svcCounts core slot

/-- `svc`: the strand parks until the curator has answered. -/
def execSvc (h : Hdr) (d a b : GOp) (n : BitVec 16) (s : State) : Host.Outcome State Fault Refusal :=
  issue { h := h, word := wordOf (.svc h d a b n), src := [a, b], dst := [d], self := true, rel := true, long := true } s fun c =>
    let k := clusterOf c.core
    if c.svcReach (c.g a) || (b != .z && c.svcReach (c.g b)) then .go (c.result d 1)
    else match c.svcBlock (c.g a) rR with
      | .error e => .fault e
      | .ok va => match (if b == .z then Except.ok none else (c.svcBlock (c.g b) rW).map some) with
        | .error e => .fault e
        | .ok res =>
          if c.s.isFenced .curator k then .go (c.result d 3)
          else
            let (id, c1) := c.op (c.dest d)
            let x : SvcCall := { id := id, uid := c.t.uid, core := c.core, slot := c.slot, vol := c.t.vol, n := n.toNat, arg := va, res := res }
            let cl := c1.s.cluster k
            let s1 := (c1.s.setCluster k { cl with svcs := cl.svcs ++ [x] }).push (svcEvent n.toNat c.core c.slot)
            .left (s1.setStrand c.core c.slot { c1.t.issued with run := .parked (.svc id), prog := 1 })

/-- Change a call. -/
def State.setSvc (s : State) (cluster id : Nat) (f : SvcCall → SvcCall) : State :=
  let cl := s.cluster cluster
  s.setCluster cluster { cl with svcs := mapIf (·.id == id) f cl.svcs }

/-- The call is over: its status goes back. -/
def State.svcEnd (s : State) (cluster : Nat) (x : SvcCall) (status : Nat) : State :=
  let cl := s.cluster cluster
  (s.setCluster cluster { cl with svcs := cl.svcs.filter (·.id != x.id) }).opDone x.uid x.id (BitVec.ofNat 512 status) 0 none

/-- The call is answered: its result words are written, its status goes back; a result block that no longer translates makes
it SVC_BADARG. Words of a remote window are sent to the peer, and the call ends when they are placed (R393). -/
def State.svcAnswer (s : State) (cluster : Nat) (x : SvcCall) (status : Nat) (words : List Word) : State :=
  match x.res with
  | none => s.svcEnd cluster x status
  | some va =>
    if status != 0 || words.isEmpty then s.svcEnd cluster x status
    else match s.locKey cluster (.va x.vol va) .write with
      | .far peer off =>
        let n := 8 * words.length
        let v := leNat (words.flatMap fun w => leBytes 8 w.toNat)
        let (s1, a) := s.sendFar { peer := peer, off := off, n := n, data := some v }
        if a.res.isSome then s1.svcEnd cluster x 2
        else s1.setSvc cluster x.id fun y => { y with taken := true, wr := some a, st := status }
      | _ =>
        let r := words.zipIdx.foldl (fun (r : State × Option Place) w => match r.2 with
          | some _ => r
          | none => r.1.engWrite cluster (.va x.vol (va + 8 * w.2)) 8 w.1.toNat) (s, none)
        match r.2 with
        | none => r.1.svcEnd cluster x status
        | some _ => s.svcEnd cluster x 2

/-- A result that waits for the network engine or its port to report is sent (R416). -/
def State.svcSend (s : State) (cluster : Nat) (x : SvcCall) : State :=
  match x.wr with
  | none => s
  | some a =>
    if !a.held then s
    else
      let (s1, b) := s.sendFar a
      if b.res.isSome then s1.svcEnd cluster x 2 else s1.setSvc cluster x.id fun y => { y with wr := some b }

/-- A remote piece of a call has been settled: 0 the argument, 1 the result. -/
def State.svcSettle (s : State) (cluster : Nat) (x : SvcCall) (i : Nat) (res : Option Nat) : State :=
  if i == 0 then
    match x.rd with
    | none => s
    | some a => (s.setSvc cluster x.id fun y => { y with rd := some { a with res := some res } }).pushNew (svcEvent x.n x.core x.slot)
  else if x.wr.isSome then s.svcEnd cluster x (if res.isSome then x.st else 2) else s

/-- The fault of a service block that fails. -/
def svcFault (code va access : Nat) : FaultInfo :=
  if code == 0x100 then { cls := 5, code := 3, arg := va, access := access, size := 6 }
  else { cls := 2, code := code, arg := va, access := access, size := 6 }

/-- The argument block as far as it has been read: its words, a fault, or a read of a remote window under way. -/
inductive SvcArg where
  | words (s : State) (ws : List Word)
  | fault (f : FaultInfo)
  | wait (s : State)
deriving DecidableEq, Repr

/-- Read the argument block; a block in a remote window is asked of its peer (R393), whose failure is REMOTE. -/
def State.svcArg (s : State) (k : Nat) (x : SvcCall) : SvcArg :=
  let remote : FaultInfo := { cls := 3, code := 0x38, arg := x.arg, size := 6 }
  match x.rd with
  | some a => match a.res with
    | none =>
      if !a.held then .wait s
      else
        let (s1, b) := s.sendFar a
        if b.res.isSome then .fault remote else .wait (s1.setSvc k x.id fun y => { y with rd := some b })
    | some none => .fault remote
    | some (some v) => .words s ((List.range 8).map fun i => ofN (v / 2 ^ (64 * i)))
  | none => match s.locKey k (.va x.vol x.arg) .read with
    | .far peer off =>
      let (s1, a) := s.sendFar { peer := peer, off := off, n := 64 }
      if a.res.isSome then .fault remote
      else .wait (s1.setSvc k x.id fun y => { y with rd := some a, ver := (s.cluster k).ver })
    | _ => match s.readRec k (.va x.vol x.arg) 8 with
      | .error e => .fault (svcFault e x.arg 0)
      | .ok ws => .words s ws

/-- The fault code of a result block that does not translate with W. -/
def State.svcResBad (s : State) (k : Nat) (x : SvcCall) : Option Nat :=
  x.res.bind fun va => match s.locKey k (.va x.vol va) .write with
    | .key key _ => if s.keyFenced key then some 0x100 else none
    | .fail c => some c
    | .fenced => some 0x100
    | .far _ _ => none

/-- The curator takes a call: the argument block is read, the result block must translate with W; else the strand faults at
`svc`. A call that reaches the curator during a firmware switch waits for its end (R409). -/
def State.svcTake (s : State) (core slot n : Nat) (act : State → SvcCall → List Word → State) : State :=
  let k := clusterOf core
  let cl := s.cluster k
  match cl.svcs.find? fun x => x.core == core && x.slot == slot && x.n == n && !x.taken with
  | none => s
  | some x =>
    let up := s.unitUp .curator k
    if s.unitFenced .curator k then s.svcEnd k x 3
    else if !up || (cl.switch.isSome && x.rd.isNone) then s
    else
      let fault (f : FaultInfo) : State :=
        (s.setCluster k { cl with svcs := cl.svcs.filter (·.id != x.id) }).opDone x.uid x.id 0 0 (some f)
      match s.svcArg k x with
      | .wait s1 => s1
      | .fault f => fault f
      | .words s1 ws =>
        match s1.svcResBad k x with
        | some e => fault (svcFault e (x.res.getD 0) 1)
        | none => act s1 x ws

/-- `SVC_VERSION`. -/
def execSvcVersion (core slot : Nat) (s : State) : Host.Outcome State Fault Refusal :=
  .next (s.svcTake core slot 0 fun s x ws =>
    let k := clusterOf core
    if ws.getD 0 0 != 0 then s.svcAnswer k x 2 [] else s.svcAnswer k x 0 [(if x.rd.isSome then x.ver else (s.cluster k).ver).setWidth 64])

/-- A FAULTED slip of the caller's volume. -/
def State.ownFaulted (s : State) (vol va : Nat) : Option Nat :=
  match s.areaOf va with
  | some (v, pa) => if v == vol && s.slipState pa == 3 then some pa else none
  | none => none

/-- `SVC_RESUME`. -/
def execSvcResume (core slot : Nat) (s : State) : Host.Outcome State Fault Refusal :=
  .next (s.svcTake core slot 1 fun s x ws =>
    let k := clusterOf core
    let w := ws.getD 0 0
    if w.getLsbD 63 || w.getLsbD 61 || fld w 60 48 != 0 then s.svcAnswer k x 2 []
    else match s.ownFaulted x.vol (fld w 47 0) with
      | none => s.svcAnswer k x 2 []
      | some pa => (s.resumeSlip x.vol pa (w.getLsbD 62)).svcAnswer k x 0 [])

/-- `SVC_KILL`. -/
def execSvcKill (core slot : Nat) (s : State) : Host.Outcome State Fault Refusal :=
  .next (s.svcTake core slot 2 fun s x ws =>
    let k := clusterOf core
    let w := ws.getD 0 0
    if fld w 63 48 != 0 then s.svcAnswer k x 2 []
    else match s.ownFaulted x.vol (fld w 47 0) with
      | none => s.svcAnswer k x 2 []
      | some pa => (s.endSlip x.vol pa).svcAnswer k x 0 [])

/-- Join a page request of a cluster, or queue a new one; none when the queue of 64 is full (R250). -/
def State.joinPage (s : State) (cluster vol page core slot gidx : Nat) (w : PageWaiter) : Option State :=
  let cl := s.cluster cluster
  if (cl.pages.any fun p => p.vol == vol && p.page == page) then
    some (s.setCluster cluster { cl with pages := mapIf (fun p => p.vol == vol && p.page == page) (fun p => { p with waiters := p.waiters ++ [w] }) cl.pages })
  else if 64 ≤ cl.pages.length then none
  else
    let (id, s1) := s.fresh
    let q : PageReq := { id := id, vol := vol, page := page, waiters := [w], core := core, slot := slot, gidx := gidx }
    some ((s1.setCluster cluster { cl with pages := cl.pages ++ [q] }).pushNew (.pageRequestForward cluster))

/-- `SVC_PAGE`: the call waits until its page is settled; while the queue is full it waits for a place. -/
def execSvcPage (core slot : Nat) (s : State) : Host.Outcome State Fault Refusal :=
  .next (s.svcTake core slot 3 fun s x ws =>
    let k := clusterOf core
    let w := ws.getD 0 0
    if fld w 63 48 != 0 then s.svcAnswer k x 2 []
    else
      let gidx := ((s.strand core slot).map Strand.gidx).getD 0
      match s.joinPage k x.vol (fld w 47 12 * 4096) core slot gidx { core := core, lane := 0, res := none, svc := some x.id } with
      | none => s
      | some s1 =>
        let cl := s1.cluster k
        s1.setCluster k { cl with svcs := mapIf (·.id == x.id) (fun y => { y with taken := true, waits := true }) cl.svcs })

/-- `SVC_COUNTS`. -/
def execSvcCounts (core slot : Nat) (s : State) : Host.Outcome State Fault Refusal :=
  .next (s.svcTake core slot 4 fun s x ws =>
    let k := clusterOf core
    let bit (i : Nat) (kind : FuncKind) (n : Nat) : Nat := if s.isFenced kind n then 2 ^ i else 0
    let cores := ((List.range 8).map fun i => bit (1 + i) .core (8 * k + i)).foldl (· + ·) 0
    let map := bit 0 .sfu k + cores + bit 9 .copy k + bit 10 .sel k + bit 11 .red k + bit 12 .bind k + bit 13 .slice k
    if ws.getD 0 0 != 0 then s.svcAnswer k x 2 [] else s.svcAnswer k x 0 [ofN (s.core core).corrected, ofN map])

/-! ## Page requests at the curator (R250, R410) -/

/-- `PAGE_REQUEST_FORWARD`: the curator sends its waiting requests to the host. -/
def execPageRequestForward (cluster : Nat) (s : State) : Host.Outcome State Fault Refusal :=
  let cl := s.cluster cluster
  let new := cl.pages.filter fun p => !p.forwarded
  let s1 := s.setCluster cluster { cl with pages := cl.pages.map fun p => { p with forwarded := true } }
  .next { s1 with net := { s1.net with out := s1.net.out ++ new.map fun p => .page cluster p.id p.vol p.page } }

/-- Settle a request: result words, notices, service calls; and calls that waited for a place are tried again. -/
def State.settlePage (s : State) (cluster : Nat) (p : PageReq) (res : Nat) : State :=
  let cl := s.cluster cluster
  let s1 := s.setCluster cluster { cl with pages := cl.pages.filter (·.id != p.id) }
  let s2 := p.waiters.foldl (fun (s : State) w =>
    let s1 := match w.res with
      | some l => (s.engWrite cluster l 8 res).1
      | none => s
    match w.svc with
    | some id => match (s1.cluster cluster).svcs.find? (·.id == id) with
      | some x => s1.svcAnswer cluster x 0 [ofN res]
      | none => s1
    | none => s1.engMsg p.vol w.core w.lane 9 0 (res * 2 ^ 40 + p.page / 4096)) s1
  ((s2.cluster cluster).svcs.filter fun x => x.n == 3 && !x.taken).foldl (fun (s : State) x => s.pushNew (.svcPage x.core x.slot)) s2

end Sys2Proof.Machine
end

