-- ==== Sys2Proof/Machine/Net.lean ====
section
/-! DEFINITION. The network engine: work requests, packets, acknowledgements and their failures (R380 to R393, R425). -/

namespace Sys2Proof.Machine

open Sys2Proof

/-! ## Issue (R383 to R385) -/

/-- A posting instruction: its record's pointer is checked at issue. -/
def netPost (i : Instr) (h : Hdr) (kind : ReqKind) (note : Bool) (d a : GOp) (s : State) : Host.Outcome State Fault Refusal :=
  issue { h := h, word := wordOf i, src := [a], dst := [d], long := true, access := true } s fun c =>
    match c.enginePtr (c.g a) 64 (rR + rE) 64 with
    | .error e => .fault e
    | .ok (ty, _) =>
      if ty != 1 then .fault (segFault 0x06 (fld (c.g a) 60 0))
      else
        let (r, c1) := c.request d kind (c.g a) none (if note then 1 else 0)
        .go { c1 with s := State.push { c1.s with net := { c1.s.net with reqs := c1.s.net.reqs ++ [r] } } (r.event 0) }

/-- `nsend`. -/
def execNsend (h : Hdr) (note : Bool) (d a : GOp) (s : State) : Host.Outcome State Fault Refusal :=
  netPost (.nsend h note d a) h .nsend note d a s

/-- `nread`. -/
def execNread (h : Hdr) (note : Bool) (d a : GOp) (s : State) : Host.Outcome State Fault Refusal :=
  netPost (.nread h note d a) h .nread note d a s

/-- `nwrite`. -/
def execNwrite (h : Hdr) (note : Bool) (d a : GOp) (s : State) : Host.Outcome State Fault Refusal :=
  netPost (.nwrite h note d a) h .nwrite note d a s

/-- `nrecv`. -/
def execNrecv (h : Hdr) (note : Bool) (d a : GOp) (s : State) : Host.Outcome State Fault Refusal :=
  netPost (.nrecv h note d a) h .nrecv note d a s

def State.peer (s : State) (i : Nat) : Peer := (aget s.net.peers i).getD {}

/-- A peer entry as `nqry.peer` gives it (R381). -/
def Peer.word (p : Peer) : Word :=
  ofN ((if p.valid then 2 ^ 63 else 0) + p.state.toNat * 2 ^ 61 + p.pay.toNat * 2 ^ 48 + p.vol % 2 ^ 16 * 2 ^ 32 + p.depth % 2 ^ 16 * 2 ^ 16 + p.port % 16)

def Peer.payload (p : Peer) : Nat := 256 * 2 ^ p.pay.toNat

/-- A volume's outstanding work requests to a peer. -/
def State.wrsTo (s : State) (vol peer : Nat) : List WorkReq := s.net.wrs.filter fun w => w.iss.vol == vol && w.peer == peer

/-- Work-request places in use: a request keeps its place until its message is delivered (R174). -/
def State.netUsed (s : State) : Nat := s.net.wrs.length + s.fab.eng.countP fun m => m.src == 6

/-- `nqry`. -/
def execNqry (h : Hdr) (d a : GOp) (item : BitVec 16) (s : State) : Host.Outcome State Fault Refusal :=
  issue { h := h, word := wordOf (.nqry h d a item), src := [a], dst := [d], long := true, access := true } s fun c =>
    let i := fld (c.g a) 11 0
    let v : Word :=
      if fld (c.g a) 63 12 != 0 then 0xFFFFFFFFFFFFFFFF
      else match item.toNat with
        | 0 => (c.s.peer i).word
        | 1 => ofN (c.s.wrsTo c.t.vol i).length
        | 2 => ofN (c.s.peer i).payload
        | _ => ofN (65536 - c.s.netUsed)
    .go (c.result d v)

/-! ## The record (R382) -/

def wrPeer (d : Nat → Word) : Nat := fld (d 0) 59 48
def wrLen (d : Nat → Word) : Nat := fld (d 2) 30 0
def wrKey (d : Nat → Word) : BitVec 32 := BitVec.ofNat 32 (fld (d 3) 63 32)
def wrFence (d : Nat → Word) : Bool := (d 6).getLsbD 0
def WorkReq.dw (w : WorkReq) (i : Nat) : Word := w.dws.getD i 0
def WorkReq.bytes (w : WorkReq) : Nat := wrLen w.dw
def WorkReq.pk (w : WorkReq) : Nat := 256 * 2 ^ w.pay

/-- The op code of a record that an instruction needs; the low byte of its opcode. -/
def netOp : ReqKind → Nat
  | .nsend => 1 | .nwrite => 2 | .nread => 3 | _ => 4
def netByte : ReqKind → Nat
  | .nsend => 0x50 | .nread => 0x51 | .nwrite => 0x52 | _ => 0x53

/-- A kind whose bytes leave the local buffer. -/
def ReqKind.outward : ReqKind → Bool
  | .nsend | .nwrite => true
  | _ => false

/-- A pointer into a `dv` segment fails its check. -/
def Issuer.dvBad (iss : Issuer) (w : Word) (size need align : Nat) : Bool :=
  (match ptrParts w with
   | .error _ => true
   | .ok (n, _) => descType (sregOf iss.sregs n) != 1) || iss.extBad w size need align

/-- The checks of R384 by doubleword. -/
def netChecks (s : State) (iss : Issuer) (kind : ReqKind) (d : Nat → Word) : List (Nat × Bool) :=
  let keyed := kind == .nread || kind == .nwrite
  let len := wrLen d
  let outside := match iss.place (d 5) 8 (rW + rF + rE) 8 with
    | .error _ => true
    | .ok (_, l) => match s.devPlace l .both with | .key k _ => !isStack k | .far _ _ => true | _ => false
  [(0, fld (d 0) 63 60 != netOp kind || fld (d 0) 47 16 != 0),
   (1, iss.dvBad (d 1) len (if kind.outward then rR else rW) 1),
   (2, fld (d 2) 63 31 != 0 || len == 0 || decide (2 ^ 30 < len)),
   (3, fld (d 3) 31 0 != 0 || (!keyed && d 3 != 0)), (4, !keyed && d 4 != 0),
   (5, d 5 != 0 && (iss.dvBad (d 5) 8 (rW + rF) 8 || outside)),
   (6, fld (d 6) 63 1 != 0), (7, d 7 != 0)]

/-! ## Memory as the network engine reaches it (R180, R237): the stacks and the annex -/

/-- Keys and lengths of n bytes at a location, or the code of R390 and the failing VA. -/
def State.netKeys (s : State) (l : Loc) (n : Nat) (acc : Access) : Except (Nat × Nat) (List (Nat × Option (Nat × Nat) × Nat)) :=
  (piecesOf l n).foldl (fun (r : Except (Nat × Nat) (List (Nat × Option (Nat × Nat) × Nat))) p => match r with
    | .error e => .error e
    | .ok ks => match s.devPlace (l.plus p.1) acc with
      | .key k kp => if s.keyFenced k then .error (0x88, (l.plus p.1).shown) else .ok (ks ++ [(k, kp, p.2)])
      | .fail c => .error (0x83 + c, (l.plus p.1).shown)
      | .far _ _ => .error (0x87, (l.plus p.1).shown)
      | .fenced => .error (0x88, (l.plus p.1).shown)) (.ok [])

def State.netRead (s : State) (l : Loc) (n : Nat) : Except (Nat × Nat) (List Byte) :=
  (s.netKeys l n .read).map fun ks => ks.flatMap fun k => s.mem.getBytes k.1 k.2.2

/-- One placement: the bytes of a packet (R387). -/
def State.netWrite (s : State) (l : Loc) (bs : List Byte) : Except (Nat × Nat) State :=
  (s.netKeys l bs.length .write).map fun ks =>
    (ks.foldl (fun (r : State × List Byte) k => (r.1.bankWrite k.1 k.2.1 k.2.2 (leNat (r.2.take k.2.2)), r.2.drop k.2.2))
      (s.devFill l bs.length, bs)).1

/-! ## The life of a work request -/

def State.putWr (s : State) (w : WorkReq) : State := { s with net := { s.net with wrs := replaceBy (·.id == w.id) w s.net.wrs } }
def State.sendOut (s : State) (o : OutMsg) : State := { s with net := { s.net with out := s.net.out ++ [o] } }

/-- Packets of n bytes, and the length of packet i. -/
def WorkReq.packets (w : WorkReq) : Nat := ceilDiv w.bytes w.pk
def WorkReq.size (w : WorkReq) (i : Nat) : Nat := Nat.min w.pk (w.bytes - i * w.pk)

/-- An errata record of a work request (R390). -/
def State.netErrata (s : State) (w : WorkReq) (code off va : Nat) : State :=
  s.errataOf w.iss 6 [w.ptr, ofN (netByte w.kind * 2 ^ 56 + code * 2 ^ 48 + off % 2 ^ 31), ofN va]

/-- An address space outlives its last volume while work requests of a volume that used it go on (R391). -/
def State.dropGhosts (s : State) : State :=
  let on (g : Nat × Nat) : Bool := s.net.wrs.any (·.iss.vol == g.1)
  let gone := (s.circ.ghosts.filter (!on ·)).map (·.2)
  let used (id : Nat) : Bool := (s.circ.volumes.any (·.space == id)) || s.circ.ghosts.any fun g => on g && g.2 == id
  if gone.isEmpty then s
  else { s with circ := { s.circ with ghosts := s.circ.ghosts.filter on,
                                      spaces := s.circ.spaces.filter fun p => !gone.contains p.id || used p.id } }

/-- A work request leaves the engine: its message, and the fences that waited for it. -/
def State.dropWr (s : State) (w : WorkReq) (status placed : Nat) : State :=
  let wrs := (s.net.wrs.filter (·.id != w.id)).map fun x => { x with after := x.after.filter (· != w.id) }
  let s1 := State.dropGhosts { s with net := { s.net with wrs := wrs } }
  let s2 := if w.note then s1.notify w.iss 6 (fld (w.dw 0) 15 0) (status * 2 ^ 42 + placed % 2 ^ 40) else s1
  (s2.net.wrs.filter fun x => !x.started && x.after.isEmpty).foldl (fun s x => s.pushNew (.netAccept x.id)) s2

/-- A work request fails (R390). -/
def State.failWr (s : State) (w : WorkReq) (code off va : Nat) : State :=
  (s.netErrata w code off va).dropWr w 1 w.placed

/-- PEERLOST: the peer is failed, and so is every work request of the volume to it. -/
def State.peerLost (s : State) (w : WorkReq) (off : Nat) : State :=
  let e := s.peer w.peer
  let s1 : State := { s with net := { s.net with peers := aput s.net.peers w.peer { e with state := 2 } } }
  let s2 := s1.failWr w 0x81 off 0
  (s2.wrsTo w.iss.vol w.peer).foldl (fun s x => s.failWr x 0x81 0 0) s2

/-- Arrivals of n bytes at a work request's sync word, each of at most 2^20 bytes; the code of R390 of one that failed: the
translation's, HWERR, or SYNC for an overflow or a place outside the stacks. -/
def State.wrArrive (s : State) (w : WorkReq) (n : Nat) : State × Option Nat :=
  if w.dw 5 == 0 then (s, none)
  else match w.iss.place (w.dw 5) 8 (rW + rF + rE) 8 with
    | .error _ => (s, some 0x89)
    | .ok (_, l) => (List.range (ceilDiv n (2 ^ 20))).foldl (fun (r : State × Option Nat) i =>
        if r.2.isSome then r
        else match r.1.devPlace l .both with
          | .key k kp =>
            if r.1.keyFenced k then (r.1, some 0x88)
            else if !isStack k then (r.1, some 0x89)
            else
              let q := (r.1.devFill l).arriveAt k kp (Nat.min (2 ^ 20) (n - 2 ^ 20 * i))
              (q.1, if q.2 then some 0x89 else none)
          | .fail c => (r.1, some (0x83 + c))
          | .fenced => (r.1, some 0x88)
          | .far _ _ => (r.1, some 0x89)) (s, none)

/-- The VA of the sync word, for errata. -/
def WorkReq.syncVA (w : WorkReq) : Nat := (w.iss.at_ (w.dw 5) 0).shown

/-- Arrivals that the determinism flag held back, in ascending offset order (R391). -/
def State.wrRelease (s : State) (w : WorkReq) : State × Option Nat :=
  let held := w.held.foldl (fun l x => let a := l.takeWhile fun (y : Nat × Nat) => decide (y.1 < x.1); a ++ x :: l.drop a.length) []
  held.foldl (fun (r : State × Option Nat) x => if r.2.isSome then r else r.1.wrArrive w x.2) (s, none)

/-- A work request has placed every byte (R388, R389). -/
def State.doneWr (s : State) (w : WorkReq) : State :=
  let total := if w.kind.outward then w.bytes else w.placed
  let (s1, bad) := if w.kind.outward then s.wrArrive w w.bytes else s.wrRelease w
  match bad with
  | some code => s1.failWr { w with placed := total } code 0 w.syncVA
  | none =>
    let trunc := w.kind == .nrecv && decide (w.bytes < w.len.getD 0)
    let s2 := if w.kind == .nrecv then
        { s1 with net := { s1.net with doneMsg := s1.net.doneMsg ++ [(w.iss.vol, w.peer, w.msg)] } }
      else s1
    let s3 := if trunc then s2.netErrata w 0x83 (w.bytes / w.pk * w.pk) 0 else s2
    s3.dropWr w (if trunc then 3 else 0) total

/-- Packet i of an outward request, or of a read. -/
def WorkReq.packet (w : WorkReq) (i : Nat) (bs : List Byte) : PacketKind :=
  match w.kind with
  | .nsend => .send w.iss.vol w.msg i w.bytes bs
  | .nwrite => .write w.id i (wrKey w.dw) ((w.dw 4).toNat + i * w.pk) bs
  | _ => .readReq w.id i (wrKey w.dw) ((w.dw 4).toNat + i * w.pk) (w.size i)

/-- Start a work request: its packets leave, or the packets held for it come up again (R386). -/
def State.startWr (s : State) (w0 : WorkReq) : State :=
  let w := { w0 with started := true }
  let s1 := s.putWr w
  let port := (s1.peer w.peer).port
  if w.kind == .nrecv then
    let mine (p : Packet) : Bool := p.peer == w.peer && (match p.kind with | .send _ n _ _ _ => n == w.msg | _ => false)
    let ps := s1.net.heldP.filter mine
    ps.foldl (fun s p => s.push (.packetReceive p)) { s1 with net := { s1.net with heldP := s1.net.heldP.filter (!mine ·) } }
  else
    let r := (List.range w.packets).foldl (fun (r : State × Option (Nat × Nat × Nat)) i =>
      match r.2 with
      | some _ => r
      | none => match (if w.kind.outward then s1.netRead (w.iss.at_ (w.dw 1) (i * w.pk)) (w.size i) else .ok []) with
        | .error e => (r.1, some (i, e.1, e.2))
        | .ok bs =>
          let s2 := if w.kind.outward then r.1.devFill (w.iss.at_ (w.dw 1) (i * w.pk)) (w.size i) else r.1
          (s2.sendOut (.packet w.peer port w.id i (w.packet i bs)), none)) (s1, none)
    match r.2 with
    | none => r.1
    | some (i, code, va) => r.1.failWr w code (i * w.pk) va

/-- The next message number of a volume and peer. -/
def nextMsg (l : List (Nat × Nat × Nat)) (vol peer : Nat) : Nat := ((l.find? fun x => x.1 == vol && x.2.1 == peer).map (·.2.2)).getD 0
def bumpMsg (l : List (Nat × Nat × Nat)) (vol peer : Nat) : List (Nat × Nat × Nat) :=
  (l.filter fun x => !(x.1 == vol && x.2.1 == peer)) ++ [(vol, peer, nextMsg l vol peer + 1)]

/-- Accept a checked request: its message number, its fence, its start. -/
def State.takeWr (s : State) (r : Req) (ws : List Word) : State :=
  let d := fun i => ws.getD i (0 : Word)
  let peer := wrPeer d
  let vol := r.iss.vol
  let w : WorkReq := { id := r.id, iss := r.iss, kind := r.kind, ptr := r.a, dws := ws, note := r.imm == 1, peer := peer, det := s.det vol,
                       pay := (s.peer peer).pay.toNat,
                       msg := nextMsg (if r.kind == .nsend then s.net.sendNo else s.net.recvNo) vol peer,
                       after := if wrFence d then (s.wrsTo vol peer).map (·.id) else [] }
  let s1 : State := { s with net := { s.net with
    wrs := s.net.wrs ++ [w],
    sendNo := if r.kind == .nsend then bumpMsg s.net.sendNo vol peer else s.net.sendNo,
    recvNo := if r.kind == .nrecv then bumpMsg s.net.recvNo vol peer else s.net.recvNo } }
  let s2 := s1.status r.iss r.id 0
  if w.after.isEmpty then s2.startWr w else s2

/-- The eight doublewords of a request's record, which lies in the stacks; none where it cannot be read. -/
def State.netRecord (s : State) (r : Req) : Option (List Word) :=
  match r.iss.place r.a 64 (rR + rE) 64 with
  | .error _ => none
  | .ok (_, l) => (List.range 8).foldl (fun (x : Option (List Word)) i => x.bind fun ws =>
      match s.devPlace (l.plus (8 * i)) .read with
      | .key k _ => if isStack k && !s.keyFenced k then some (ws ++ [s.rdW k]) else none
      | _ => none) (some [])

/-- `NET_ACCEPT`: a request's checks in the order of R384; or a fenced work request whose turn has come. -/
def execNetAccept (req : Nat) (s : State) : Host.Outcome State Fault Refusal :=
  match s.net.reqs.find? (·.id == req) with
  | none => match s.net.wrs.find? (·.id == req) with
    | some w => .next (if w.started || !w.after.isEmpty then s else s.startWr w)
    | none => .next s
  | some r =>
    if !s.reqReady r then .next (s.notReady r)
    else if !(s.isReady .net 0 || s.isFenced .net 0) then .next s
    else
      let s0 : State := { s with net := { s.net with reqs := s.net.reqs.filter (·.id != req) } }
      let s1 := match r.iss.place r.a 64 (rR + rE) 64 with | .ok (_, l) => s0.devFill l 64 | .error _ => s0
      match s1.netRecord r with
      | none => .next (s1.status r.iss req (badRec 0))
      | some ws =>
        let d := fun i => ws.getD i (0 : Word)
        match lowestBad (netChecks s1 r.iss r.kind d) with
        | some dw => .next (s1.status r.iss req (badRec dw))
        | none =>
          let e := s1.peer (wrPeer d)
          if !e.valid || e.state == 2 || e.vol != r.iss.vol then .next (s1.status r.iss req 4)
          else if e.depth ≤ (s1.wrsTo r.iss.vol (wrPeer d)).length || 65536 ≤ s1.netUsed then .next (s1.status r.iss req 1)
          else if s1.isFenced .net 0 || s1.isFenced .port e.port then .next (s1.status r.iss req 3)
          else if !s.isReady .port e.port then .next s
          else .next (s1.takeWr r ws)

/-! ## Arriving packets (R386, R387, R425) -/

/-- The exported key that admits an access of a peer: its VA and volume. -/
def State.keyCheck (s : State) (peer : Nat) (key : BitVec 32) (off n : Nat) (write : Bool) : Option Loc :=
  (s.net.keys.find? fun k => k.key == key && k.peer == peer && (if write then k.w else k.r) && decide (off + n ≤ k.length)).map fun k =>
    .va k.vol (k.base + off)

/-- Packets of a message that fit the receive's buffer are all placed. -/
def WorkReq.allIn (w : WorkReq) (len : Nat) : Bool :=
  (List.range (ceilDiv (Nat.min len w.bytes) w.pk)).all w.got.contains

/-- Bytes placed for a receive or a read: the arrival, and the end of the request. -/
def State.placedWr (s : State) (w0 : WorkReq) (i n total : Nat) : State :=
  let w := { w0 with got := w0.got ++ [i], placed := w0.placed + n, len := some total }
  if w.det then
    let w1 := { w with held := if n == 0 then w.held else w.held ++ [(i * w.pk, n)] }
    if w1.allIn total then (s.putWr w1).doneWr w1 else s.putWr w1
  else
    let (s1, bad) := if n == 0 then (s, none) else s.wrArrive w n
    match bad with
    | some code => (s1.putWr w).failWr w code (i * w.pk) w.syncVA
    | none => if w.allIn total then (s1.putWr w).doneWr w else s1.putWr w

/-- Held for a receive not yet posted, up to 64 packets of a peer; else refused unacknowledged. -/
def State.holdPacket (s : State) (p : Packet) : State :=
  if s.net.heldP.contains p || 64 ≤ (s.net.heldP.filter (·.peer == p.peer)).length then s
  else { s with net := { s.net with heldP := s.net.heldP ++ [p] } }

/-- A packet of a send: packet i of message n of the sender's volume `vol`, for the n-th receive that this device's volume of the
peer entry posted (R386); a duplicate of one taken is acknowledged again, whatever has become of the receive and its volume (R387). -/
def State.sendArrives (s : State) (p : Packet) (vol n i len : Nat) (bs : List Byte) : State :=
  let e := s.peer p.peer
  let ack := s.sendOut (.ack p.peer (.message vol n) i)
  let refuse := s.sendOut (.refuse p.peer (.message vol n) i)
  let taken (s : State) : State := { s with net := { s.net with gotPk := s.net.gotPk ++ [(e.vol, p.peer, n, i)] } }
  if s.net.gotPk.contains (e.vol, p.peer, n, i) || s.net.doneMsg.contains (e.vol, p.peer, n) then ack
  else if (s.volume e.vol).isNone then refuse
  else match s.net.wrs.find? fun w => w.kind == .nrecv && w.iss.vol == e.vol && w.peer == p.peer && w.msg == n with
    | some w =>
      if w.got.contains i then ack
      else if !w.started then s.holdPacket p
      else
        let fit := bs.take (w.bytes - i * w.pk)
        if fit.isEmpty then (taken ack).placedWr w i 0 len
        else match s.netWrite (w.iss.at_ (w.dw 1) (i * w.pk)) fit with
          | .error (code, va) => refuse.failWr w code (i * w.pk) va
          | .ok s1 => (taken (s1.sendOut (.ack p.peer (.message vol n) i))).placedWr w i fit.length len
    | none => if n < nextMsg s.net.recvNo e.vol p.peer then refuse else s.holdPacket p

/-- A packet of a peer's write. -/
def State.writeArrives (s : State) (p : Packet) (wr i : Nat) (key : BitVec 32) (off : Nat) (bs : List Byte) : State :=
  if s.net.donePk.contains (p.peer, wr, i) then s.sendOut (.ack p.peer (.request wr) i)
  else match s.keyCheck p.peer key off bs.length true with
    | none => s.sendOut (.refuse p.peer (.request wr) i)
    | some l => match s.netWrite l bs with
      | .error _ => s.sendOut (.refuse p.peer (.request wr) i)
      | .ok s1 => State.sendOut { s1 with net := { s1.net with donePk := s1.net.donePk ++ [(p.peer, wr, i)] } } (.ack p.peer (.request wr) i)

/-- A peer's read request: its data, or a refusal. -/
def State.readArrives (s : State) (p : Packet) (wr i : Nat) (key : BitVec 32) (off n : Nat) : State :=
  match (s.keyCheck p.peer key off n false).map fun l => (s.netRead l n).map fun bs => (s.devFill l n, bs) with
  | some (.ok (s1, bs)) => s1.sendOut (.packet p.peer (s.peer p.peer).port wr i (.readData wr i bs))
  | _ => s.sendOut (.refuse p.peer (.request wr) i)

/-- The remote pieces of a cluster's engines: of copy operations, of service calls, of requests whose records are read. -/
def Cluster.pieces (c : Cluster) : List FarAcc :=
  c.copies.flatMap CopyOp.far ++ (c.svcs.flatMap fun x => x.rd.toList ++ x.wr.toList) ++ c.reqs.flatMap Req.far

/-- The remote pieces of all engines. -/
def State.pieces (s : State) : List FarAcc := (s.clusters.flatMap fun c => c.2.pieces) ++ s.circ.reqs.flatMap Req.far ++ s.net.tails

/-- A piece that has been sent under this name and is not settled. -/
def FarAcc.out (tag : Nat) (a : FarAcc) : Bool := a.tag == tag && a.res.isNone && !a.held

/-- The remote piece that travels under this name. -/
def State.piece (s : State) (tag : Nat) : Option FarAcc := s.pieces.find? (FarAcc.out tag)

/-- Change the remote piece that travels under this name. -/
def State.mapPiece (s : State) (tag : Nat) (f : FarAcc → FarAcc) : State :=
  let g : List FarAcc → List FarAcc := mapIf (FarAcc.out tag) f
  let h (a : Option FarAcc) : Option FarAcc := a.map fun a => if a.out tag then f a else a
  let q (r : Req) : Req := { r with far := g r.far }
  { s with net := { s.net with tails := g s.net.tails }, circ := { s.circ with reqs := s.circ.reqs.map q },
           clusters := s.clusters.map fun c => (c.1, { c.2 with
             reqs := c.2.reqs.map q, copies := c.2.copies.map fun o => { o with far := g o.far },
             svcs := c.2.svcs.map fun x => { x with rd := h x.rd, wr := h x.wr } }) }

/-- The writes that a stopped operation leaves go out in their order, and are forgotten when they are settled. -/
def State.sendTails (s : State) : State :=
  let q := s.sendHeld (s.net.tails.filter (·.res.isNone))
  { q.1 with net := { q.1.net with tails := q.2.filter (·.res.isNone) } }

/-- What waits for the remote piece of this name goes on: an operation, or a request. -/
def State.pieceEvents (s : State) (tag : Nat) : List Instr :=
  (s.clusters.flatMap fun c => ((c.2.copies.filter (·.far.any (FarAcc.out tag))).map fun o => Instr.copyChunk c.1 o.id) ++
    (c.2.reqs.filter (·.far.any (FarAcc.out tag))).map (·.event c.1)) ++ (s.circ.reqs.filter (·.far.any (FarAcc.out tag))).map (·.event 0)

/-- The service call that waits for the remote piece of this name. -/
def State.pieceCall (s : State) (tag : Nat) : Option (Nat × SvcCall) :=
  s.clusters.findSome? fun c => (c.2.svcs.find? fun x => x.rd.any (FarAcc.out tag) || x.wr.any (FarAcc.out tag)).map fun x => (c.1, x)

/-- Settle a remote piece (R393). -/
def State.settleFar (s : State) (tag : Nat) (res : Option Nat) : State :=
  match s.pieceCall tag with
  | some (k, x) => s.svcSettle k x (if x.rd.any (FarAcc.out tag) then 0 else 1) res
  | none => (s.pieceEvents tag).foldl State.pushNew (s.mapPiece tag fun a => { a with res := some res }).sendTails

/-- The data of a strand's remote load (R393). -/
def State.windowArrives (s : State) (peer flight part : Nat) (bs : List Byte) : Option State :=
  match s.net.far.find? fun r => r.flight == flight && r.part == part && r.peer == peer && !r.write with
  | none => none
  | some _ => match s.flights.find? fun f => f.id == flight && f.k == part && f.out with
    | none => none
    | some f => match f.parts[part]? with
      | none => none
      | some p =>
        if bs.length != p.n then none
        else
          let s1 : State := { s with net := { s.net with far := s.net.far.filter fun r => !(r.flight == flight && r.part == part) } }
          some (s1.partDone f p (leNat bs) 0 none)

/-- The data of packet i of a read of this device's own, where it is taken: a read work request, a remote piece, or a strand's
remote load. -/
def State.dataTaken (s : State) (peer wr i : Nat) (bs : List Byte) : Option State :=
  match s.net.wrs.find? fun w => w.id == wr && w.peer == peer && w.kind == .nread && w.started with
  | some w =>
    if w.packets ≤ i || w.got.contains i || bs.length != w.size i then none
    else match s.netWrite (w.iss.at_ (w.dw 1) (i * w.pk)) bs with
      | .error (code, va) => some (s.failWr w code (i * w.pk) va)
      | .ok s1 => some (s1.placedWr w i bs.length w.bytes)
  | none => match s.piece wr with
    | some a => if a.data.isSome || a.peer != peer || i != 0 || bs.length != a.n then none else some (s.settleFar wr (some (leNat bs)))
    | none => s.windowArrives peer wr i bs

/-- The data of a read's packet: acknowledged; a duplicate is acknowledged again and not placed (R387). -/
def State.dataArrives (s : State) (peer wr i : Nat) (bs : List Byte) : State :=
  if s.net.doneRd.contains (peer, wr, i) then s.sendOut (.ack peer (.reply wr) i)
  else match s.dataTaken peer wr i bs with
    | none => s
    | some s1 => State.sendOut { s1 with net := { s1.net with doneRd := s1.net.doneRd ++ [(peer, wr, i)] } } (.ack peer (.reply wr) i)

/-- `PACKET_RECEIVE`. The engine takes packets of valid peers, while neither it nor the port is fenced. -/
def execPacketReceive (p : Packet) (s : State) : Host.Outcome State Fault Refusal :=
  if !s.isReady .net 0 || s.isFenced .net 0 || !s.isReady .port p.port || s.isFenced .port p.port then .next s
  else match p.kind with
    | .other => .next { s with net := { s.net with stats := addTo s.net.stats p.port 1 } }
    | k =>
      if !(s.peer p.peer).valid then .next s
      else match k with
        | .send vol n i len bs => .next (s.sendArrives p vol n i len bs)
        | .write wr i key off bs => .next (s.writeArrives p wr i key off bs)
        | .readReq wr i key off n => .next (s.readArrives p wr i key off n)
        | .readData wr i bs => .next (s.dataArrives p.peer wr i bs)
        | .other => .next s

/-! ## Acknowledgements and failures (R388 to R390, R393) -/

/-- A strand's remote store has been placed, or has failed (R196, R208). -/
def State.dropFar (s : State) (flight part : Nat) : State :=
  { s with net := { s.net with far := s.net.far.filter fun r => !(r.flight == flight && r.part == part) } }

/-- What a peer's acknowledgement or refusal of this device's packets is about: a send by its message number, else the request. -/
def State.named (s : State) (peer : Nat) (n : PacketName) : Option Nat :=
  match n with
  | .message vol m => (s.net.wrs.find? fun w => w.kind == .nsend && w.iss.vol == vol && w.peer == peer && w.msg == m).map (·.id)
  | .request wr => some wr
  | .reply _ => none

/-- `ACK_RECEIVE`: packets of a request have been acknowledged by its peer. -/
def execAckReceive (peer : Nat) (name : PacketName) (packets : List Nat) (s : State) : Host.Outcome State Fault Refusal :=
  match s.named peer name with
  | none => .next s
  | some wr => match s.net.wrs.find? fun w => w.id == wr && w.peer == peer && w.started && w.kind.outward with
    | some w =>
      let new := (packets.filter fun i => decide (i < w.packets) && !w.got.contains i).eraseDups
      let w1 := { w with got := w.got ++ new, placed := w.placed + (new.map w.size).foldl (· + ·) 0 }
      let s1 := s.putWr w1
      .next (if w1.got.length == w1.packets then s1.doneWr w1 else s1)
    | none =>
      let fars := s.net.far.filter fun r => r.flight == wr && r.peer == peer && r.write && packets.contains r.part
      if !fars.isEmpty then .next (fars.foldl (fun (s : State) r => (s.dropFar r.flight r.part).kickUid r.uid) s)
      else .next (match s.piece wr with
        | some a => if a.data.isSome && a.peer == peer && packets.contains 0 then s.settleFar wr (some 0) else s
        | none => s)

/-- The fault of a remote access that failed; a vector access has the size of its 64 bytes (R402). -/
def Far.fault (r : Far) : FaultInfo :=
  { cls := 3, code := 0x38, arg := r.va, access := r.access, size := Nat.log2 (if r.access == 5 then 64 else r.n) }

/-- A fault of a remote store whose strand has gone on: the store stands failed among the strand's operations, in issue order, to
be met at the next switch point and performed again on resumption (R76, R393, R398). -/
def State.lateFault (s : State) (r : Far) : State :=
  let f : FaultInfo := r.fault
  let o : Op := { id := r.flight, pc := r.pc, word := r.word, seq := r.seq, dest := .none, access := true, stage := .held, fault := some f }
  let keep : State := if (s.flights.any (·.id == r.flight)) then s else { s with flights := s.flights ++ r.again.map fun x => { x with failed := true } }
  match s.byUid r.uid with
  | some (k, t) =>
    if (t.ops.any (·.id == r.flight)) then s.opDone r.uid r.flight 0 0 (some f)
    else keep.setStrand k.1 k.2 { t with ops := insertOp t.cnt o t.ops }
  | none =>
    if (s.circ.asides.any fun a => a.uid == r.uid && a.redo.any (·.1.id == r.flight)) then s
    else { keep with circ := { s.circ with asides := mapIf (·.uid == r.uid) (fun a => { a with redo := a.redo ++ [(o, .nothing)] }) s.circ.asides } }

/-- A remote access of a strand fails (R393): what it sent of its other parts no longer counts, since it is performed again whole (R142). -/
def State.farFail (s : State) (r : Far) : State :=
  let s1 : State := { s with net := { s.net with far := s.net.far.filter (·.flight != r.flight) } }
  match s1.flights.find? fun f => f.id == r.flight && !f.failed with
  | some f => s1.flightFail f r.fault
  | none => if r.write then (s1.lateFault r).kickUid r.uid else s1

/-- A packet is given up: the peer refused it, or was lost. -/
def State.packetFails (s : State) (wr packet : Nat) (lost : Bool) : State :=
  match s.net.wrs.find? fun w => w.id == wr && w.started && w.kind != .nrecv with
  | some w =>
    if w.packets ≤ packet || w.got.contains packet then s
    else if lost then s.peerLost w (packet * w.pk) else s.failWr w 0x82 (packet * w.pk) 0
  | none => match s.net.far.find? fun r => r.flight == wr && r.part == packet with
    | some r => s.farFail r
    | none => s.settleFar wr none

/-- The peer that a packet of this device's own went to. -/
def State.packetPeer (s : State) (wr packet : Nat) : Option Nat :=
  ((s.net.wrs.find? (·.id == wr)).map (·.peer)).orElse fun _ =>
    ((s.net.far.find? fun r => r.flight == wr && r.part == packet).map (·.peer)).orElse fun _ => (s.piece wr).map (·.peer)

/-- `REMOTEKEY_REFUSAL`: the peer refuses a packet's key or offset, or the placement of a send. -/
def execRemotekeyRefusal (refused : Refused) (packet : Nat) (s : State) : Host.Outcome State Fault Refusal :=
  .next (match s.named refused.peer refused.name with
    | some wr => if s.packetPeer wr packet == some refused.peer then s.packetFails wr packet false else s
    | none => s)

/-- Retransmissions of a packet so far, while it is unacknowledged. -/
def State.triesOf (s : State) (wr packet : Nat) : Option Nat :=
  match s.net.wrs.find? fun w => w.id == wr && w.started && w.kind != .nrecv with
  | some w => if w.packets ≤ packet || w.got.contains packet then none else some ((aget w.tries packet).getD 0)
  | none => match s.net.far.find? fun r => r.flight == wr && r.part == packet with
    | some r => some r.tries
    | none => (s.piece wr).map (·.tries)

/-- Count a retransmission. -/
def State.addTry (s : State) (wr packet : Nat) : State :=
  let wrs := mapIf (·.id == wr) (fun (w : WorkReq) => { w with tries := addTo w.tries packet 1 }) s.net.wrs
  let far := mapIf (fun (r : Far) => r.flight == wr && r.part == packet) (fun r => { r with tries := r.tries + 1 }) s.net.far
  State.mapPiece { s with net := { s.net with wrs := wrs, far := far } } wr fun a => { a with tries := a.tries + 1 }

/-- The packet as it was last sent; a reply to a peer's read travels under the peer's name, and is none of these. -/
def State.sentPacket (s : State) (wr packet : Nat) : Option OutMsg :=
  s.net.out.reverse.find? fun o => match o with
    | .packet _ _ _ _ (.readData _ _ _) => false
    | .packet _ _ w i _ => w == wr && i == packet
    | _ => false

/-- `RETRANSMIT_TIMEOUT`: the packet is sent again; after 64 retransmissions it is given up (R380, R390). -/
def execRetransmitTimeout (wr packet : Nat) (s : State) : Host.Outcome State Fault Refusal :=
  match s.triesOf wr packet with
  | none => .next s
  | some n =>
    if 64 ≤ n then .next (s.packetFails wr packet true)
    else match s.sentPacket wr packet with
      | none => .next s
      | some o => .next ((s.addTry wr packet).sendOut o)

end Sys2Proof.Machine
end

