-- ==== Sys2Proof/Machine/Fence.lean ====
section
/-! DEFINITION. Containment: an uncorrectable error fences a function, and what ends with it (R411, R416, R158, R177, R189, R295). -/

namespace Sys2Proof.Machine

open Sys2Proof

/-- The fault of a strand that needs a fenced function. -/
def fencedFault : FaultInfo := { cls := 5, code := 3 }

/-- A resident strand of a fenced core ends as by `kill`, with its errata record. -/
def State.fenceStrand (s : State) (core slot : Nat) : State :=
  match s.strand core slot with
  | none => s
  | some t =>
    let slip := if t.faulter.isSome || slot == 63 then 0 else t.slip
    let s1 := s.errata t.vol 5 7 core slot t.gidx [ofN slip]
    if slot == 63 then (s1.withdraw t.uid).dropStrand core slot else s1.endStrand core slot t

/-- A core is fenced. -/
def State.fenceCore (s : State) (core : Nat) : State :=
  ((List.range 64).foldl (fun (s : State) slot => s.fenceStrand core slot) s).pushNew (.taskStart (clusterOf core))

/-- Operations of a fenced engine stop with no further arrival; those that asked for a message send FENCED (R295). The
redactor's message has no such status, and none is sent. -/
def State.fenceEngine (s : State) (k : FuncKind) (cluster : Nat) : State :=
  let c := s.cluster cluster
  let d (ws : List Word) (i : Nat) : Word := ws.getD i 0
  match k with
  | .copy =>
    (c.copies.filter fun o => (d o.dws 6).getLsbD 63).foldl (fun (s : State) o =>
      s.notify o.iss 1 (fld (d o.dws 6) 15 0) (2 * 2 ^ 42 + o.placed % 2 ^ 40) o.ptr) (s.setCluster cluster { c with copies := [] })
  | .sel =>
    (c.sels.filter (·.note)).foldl (fun (s : State) o =>
      s.notify o.iss 3 (if o.kind == .ksel then fld (d o.dws 3) 15 0 else fld (d o.dws 6) 15 0) (2 * 2 ^ 42 + o.moved))
      (s.setCluster cluster { c with sels := [] })
  | .annexif =>
    let s1 : State := { s.setCluster cluster { c with bags := [] } with chips := s.chips.filter fun e => !(c.bags.any (·.id == e.2.1)) }
    (c.bags.filter (·.note)).foldl (fun (s : State) o =>
      s.notify o.iss 4 (fld (d o.dws 7) 15 0) (2 * 2 ^ 42 + o.flags.toNat * 2 ^ 35 + o.written)) s1
  | .red => c.specs.foldl (fun (s : State) o => s.setSpace ((s.spaceOf o.iss.vol).dropSpec o)) (s.setCluster cluster { c with specs := [] })
  | .bind =>
    (c.tasks.filter fun t => recCk t.dw == 2).foldl (fun (s : State) t => s.notify t.iss 2 (fld (t.dw 7) 15 0) (2 * 2 ^ 42))
      (s.setCluster cluster { c with tasks := [] })
  | .curator => c.svcs.foldl (fun (s : State) x => s.svcEnd cluster x 3) s
  | _ => s

/-- Special-function requests of a cluster that have not returned take the fault (R158). -/
def State.fenceSfu (s : State) (cluster : Nat) : State :=
  let mine (o : Op) : Bool := (Raw.ofWord o.word).op == 0x0A1 && o.stage != .held
  (s.strands.filter fun e => clusterOf e.1.1 == cluster).foldl (fun (s : State) e =>
    let waiting := e.2.ops.filter fun o => mine o && o.stage == .sent
    let s1 := s.setStrand e.1.1 e.1.2 { e.2 with ops := mapIf mine (fun o => { o with stage := .done, flags := 0, fault := some fencedFault }) e.2.ops }
    waiting.foldl (fun (s : State) o => s.push (.resultReturn e.1.1 e.1.2 o.id)) s1) s

/-- The network engine is fenced: its work requests stop, remote accesses fail (R391, R393). -/
def State.fenceNet (s : State) : State :=
  let s1 : State := { s with net := { s.net with wrs := [], heldP := [] } }
  let s2 := (s.net.wrs.filter (·.note)).foldl (fun (s : State) w => s.notify w.iss 6 (fld (w.dw 0) 15 0) (2 * 2 ^ 42 + w.placed % 2 ^ 40)) s1
  let s3 := s.net.far.foldl State.farFail s2
  s3.pieces.foldl (fun (s : State) a => if a.res.isNone then s.settleFar a.tag none else s) s3

/-- What waits for the network engine or a port to report is tried again: work requests, accesses of strands, copy operations, service
calls (R416). -/
def State.kickNet (s : State) : State :=
  let s1 := (s.flights.filter fun f => !f.failed && !f.out && (f.parts.any (·.far.isSome))).foldl (fun (s : State) f => s.pushNew (.bankTransaction f.id)) (s.kickReqs 0)
  let held (r : Req) : Bool := r.far.any (·.held)
  let s0 := (s1.circ.reqs.filter held).foldl (fun (s : State) r => s.pushNew (r.event 0)) s1.sendTails
  s0.clusters.foldl (fun (s : State) c =>
    let s2 := ((c.2.copies.filter fun o => o.far.any (·.held)).map (fun o => Instr.copyChunk c.1 o.id) ++
      (c.2.reqs.filter held).map (·.event c.1)).foldl State.pushNew s
    c.2.svcs.foldl (fun (s : State) x => (if x.rd.any (·.held) then s.pushNew (svcEvent x.n x.core x.slot) else s).svcSend c.1 x) s2) s1

/-- Accesses that wait at a fenced memory take the fault (R189). -/
def State.fenceWaiters (s : State) : State :=
  (s.flights.filter fun f => (f.joined.isSome || f.spill.isSome) && (((f.parts[f.k]?).bind (·.key)).map s.keyFenced) == some true).foldl
    (fun (s : State) f => s.flightFail f { fencedFault with arg := ((f.parts[f.k]?).map fun p => p.loc.shown).getD 0, access := f.kind.code }) s

/-- A slip that was saved PARKED on what only fenced cores give takes the fault at once, at the core and slot that it ran in last (R177). -/
def State.fenceSlip (s : State) (a : Aside) : State :=
  let w := fun i => s.slipDw a.pa i
  if a.park.any (s.fencedWait a.vol (fld (w 6) 23 0)) && s.slipState a.pa == 2 then
    let core := a.core.getD (s.slipHome a.pa)
    s.slipFaults core a.slot (s.slipHome a.pa) a.vol a.pa fencedFault (s.wordAt core a.vol (fld (w 0) 47 0))
  else s

/-- Strands that wait so take the fault at once, with their PC at the popping instruction; saved slips too, on a run list or of a core that
is pre-empted (R177). -/
def State.fencePorts (s : State) : State :=
  let s1 := s.strands.foldl (fun (s : State) e => match e.2.run with
    | .parked p => if s.fencedWait e.2.vol e.2.gidx p then s.faultAtIssue e.1.1 e.1.2 e.2 fencedFault e.2.ir else s
    | _ => s) s
  s1.circ.asides.foldl State.fenceSlip s1

/-- A bag that has a row on a fenced chip is a faulted one (R325). -/
def State.fenceBag (s : State) (cluster op bag : Nat) : State :=
  match (s.cluster cluster).bags.find? (·.id == op) with
  | none => s
  | some o =>
    let hit := (o.positions bag).findSome? fun j => match s.bagRowAt o j with
      | .error (0x67, va) => some (bag, 0x67, j, va)
      | _ => none
    match hit with
    | some b => if (o.bad.any (·.1 == bag)) then s else s.putBag cluster { o with bad := o.bad ++ [b] }
    | none => s

/-- An annex chip is fenced: its bag entries are gone. -/
def State.fenceChip (s : State) (chip : Nat) : State :=
  let mine := s.chips.filter (·.1 == chip)
  let s1 : State := { s with chips := s.chips.filter (·.1 != chip) }
  mine.foldl (fun (s : State) e => s.clusters.foldl (fun (s : State) c =>
    if (c.2.bags.any (·.id == e.2.1)) then (s.fenceBag c.1 e.2.1 e.2.2).pushNew (.bagWrite c.1 e.2.1) else s) s) s1

/-- The engines of a cluster. -/
def clusterEngines : List FuncKind := [.copy, .sel, .annexif, .red, .bind, .curator]

/-- An uncorrectable error in a block of a service call that has not been acted on: class 5 ECC at `svc` (R408). -/
def State.fenceCall (s : State) (cluster : Nat) (x : SvcCall) : State :=
  let c := s.cluster cluster
  let arg := match s.locKey cluster (.va x.vol x.arg) .read with
    | .key k _ => s.keyFenced k || x.res.isNone
    | _ => x.res.isNone
  let f : FaultInfo := { cls := 5, code := 2, arg := if arg then x.arg else x.res.getD 0, access := if arg then 0 else 1, size := 6 }
  (s.setCluster cluster { c with svcs := c.svcs.filter (·.id != x.id) }).opDone x.uid x.id 0 0 (some f)

/-- A function holds a word of a block of a service call. -/
def State.holdsBlock (s : State) (f : Func) (cluster : Nat) (x : SvcCall) : Bool :=
  (x.arg :: x.res.toList).any fun va => match s.locKey cluster (.va x.vol va) .read with
    | .key k _ => holdsKey f k
    | _ => false

/-- The selection unit's read of the header of a `kgath` meets an uncorrectable error: what R311 says is done before what ends with the
function that holds the room. -/
def State.headerError (s : State) (f : Func) (flight : Option Nat) : State :=
  let met (c : Nat × Cluster) : Option (Nat × SelOp) := c.2.sels.head?.bind fun o =>
    if flight == some o.id && o.kind == .kgath && o.hdr.isNone && !s.unitFenced .sel c.1 && !s.selBlocked o &&
      (match s.locKey c.1 o.header .read with | .key k _ => holdsKey f k | _ => false) then some (c.1, o) else none
  match s.clusters.findSome? met with
  | some (k, o) => s.headerFails k o
  | none => s

/-- Fence a function; `flight` is the access that met the error: of a strand, of the curator for a service call, or of the selection unit
for a `kgath`. It faults only where the function holds the word that it accesses (R2). -/
def State.fence (s : State) (f : Func) (flight : Option Nat) : State :=
  if s.root.fenced.contains f then s
  else
    let s' := s.headerError f flight
    let s0 : State := { s' with root := { s'.root with fenced := s'.root.fenced ++ [f] } }
    let k := f.index
    let hit : Option (Flight × Part) := flight.bind fun id => (s0.flights.find? fun x => x.id == id && !x.failed).bind fun x =>
      (x.parts[x.k]?).bind fun p => if p.key.any (holdsKey f) then some (x, p) else none
    let s1 := match hit with
      | none => match (s0.clusters.findSome? fun (c : Nat × Cluster) => (c.2.svcs.find? fun (x : SvcCall) => flight == some x.id && !x.taken && s0.holdsBlock f c.1 x).map fun (x : SvcCall) => (c.1, x)) with
        | some (k, x) => s0.fenceCall k x
        | none => s0
      | some (x, p) => s0.flightFail x (x.faultAt p 5 (if f.kind == FuncKind.chip then 3 else 2))
    let s2 := match f.kind with
      | .core => s1.fenceCore k
      | .cluster =>
        let s2 := ((List.range 8).map (8 * k + ·)).foldl State.fenceCore s1
        (clusterEngines.foldl (fun (s : State) e => s.fenceEngine e k) (s2.fenceSfu k)).kickReqs k
      | .chip => (s1.fenceChip k).kickEmbs
      | .sfu => s1.fenceSfu k
      | .net => s1.fenceNet.kickNet
      | .port => s1.kickNet
      | .circ => (s1.kickReqs k).releaseCalls fun _ => true
      | .copy | .sel | .annexif | .red | .bind | .curator => (s1.fenceEngine f.kind k).kickReqs k
      | .root | .slice => s1
    s2.fenceWaiters.fencePorts.checkUpdate.extendMicro

/-- `UNCORRECTABLE_ERROR`: the function that holds the word is fenced (R411). -/
def execUncorrectableError (f : Func) (flight : Option Nat) (s : State) : Host.Outcome State Fault Refusal := .next (s.fence f flight)

/-- A single-bit error is corrected in place: nothing changes but the count of the function that holds the word (R411). -/
def State.corrects (s : State) (f : Func) : State :=
  match f.kind with
  | .core => let c := s.core f.index; s.setCore f.index { c with corrected := c.corrected + 1 }
  | _ =>
    let l := s.root.corrected
    let l1 : List (Func × Nat) := if (l.any (·.1 == f)) then mapIf (·.1 == f) (fun e => (e.1, e.2 + 1)) l else l ++ [(f, 1)]
    { s with root := { s.root with corrected := l1 } }

end Sys2Proof.Machine
end

