-- ==== Sys2Proof/Machine/MlDsa.lean ====
section
/-! DEFINITION. ML-DSA-44, which the spec names for the signatures of images and quotes (R1, R419, R421); its steps are those of the
standard FIPS 204, with the bounds on its loops that the standard's appendix C allows (PRESUMED, assumption 16). -/

namespace Sys2Proof.Machine.MlDsa

open Sys2Proof

/-! ## SHAKE (FIPS 202) -/

/-- Absorb whole blocks of `rate` bytes, then the last one with SHAKE's suffix. -/
def absorbAll (rate : Nat) : Nat → Sha3.Lanes → List Byte → Sha3.Lanes
  | n, a, b =>
    let add (x : Sha3.Lanes) (y : List Byte) : Sha3.Lanes :=
      Sha3.permute ((List.range 25).map fun i => x.getD i 0 ^^^ (if 8 * i < rate then Sha3.blockLane y i else 0))
    match n with
    | 0 => add a ((List.range rate).map fun i =>
        (if i < b.length then b.getD i 0 else if i == b.length then 0x1F else 0) ^^^ (if i == rate - 1 then 0x80 else 0))
    | n + 1 => absorbAll rate n (add a (b.take rate)) (b.drop rate)

/-- Blocks squeezed from a state. -/
def squeeze (rate : Nat) : Nat → Sha3.Lanes → List Byte
  | 0, _ => []
  | n + 1, a => (List.range rate).map (fun i => (a.getD (i / 8) 0).extractLsb' (8 * (i % 8)) 8) ++ squeeze rate n (Sha3.permute a)

/-- n bytes of SHAKE256 (rate 136) or SHAKE128 (rate 168). -/
def shake (rate : Nat) (b : List Byte) (n : Nat) : List Byte :=
  (squeeze rate (ceilDiv n rate) (absorbAll rate (b.length / rate) (List.replicate 25 0) b)).take n

def hash (b : List Byte) (n : Nat) : List Byte := shake 136 b n

/-! ## Polynomials modulo X^256 + 1 and q -/

def q : Nat := 8380417

/-- 256 coefficients, each below q. -/
abbrev Poly := List Nat

/-- The 8 bits of an index in reverse. -/
def brv (i : Nat) : Nat := (List.range 8).foldl (fun r j => 2 * r + i / 2 ^ j % 2) 0

/-- A power of the 512-th root of unity. -/
def zeta (k : Nat) : Nat := 1753 ^ (k % 512) % q

def eval (w : Poly) (x : Nat) : Nat := w.foldr (fun c a => (c + x * a) % q) 0

/-- The number-theoretic transform: the values at the odd powers of the root, in bit-reversed order. -/
def ntt (w : Poly) : Poly := (List.range 256).map fun i => eval w (zeta (2 * brv i + 1))

/-- Its inverse. -/
def intt (h : Poly) : Poly :=
  let g := (List.range 256).map fun m => h.getD (brv m) 0
  (List.range 256).map fun j => 8347681 * zeta (512 - j) % q * eval g (zeta (1024 - 2 * j)) % q

def add (a b : Poly) : Poly := List.zipWith (fun x y => (x + y) % q) a b
def sub (a b : Poly) : Poly := List.zipWith (fun x y => (x + q - y) % q) a b
def mulHat (a b : Poly) : Poly := List.zipWith (fun x y => x * y % q) a b

/-- A product of a matrix and a vector, both transformed. -/
def matMul (m : List (List Poly)) (v : List Poly) : List Poly :=
  m.map fun row => (List.zipWith mulHat row v).foldl add (List.replicate 256 0)

/-- The residue of r modulo m that lies closest to 0. -/
def cmod (r m : Nat) : Int := if m < 2 * (r % m) then (r % m : Nat) - (m : Int) else (r % m : Nat)

/-- The greatest absolute value of a coefficient. -/
def norm (v : List Poly) : Nat := v.flatten.foldl (fun a c => Nat.max a (cmod c q).natAbs) 0

/-! ## Bytes -/

/-- Coefficients of b bits, and their bytes. -/
def pack (b : Nat) (w : List Nat) : List Byte := leBytes (32 * b) (w.foldr (fun c a => c + 2 ^ b * a) 0)
def unpack (b : Nat) (bs : List Byte) : List Nat := let n := leNat bs; (List.range 256).map fun i => n / 2 ^ (b * i) % 2 ^ b

/-- Four pieces of n bytes. -/
def pieces (n : Nat) (bs : List Byte) : List (List Byte) := (List.range 4).map fun i => (bs.drop (n * i)).take n

/-- A vector whose coefficients are written as 2^17 minus their value. -/
def packZ (z : List Poly) : List Byte := z.flatMap fun w => pack 18 (w.map fun c => (2 ^ 17 + q - c) % q)
def unpackZ (bs : List Byte) : List Poly := (pieces 576 bs).map fun b => (unpack 18 b).map fun x => (2 ^ 17 + q - x) % q

/-- The places of the hint's ones, four lists, as 80 + 4 bytes. -/
def packHint (h : List (List Nat)) : List Byte :=
  let ps := h.flatten
  (ps ++ List.replicate (80 - ps.length) 0).map (BitVec.ofNat 8) ++ (List.range 4).map fun i => BitVec.ofNat 8 (h.take (i + 1)).flatten.length

/-- The hint of a signature; none where it is not written as `packHint` writes it. -/
def unpackHint (bs : List Byte) : Option (List (List Nat)) :=
  let y (i : Nat) : Nat := (bs.getD i 0).toNat
  ((List.range 4).foldl (fun (r : Option (Nat × List (List Nat))) i => r.bind fun x =>
    let e := y (80 + i)
    let ps := (List.range (e - x.1)).map fun j => y (x.1 + j)
    if e < x.1 || 80 < e || !((ps.zip (ps.drop 1)).all fun p => decide (p.1 < p.2)) then none else some (e, x.2 ++ [ps])) (some (0, []))).bind fun x =>
      if (List.range (80 - x.1)).all fun j => y (x.1 + j) == 0 then some x.2 else none

/-! ## Sampling -/

/-- A transformed polynomial from a seed. -/
def rejNtt (seed : List Byte) : Poly :=
  let s := shake 168 seed 2688
  (((List.range 896).map fun i => (s.getD (3 * i) 0).toNat + 256 * (s.getD (3 * i + 1) 0).toNat + 65536 * ((s.getD (3 * i + 2) 0).toNat % 128)).filter
    fun z => decide (z < q)).take 256

def expandA (rho : List Byte) : List (List Poly) :=
  (List.range 4).map fun r => (List.range 4).map fun s => rejNtt (rho ++ [BitVec.ofNat 8 s, BitVec.ofNat 8 r])

/-- A polynomial with coefficients of absolute value at most 2. -/
def rejBounded (seed : List Byte) : Poly :=
  ((((hash seed 1088).flatMap fun b => [b.toNat % 16, b.toNat / 16]).filter fun b => decide (b < 15)).take 256).map fun b => (q + 2 - b % 5) % q

def expandS (rho : List Byte) (from_ : Nat) : List Poly := (List.range 4).map fun r => rejBounded (rho ++ leBytes 2 (from_ + r))

def expandMask (rho : List Byte) (kappa : Nat) : List Poly :=
  (List.range 4).map fun r => (unpack 18 (hash (rho ++ leBytes 2 (kappa + r)) 576)).map fun x => (2 ^ 17 + q - x) % q

/-- The first byte that is at most i, and those after it. -/
def pick (i : Nat) : List Byte → Nat × List Byte
  | [] => (0, [])
  | b :: r => if b.toNat ≤ i then (b.toNat, r) else pick i r

/-- A polynomial with 39 coefficients 1 or -1, the others 0. -/
def sampleInBall (seed : List Byte) : Poly :=
  let s := hash seed 272
  let signs := leNat (s.take 8)
  ((List.range 39).foldl (fun (x : Poly × List Byte) k =>
    let i := 217 + k
    let (j, r) := pick i x.2
    ((x.1.set i (x.1.getD j 0)).set j (if signs / 2 ^ k % 2 == 1 then q - 1 else 1), r)) (List.replicate 256 0, s.drop 8)).1

/-! ## High and low bits, hints -/

/-- r as r1 2^13 + r0. -/
def power2Round (r : Nat) : Nat × Nat := let r0 := cmod r 8192; ((((r : Int) - r0) / 8192).toNat, (r0 % (q : Int)).toNat)

/-- r as r1 190464 + r0. -/
def decompose (r : Nat) : Nat × Int :=
  let r0 := cmod r 190464
  if (r : Int) - r0 == (q : Int) - 1 then (0, r0 - 1) else ((((r : Int) - r0) / 190464).toNat, r0)

def useHint (h : Bool) (r : Nat) : Nat :=
  let (r1, r0) := decompose r
  if !h then r1 else if 0 < r0 then (r1 + 1) % 44 else (r1 + 43) % 44

def packW1 (w : List Poly) : List Byte := w.flatMap (pack 6)

/-! ## Keys, signatures -/

structure Secret where
  rho : List Byte
  key : List Byte
  tr  : List Byte
  s1  : List Poly
  s2  : List Poly
  t0  : List Poly
deriving DecidableEq, Repr

/-- The key pair of a seed of 32 bytes: the public key of 1,312 bytes, and the secret one. -/
def keyGen (seed : List Byte) : List Byte × Secret :=
  let b := hash (seed ++ [4, 4]) 128
  let rho := b.take 32
  let rho1 := (b.drop 32).take 64
  let s1 := expandS rho1 0
  let s2 := expandS rho1 4
  let t := List.zipWith add ((matMul (expandA rho) (s1.map ntt)).map intt) s2
  let pk := rho ++ t.flatMap fun w => pack 10 (w.map fun c => (power2Round c).1)
  (pk, { rho := rho, key := b.drop 96, tr := hash pk 64, s1 := s1, s2 := s2, t0 := t.map fun w => w.map fun c => (power2Round c).2 })

/-- What is signed of a message: its context is empty. -/
def digestOf (tr msg : List Byte) : List Byte := hash (tr ++ [0, 0] ++ msg) 64

/-- One try of a signature, with mask `kappa`. -/
def attempt (sk : Secret) (a : List (List Poly)) (mu rho : List Byte) (kappa : Nat) : Option (List Byte) :=
  let y := expandMask rho kappa
  let w := (matMul a (y.map ntt)).map intt
  let ct := hash (mu ++ packW1 (w.map fun p => p.map fun c => (decompose c).1)) 32
  let c := ntt (sampleInBall ct)
  let times (v : List Poly) : List Poly := v.map fun p => intt (mulHat c (ntt p))
  let z := List.zipWith add y (times sk.s1)
  let r := List.zipWith sub w (times sk.s2)
  let low := r.flatten.foldl (fun a x => Nat.max a (decompose x).2.natAbs) 0
  let ct0 := times sk.t0
  let rt := List.zipWith add r ct0
  let hint := (List.zipWith (fun x y => (List.range 256).filter fun j => (decompose (x.getD j 0)).1 != (decompose (y.getD j 0)).1) rt r)
  if 2 ^ 17 - 78 ≤ norm z || 95232 - 78 ≤ low || 95232 ≤ norm ct0 || 80 < hint.flatten.length then none
  else some (ct ++ packZ z ++ packHint hint)

/-- Sign: the first try that is not rejected, of at most n. -/
def tries (sk : Secret) (a : List (List Poly)) (mu rho : List Byte) : Nat → Nat → List Byte
  | 0, _ => []
  | n + 1, kappa => match attempt sk a mu rho kappa with
    | some s => s
    | none => tries sk a mu rho n (kappa + 4)

/-- The signature of a message under the key pair of a seed, with 32 random bytes: 2,420 bytes. -/
def sign (seed msg rnd : List Byte) : List Byte :=
  let sk := (keyGen seed).2
  let mu := digestOf sk.tr msg
  tries sk (expandA sk.rho) mu (hash (sk.key ++ rnd ++ mu) 64) 814 0

/-- A signature of a message holds under a public key. -/
def verify (pk msg sig : List Byte) : Bool :=
  sig.length == Config.sigSize && match unpackHint (sig.drop 2336) with
  | none => false
  | some h =>
    let z := unpackZ ((sig.drop 32).take 2304)
    let ct := sig.take 32
    let c := ntt (sampleInBall ct)
    let t1 := (pieces 320 (pk.drop 32)).map fun b => (unpack 10 b).map fun x => x * 8192 % q
    let az := matMul (expandA (pk.take 32)) (z.map ntt)
    let w := List.zipWith (fun x t => intt (sub x (mulHat c (ntt t)))) az t1
    let w1 := List.zipWith (fun p hs => p.zipIdx.map fun x => useHint (hs.contains x.2) x.1) w h
    decide (norm z < 2 ^ 17 - 78) && hash (digestOf (hash pk 64) msg ++ packW1 w1) 32 == ct

end Sys2Proof.Machine.MlDsa
end

