-- ==== Sys2Proof/Machine/Root.lean ====
section
/-! DEFINITION. Power-on, self-tests and readiness (R415 to R418), measurement (R419), firmware updates (R409, R420), quotes
(R421), loss of power to the compute dies (R422). -/

namespace Sys2Proof.Machine

open Sys2Proof

/-! ## Power-on (R415, R422) -/

/-- The module as it restarts: at reset but for its clock's schedule, the free values drawn, and what it has sent. -/
def State.restart (s : State) : State :=
  { State.reset with
    clk := { agenda := s.clk.agenda, draws := s.clk.draws },
    net := { out := s.net.out } }

/-- `POWER_ON`: the root of trust starts its self-test. -/
def execPowerOn (s : State) : Host.Outcome State Fault Refusal :=
  .next { s.restart with root := { st := .testing, ver := Config.bootVersion } }

/-- `THERMAL_SHUTDOWN`: every volume ends without completion, and the module restarts as at power-on. -/
def execThermalShutdown (s : State) : Host.Outcome State Fault Refusal := .next (s.restart.push .powerOn)

/-- The root of trust's own report. -/
def rootFunc : Func := { kind := .root, index := 0 }

/-- The root of trust verifies an image: the ML-DSA-44 signature of its SHA3-256 digest under the vendor key (R1, R419). -/
def verifyImage (image sig : List Byte) : Bool := MlDsa.verify Config.vendorKey.toList (sha3 image) sig

/-- The identity public key, and a signature of a digest under its key pair (R421). -/
def identityKey : List Byte := (MlDsa.keyGen Config.deviceSeed.toList).1
def deviceSign (digest : List Byte) : List Byte := MlDsa.sign Config.deviceSeed.toList digest (Config.signRandom digest).toList

/-- `ROOT_SELF_TEST_END`: passed, or the safe state; a repeat in the safe state only reports, for only a restart leaves it. A root whose
own firmware does not verify reports FAILED (R419), and nothing else starts: it answers as in the safe state (DEDUCED, assumption 71). -/
def execRootSelfTestEnd (pass : Bool) (diag : BitVec 32) (s : State) : Host.Outcome State Fault Refusal :=
  let good := pass && verifyImage Config.rootImage Config.rootSig
  let d := if good then 0 else if pass then 2 else diag.toNat
  let r := if good then 0 else if pass then 1 else 2
  let tested (s : State) (r d : Nat) : State :=
    State.report { s with root := { s.root with tests := s.root.tests ++ [reportWord rootFunc r d] } } rootFunc r d
  match s.root.st with
  | .testing =>
    let s1 : State := { s with root := { s.root with st := if good then .passed else .safe, ready := if good then [rootFunc] else [] } }
    let s2 := if good then s1.extend 0 (sha3 Config.rootImage) else s1
    .next ((tested s2 r d).releaseCalls fun _ => true)
  | .safe =>
    if s.root.again.isEmpty then .next s
    else .next (s.root.again.foldl (fun (s : State) c => s.replyLate c 0)
      (tested { s with root := { s.root with again := [] } } (if pass then 0 else 2) (if pass then 0 else diag.toNat)))
  | _ => .next s

/-! ## Reports of the other functions (R415, R416, R419) -/

/-- The measurement registers of the images that a function's report loads, in load order: a curator's firmware and its supervisor
program; an engine's microcode. -/
def imageRegs : FuncKind → List Nat
  | .curator => [1, 2]
  | .copy | .sel | .red | .bind | .net => [3]
  | _ => []

/-- Measure a verified image: curator firmware once per version, a supervisor program once, and the microcode of a kind of engine
once, in its order (R419; assumption 69). -/
def State.measure (s : State) (kind : FuncKind) (reg : Nat) (d : List Byte) : State :=
  if reg == 3 then
    let p := microKinds.idxOf kind
    if p < s.root.microN || s.root.micro.any (·.1 == p) then s
    else State.extendMicro { s with root := { s.root with micro := s.root.micro ++ [(p, d)] } }
  else if s.root.measured.contains (reg, d) then s
  else
    let s1 := s.extend reg d
    { s1 with root := { s1.root with measured := s1.root.measured ++ [(reg, d)] } }

/-- Images of one report, in load order: each is verified, and measured; the first that fails ends the load. -/
def State.loadImages (s : State) (kind : FuncKind) : List (Nat × List Byte × List Byte) → State × Bool
  | [] => (s, true)
  | (r, image, sig) :: rest =>
    if !verifyImage image sig then (s, false)
    else State.loadImages (s.measure kind r (sha3 image)) kind rest

/-- Slot 63 of a core (R71, R102, R416): granules 0 to 3, the program that its curator installed (assumption 13); its
`lane` reads 63 (DESIGN CHOICE, assumption 78). -/
def supStrand (uid core : Nat) : Strand :=
  { newStrand uid 0 0 false 63 0 0 core 3 (supVA (clusterOf core)) 0 0 false
      [mkDesc 1 (rR + rW + rX + rF + rA + rE) 0 (2 ^ 48 - 1), mkDesc 1 (rR + rW + rF + rA + rE) 0 (2 ^ 48 - 1), 0, 0, 0, 0, 0, 0] none with
    gran := [0, 1, 2, 3], segt := 0, save := 0 }

/-- Special-function requests that waited for their unit are computed (R153, R416). -/
def State.startSfu (s : State) (cluster : Nat) : State :=
  let mine (o : Op) : Bool := (Raw.ofWord o.word).op == 0x0A1 && o.stage == .sent
  (s.strands.filter fun e => clusterOf e.1.1 == cluster).foldl (fun (s : State) e =>
    let s1 := s.setStrand e.1.1 e.1.2 { e.2 with ops := mapIf mine (fun o => { o with stage := .done }) e.2.ops }
    (e.2.ops.filter mine).foldl (fun (s : State) o => s.sendAt (s.clk.frame + 2) e.1.1 e.1.2 e.1.1 (.reply o.id)) s1) s

/-- A function is READY: what waited for it goes on. -/
def State.ready (s : State) (f : Func) : State :=
  let s1 : State := { s with root := { s.root with ready := s.root.ready ++ [f] } }
  let k := f.index
  match f.kind with
  | .core =>
    let (uid, s2) := s1.fresh
    (((s2.setStrand k 63 (supStrand uid k)).setCore k { s2.core k with supReady := true }).kickInbox k).pushNew .placement
  | .curator =>
    let cl := s1.cluster k
    let s2 := s1.setCluster k { cl with ver := s1.root.next.getD s1.root.ver }
    (((cl.svcs.filter fun x => !x.taken).foldl (fun (s : State) x => s.push (svcEvent x.n x.core x.slot)) s2).pushNew .placement).checkUpdate
  | .slice => s1.pushNew .placement
  | .circ => ((s1.kickReqs 0).pushNew .placement).releaseCalls fun _ => true
  | .sfu => s1.startSfu k
  | .net | .port => s1.kickNet
  | .chip => s1.clusters.foldl (fun (s : State) c => s.kickReqs c.1) s1
  | .copy | .sel | .annexif | .red | .bind => s1.kickReqs k
  | .root | .cluster => s1

/-- A function has reported, READY or FAILED: the report log keeps every report (R415). -/
def State.reported (s : State) (f : Func) : Bool :=
  s.root.ready.contains f || s.root.log.any fun w => fld w 63 60 == kindCode f.kind && fld w 59 48 == f.index

/-- A report may arrive: the function exists, its self-test has not ended, and a core's curator has reported. A function that an error has
fenced before it reported has its report still to make. -/
def State.mayReport (s : State) (f : Func) : Bool :=
  s.root.st == .passed && f.kind != .root && f.kind != .cluster && decide (f.index < kindCount f.kind) && !s.reported f &&
  (f.kind != .core || s.reported { kind := .curator, index := clusterOf f.index })

/-- The cluster of a function of a cluster. -/
def clusterOfFunc (f : Func) : Option Nat :=
  match f.kind with
  | .core => some (clusterOf f.index)
  | .curator | .slice | .copy | .sel | .red | .bind | .sfu | .annexif | .cluster => some f.index
  | .root | .chip | .port | .circ | .net => none

/-- The cores and engines of a cluster that have reported READY. -/
def State.clusterReady (s : State) (k : Nat) : List Func :=
  ((List.range 8).map (fun i => Func.mk .core (8 * k + i)) ++
    ([.copy, .sel, .red, .bind, .sfu, .annexif] : List FuncKind).map fun e => Func.mk e k).filter fun f =>
      s.root.ready.contains f && !s.root.fenced.contains f

/-- A function reports FAILED and is fenced; a curator or a slice takes its whole cluster with it, whose cores and engines then report
FAILED too, those that have not yet reported as their self-tests end (R416). -/
def State.failed (s : State) (f : Func) (diag : Nat) : State :=
  let s1 := (s.report f 1 diag).fence f none
  match f.kind with
  | .curator | .slice =>
    let s2 := s1.fence { kind := .cluster, index := f.index } none
    (s2.clusterReady f.index).foldl (fun (s : State) g => (s.report g 1 1).fence g none) s2
  | _ => s1

/-- The cores and engines of a fenced cluster report FAILED with diag 1 (R416). -/
def State.failsWithCluster (s : State) (f : Func) : Bool :=
  f.kind != .curator && f.kind != .slice && (clusterOfFunc f).any s.clusterFenced

/-- `FUNCTION_REPORT`: its images are verified and measured first; a READY function has loaded every image of its own. A function that is
fenced already loads none and reports FAILED (DEDUCED, assumption 98). -/
def execFunctionReport (f : Func) (ready : Bool) (diag : BitVec 32) (images : List (Nat × List Byte × List Byte)) (s : State) :
    Host.Outcome State Fault Refusal :=
  let regs := images.map (·.1)
  if !s.mayReport f || !regs.isPrefixOf (imageRegs f.kind) then .next s
  else if s.failsWithCluster f then .next (s.failed f 1)
  else if s.root.fenced.contains f then .next (s.failed f diag.toNat)
  else match s.loadImages f.kind images with
    | (s1, false) => .next (s1.failed f 2)
    | (s1, true) =>
      if !ready then .next (s1.failed f diag.toNat)
      else if regs != imageRegs f.kind then .next s
      else
        let sup := (images.filter fun x => x.1 == 2).map (·.2.1)
        let s2 := if f.kind == .curator then sup.foldl (fun (s : State) b => s.installSup f.index b) s1 else s1
        .next ((s2.report f 0 0).ready f)

/-! ## Firmware (R409, R420) -/

/-- A cluster whose curator can report. -/
def State.curatorUp (s : State) (k : Nat) : Bool := s.isReady .curator k && !s.unitFenced .curator k

/-- `FIRMWARE_UPDATE`: the switch starts on each cluster; a cluster whose curator has not reported starts under the new version. -/
def execFirmwareUpdate (c : Call) (image sig : List Byte) (version : BitVec 32) (s : State) : Host.Outcome State Fault Refusal :=
  .next (s.call c false fun s =>
    if s.root.update.isSome then s
    else if !verifyImage image sig then s.reply c 4
    else
      let s1 := s.measure .curator 1 (sha3 image)
      let s2 : State := { s1 with root := { s1.root with next := some version, update := some c } }
      let s3 := ((List.range Config.clusters).filter s2.curatorUp).foldl (fun (s : State) k =>
        (s.setCluster k { s.cluster k with switch := some version }).push (.curatorSwitchEnd k)) s2
      s3.checkUpdate)

/-- `CURATOR_SWITCH_END`: the cluster is under the new version; its cores' supervisor program, verified and measured, is replaced and
slot 63 told (R201, R419); calls that waited are taken. A program that does not verify fails the curator. -/
def execCuratorSwitchEnd (cluster : Nat) (s : State) : Host.Outcome State Fault Refusal :=
  let cl := s.cluster cluster
  match cl.switch with
  | none => .next s
  | some v =>
    if s.isFenced .curator cluster || s.clusterFenced cluster then .next s
    else if !verifyImage (Config.supervisorOf v) (Config.supervisorSig v) then
      .next (State.failed (s.setCluster cluster { cl with switch := none }) { kind := .curator, index := cluster } 2)
    else
      let s0 := s.measure .curator 2 (sha3 (Config.supervisorOf v))
      let s1 := (s0.setCluster cluster { cl with ver := v, switch := none }).installSup cluster (Config.supervisorOf v)
      let cores := ((List.range 8).map (8 * cluster + ·)).filter fun k => (s1.core k).supReady && !s1.coreFenced k
      let s2 := cores.foldl (fun (s : State) k => s.supMsg (some k) k 7 3 0) s1
      let s3 := (cl.svcs.filter fun x => !x.taken).foldl (fun (s : State) x => s.pushNew (svcEvent x.n x.core x.slot)) s2
      .next s3.checkUpdate

/-! ## Quotes and queries of the root of trust (R418, R421, R422) -/

/-- `ATTESTATION_QUOTE`. -/
def execAttestationQuote (c : Call) (nonce : List Byte) (s : State) : Host.Outcome State Fault Refusal :=
  .next (s.call c false fun s =>
    if nonce.length != 32 then s.reply c 2
    else
      let n := s.root.quotes + 1
      let body := nonce ++ s.root.m.flatten ++ leBytes 4 s.root.ver.toNat ++ leBytes 4 n
      State.replyBytes { s with root := { s.root with quotes := n } } c (body ++ deviceSign (sha3 body)))

/-- `REPEAT_SELF_TEST`: in the safe state the self-test starts again; its end is reported and answered. -/
def execRepeatSelfTest (c : Call) (s : State) : Host.Outcome State Fault Refusal :=
  .next (s.call c true fun s =>
    if s.root.st == .safe then { s with root := { s.root with again := s.root.again ++ [c] } } else s.reply c 2)

/-- `IDENTITY_KEY`. -/
def execIdentityKey (c : Call) (s : State) : Host.Outcome State Fault Refusal :=
  .next (s.call c true fun s => s.replyBytes c identityKey)

/-- `DEVICE_IDENTIFIER`. -/
def execDeviceIdentifier (c : Call) (s : State) : Host.Outcome State Fault Refusal :=
  .next (s.call c true fun s => s.replyBytes c Config.deviceId.toList)

/-- `TEMPERATURE_POWER`: of each cluster whose curator is up, in ascending order, the cluster, its die temperature and its power in a
doubleword each; the readings are free values (assumption 87). -/
def execTemperaturePower (c : Call) (s : State) : Host.Outcome State Fault Refusal :=
  .next (s.call c false fun s =>
    let (s1, ws) := ((List.range Config.clusters).filter s.curatorUp).foldl (fun (x : State × List Word) k =>
      let (temp, s1) := x.1.drawWord
      let (power, s2) := s1.drawWord
      (s2, x.2 ++ [ofN k, temp, power])) (s, [])
    s1.reply c 0 ws)

end Sys2Proof.Machine
end

