-- ==== Sys2Proof/Machine/Rpc.lean ====
section
/-! DEFINITION. The host's Twiyn RPC commands on code, tables, memory, launches, cores, page requests and queries (R394, R249,
R359, R381, R410, R425). -/

namespace Sys2Proof.Machine

open Sys2Proof

/-- Identifiers that a volume can have (R354). -/
def volumeId (v : Nat) : Bool := decide (1 ≤ v) && decide (v ≤ 0xFFFE)

/-! ## Code (R394, R327, R328) -/

/-- `LOAD_CODE`: the words in the arena, a LIVE accession, its handle. -/
def execLoadCode (c : Call) (words : List Word) (s : State) : Host.Outcome State Fault Refusal :=
  .next (s.call c false fun s =>
    let n := words.length
    if n == 0 || 2 ^ 24 < n || !volumeId c.vol then s.reply c 2
    else match s.placeCode c.vol words with
      | none => s.reply c 5
      | some (s1, i, g, a) => (s1.publish c.vol i g a n 0 0xFFFF).reply c 0 [ofN (g * 2 ^ 48 + i * 2 ^ 32 + n)])

/-! ## Tables (R234, R249, R328, R359, R381, R425) -/

/-- Pages of code arenas whose leaf carries W: volume and VA. -/
def State.openArena (s : State) : List (Nat × Nat) :=
  s.circ.spaces.flatMap fun p => p.arena.toList.flatMap fun a => (List.range (ceilDiv a.2 4096)).filterMap fun i =>
    match s.walkIn p (a.1 + 4096 * i) with
    | .leaf l => if ptW l.entry then some (p.id, a.1 + 4096 * i) else none
    | _ => none

/-- No page of an arena has gained W: a leaf of an arena never carries it (R328). -/
def State.arenaKept (s s1 : State) : Bool := s1.openArena.all s.openArena.contains

/-- An entry that the host may write: a doubleword of the stacks outside every arena, whose slice is not fenced. -/
def State.entryOk (s : State) (w : TableWrite) : Bool := w.pa % 8 == 0 && isStack w.pa && !s.keyFenced w.pa && !s.inArena w.pa

def State.writeEntries (s : State) (ws : List TableWrite) : State := ws.foldl (fun (s : State) w => s.wrN w.pa 8 w.entry.toNat) s

/-- Keys of one call: nonzero, held by no valid entry and named once, regions within the VA range (R425). -/
def State.keysOk (s : State) : List KeyWrite → Bool
  | [] => true
  | k :: r => k.key != 0 && !(s.net.keys.any (·.key == k.key)) && !(r.any (·.key == k.key)) && decide (k.base + k.length ≤ 2 ^ 48) &&
      decide (k.peer < 4096) && State.keysOk s r

/-- A range of VAs that does not meet the range of strand areas (R359). -/
def vaFree (lo n : Nat) : Bool := n == 0 || decide (lo + n ≤ Config.areaVA)

def PeerWrite.peer (p : PeerWrite) : Peer :=
  { addr := p.addr, issued := p.issued, valid := p.valid, state := p.state, pay := p.pay, vol := p.vol, depth := p.depth, port := p.port, window := p.window }

/-- The map command's effect. -/
def State.mapDo (s : State) (vol : Nat) (a : MapArgs) : State :=
  let sp := s.spaceOf vol
  let s1 := s.setSpace { sp with root := a.root.orElse fun _ => sp.root, arena := a.arena.orElse fun _ => sp.arena }
  let s2 := s1.writeEntries a.entries
  { s2 with net := { s2.net with
      peers := a.peers.foldl (fun (l : List (Nat × Peer)) p => aput l p.index (PeerWrite.peer p)) s2.net.peers,
      keys := s2.net.keys ++ a.keys } }

/-- What the map command refuses with BADARG. -/
def State.mapOk (s : State) (vol : Nat) (a : MapArgs) : Bool :=
  volumeId vol && (a.entries.all s.entryOk) && s.keysOk a.keys && decide (s.net.keys.length + a.keys.length ≤ 4096) &&
  (a.peers.all fun p => decide (p.index < 4096) && decide (p.port < 16) && (!p.valid ||
    (decide (p.pay.toNat ≤ 4) && decide (1 ≤ p.depth) && decide (p.depth ≤ 1024)))) &&
  (a.root.all fun r => r % 4096 == 0 && decide (r + 4096 ≤ Config.stacksEnd)) &&
  (a.arena.all fun r => r.1 % 64 == 0 && vaFree r.1 r.2) && (a.vaRange.all fun r => vaFree r.1 r.2) &&
  s.arenaKept (s.mapDo vol a)

/-- `MAP`. -/
def execMap (c : Call) (args : MapArgs) (s : State) : Host.Outcome State Fault Refusal :=
  .next (s.call c false fun s => if s.mapOk c.vol args then (s.mapDo c.vol args).reply c 0 else s.reply c 2)

/-- `UNMAP`: the sequence of R249; its reply follows the last access that used the old entries. -/
def execUnmap (c : Call) (entries : List TableWrite) (lo len : Nat) (s : State) : Host.Outcome State Fault Refusal :=
  .next (s.call c false fun s =>
    if !(volumeId c.vol && entries.all s.entryOk && vaFree lo len && s.arenaKept (s.writeEntries entries)) then s.reply c 2
    else
      let (id, s1) := (s.writeEntries entries).fresh
      let x : Tlbi := { id := id, uid := id, vol := c.vol, lo := lo, hi := lo + len, host := some c }
      State.push { s1 with tlbis := s1.tlbis ++ [x] } (.tlbiTakesEffect id))

/-! ## Memory (R394, R184) -/

/-- The key and K page of one byte the host names: a physical address, or a VA of the call's volume whatever its rights. -/
def State.hostByte (s : State) (vol : Nat) (a : HostAddr) (i : Nat) : Option (Nat × Option (Nat × Nat)) :=
  let ok (k : Nat) (kp : Option (Nat × Nat)) := if (isStack k || isAnnex k) && !s.keyFenced k then some (k, kp) else none
  match a with
  | .pa p => ok (p + i) none
  | .va v => match s.areaLeaf vol (v + i) with
    | some pa => ok pa none
    | none => match s.walk vol (v + i) with
      | .leaf l => if 2 ^ 48 ≤ v + i || ptM l.entry then none
          else ok (ptAddr l.entry + (v + i) % 2 ^ l.bits) (if ptK l.entry then some (ptAddr l.entry, l.bits) else none)
      | _ => none

/-- The places of n bytes, if the host may name them all. -/
def State.hostPlaces (s : State) (vol : Nat) (a : HostAddr) (n : Nat) : Option (List (Nat × Option (Nat × Nat))) :=
  (List.range n).foldr (fun i (r : Option (List (Nat × Option (Nat × Nat)))) => match s.hostByte vol a i, r with
    | some x, some l => some (x :: l)
    | _, _ => none) (some [])

/-- `HOST_READ`. -/
def execHostRead (c : Call) (a : HostAddr) (n : Nat) (s : State) : Host.Outcome State Fault Refusal :=
  .next (s.call c false fun s => match s.hostPlaces c.vol a n with
    | none => s.reply c 2
    | some ps => s.replyBytes c (ps.map fun p => s.mem.get p.1))

/-- Bytes that stand one after another in one page are written together. -/
def hostRuns : List ((Nat × Option (Nat × Nat)) × Byte) → List (Nat × Option (Nat × Nat) × List Byte)
  | [] => []
  | ((k, kp), b) :: rest => match hostRuns rest with
    | (j, jp, bs) :: more => if j == k + 1 && jp == kp && j % 4096 != 0 then (k, kp, b :: bs) :: more else (k, kp, [b]) :: (j, jp, bs) :: more
    | [] => [(k, kp, [b])]

/-- Write a run of bytes, with F := 1 for words of the stacks. -/
def State.hostPut (s : State) (r : Nat × Option (Nat × Nat) × List Byte) : State :=
  let n := r.2.2.length
  let s1 := s.bankWrite r.1 r.2.1 n (leNat r.2.2)
  if isStack r.1 then (List.range ((r.1 + n - 1) / 8 + 1 - r.1 / 8)).foldl (fun (s : State) i => s.setFull (8 * (r.1 / 8 + i)) true) s1 else s1

/-- `HOST_WRITE`: the bytes, F := 1, and what waited for the words; code of an arena is not written (R328). -/
def execHostWrite (c : Call) (a : HostAddr) (bytes : List Byte) (s : State) : Host.Outcome State Fault Refusal :=
  .next (s.call c false fun s => match s.hostPlaces c.vol a bytes.length with
    | none => s.reply c 2
    | some ps =>
      if (ps.any fun p => s.inArena p.1) then s.reply c 2 else
      let s1 := (hostRuns (ps.zip bytes)).foldl State.hostPut s
      let words := (ps.map fun p => p.1 / 8).eraseDups
      (words.foldl (fun (s : State) w => s.serve (8 * w) s.flights.length) s1).reply c 0)

/-! ## Launches and cores (R353, R362, R363) -/

/-- `HOST_LAUNCH`: as `launch`; a fenced circulation unit answers FENCED. -/
def execHostLaunch (c : Call) (record : List Word) (sync : Option Nat) (s : State) : Host.Outcome State Fault Refusal :=
  .next (s.call c false fun s =>
    if record.length != 32 || !volumeId c.vol || !(sync.all fun a => a % 8 == 0 && decide (a + 8 ≤ 2 ^ 48)) then s.reply c 2
    else if s.isFenced .circ 0 then s.reply c 0 [4]
    else if !s.isReady .circ 0 then s
    else
      let (st, s1) := s.grantLaunch record none c.vol (some c.vol) (sync.map fun a => .va c.vol a)
      s1.reply c 0 [st])

/-- `HOST_PREEMPT`: as `pmt`; no slot 63 is told of the completion. -/
def execHostPreempt (c : Call) (core : Nat) (resume : Bool) (s : State) : Host.Outcome State Fault Refusal :=
  .next (s.call c false fun s =>
    let (st, s1) := if resume then s.startResume core none else s.preemptAsked core none
    s1.reply c 0 [ofN st])

/-! ## Page requests (R250, R410) -/

/-- The requests of a page that the host has been sent: cluster and request. -/
def State.pageRequests (s : State) (vol page : Nat) : List (Nat × PageReq) :=
  s.clusters.flatMap fun c => (c.2.pages.filter fun p => p.vol == vol && p.page == page && p.forwarded).map fun p => (c.1, p)

/-- Entries of a table of a level, 3 the root; a leaf table's pages have 2^p bytes (R233). -/
def tableSize (level p : Nat) : Nat := if 2 ≤ level then 512 else if level == 1 then 128 else 2 ^ (23 - p)

/-- Levels at which the tables below one hold the entry at a PA, each with the page size there; `fuel` - 1 is the table's level (R233). -/
def State.levelsFrom (s : State) (at_ : Nat) : Nat → Nat → Nat → List (Nat × Nat)
  | 0, _, _ => []
  | level + 1, table, p =>
    let n := tableSize level p
    (if table ≤ at_ && at_ < table + 8 * n then [(level, p)] else []) ++
    (if level == 0 then [] else (List.range n).flatMap fun i =>
      let e := s.rdW (table + 8 * i)
      if ptP e && !ptL e && !ptMalformed level p e then
        State.levelsFrom s at_ level (ptAddr e) (if level == 1 then selBits (ptSel e) else p)
      else [])

/-- Levels at which a volume's tables hold the entry at a PA. -/
def State.levelsAt (s : State) (vol at_ : Nat) : List (Nat × Nat) :=
  match (s.spaceOf vol).root with
  | none => []
  | some r => s.levelsFrom at_ 4 r 0

/-- An entry that is well formed at some level (R235). -/
def entryWf (e : Word) : Bool :=
  !ptP e || !ptMalformed 3 0 e || !ptMalformed 2 0 e || !ptMalformed 1 0 e || ([12, 14, 16, 18, 20].any fun p => !ptMalformed 0 p e)

/-- An entry is well formed at every level at which the volume's tables hold it (R235); one that they do not reach, at some level. -/
def State.entryGood (s : State) (vol : Nat) (w : TableWrite) : Bool :=
  entryWf w.entry && (!ptP w.entry || (s.levelsAt vol w.pa).all fun l => !ptMalformed l.1 l.2 w.entry)

/-- A present entry names a place in a fenced slice (R410). -/
def State.entryFenced (s : State) (e : Word) : Bool := ptP e && !ptM e && isStack (ptAddr e) && s.keyFenced (ptAddr e)

/-- An errata record of a page answer: the page and the code (R404). -/
def State.pageErrata (s : State) (vol core slot gidx page code : Nat) : State :=
  s.errata vol 4 9 core slot gidx [ofN page, ofN (code * 2 ^ 48)]

/-- Settle every request of a page. -/
def State.settleAll (s : State) (ps : List (Nat × PageReq)) (res : Nat) : State :=
  ps.foldl (fun (s : State) p => s.settlePage p.1 p.2 res) s

/-- `ANSWER_PAGE_REQUEST`. -/
def execAnswerPageRequest (c : Call) (page : Nat) (ans : PageAnswer) (s : State) : Host.Outcome State Fault Refusal :=
  .next (s.call c false fun s =>
    let ps := s.pageRequests c.vol page
    match ps.head? with
    | none =>
      let s1 : State := { s with root := { s.root with late := s.root.late + 1 } }
      (s1.pageErrata c.vol 0 0 0 page 0x92).reply c 0
    | some (_, p) => match ans with
      | .refused => (s.settleAll ps 1).reply c 0
      | .mapped es =>
        let s1 := s.writeEntries es
        let bad := !(es.all s.entryOk) || !(es.all (s1.entryGood c.vol)) || (es.any fun e => s.entryFenced e.entry) || !s.arenaKept s1 ||
          (match s1.walk c.vol page with | .fail 3 => true | .fenced => true | _ => false)
        if bad then ((s.pageErrata c.vol p.core p.slot p.gidx page 0x91).settleAll ps 2).reply c 0
        else (s1.settleAll ps 0).reply c 0)

/-! ## Queries (R394, R415, R418) -/

/-- What the safe state still answers (R418). -/
def safeItem : QueryItem → Bool
  | .reports | .identity | .selfTests => true
  | _ => false

/-- The shelf list of a gathering, 128 bits: entry r has its valid bit at 16r + 15 and its core at 16r (R160). -/
def shelfWords (cores : List Nat) : List Word :=
  [0, 4].map fun b => ofN (((List.range 4).map fun r => match cores[b + r]? with
    | some k => (2 ^ 15 + k) * 2 ^ (16 * r)
    | none => 0).foldl (· + ·) 0)

/-- A query's words, or no such object. -/
def State.answer (s : State) : QueryItem → Option (List Word)
  | .shelf v g => (s.gathering v g).map fun x => shelfWords x.cores
  | .corrected k => if k < Config.cores then some [ofN (s.core k).corrected] else none
  | .late => some [ofN s.root.late]
  | .peer i => if i < 4096 then some [(s.peer i).word] else none
  | .volume v => some (match s.volume v with
    | some x => [1, ofN x.count, ofN x.next, ofN x.ended, ofN x.pool.length]
    | none => [0])
  | .reports => some s.root.log
  | .identity => some []
  | .fenced => some (s.root.fenced.map fun f => ofN (kindCode f.kind * 2 ^ 12 + f.index))
  | .selfTests => some s.root.tests
  | .corrections f => some [ofN (match f.kind with
      | .core => (s.core f.index).corrected
      | _ => ((s.root.corrected.find? (·.1 == f)).map (·.2)).getD 0)]
  | .portStats p => if p < 16 then some [ofN ((aget s.net.stats p).getD 0)] else none

/-- `QUERY`. -/
def execQuery (c : Call) (item : QueryItem) (s : State) : Host.Outcome State Fault Refusal :=
  .next (s.call c (safeItem item) fun s => match item with
    | .identity => s.replyBytes c (Config.deviceId.toList ++ identityKey)
    | _ => match s.answer item with
      | some ws => s.reply c 0 ws
      | none => s.reply c 2)

/-- `UNKNOWN_COMMAND`: status 1, whatever its arguments. -/
def execUnknownCommand (c : Call) (_command : Nat) (s : State) : Host.Outcome State Fault Refusal :=
  .next (State.call s { c with argsOk := true } false fun s => s.reply c 1)

end Sys2Proof.Machine
end

