-- ==== Sys2Proof/Machine/Dispatch.lean ====
section
/-! DEFINITION. The meaning of every instruction and step: one arm per constructor of `Instr`. -/

namespace Sys2Proof.Machine

def exec (i : Instr) (s : State) : Host.Outcome State Fault Refusal :=
  match i with
  | .nop h => Sys2Proof.Machine.execNop h s
  | .br h disp => Sys2Proof.Machine.execBr h disp s
  | .beq h a b disp => Sys2Proof.Machine.execBeq h a b disp s
  | .bne h a b disp => Sys2Proof.Machine.execBne h a b disp s
  | .blt h a b disp => Sys2Proof.Machine.execBlt h a b disp s
  | .bge h a b disp => Sys2Proof.Machine.execBge h a b disp s
  | .bltu h a b disp => Sys2Proof.Machine.execBltu h a b disp s
  | .bgeu h a b disp => Sys2Proof.Machine.execBgeu h a b disp s
  | .call h a disp => Sys2Proof.Machine.execCall h a disp s
  | .jr h d a => Sys2Proof.Machine.execJr h d a s
  | .loop h a disp => Sys2Proof.Machine.execLoop h a disp s
  | .stop h => Sys2Proof.Machine.execStop h s
  | .retire h a b => Sys2Proof.Machine.execRetire h a b s
  | .yield h => Sys2Proof.Machine.execYield h s
  | .bara h n => Sys2Proof.Machine.execBara h n s
  | .barw h n => Sys2Proof.Machine.execBarw h n s
  | .collate h n => Sys2Proof.Machine.execCollate h n s
  | .disband h => Sys2Proof.Machine.execDisband h s
  | .wait h a imm => Sys2Proof.Machine.execWait h a imm s
  | .svc h d a b n => Sys2Proof.Machine.execSvc h d a b n s
  | .trap h code => Sys2Proof.Machine.execTrap h code s
  | .resume h a => Sys2Proof.Machine.execResume h a s
  | .emr h d a rs => Sys2Proof.Machine.execEmr h d a rs s
  | .emw h d a rs => Sys2Proof.Machine.execEmw h d a rs s
  | .kill h a => Sys2Proof.Machine.execKill h a s
  | .pmt h d a => Sys2Proof.Machine.execPmt h d a s
  | .launch h d a b => Sys2Proof.Machine.execLaunch h d a b s
  | .add h o z d a b => Sys2Proof.Machine.execAdd h o z d a b s
  | .addi h o z d a imm => Sys2Proof.Machine.execAddi h o z d a imm s
  | .sub h o z d a b => Sys2Proof.Machine.execSub h o z d a b s
  | .mul h o z d a b => Sys2Proof.Machine.execMul h o z d a b s
  | .mulh h z d a b => Sys2Proof.Machine.execMulh h z d a b s
  | .mulhu h z d a b => Sys2Proof.Machine.execMulhu h z d a b s
  | .div h z d a b => Sys2Proof.Machine.execDiv h z d a b s
  | .divu h z d a b => Sys2Proof.Machine.execDivu h z d a b s
  | .rem h z d a b => Sys2Proof.Machine.execRem h z d a b s
  | .remu h z d a b => Sys2Proof.Machine.execRemu h z d a b s
  | .neg h o z d a => Sys2Proof.Machine.execNeg h o z d a s
  | .abs h o z d a => Sys2Proof.Machine.execAbs h o z d a s
  | .min h z d a b => Sys2Proof.Machine.execMin h z d a b s
  | .max h z d a b => Sys2Proof.Machine.execMax h z d a b s
  | .minu h z d a b => Sys2Proof.Machine.execMinu h z d a b s
  | .maxu h z d a b => Sys2Proof.Machine.execMaxu h z d a b s
  | .and h z d a b => Sys2Proof.Machine.execAnd h z d a b s
  | .andi h z d a imm => Sys2Proof.Machine.execAndi h z d a imm s
  | .or h z d a b => Sys2Proof.Machine.execOr h z d a b s
  | .ori h z d a imm => Sys2Proof.Machine.execOri h z d a imm s
  | .xor h z d a b => Sys2Proof.Machine.execXor h z d a b s
  | .xori h z d a imm => Sys2Proof.Machine.execXori h z d a imm s
  | .andn h z d a b => Sys2Proof.Machine.execAndn h z d a b s
  | .shl h z d a b => Sys2Proof.Machine.execShl h z d a b s
  | .shr h z d a b => Sys2Proof.Machine.execShr h z d a b s
  | .sar h z d a b => Sys2Proof.Machine.execSar h z d a b s
  | .rol h z d a b => Sys2Proof.Machine.execRol h z d a b s
  | .shli h z d a imm => Sys2Proof.Machine.execShli h z d a imm s
  | .shri h z d a imm => Sys2Proof.Machine.execShri h z d a imm s
  | .sari h z d a imm => Sys2Proof.Machine.execSari h z d a imm s
  | .clz h z d a => Sys2Proof.Machine.execClz h z d a s
  | .ctz h z d a => Sys2Proof.Machine.execCtz h z d a s
  | .popc h z d a => Sys2Proof.Machine.execPopc h z d a s
  | .bfx h d a imm => Sys2Proof.Machine.execBfx h d a imm s
  | .bfi h d a imm => Sys2Proof.Machine.execBfi h d a imm s
  | .sext h z d a => Sys2Proof.Machine.execSext h z d a s
  | .zext h z d a => Sys2Proof.Machine.execZext h z d a s
  | .mov h z d a => Sys2Proof.Machine.execMov h z d a s
  | .movi h d imm => Sys2Proof.Machine.execMovi h d imm s
  | .movhi h d imm => Sys2Proof.Machine.execMovhi h d imm s
  | .lea h d a seg disp => Sys2Proof.Machine.execLea h d a seg disp s
  | .sel h d a b k => Sys2Proof.Machine.execSel h d a b k s
  | .cmp h cc z d a b => Sys2Proof.Machine.execCmp h cc z d a b s
  | .cmpi h cc z d a imm => Sys2Proof.Machine.execCmpi h cc z d a imm s
  | .pand h d a b => Sys2Proof.Machine.execPand h d a b s
  | .por h d a b => Sys2Proof.Machine.execPor h d a b s
  | .pxor h d a b => Sys2Proof.Machine.execPxor h d a b s
  | .pandn h d a b => Sys2Proof.Machine.execPandn h d a b s
  | .mfp h d => Sys2Proof.Machine.execMfp h d s
  | .mtp h a => Sys2Proof.Machine.execMtp h a s
  | .mfs h d n => Sys2Proof.Machine.execMfs h d n s
  | .mts h a n => Sys2Proof.Machine.execMts h a n s
  | .fadd h f rm d a b => Sys2Proof.Machine.execFadd h f rm d a b s
  | .fsub h f rm d a b => Sys2Proof.Machine.execFsub h f rm d a b s
  | .fmul h f rm d a b => Sys2Proof.Machine.execFmul h f rm d a b s
  | .ffma h f rm d a b c => Sys2Proof.Machine.execFfma h f rm d a b c s
  | .fmin h f rm d a b => Sys2Proof.Machine.execFmin h f rm d a b s
  | .fmax h f rm d a b => Sys2Proof.Machine.execFmax h f rm d a b s
  | .fcmp h cc f d a b => Sys2Proof.Machine.execFcmp h cc f d a b s
  | .fcvt h cv d a => Sys2Proof.Machine.execFcvt h cv d a s
  | .vadd h f d a b => Sys2Proof.Machine.execVadd h f d a b s
  | .vsub h f d a b => Sys2Proof.Machine.execVsub h f d a b s
  | .vmul h f d a b => Sys2Proof.Machine.execVmul h f d a b s
  | .vfma h f d a b c => Sys2Proof.Machine.execVfma h f d a b c s
  | .vmin h f d a b => Sys2Proof.Machine.execVmin h f d a b s
  | .vmax h f d a b => Sys2Proof.Machine.execVmax h f d a b s
  | .vabs h f d a => Sys2Proof.Machine.execVabs h f d a s
  | .vneg h f d a => Sys2Proof.Machine.execVneg h f d a s
  | .vand h d a b => Sys2Proof.Machine.execVand h d a b s
  | .vor h d a b => Sys2Proof.Machine.execVor h d a b s
  | .vxor h d a b => Sys2Proof.Machine.execVxor h d a b s
  | .vshl h f d a b => Sys2Proof.Machine.execVshl h f d a b s
  | .vshr h f d a b => Sys2Proof.Machine.execVshr h f d a b s
  | .vsar h f d a b => Sys2Proof.Machine.execVsar h f d a b s
  | .vcmp h cc f d a b => Sys2Proof.Machine.execVcmp h cc f d a b s
  | .vsel h f d a b c => Sys2Proof.Machine.execVsel h f d a b c s
  | .vbc h f d a => Sys2Proof.Machine.execVbc h f d a s
  | .vget h f d a idx => Sys2Proof.Machine.execVget h f d a idx s
  | .vput h f d a idx => Sys2Proof.Machine.execVput h f d a idx s
  | .vperm h f d a b => Sys2Proof.Machine.execVperm h f d a b s
  | .vred h op f d a => Sys2Proof.Machine.execVred h op f d a s
  | .vdot h f d a b => Sys2Proof.Machine.execVdot h f d a b s
  | .vcvt h cv d a => Sys2Proof.Machine.execVcvt h cv d a s
  | .vqnt h fine df d a b => Sys2Proof.Machine.execVqnt h fine df d a b s
  | .vdeq h sf d a b => Sys2Proof.Machine.execVdeq h sf d a b s
  | .amxrd h d => Sys2Proof.Machine.execAmxrd h d s
  | .amxsw h d a => Sys2Proof.Machine.execAmxsw h d a s
  | .vld h m d a => Sys2Proof.Machine.execVld h m d a s
  | .vst h m d a => Sys2Proof.Machine.execVst h m d a s
  | .vldf h m d a => Sys2Proof.Machine.execVldf h m d a s
  | .vstf h m d a => Sys2Proof.Machine.execVstf h m d a s
  | .vldx h m d a => Sys2Proof.Machine.execVldx h m d a s
  | .vstx h m d a => Sys2Proof.Machine.execVstx h m d a s
  | .sfn h f d a b fn => Sys2Proof.Machine.execSfn h f d a b fn s
  | .ld h m d a => Sys2Proof.Machine.execLd h m d a s
  | .lds h m d a => Sys2Proof.Machine.execLds h m d a s
  | .st h m d a => Sys2Proof.Machine.execSt h m d a s
  | .ldf h m d a => Sys2Proof.Machine.execLdf h m d a s
  | .lde h m d a => Sys2Proof.Machine.execLde h m d a s
  | .stf h m d a => Sys2Proof.Machine.execStf h m d a s
  | .stfe h m d a => Sys2Proof.Machine.execStfe h m d a s
  | .clrf h m a => Sys2Proof.Machine.execClrf h m a s
  | .amo h op m d a b => Sys2Proof.Machine.execAmo h op m d a b s
  | .cas h m d a b c => Sys2Proof.Machine.execCas h m d a b c s
  | .amof h op m d a b => Sys2Proof.Machine.execAmof h op m d a b s
  | .fence h k sc => Sys2Proof.Machine.execFence h k sc s
  | .cfence h => Sys2Proof.Machine.execCfence h s
  | .swarm h d a b => Sys2Proof.Machine.execSwarm h d a b s
  | .swadd h a b => Sys2Proof.Machine.execSwadd h a b s
  | .swwait h a b => Sys2Proof.Machine.execSwwait h a b s
  | .swrd h d a => Sys2Proof.Machine.execSwrd h d a s
  | .segld h d a => Sys2Proof.Machine.execSegld h d a s
  | .segst h a b => Sys2Proof.Machine.execSegst h a b s
  | .segrd h hi d a => Sys2Proof.Machine.execSegrd h hi d a s
  | .tlbi h a b => Sys2Proof.Machine.execTlbi h a b s
  | .tlbsync h => Sys2Proof.Machine.execTlbsync h s
  | .upret h a => Sys2Proof.Machine.execUpret h a s
  | .pgrq h d a b => Sys2Proof.Machine.execPgrq h d a b s
  | .tcfg h d a mask => Sys2Proof.Machine.execTcfg h d a mask s
  | .trel h mask => Sys2Proof.Machine.execTrel h mask s
  | .tzero h mask => Sys2Proof.Machine.execTzero h mask s
  | .tenq h d a b => Sys2Proof.Machine.execTenq h d a b s
  | .tst h f rm t a b => Sys2Proof.Machine.execTst h f rm t a b s
  | .tld h f t a b => Sys2Proof.Machine.execTld h f t a b s
  | .tget h err t d a => Sys2Proof.Machine.execTget h err t d a s
  | .tset h err t a b => Sys2Proof.Machine.execTset h err t a b s
  | .msset h m a b => Sys2Proof.Machine.execMsset h m a b s
  | .msrd h m d => Sys2Proof.Machine.execMsrd h m d s
  | .twait h mask => Sys2Proof.Machine.execTwait h mask s
  | .mmar h f t a b => Sys2Proof.Machine.execMmar h f t a b s
  | .cpy h d a b => Sys2Proof.Machine.execCpy h d a b s
  | .cpyRp h d a b => Sys2Proof.Machine.execCpyRp h d a b s
  | .gath h d a b => Sys2Proof.Machine.execGath h d a b s
  | .scat h d a b => Sys2Proof.Machine.execScat h d a b s
  | .cmpct h d a b => Sys2Proof.Machine.execCmpct h d a b s
  | .dpat h a b => Sys2Proof.Machine.execDpat h a b s
  | .dcpy h d a b => Sys2Proof.Machine.execDcpy h d a b s
  | .cqry h d a q => Sys2Proof.Machine.execCqry h d a q s
  | .ksel h note d a b => Sys2Proof.Machine.execKsel h note d a b s
  | .kgath h note d a b => Sys2Proof.Machine.execKgath h note d a b s
  | .kabs h d a => Sys2Proof.Machine.execKabs h d a s
  | .emb h note d a b => Sys2Proof.Machine.execEmb h note d a b s
  | .spec h d a b tag => Sys2Proof.Machine.execSpec h d a b tag s
  | .aref h a => Sys2Proof.Machine.execAref h a s
  | .arel h a => Sys2Proof.Machine.execArel h a s
  | .acall h d a => Sys2Proof.Machine.execAcall h d a s
  | .ainf h item d a => Sys2Proof.Machine.execAinf h item d a s
  | .hold h d a imm => Sys2Proof.Machine.execHold h d a imm s
  | .dech h a imm => Sys2Proof.Machine.execDech h a imm s
  | .pushr h d a => Sys2Proof.Machine.execPushr h d a s
  | .popr h d => Sys2Proof.Machine.execPopr h d s
  | .splitr h d => Sys2Proof.Machine.execSplitr h d s
  | .stealr h d a => Sys2Proof.Machine.execStealr h d a s
  | .post h d a b tag => Sys2Proof.Machine.execPost h d a b tag s
  | .spawn h d a b imm => Sys2Proof.Machine.execSpawn h d a b imm s
  | .nsend h note d a => Sys2Proof.Machine.execNsend h note d a s
  | .nread h note d a => Sys2Proof.Machine.execNread h note d a s
  | .nwrite h note d a => Sys2Proof.Machine.execNwrite h note d a s
  | .nrecv h note d a => Sys2Proof.Machine.execNrecv h note d a s
  | .nqry h d a item => Sys2Proof.Machine.execNqry h d a item s
  | .illegalEncoding w => Sys2Proof.Machine.execIllegalEncoding w s
  | .resultReturn core slot op => Sys2Proof.Machine.execResultReturn core slot op s
  | .strandWake core slot => Sys2Proof.Machine.execStrandWake core slot s
  | .waitExpiry core slot => Sys2Proof.Machine.execWaitExpiry core slot s
  | .idleSlotSearch core slot => Sys2Proof.Machine.execIdleSlotSearch core slot s
  | .fetchFill core slot => Sys2Proof.Machine.execFetchFill core slot s
  | .portWordArrive msg => Sys2Proof.Machine.execPortWordArrive msg s
  | .creditReturn msg => Sys2Proof.Machine.execCreditReturn msg s
  | .postArrive msg => Sys2Proof.Machine.execPostArrive msg s
  | .engineMessageDeliver id => Sys2Proof.Machine.execEngineMessageDeliver id s
  | .faultMessageDeliver id => Sys2Proof.Machine.execFaultMessageDeliver id s
  | .bankTransaction flight => Sys2Proof.Machine.execBankTransaction flight s
  | .overflowRetry flight => Sys2Proof.Machine.execOverflowRetry flight s
  | .translationWalk flight => Sys2Proof.Machine.execTranslationWalk flight s
  | .barrierArrival msg => Sys2Proof.Machine.execBarrierArrival msg s
  | .holdDecrement msg => Sys2Proof.Machine.execHoldDecrement msg s
  | .stealPerform msg => Sys2Proof.Machine.execStealPerform msg s
  | .preemptRequest msg => Sys2Proof.Machine.execPreemptRequest msg s
  | .preemptSave core => Sys2Proof.Machine.execPreemptSave core s
  | .resumeRequest msg => Sys2Proof.Machine.execResumeRequest msg s
  | .coreResume core => Sys2Proof.Machine.execCoreResume core s
  | .launchAccept req => Sys2Proof.Machine.execLaunchAccept req s
  | .placement => Sys2Proof.Machine.execPlacement s
  | .gatheringRetire vol gidx => Sys2Proof.Machine.execGatheringRetire vol gidx s
  | .copyAccept cluster req => Sys2Proof.Machine.execCopyAccept cluster req s
  | .copyChunk cluster op => Sys2Proof.Machine.execCopyChunk cluster op s
  | .copyComplete cluster op => Sys2Proof.Machine.execCopyComplete cluster op s
  | .binderyEnqueue cluster req => Sys2Proof.Machine.execBinderyEnqueue cluster req s
  | .taskStart cluster => Sys2Proof.Machine.execTaskStart cluster s
  | .taskPartComplete cluster task part => Sys2Proof.Machine.execTaskPartComplete cluster task part s
  | .selectionAccept cluster req => Sys2Proof.Machine.execSelectionAccept cluster req s
  | .selectRun cluster op => Sys2Proof.Machine.execSelectRun cluster op s
  | .gatherEntry cluster op => Sys2Proof.Machine.execGatherEntry cluster op s
  | .embAccept cluster req => Sys2Proof.Machine.execEmbAccept cluster req s
  | .chipPartial cluster op bag chip => Sys2Proof.Machine.execChipPartial cluster op bag chip s
  | .bagWrite cluster op => Sys2Proof.Machine.execBagWrite cluster op s
  | .specAccept cluster req => Sys2Proof.Machine.execSpecAccept cluster req s
  | .specRun cluster op => Sys2Proof.Machine.execSpecRun cluster op s
  | .netAccept req => Sys2Proof.Machine.execNetAccept req s
  | .packetReceive p => Sys2Proof.Machine.execPacketReceive p s
  | .ackReceive peer name packets => Sys2Proof.Machine.execAckReceive peer name packets s
  | .retransmitTimeout wr packet => Sys2Proof.Machine.execRetransmitTimeout wr packet s
  | .pageRequestForward cluster => Sys2Proof.Machine.execPageRequestForward cluster s
  | .svcVersion core slot => Sys2Proof.Machine.execSvcVersion core slot s
  | .svcResume core slot => Sys2Proof.Machine.execSvcResume core slot s
  | .svcKill core slot => Sys2Proof.Machine.execSvcKill core slot s
  | .svcPage core slot => Sys2Proof.Machine.execSvcPage core slot s
  | .svcCounts core slot => Sys2Proof.Machine.execSvcCounts core slot s
  | .curatorSwitchEnd cluster => Sys2Proof.Machine.execCuratorSwitchEnd cluster s
  | .tlbiTakesEffect id => Sys2Proof.Machine.execTlbiTakesEffect id s
  | .remotekeyRefusal refused packet => Sys2Proof.Machine.execRemotekeyRefusal refused packet s
  | .uncorrectableError f flight => Sys2Proof.Machine.execUncorrectableError f flight s
  | .powerOn => Sys2Proof.Machine.execPowerOn s
  | .rootSelfTestEnd pass diag => Sys2Proof.Machine.execRootSelfTestEnd pass diag s
  | .functionReport f ready diag images => Sys2Proof.Machine.execFunctionReport f ready diag images s
  | .thermalShutdown => Sys2Proof.Machine.execThermalShutdown s
  | .loadCode c words => Sys2Proof.Machine.execLoadCode c words s
  | .map c args => Sys2Proof.Machine.execMap c args s
  | .unmap c entries lo len => Sys2Proof.Machine.execUnmap c entries lo len s
  | .hostRead c a n => Sys2Proof.Machine.execHostRead c a n s
  | .hostWrite c a bytes => Sys2Proof.Machine.execHostWrite c a bytes s
  | .hostLaunch c record sync => Sys2Proof.Machine.execHostLaunch c record sync s
  | .hostPreempt c core resume => Sys2Proof.Machine.execHostPreempt c core resume s
  | .answerPageRequest c page ans => Sys2Proof.Machine.execAnswerPageRequest c page ans s
  | .query c item => Sys2Proof.Machine.execQuery c item s
  | .repeatSelfTest c => Sys2Proof.Machine.execRepeatSelfTest c s
  | .identityKey c => Sys2Proof.Machine.execIdentityKey c s
  | .deviceIdentifier c => Sys2Proof.Machine.execDeviceIdentifier c s
  | .temperaturePower c => Sys2Proof.Machine.execTemperaturePower c s
  | .firmwareUpdate c image sig version => Sys2Proof.Machine.execFirmwareUpdate c image sig version s
  | .attestationQuote c nonce => Sys2Proof.Machine.execAttestationQuote c nonce s
  | .unknownCommand c command => Sys2Proof.Machine.execUnknownCommand c command s

end Sys2Proof.Machine
end

