-- ==== Sys2Proof/Machine/Schedule.lean ====
section
/-! DEFINITION. Rounds, frames and turns (R69, R70, R91, R92, R101, R149, R162), and the order of the machine's own events
(assumptions 1 and 2). -/

namespace Sys2Proof.Machine

open Sys2Proof

/-! ## Turns (R69, R70, R149) -/

/-- Control transfers, whose decision is the group leader's (R150). -/
def isControl : Instr → Bool
  | .br _ _ | .beq _ _ _ _ | .bne _ _ _ _ | .blt _ _ _ _ | .bge _ _ _ _ | .bltu _ _ _ _ | .bgeu _ _ _ _ | .call _ _ _ | .jr _ _ _ | .loop _ _ _
  | .wait _ _ _ | .stop _ | .acall _ _ _ => true
  | _ => false

/-- The word at a strand's pc, decoded for its slot. -/
def State.fetched (s : State) (core slot : Nat) (t : Strand) : Option (Word × Option Instr) :=
  (s.cached core t).map fun w => (w, decode (s.decCtx core slot) w)

/-- The turn is taken. -/
def State.atTurn (s : State) (core slot : Nat) : State :=
  { s with clk := { s.clk with cur := some (core, slot), pos := slot, took := if slot == s.clk.pos then s.clk.took ++ [core] else [core] } }

/-- The decision that a group's leader, ready at a word and with its turn still to come, makes on it: what its issue now would give (R149,
R150; assumption 73). None where it would park, fault or leave. -/
def State.leadAhead (s : State) (t : Strand) (w : Word) (i : Instr) : Option Decision :=
  match s.strands.find? fun e => e.2.group == t.group && e.2.colI == 0 with
  | none => none
  | some ((core, slot), l) =>
    if l.run != .ready || l.colN != t.colN then none
    else match exec i ((s.atTurn core slot).setStrand core slot { l with ir := w }) with
      | .next s1 => match s1.strand core slot with
        | some l1 => if l1.uid == l.uid && l1.colN == l.colN + 1 then some l1.decision else none
        | none => none
      | _ => none

/-- The decision on a control transfer that a follower takes: its leader's, made or as it stands (R149, R150). -/
def State.decides (s : State) (core slot : Nat) (t : Strand) : Option Decision :=
  match s.leadOf t with
  | some d => some d
  | none => (s.fetched core slot t).bind fun x => x.2.bind fun i => if isControl i then s.leadAhead t x.1 i else none

/-- A member issues word k when every member has issued word k − 1; a follower's control transfer has the leader's decision, and waits
for it (R149, R150). -/
def State.groupTurn (s : State) (core slot : Nat) (t : Strand) : Bool :=
  t.group == 0 ||
  ((s.strands.all fun e => e.2.group != t.group || decide (t.colN ≤ e.2.colN)) &&
   (t.colI == 0 || !(((s.fetched core slot t).bind (·.2)).any isControl) || (s.decides core slot t).isSome || (s.leaderOf t).isNone))

/-- A strand uses its turn: it is ready, its core is neither fenced nor being saved, and its group lets it. -/
def State.canTurn (s : State) (core slot : Nat) (t : Strand) : Bool :=
  t.run == .ready && !s.coreFenced core &&
  (slot == 63 || (match (s.core core).pre with | .saving _ => false | _ => true)) && s.groupTurn core slot t

/-- A slot's turn of this frame is still to come. -/
def State.turnLeft (s : State) (core slot : Nat) : Bool :=
  decide (s.clk.pos < slot) || (slot == s.clk.pos && !s.clk.took.contains core)

/-- The order of the turns of a round: by slot; within one slot, whose turns fall together on every core, the model takes the cores in
ascending order (assumption 2). -/
def turnKey (core slot : Nat) : Nat × Nat := (slot, core)

def keyBefore (a b : Nat × Nat) : Bool := decide (a.1 < b.1) || (a.1 == b.1 && decide (a.2 < b.2))

/-- The next turn of this frame that a strand uses: core and slot. -/
def State.nextTurn (s : State) : Option (Nat × Nat) :=
  let ts := s.strands.filter fun e => s.turnLeft e.1.1 e.1.2 && s.canTurn e.1.1 e.1.2 e.2
  (ts.foldl (fun (b : Option ((Nat × Nat) × Strand)) e => match b with
    | none => some e
    | some q => if keyBefore (turnKey e.1.1 e.1.2) (turnKey q.1.1 q.1.2) then some e else b) none).map (·.1)

/-- The turn is taken with an instruction word, which the strand's followers issue after it (R149); a follower has its leader's decision
on it (R150). -/
def State.takeTurn (s : State) (core slot : Nat) (w : Word) : State :=
  let s1 := s.atTurn core slot
  match s1.strand core slot with
  | some t => s1.setStrand core slot { t with ir := w, lead := if t.group != 0 && t.colI != 0 then s.decides core slot t else t.lead }
  | none => s1

/-! ## Frames (R91, R92, R101, R162) -/

/-- Messages of one frame: by kind, then by sender (R164, R172); decrements of the bindery come first (R368). -/
def msgRank (m : Msg) : Nat × Nat × Nat × Nat :=
  match m.kind with
  | .word q _ => (0, srcRank q.src, m.core, m.slot)
  | .credit _ => (1, 0, m.core, m.slot)
  | .post _ _ _ _ _ _ _ => (2, 0, m.core, m.slot)
  | .bar _ _ _ _ _ => (3, 0, m.core, m.slot)
  | .dec _ _ _ _ b _ _ => (4, if b then 0 else 1, m.core, m.slot)
  | .steal _ _ => (5, 0, m.core, m.slot)
  | .preempt _ => (6, 0, m.core, m.slot)
  | .resume _ => (7, 0, m.core, m.slot)
  | .reply _ => (8, 0, m.core, m.slot)

def rankBefore (a b : Nat × Nat × Nat × Nat) : Bool :=
  decide (a.1 < b.1) || (a.1 == b.1 && (decide (a.2.1 < b.2.1) || (a.2.1 == b.2.1 &&
    (decide (a.2.2.1 < b.2.2.1) || (a.2.2.1 == b.2.2.1 && decide (a.2.2.2 < b.2.2.2))))))

def insertArrival (m : Msg) : List Msg → List Msg
  | [] => [m]
  | x :: r => if rankBefore (msgRank m) (msgRank x) then m :: x :: r else x :: insertArrival m r

/-- The event of a message's arrival. -/
def arrivalEvent (m : Msg) : Instr :=
  match m.kind with
  | .word _ _ => .portWordArrive m.id
  | .credit _ => .creditReturn m.id
  | .post _ _ _ _ _ _ _ => .postArrive m.id
  | .bar _ _ _ _ _ => .barrierArrival m.id
  | .dec _ _ _ _ _ _ _ => .holdDecrement m.id
  | .steal _ _ => .stealPerform m.id
  | .preempt _ => .preemptRequest m.id
  | .resume _ => .resumeRequest m.id
  | .reply op => .resultReturn m.core m.slot op

/-- Waits that end and rounds of `wait` that pass. -/
def State.wakes (s : State) : List Instr :=
  s.strands.filterMap fun e =>
    if s.wakeable e.1.1 e.1.2 e.2 then some (.strandWake e.1.1 e.1.2)
    else match e.2.run with
      | .waiting _ => some (.waitExpiry e.1.1 e.1.2)
      | _ => none

/-- Slots of every core by slot number. -/
def insertSlot (x : Nat × Nat) : List (Nat × Nat) → List (Nat × Nat)
  | [] => [x]
  | y :: r => if x.2 < y.2 || (x.2 == y.2 && x.1 < y.1) then x :: y :: r else y :: insertSlot x r

/-- Slots that look for a slip, those of a core in slot order (R84). They look after the frame's arrivals, so that a slip which an arrival
makes READY is seen in that frame (DESIGN CHOICE, assumption 2); in a quiet frame with every list empty none need look. -/
def State.searches (s : State) (quiet : Bool) : List Instr :=
  if quiet && s.cores.all fun c => c.2.runs.all List.isEmpty then []
  else
    let slots := s.circ.gatherings.flatMap fun g => g.members.map fun m => (g.cores.getD m.role 0, m.slot)
    ((slots.filter fun x => (s.idleSlot x.1 x.2).isSome).foldr insertSlot []).map fun x => .idleSlotSearch x.1 x.2

/-- Units that look again, once a frame, whether what they wait for has come. -/
def State.polls (s : State) : List Instr :=
  (s.flights.filter (·.spill.isSome)).map (fun f => Instr.overflowRetry f.id) ++
  s.cores.flatMap (fun c => match c.2.pre with
    | .saving _ => [Instr.preemptSave c.1]
    | .resuming _ => [Instr.coreResume c.1]
    | _ => []) ++
  ((s.circ.gatherings.filter fun g => !(g.members.any (·.st == .live))).map fun g => Instr.gatheringRetire g.vol g.gidx) ++
  s.clusters.flatMap (fun c =>
    (if c.2.tasks.any fun t => t.parts.contains .waiting then [Instr.taskStart c.1] else []) ++
    c.2.copies.map (fun o => Instr.copyChunk c.1 o.id) ++
    (c.2.sels.take 1).flatMap (fun o => [Instr.selectRun c.1 o.id, Instr.gatherEntry c.1 o.id]) ++
    (c.2.specs.take 1).map fun o => Instr.specRun c.1 o.id) ++
  (s.tlbis.filter fun x => x.done && x.host.isSome).map fun x => Instr.tlbiTakesEffect x.id

/-- The next frame begins: what is due in it is listed, and its first turn is slot 0's. -/
def State.nextFrame (s : State) : State :=
  let q := s.clk.frame + 1
  let here := (s.fab.msgs.filter fun m => decide (m.due ≤ q)).foldl (fun (l : List Msg) m => insertArrival m l) []
  let isReply (m : Msg) : Bool := match m.kind with | .reply _ => true | _ => false
  let s1 := s.pruneLasting
  { s1 with
    fab := { s1.fab with msgs := s1.fab.msgs.filter fun m => !(isReply m && decide (m.due ≤ q)) },
    clk := { s1.clk with frame := q, pos := 0, took := [], timed := s.wakes ++ here.map arrivalEvent ++ s.searches (here.isEmpty && s.wakes.isEmpty) ++ s.polls } }

/-! ## Events -/

/-- An instruction word is no event: only a turn issues it. -/
def isWord (i : Instr) : Bool := match i with | .illegalEncoding _ => true | _ => i.raw.isSome

/-- An event that its environment brings takes its place among the machine's own if it is one of them. -/
def State.takeEvent (s : State) (i : Instr) : State := { s with clk := { s.clk with due := s.clk.due.erase i } }

/-! ## Placing one instruction word before a strand (assumption 17) -/

/-- The slot that issues a word placed for the next step: slot 63 for the opcodes reserved to it, else slot 0 or 1 of a
declared pair, whichever side the word's port allows. -/
def placedSlot (w : Word) : Nat :=
  let r := Raw.ofWord w
  if supervisorOnly r.op.toNat then 63 else if r.pairOk { sup := false, pair := .even } then 0 else 1

/-- The launch record of a gathering of one core and one declared pair of strands of 128 registers. -/
def placedRecord : List Word := (List.replicate 32 0).set 1 (ofN (2 ^ 16 + 15 * 2 ^ 9 + 2 * 2 ^ 3)) |>.set 13 (ofN (2 ^ 32 + 2 ^ 16 + 2 ^ 8 + 1))

def placedVolume : Volume := { id := 1, space := 1, rec_ := placedRecord, next := 1 }

def placedGathering : Gathering :=
  { vol := 1, gidx := 0, cluster := 0, cores := [0], members := [{ role := 0, lane := 0, slot := 0, slip := 0 }, { role := 0, lane := 1, slot := 1, slip := 0 }],
    shape := placedRecord.getD 1 0, carrel := 0, phases := [], wOff := [0], aOff := [0], roomOff := 0 }

/-- The strand that issues the word, its code segment over the whole space, its pc at 0. -/
def placedStrand (uid slot : Nat) : Strand :=
  if slot == 63 then { supStrand uid 0 with pc := 0 }
  else
    let d : Desc := mkDesc 1 (rR + rX) 0 (2 ^ 48 - 1)
    { newStrand uid 1 0 false slot 0 0 0 15 0 Config.areaVA 0 false (d :: List.replicate 7 0) none with
      gran := (List.range 16).map (16 * slot + 4 + ·) }

/-- A strand in `placedSlot` with the word at its pc, in its core's instruction cache, and its turn next. -/
def State.placeWord (s : State) (w : Word) : State :=
  let slot := placedSlot w
  let t := placedStrand s.clk.nextId slot
  let k := s.core 0
  let free (f : Func) : Bool := !(f == { kind := .core, index := 0 } || f == { kind := .cluster, index := 0 })
  let s1 := s.setStrand 0 slot t
  let s2 := s1.setCore 0 { k with pre := .none, icache := (t.vol, 0, w) :: k.icache.filter fun e => !(e.1 == t.vol && e.2.1 == 0) }
  { s2 with
    circ := if slot == 63 then s2.circ else { s2.circ with
      volumes := placedVolume :: s2.circ.volumes.filter (·.id != 1),
      gatherings := placedGathering :: s2.circ.gatherings.filter fun g => !(g.vol == 1 && g.gidx == 0) },
    root := { s2.root with fenced := s2.root.fenced.filter free },
    clk := { s2.clk with timed := [], agenda := .turn :: s2.clk.agenda, pos := slot, took := [], nextId := s2.clk.nextId + 1 } }

end Sys2Proof.Machine
end

