-- ==== Sys2Proof/Machine/Step.lean ====
section
/-! DEFINITION. One step of the module: an event, one issue turn, or the start of a frame (assumptions 1 and 2). -/

namespace Sys2Proof.Machine

open Sys2Proof

/-- One issue turn: the cached word at the strand's pc is decoded and executed; without it the strand's fetch is asked for. -/
def turn (core slot : Nat) (s : State) : Host.Outcome State Fault Refusal :=
  match s.strand core slot with
  | none => .next (s.atTurn core slot)
  | some t => match s.fetched core slot t with
    | none => .next ((s.atTurn core slot).pushNew (.fetchFill core slot))
    | some (w, none) => exec (.illegalEncoding w) (s.takeTurn core slot w)
    | some (w, some i) => exec i (s.takeTurn core slot w)

/-- The next turn of the frame that a strand uses, or else the next frame. -/
def turnOrFrame (s : State) : Host.Outcome State Fault Refusal :=
  match s.nextTurn with
  | some (core, slot) => turn core slot s
  | none => .next s.nextFrame

/-- An event: a call that must wait is put aside (R394, R416); every other event is performed. -/
def event (i : Instr) (s : State) : Host.Outcome State Fault Refusal :=
  if isWord i then .next s
  else match s.defer i with
    | some s1 => .next s1
    | none => exec i s

/-- One step: what the frame's start listed, then the move the agenda names, then the machine's own events in the order in
which they arose, then turns. -/
def step (s : State) : Host.Outcome State Fault Refusal :=
  match s.clk.timed with
  | i :: r => event i { s with clk := { s.clk with timed := r } }
  | [] => match s.clk.agenda with
    | .event i :: r => event i (State.takeEvent { s with clk := { s.clk with agenda := r } } i)
    | .turn :: r => turnOrFrame { s with clk := { s.clk with agenda := r } }
    | .corrected f :: r => .next (State.corrects { s with clk := { s.clk with agenda := r } } f)
    | [] => match s.clk.due with
      | i :: r => event i { s with clk := { s.clk with due := r } }
      | [] => turnOrFrame s

/-- The state with one 64-bit word placed so that the next step issues it. -/
def State.withFetchWord (s : State) (_nbits w : Nat) : State := s.placeWord (BitVec.ofNat 64 w)

end Sys2Proof.Machine
end

