-- ==== Sys2Proof/Machine/Ordering.lean ====
section
/-! DEFINITION. What a program may rely on of the order of accesses: events, relations and axioms (R206 to R225). The machine itself
waits as R196, R201 and R219 say; R217 says that it need not produce every outcome allowed here (assumption 54). -/

namespace Sys2Proof.Machine

/-- Who makes an event, a strand with the core that it is on then; the initial writes are nobody's. -/
inductive Party where
  | start
  | strand (n core : Nat)
  | engine (op : Nat)
deriving DecidableEq, Repr

inductive EventKind where
  | read | write
  | fence (k : FenceKind) (scope : FenceScope)
  /-- the pop of `ib` (R173) -/
  | pop
  /-- a release without a location: an inbox message, a `spawn`, a publication (R221, R223, R225) -/
  | message
  /-- the start of an engine operation (R219) -/
  | request
deriving DecidableEq, Repr

/-- An event (R206): each access performed at a bank, one for the read and one for the write of a read-modify-write; a fence; and
the events that R210 and R219 to R225 name. -/
structure Event where
  who    : Party
  kind   : EventKind
  /-- the 64-bit word and the bytes of it -/
  loc    : Nat := 0
  bytes  : BitVec 8 := 0xFF
  /-- the classes of R207 -/
  ordered  : Bool := false
  release  : Bool := false
  acquire  : Bool := false
  blocking : Bool := false
  /-- of a remote page (R208) -/
  remote : Bool := false
  /-- the other event of its read-modify-write -/
  pair   : Option Nat := none
  /-- instructions with SW = 1 of its strand, its own among them, up to its instruction -/
  marks  : Nat := 0
  /-- switch points of its strand before its instruction issues, implicit ones among them -/
  switches : Nat := 0
  /-- times that its strand had left a slot before it (R208) -/
  stays  : Nat := 0
deriving DecidableEq, Repr

/-- A candidate for what happened: the events, a strand's own in program order; data dependences through landed registers (R210),
engine order (R219, R220, R224), and the engine and code edges of sw (R221 to R225), as the program gives them; and rf with the bytes
read, co of all locations as one list, and S. -/
structure Candidate where
  events : List Event
  dep  : List (Nat × Nat) := []
  eo   : List (Nat × Nat) := []
  sync : List (Nat × Nat) := []
  rf   : List (Nat × Nat × BitVec 8)
  co   : List Nat
  s    : List Nat
deriving DecidableEq, Repr

/-- A stands before b in an order. -/
def listed (l : List Nat) (a b : Nat) : Bool := l.contains a && l.contains b && decide (l.idxOf a < l.idxOf b)

/-- What can be reached from `xs` in at most n steps of a relation. -/
def reachable (n : Nat) (r : Nat → Nat → Bool) : Nat → List Nat → List Nat
  | 0, xs => xs
  | k + 1, xs => reachable n r k ((List.range n).filter fun b => xs.contains b || xs.any fun a => r a b)

def Candidate.event (c : Candidate) (i : Nat) : Event := c.events.getD i { who := .start, kind := .message }
def Candidate.size (c : Candidate) : Nat := c.events.length
def Candidate.isStrand (c : Candidate) (i : Nat) : Bool := match (c.event i).who with | .strand _ _ => true | _ => false

/-! ## Relations (R209) -/

/-- The same strand, on whatever cores, or the same engine operation (R208). -/
def Party.same : Party → Party → Bool
  | .strand n _, .strand m _ => n == m
  | a, b => a == b

def Candidate.po (c : Candidate) (i j : Nat) : Bool := c.isStrand i && (c.event i).who.same (c.event j).who && decide (i < j)
def Candidate.isRead (c : Candidate) (i : Nat) : Bool := decide (i < c.size) && (c.event i).kind == .read
def Candidate.isWrite (c : Candidate) (i : Nat) : Bool := decide (i < c.size) && (c.event i).kind == .write
def Candidate.isFence (c : Candidate) (i : Nat) : Bool := match (c.event i).kind with | .fence _ _ => true | _ => false
def Candidate.isAccess (c : Candidate) (i : Nat) : Bool := c.isRead i || c.isWrite i
def Candidate.sameLoc (c : Candidate) (i j : Nat) : Bool := c.isAccess i && c.isAccess j && (c.event i).loc == (c.event j).loc
def Candidate.ext (c : Candidate) (i j : Nat) : Bool := !(c.event i).who.same (c.event j).who
def Candidate.reads (c : Candidate) (i j : Nat) : Bool := c.rf.any fun x => x.1 == i && x.2.1 == j
def Candidate.over (c : Candidate) (i j : Nat) : Bool := c.sameLoc i j && listed c.co i j

/-- fr: to every write of a byte that the read read from a co-earlier one. -/
def Candidate.fr (c : Candidate) (i j : Nat) : Bool := c.rf.any fun x => x.2.1 == i && c.over x.1 j && (x.2.2 &&& (c.event j).bytes) != 0

/-- The write of a read-modify-write. -/
def Candidate.rmwWrite (c : Candidate) (i : Nat) : Bool := c.isWrite i && (c.event i).pair.isSome

/-- The release sequence of a release write (R218). -/
def Candidate.rs (c : Candidate) (w u : Nat) : Bool :=
  w == u || (c.over w u && (List.range c.size).all fun k => !(c.over w k && (k == u || c.over k u)) || c.rmwWrite k)

def Candidate.releaseWrite (c : Candidate) (i : Nat) : Bool := c.isWrite i && (c.event i).release
def Candidate.acquireRead (c : Candidate) (i : Nat) : Bool := c.isRead i && (c.event i).acquire

/-- Synchronises-with (R209, R221 to R225). -/
def Candidate.sw (c : Candidate) (i j : Nat) : Bool :=
  c.sync.contains (i, j) ||
  (c.releaseWrite i && c.acquireRead j && (List.range c.size).any fun u => c.rs i u && c.reads u j)

/-- What a release waits for: a release write, the read of a release read-modify-write, a message of the strand's own. -/
def Candidate.releases (c : Candidate) (j : Nat) : Bool :=
  c.releaseWrite j || (c.event j).kind == .message || (c.isRead j && ((c.event j).pair.map c.releaseWrite).getD false)

/-- The rows of R210. -/
def Candidate.bindRow (c : Candidate) (i j : Nat) : Bool :=
  let a := c.event i
  let b := c.event j
  c.releases j || c.acquireRead i || (c.isAccess i && a.blocking) || (a.kind == .pop && decide (a.switches < b.switches)) ||
  decide (a.marks < b.marks) || (c.isRead i && c.dep.contains (i, j))

/-- A remote store is bound only by a later device fence or release (R208). -/
def Candidate.placed (c : Candidate) (i j : Nat) : Bool :=
  (List.range c.size).any fun k => c.po i k && (k == j || c.po k j) &&
    (c.releases k || match (c.event k).kind with | .fence _ .dev => true | _ => false)

/-- The pairs of program order that the hardware keeps (R210). -/
def Candidate.bind (c : Candidate) (i j : Nat) : Bool :=
  c.po i j && c.bindRow i j && ((c.event j).kind != .request || c.acquireRead i || (c.event i).kind == .pop) &&
  (!(c.isWrite i && (c.event i).remote) || c.placed i j)

/-- A fence's pairs count: every strand of the test lies in its scope (R211). -/
def Candidate.counts (c : Candidate) (f : Nat) : Bool :=
  match (c.event f).who, (c.event f).kind with
  | _, .fence _ .dev => true
  | .strand _ k, .fence _ .clus => (List.range c.size).all fun i => match (c.event i).who with
    | .start => true | .strand _ m => m / 8 == k / 8 | .engine _ => false
  | .strand _ k, .fence _ .core => (List.range c.size).all fun i => match (c.event i).who with
    | .start => true | .strand _ m => m == k | .engine _ => false
  | _, _ => false

/-- Fence order (R211). -/
def Candidate.fo (c : Candidate) (i j : Nat) : Bool := c.po i j && match (c.event i).kind, (c.event j).kind with
  | .fence .acq _, _ => c.isAccess j
  | .fence .rel _, _ => c.isWrite j
  | .fence .full _, _ => c.isAccess j
  | _, .fence .acq _ => c.isRead i
  | _, .fence .rel _ => c.isAccess i
  | _, .fence .full _ => c.isAccess i
  | _, _ => false

/-- The S members (R214). -/
def Candidate.member (c : Candidate) (i : Nat) : Bool :=
  decide (i < c.size) && c.isStrand i && !(c.event i).remote &&
  (c.isFence i || (c.isAccess i && ((c.event i).ordered ||
    (List.range c.size).any fun f => c.counts f && (c.fo i f || c.fo f i))))

/-- A strand's events before it leaves a slot, and those after it is taken again (R208). -/
def Candidate.left (c : Candidate) (i j : Nat) : Bool := c.po i j && decide ((c.event i).stays < (c.event j).stays)

def Candidate.hbStep (c : Candidate) (i j : Nat) : Bool := c.bind i j || c.left i j || c.sw i j || listed c.s i j || c.eo.contains (i, j)

/-- Happens-before. -/
def Candidate.hb (c : Candidate) (i j : Nat) : Bool := (reachable c.size c.hbStep c.size ((List.range c.size).filter (c.hbStep i))).contains j

def Candidate.conflict (c : Candidate) (i j : Nat) : Bool := c.reads i j || c.over i j || c.fr i j

/-- No cycle of a relation among the events. -/
def Candidate.acyclic (c : Candidate) (r : Nat → Nat → Bool) : Bool := (List.range c.size).all fun i =>
  !(reachable c.size r c.size ((List.range c.size).filter (r i))).contains i

/-! ## The axioms -/

/-- The choices are of the right kind: each byte read comes from one write of it, co lists each write once with the initial ones first,
and S lists its members once. -/
def Candidate.wf (c : Candidate) : Bool :=
  let all := List.range c.size
  (c.rf.all fun x => c.isWrite x.1 && c.isRead x.2.1 && c.sameLoc x.1 x.2.1 && (x.2.2 &&& (c.event x.1).bytes) == x.2.2) &&
  (all.all fun j => !c.isRead j || (List.range 8).all fun b => !(c.event j).bytes.getLsbD b ||
    (c.rf.filter fun x => x.2.1 == j && x.2.2.getLsbD b).length == 1) &&
  decide c.co.Nodup && (c.co.all c.isWrite) && (all.all fun i => !c.isWrite i || c.co.contains i) &&
  (all.all fun i => all.all fun j => !((c.event i).who == .start && (c.event j).who != .start && c.sameLoc i j && c.isWrite j) || c.over i j) &&
  decide c.s.Nodup && (c.s.all c.member) && all.all fun i => !c.member i || c.s.contains i

/-- R212. -/
def Candidate.coherence (c : Candidate) : Bool := c.acyclic fun i j => (c.po i j && c.sameLoc i j) || c.conflict i j

/-- R213: no write of another party between the read and the write of a read-modify-write. -/
def Candidate.atomicity (c : Candidate) : Bool := (List.range c.size).all fun r => !c.isRead r || ((c.event r).pair.all fun w =>
  (List.range c.size).all fun k => !(c.fr r k && c.ext r k && c.over k w && c.ext k w))

/-- R214. -/
def Candidate.plainOrder (c : Candidate) : Bool := c.s.all fun i => c.s.all fun j =>
  !((c.po i j && ((c.event i).ordered || c.isFence i) && ((c.event j).ordered || c.isFence j)) ||
    (c.fo i j && (if c.isFence i then c.counts i else c.counts j)) || c.conflict i j) || listed c.s i j

/-- R215. -/
def Candidate.causality (c : Candidate) : Bool := (List.range c.size).all fun i => !c.hb i i && (List.range c.size).all fun j => !(c.hb i j && c.conflict j i)

/-- R216. -/
def Candidate.landing (c : Candidate) : Bool := c.acyclic fun i j => c.hbStep i j || c.reads i j

/-- Allowed with these choices of rf, co and S (R217). -/
def Candidate.allowed (c : Candidate) : Bool := c.wf && c.coherence && c.atomicity && c.plainOrder && c.causality && c.landing

/-- An outcome, given as what its reads read, is allowed: co and S can be chosen (R217). `final` fixes the last writes of words. -/
def outcomeAllowed (c : Candidate) (final : List Nat) : Prop :=
  ∃ co s, { c with co := co, s := s }.allowed = true ∧
    ∀ w ∈ final, ∀ u, Candidate.over { c with co := co, s := s } w u = false

end Sys2Proof.Machine
end

