-- ==== Sys2Proof/WellFormed.lean ====
section
/-! DEFINITION. Well-formed instructions: those whose word passes the checks of R39 that do not depend on the slot. -/

namespace Sys2Proof

/-- A call's header names the command that its step performs (R394). -/
def Instr.commandOk : Instr → Bool
  | .loadCode c _ => c.command == 1
  | .map c _ => c.command == 2
  | .unmap c _ _ _ => c.command == 3
  | .hostRead c _ _ => c.command == 4
  | .hostWrite c _ _ => c.command == 5
  | .hostLaunch c _ _ => c.command == 6
  | .hostPreempt c _ _ => c.command == 7
  | .answerPageRequest c _ _ => c.command == 8
  | .query c _ => c.command == 9
  | .repeatSelfTest c => c.command == 9
  | .identityKey c => c.command == 9
  | .deviceIdentifier c => c.command == 9
  | .temperaturePower c => c.command == 9
  | .firmwareUpdate c _ _ _ => c.command == 10
  | .attestationQuote c _ => c.command == 11
  | .unknownCommand c n => c.command == n && !(decide (1 ≤ n) && decide (n ≤ 11))
  | _ => true

/-- An instruction is well formed when its word is legal in some slot (R39). A step that is no instruction word carries
its data as arguments, which its own meaning checks; a call's header names its command. -/
def Instr.wf (i : Instr) : Bool :=
  match i.raw with
  | some r => r.legal
  | none => i.commandOk

end Sys2Proof
end

