-- ==== Sys2Proof/Safety.lean ====
section
/-! DEFINITION. The terms in which claims about the machine are stated: where an instruction word executes, how it completes,
what a state must satisfy, and which parts of a state two states share. -/

namespace Sys2Proof.Machine

open Sys2Proof

/-! ## Where an instruction word executes -/

/-- What issue must know of each instruction word, as its own rule gives it: the registers it reads and writes (R30), the
switch points of R73 and R75, the accesses of R196, the control transfers and spanning instructions of R150. -/
def formOf (i : Instr) : Form :=
  let w := wordOf i
  match i with
  | .nop h | .disband h | .trap h _ | .trel h _ | .tzero h _ =>
      { h := h, word := w }
  | .br h _ | .stop h =>
      { h := h, word := w, ctl := true }
  | .beq h a b _ | .bne h a b _ | .blt h a b _ | .bge h a b _ | .bltu h a b _ | .bgeu h a b _ =>
      { h := h, word := w, src := [a, b], ctl := true }
  | .call h a _ =>
      { h := h, word := w, dst := [a], ctl := true }
  | .jr h d a =>
      { h := h, word := w, src := [a], dst := [d], chg := true, ctl := true }
  | .loop h a _ =>
      { h := h, word := w, src := [a], dst := [a], ctl := true }
  | .retire h a b | .tlbi h a b =>
      { h := h, word := w, src := [a, b], self := true, rel := true }
  | .yield h | .barw h _ | .collate h _ | .cfence h | .tlbsync h | .twait h _ =>
      { h := h, word := w, self := true }
  | .bara h _ =>
      { h := h, word := w, self := true, rel := true }
  | .wait h a _ =>
      { h := h, word := w, src := [a], ctl := true }
  | .svc h d a b _ =>
      { h := h, word := w, src := [a, b], dst := [d], self := true, rel := true, long := true }
  | .resume h a | .dech h a _ =>
      { h := h, word := w, src := [a], self := true, rel := true }
  | .emr h d a _ | .tcfg h d a _ =>
      { h := h, word := w, src := [a], dst := [d], self := true, long := true }
  | .emw h d a _ =>
      { h := h, word := w, src := [d, a], self := true }
  | .kill h a =>
      { h := h, word := w, src := [a], self := true }
  | .pmt h d a | .ainf h _ d a | .stealr h d a =>
      { h := h, word := w, src := [a], dst := [d], long := true }
  | .launch h d a b | .pgrq h d a b | .tenq h d a b | .cpy h d a b | .cpyRp h d a b | .gath h d a b | .scat h d a b
  | .cmpct h d a b | .dcpy h d a b | .ksel h _ d a b | .kgath h _ d a b | .emb h _ d a b | .spec h d a b _ =>
      { h := h, word := w, src := [a, b], dst := [d], long := true, access := true }
  | .add h _ _ d a b | .sub h _ _ d a b | .mul h _ _ d a b | .mulh h _ d a b | .mulhu h _ d a b | .div h _ d a b
  | .divu h _ d a b | .rem h _ d a b | .remu h _ d a b | .min h _ d a b | .max h _ d a b | .minu h _ d a b | .maxu h _ d a b
  | .and h _ d a b | .or h _ d a b | .xor h _ d a b | .andn h _ d a b | .shl h _ d a b | .shr h _ d a b | .sar h _ d a b
  | .rol h _ d a b | .fadd h _ _ d a b | .fsub h _ _ d a b | .fmul h _ _ d a b | .fmin h _ _ d a b | .fmax h _ _ d a b =>
      { h := h, word := w, src := [a, b], dst := [d] }
  | .addi h _ _ d a _ | .neg h _ _ d a | .abs h _ _ d a | .andi h _ d a _ | .ori h _ d a _ | .xori h _ d a _
  | .shli h _ d a _ | .shri h _ d a _ | .sari h _ d a _ | .clz h _ d a | .ctz h _ d a | .popc h _ d a | .bfx h d a _
  | .sext h _ d a | .zext h _ d a | .mov h _ d a | .lea h d a _ _ | .hold h d a _ | .pushr h d a =>
      { h := h, word := w, src := [a], dst := [d] }
  | .bfi h d a _ =>
      { h := h, word := w, src := [d, a], dst := [d] }
  | .movi h d _ | .amxrd h d | .segrd h _ d _ | .popr h d | .splitr h d =>
      { h := h, word := w, dst := [d] }
  | .movhi h d _ =>
      { h := h, word := w, src := [d], dst := [d] }
  | .sel h d a b _ =>
      { h := h, word := w, src := [a, b], dst := [d], rdP := true }
  | .cmp h _ _ _ a b | .fcmp h _ _ _ a b =>
      { h := h, word := w, src := [a, b] }
  | .dpat h a b =>
      { h := h, word := w, src := [a, b], access := true }
  | .cmpi h _ _ _ a _ | .upret h a =>
      { h := h, word := w, src := [a] }
  | .pand h _ _ _ | .por h _ _ _ | .pxor h _ _ _ | .pandn h _ _ _ =>
      { h := h, word := w, rdP := true }
  | .mfp h d =>
      { h := h, word := w, dst := [d], rdP := true }
  | .mtp h a | .mts h a _ =>
      { h := h, word := w, src := [a], chg := true }
  | .mfs h d n =>
      { h := h, word := w, dst := [d], rdS := [n.toNat] }
  | .ffma h _ _ d a b c =>
      { h := h, word := w, src := [a, b, c], dst := [d] }
  | .fcvt h _ d a | .amxsw h d a =>
      { h := h, word := w, src := [a], dst := [d], chg := true }
  | .vadd h _ d a b | .vsub h _ d a b | .vmul h _ d a b | .vmin h _ d a b | .vmax h _ d a b | .vand h d a b | .vor h d a b
  | .vxor h d a b | .vshl h _ d a b | .vshr h _ d a b | .vsar h _ d a b =>
      { h := h, word := w, src := vgSrc b, vsrc := a :: vgVec b, vdst := [d] }
  | .vfma h _ d a b c =>
      { h := h, word := w, src := vgSrc b, vsrc := a :: c :: vgVec b, vdst := [d] }
  | .vabs h _ d a | .vneg h _ d a | .vcvt h _ d a =>
      { h := h, word := w, vsrc := [a], vdst := [d] }
  | .vcmp h _ _ d a b =>
      { h := h, word := w, src := vgSrc b, dst := [d], vsrc := a :: vgVec b }
  | .vsel h _ d a b c =>
      { h := h, word := w, src := [c], vsrc := [a, b], vdst := [d] }
  | .vbc h _ d a =>
      { h := h, word := w, src := [a], vdst := [d] }
  | .vget h _ d a _ =>
      { h := h, word := w, dst := [d], vsrc := [a] }
  | .vput h _ d a _ =>
      { h := h, word := w, src := [a], vsrc := [d], vdst := [d] }
  | .vperm h _ d a b =>
      { h := h, word := w, vsrc := [a, b], vdst := [d], span := some i }
  | .vred h _ _ d a =>
      { h := h, word := w, dst := [d], vsrc := [a], span := some i }
  | .vdot h _ d a b =>
      { h := h, word := w, dst := [d], vsrc := [a, b], span := some i }
  | .vqnt h _ _ d a b =>
      { h := h, word := w, src := [b], vsrc := [a], vdst := [d], chg := true }
  | .vdeq h _ d a b =>
      { h := h, word := w, src := [b], vsrc := [a], vdst := [d], rdS := [13] }
  | .vld h m d a =>
      { h := h, word := w, src := [a], vdst := [d], self := m.ord == .rel, rel := m.ord == .rel, long := true, cls := memClass m.rx, access := true }
  | .vst h m d a =>
      { h := h, word := w, src := [a], vsrc := [d], self := m.ord == .rel, rel := m.ord == .rel, long := true, cls := memClass m.rx, access := true }
  | .vldf h m d a =>
      { h := h, word := w, src := [a], vdst := [d], rdS := [13], long := true, cls := memClass m.rx, access := true }
  | .vstf h m d a =>
      { h := h, word := w, src := [a], vsrc := [d], long := true, cls := memClass m.rx, access := true }
  | .vldx h m d a =>
      { h := h, word := w, vsrc := [a], vdst := [d], long := true, cls := memClass m.rx, access := true }
  | .vstx h m d a =>
      { h := h, word := w, vsrc := [a, d], long := true, cls := memClass m.rx, access := true }
  | .sfn h _ d a b _ =>
      { h := h, word := w, src := [a, b], dst := [d], chg := true, long := true, rdS := [13] }
  | .ld h m d a | .lds h m d a =>
      { h := h, word := w, src := [a], dst := [d], self := m.ord == .rel, rel := m.ord == .rel, long := true, cls := memClass m.rx, access := true }
  | .st h m d a | .stf h m d a =>
      { h := h, word := w, src := [a, d], self := m.ord == .rel, rel := m.ord == .rel, long := true, cls := memClass m.rx, access := true }
  | .ldf h m d a | .lde h m d a =>
      { h := h, word := w, src := [a], dst := [d], self := true, rel := m.ord == .rel, long := true, cls := memClass m.rx, access := true }
  | .stfe h m d a =>
      { h := h, word := w, src := [a, d], self := true, rel := m.ord == .rel, long := true, cls := memClass m.rx, access := true }
  | .clrf h m a =>
      { h := h, word := w, src := [a, .z], self := m.ord == .rel, rel := m.ord == .rel, long := true, cls := memClass m.rx, access := true }
  | .amo h _ m d a b | .amof h _ m d a b =>
      { h := h, word := w, src := [a, b], dst := [d], self := m.ord == .rel, rel := m.ord == .rel, long := true, cls := memClass m.rx, access := true }
  | .cas h m d a b c =>
      { h := h, word := w, src := [a, b, c], dst := [d], self := m.ord == .rel, rel := m.ord == .rel, long := true, cls := memClass m.rx, access := true }
  | .fence h _ sc =>
      { h := h, word := w, self := true, rel := sc == .dev }
  | .swarm h d a b =>
      { h := h, word := w, src := [a, b], dst := [d], self := true, rel := true, long := true, cls := .ordered, access := true }
  | .swadd h a b =>
      { h := h, word := w, src := [a, b], self := true, rel := true, long := true, cls := .ordered, access := true }
  | .swwait h a b =>
      { h := h, word := w, src := [a, b], self := true, long := true, cls := .ordered, access := true }
  | .swrd h d a =>
      { h := h, word := w, src := [a], dst := [d], long := true, cls := .ordered, access := true }
  | .segld h _ a =>
      { h := h, word := w, src := [a], self := true, long := true, cls := .ordered, access := true }
  | .segst h a _ =>
      { h := h, word := w, src := [a], long := true, cls := .ordered, access := true }
  | .tst h _ _ _ a b | .tld h _ _ a b | .tset h _ _ a b =>
      { h := h, word := w, src := [a, b], long := true, access := true }
  | .msset h _ a b =>
      { h := h, word := w, src := [a, b], self := true }
  | .msrd h _ d =>
      { h := h, word := w, dst := [d], self := true, long := true }
  | .mmar h _ _ a b =>
      { h := h, word := w, vsrc := quad a ++ quad b, long := true, access := true }
  | .tget h _ _ d a | .cqry h d a _ | .nqry h d a _ | .kabs h d a | .nsend h _ d a | .nread h _ d a | .nwrite h _ d a | .nrecv h _ d a =>
      { h := h, word := w, src := [a], dst := [d], long := true, access := true }
  | .aref h a | .arel h a =>
      { h := h, word := w, src := [a], self := true, chg := true }
  | .acall h d a =>
      { h := h, word := w, src := [a], dst := [d], self := true, chg := true, ctl := true }
  | .post h d a b _ =>
      { h := h, word := w, src := [a, b], dst := [d], self := true, rel := true, chg := true, long := true }
  | .spawn h d a b imm =>
      { h := h, word := w, src := a :: b :: spawnArgs imm, dst := [d], self := true, rel := true }
  | .illegalEncoding .. | .resultReturn .. | .strandWake .. | .waitExpiry .. | .idleSlotSearch .. | .fetchFill ..
  | .portWordArrive .. | .creditReturn .. | .postArrive .. | .engineMessageDeliver .. | .faultMessageDeliver ..
  | .bankTransaction .. | .overflowRetry .. | .translationWalk .. | .barrierArrival .. | .holdDecrement ..
  | .stealPerform .. | .preemptRequest .. | .preemptSave .. | .resumeRequest .. | .coreResume .. | .launchAccept ..
  | .placement .. | .gatheringRetire .. | .copyAccept .. | .copyChunk .. | .copyComplete .. | .binderyEnqueue ..
  | .taskStart .. | .taskPartComplete .. | .selectionAccept .. | .selectRun .. | .gatherEntry .. | .embAccept ..
  | .chipPartial .. | .bagWrite .. | .specAccept .. | .specRun .. | .netAccept .. | .packetReceive .. | .ackReceive ..
  | .retransmitTimeout .. | .pageRequestForward .. | .svcVersion .. | .svcResume .. | .svcKill .. | .svcPage ..
  | .svcCounts .. | .curatorSwitchEnd .. | .tlbiTakesEffect .. | .remotekeyRefusal .. | .uncorrectableError ..
  | .powerOn .. | .rootSelfTestEnd .. | .functionReport .. | .thermalShutdown .. | .loadCode .. | .map .. | .unmap ..
  | .hostRead .. | .hostWrite .. | .hostLaunch .. | .hostPreempt .. | .answerPageRequest .. | .query ..
  | .repeatSelfTest .. | .identityKey .. | .deviceIdentifier .. | .temperaturePower .. | .firmwareUpdate ..
  | .attestationQuote ..
  | .unknownCommand .. => { h := { sw := false, emA := false, emB := false, emC := false, pr := 0, pn := false }, word := w }

/-- An executing instruction has all it must wait for: its strand's remote stores (R196, R208), a credit for a write port
(R165), the word of a read port, which is popped (R166). -/
def operandsReady (f : Form) (c : Ctx) (landed : Bool) : Option Ctx :=
  if f.rel && c.s.farStores c.t.uid then none
  else match f.push with
    | some p => if !f.long && c.s.credits (c.s.portQ c.t c.slot p) == 0 then none else some c
    | none => match f.pop with
      | none => some c
      | some p => (c.s.popPort c.core c.slot c.t p).map fun r => c.take landed r.1 r.2

/-- The context in which the instruction's own effect takes place, on the strand of `c` after any landing: its predicate is
true (R31), and its window, ports and registers pass the checks of issue (R30, R107, R169, R177). -/
def executesIn (f : Form) (c : Ctx) (landed : Bool) : Option Ctx :=
  if !c.s.predTrue f c.t then none
  else if ((c.settle f).checks f).isSome then none
  else operandsReady f ((c.settle f).repair f) landed

/-- The context in which an instruction of form `f` executes in the slot whose turn it is; none where it parks, faults at
issue, or its predicate is false (R31, R73, R76). -/
def enters (f : Form) (s : State) : Option Ctx :=
  match s.clk.cur with
  | none => none
  | some (core, slot) => match s.strand core slot with
    | none => none
    | some t =>
      if s.switches f t then
        if !t.outstanding.isEmpty || t.faulted.isSome || (s.pushShort t).isSome then none
        else executesIn f { s := (s.land core slot t).1, core := core, slot := slot, t := { (s.land core slot t).2 with atSwitch := false }, word := f.word } true
      else executesIn f { s := s, core := core, slot := slot, t := t, word := f.word } false

/-- The state after an instruction that executed and falls through: the strand is back in its slot, one instruction further
(R91, R94). -/
def Ctx.done (c : Ctx) : State := c.s.after c.core c.slot { c.t.issued with pc := nextPc c.t.pc }

/-- The state after a control transfer to `pc`. -/
def Ctx.gone (c : Ctx) (pc : Nat) : State := c.s.after c.core c.slot { c.t.issued with pc := pc }

/-- The state and its strand when a word of form `f` is issued in a slot: at a switch point, what is held has landed (R73, R74). -/
def State.landsAt (s : State) (f : Form) (core slot : Nat) (t : Strand) : State × Strand :=
  if s.switches f t then ((s.land core slot t).1, { (s.land core slot t).2 with atSwitch := false }) else (s, t)

/-- The state after a blocking instruction has issued: its strand is parked until operation `id` has landed (R188). -/
def Ctx.blocked (c : Ctx) (id : Nat) : State := c.s.after c.core c.slot { c.t.issued with run := .parked (.op id), prog := 1 }

/-- Wherever instruction `i` executes in a context `c` with `p c`, it completes in the state `out c`. -/
def Completes (i : Instr) (p : Ctx → Prop) (out : Ctx → State) : Prop :=
  ∀ s c, enters (formOf i) s = some c → p c → exec i s = .next (out c)

/-- Wherever instruction `i` executes in a context `c` with `p c`, it takes the fault `e c` at issue, with its pc at
the instruction (R398, R400). The word of a read port stays in its queue: `c0` is the context before the pop. -/
def FaultsAtIssue (i : Instr) (p : Ctx → Prop) (e : Ctx → FaultInfo) : Prop :=
  ∀ s c, enters (formOf i) s = some c → p c → ∃ c0 : Ctx, c0.core = c.core ∧ c0.slot = c.slot ∧ c0.t.pc = c.t.pc ∧
    ((formOf i).pop = none → c0 = c) ∧ exec i s = .next (c0.s.faultAtIssue c0.core c0.slot c0.t (e c) c0.word)

/-- Wherever instruction `i` executes in a context `c` with `p c`, it takes the fault `e c` at issue, with its pc at the instruction, and the
effects by which `out c` differs from `c` stay (R94, R96, R97); where a fault of an earlier access goes first, it has had none (R76). -/
def FaultsAfter (i : Instr) (p : Ctx → Prop) (out : Ctx → Ctx) (e : Ctx → FaultInfo) : Prop :=
  ∀ s c, enters (formOf i) s = some c → p c → ∃ c0 : Ctx, c0.core = c.core ∧ c0.slot = c.slot ∧ c0.t.pc = c.t.pc ∧
    ((formOf i).pop = none → c0 = c) ∧ exec i s = .next (if c0.t.faulted.isSome then c0.s.faultAtIssue c0.core c0.slot c0.t (e c) c0.word
      else (out c).s.faultAtIssue (out c).core (out c).slot (out c).t (e c) (out c).word)

/-- No condition on the context. -/
def anyCtx (_ : Ctx) : Prop := True

/-- The state after an instruction whose general result, with flags, is a function of one or of two general sources. -/
def Ctx.one (c : Ctx) (d a : GOp) (f : Nat → Nat × FlagWord) : State :=
  (c.put d (ofN (f (c.g a).toNat).1) (f (c.g a).toNat).2).done
def Ctx.two (c : Ctx) (d a b : GOp) (f : Nat → Nat → Nat × FlagWord) : State :=
  (c.put d (ofN (f (c.g a).toNat (c.g b).toNat).1) (f (c.g a).toNat (c.g b).toNat).2).done

/-- The state after a vector instruction with this result and these flags. -/
def Ctx.vecPut (c : Ctx) (d : Fin 16) (r : Vec × FlagWord) : State := (c.putV d r.1 r.2).done

/-- The state after a vector instruction that acts on each element of vA, and of field B. -/
def Ctx.vecOne (c : Ctx) (f : Fmt) (d a : Fin 16) (g : Nat → Nat × FlagWord) : State :=
  c.vecPut d (mapElems f g (elems f (c.v a).toNat))
def Ctx.vecTwo (c : Ctx) (f : Fmt) (d a : Fin 16) (b : VG) (g : Nat → Nat → Nat × FlagWord) : State :=
  c.vecPut d (mapElems f (fun p : Nat × Nat => g p.1 p.2) ((elems f (c.v a).toNat).zip (c.vb f b)))

/-- All 512 bits of field B: a register, or 64 bits repeated eight times (R135). -/
def Ctx.vbits (c : Ctx) : VG → Vec
  | .v r => c.v r
  | .g r => BitVec.ofNat 512 (packN 64 (List.replicate 8 (c.g r).toNat))

/-- The state after `wait` has put the next issue off. -/
def Ctx.rested (c : Ctx) (n : Nat) : State :=
  c.s.after c.core c.slot { c.t.issued with pc := nextPc c.t.pc, run := .waiting n }

/-- The state after a `yield` that gives up its slot: collation has ended at the strand, and it is a READY slip whose pc is the next
word, at the tail of its run list (R100, R152). -/
def Ctx.yielded (c : Ctx) : State :=
  let pa := c.t.slip - Config.areaVA
  (((c.s.endCollation c.t).saveStrand c.core c.slot c.t.issued.alone (nextPc c.t.pc) 1 0 0
    { vol := c.t.vol, pa := pa }).1.appendRun c.t.home c.t.prio c.t.vol pa).pushNew .placement

/-- Nothing of the strand's registers, predicates or special registers fails (R106). -/
def Strand.sound (t : Strand) : Prop := t.bad = [] ∧ t.predBad = false ∧ t.sregBad = []

/-- A bound strand outside a group may collate with `n` roles (R147). -/
def Ctx.mayCollate (c : Ctx) (n : Nat) : Prop :=
  c.t.free = false ∧ c.slot ≠ 63 ∧ c.t.group = 0 ∧ n * (c.t.role / n) + n ≤ c.s.coreCount c.t ∧
    ∃ g, c.s.gathering c.t.vol c.t.gidx = some g ∧ shapeCol g.shape ≠ 0 ∧ n ≤ 2 ^ shapeCol g.shape

/-- The gathering's shape has no barrier `b` (R364). -/
def Ctx.barrierNone (c : Ctx) (b : Nat) : Prop :=
  ∃ g, c.s.gathering c.t.vol c.t.gidx = some g ∧ shapeNbar g.shape ≤ b

/-- The state after a retirement: the member is RETIRED, its accession is no longer executed by it, and it parks (R373). -/
def Ctx.retiredTo (c : Ctx) (g : Gathering) (succ : Option Word) (block : List Word) : State :=
  let s1 := c.s.setGathering { g with
    members := mapIf (fun m => m.role == c.t.role && m.lane == c.t.lane) (fun m => { m with st := .retired }) g.members,
    retires := true, succ := succ, block := block }
  let s2 := (s1.bumpExec c.t.vol c.t.acc (-1)).setStrand c.core c.slot { c.t.issued with run := .parked .retired, acc := none }
  (s2.pokeBarriers c.t.vol c.t.gidx).checkGathering c.t.vol c.t.gidx

/-- The state after an engine instruction has sent its request to a unit of its cluster, to the circulation unit, or to the
network engine: one outstanding operation for the status, and the request with the strand's segment registers. -/
def Ctx.unitSent (c : Ctx) (d : GOp) (kind : ReqKind) (a : Word) (b : Option Word) (imm : Nat) : State :=
  ((c.request d kind a b imm).2.sendReq (c.request d kind a b imm).1).done
def Ctx.circSent (c : Ctx) (d : GOp) (kind : ReqKind) (a : Word) (b : Option Word) (imm : Nat) : State :=
  let r := c.request d kind a b imm
  Ctx.done { r.2 with s := State.push { r.2.s with circ := { r.2.s.circ with reqs := r.2.s.circ.reqs ++ [r.1] } } (r.1.event 0) }
def Ctx.netSent (c : Ctx) (d : GOp) (kind : ReqKind) (a : Word) (imm : Nat) : State :=
  let r := c.request d kind a none imm
  Ctx.done { r.2 with s := State.push { r.2.s with net := { r.2.s.net with reqs := r.2.s.net.reqs ++ [r.1] } } (r.1.event 0) }

/-- The state after a direct tile instruction has been sent to its tile (R279). -/
def Ctx.tileSent (c : Ctx) (d : Dest) (tile : Nat) (act : TileAct) : State :=
  let r := c.op d
  let k := r.2.s.core c.core
  let s1 := r.2.s.setCore c.core { k with tileOps := k.tileOps ++ [{ id := r.1, iss := c.issuer, tile := tile, act := act }] }
  Ctx.done { r.2 with s := s1.push (.resultReturn c.core c.slot r.1) }

/-- The state after a message with an outstanding operation has been sent from this slot. -/
def Ctx.messageSent (c : Ctx) (d : GOp) (dst : Nat) (k : Nat → MsgKind) : State :=
  let r := c.op (c.dest d)
  Ctx.done { r.2 with s := r.2.s.sendMsg c.core c.slot dst (k r.1) }

/-- A sync-word operand passes: `z`, or a pointer whose checks pass (R231), into no segment type that the engine does not admit (R180). -/
def Ctx.syncOk (c : Ctx) (b : GOp) (out : List Nat := []) : Prop := b = .z ∨ ∃ r, c.enginePtr (c.g b) 8 (rW + rF + rE) 8 out = .ok r

/-- The sync-word operand as the request carries it. -/
def Ctx.syncWord (c : Ctx) (b : GOp) : Option Word := if b = .z then none else some (c.g b)

/-- The issuer is a free strand, or another strand owns a tile of the mask (R254). -/
def Ctx.tileForeign (c : Ctx) (mask : Nat) : Prop :=
  c.t.free = true ∨ ∃ i < 16, bitN mask i = true ∧ ((c.s.core c.core).tile i).conf = true ∧ ((c.s.core c.core).tile i).ownedBy c.t = false

/-- A tile of the mask is not configured (R254). -/
def Ctx.tileUnset (c : Ctx) (mask : Nat) : Prop := ∃ i < 16, bitN mask i = true ∧ ((c.s.core c.core).tile i).conf = false

/-- New tiles overlap each other or a tile outside the mask (R274). -/
def Ctx.tilesClash (c : Ctx) (m : Nat) (new : List (Nat × Tile)) : Bool :=
  let rest := ((List.range 16).filter fun i => !bitN m i && ((c.s.core c.core).tile i).conf).map (c.s.core c.core).tile
  new.any fun x => (new.any fun y => x.1 != y.1 && tilesOverlap x.2 y.2) || rest.any (tilesOverlap x.2)

/-- The strand whose turn it is has not parked in this instruction, and no task is pending on the tiles of the mask. -/
def noTaskPending (s : State) (mask : Nat) : Prop :=
  ∃ core slot t, s.clk.cur = some (core, slot) ∧ s.strand core slot = some t ∧ t.prog ≠ 2 ∧ s.tilePending core t.uid mask = false ∧ s.tilePutBack core mask = false

/-- The state after `act` on every configured tile of a mask (R275, R278). -/
def Ctx.tilesDone (c : Ctx) (mask : Nat) (act : Core → Nat → Core) : State :=
  let k := ((List.range 16).filter (bitN mask)).foldl (fun (k : Core) i => if (k.tile i).conf then act k i else k) (c.s.core c.core)
  Ctx.done { c with s := (c.s.setCore c.core k).pushNew (.taskStart (clusterOf c.core)), t := { c.t with prog := 0 } }

/-- The context of an `acall` to entry `i` when the counts have changed, cached words of the routine are dropped and the
return link is written (R333). -/
def Ctx.called (c : Ctx) (d : GOp) (i : Nat) (e : Entry) (link : Bool) : Ctx :=
  let ci := c.t.acc.getD 0
  let cur := (c.s.spaceOf c.t.vol).entry ci
  let s1 := if link then c.s else c.s.bumpExec c.t.vol (some i) 1
  let s2 := if link || d == .z then s1.bumpExec c.t.vol c.t.acc (-1) else s1
  Ctx.put { c with s := s2.dropCode c.core e.base e.size } d
    (ofN (cur.gen * 2 ^ 48 + 8 * 2 ^ 44 + ci * 2 ^ 32 + ((c.t.pc - cur.base) / 8 + 1) % 2 ^ 32))

/-- The state after a `spawn` without a hold: a READY slip on the strand's own core, which runs at the code point (R369). -/
def Ctx.spawned (c : Ctx) (d : GOp) (v : Volume) (i off : Nat) (imm : BitVec 16) : State :=
  let e := (c.s.spaceOf v.id).entry i
  let r := c.s.newSlip v (imm.toNat % 8) c.core (imm.toNat / 8 % 16) c.t.gidx (e.base + 8 * off) 0 1 (codeDesc e :: c.t.sregs.drop 1)
    (if imm.getLsbD 7 then (List.range 8).map c.t.g else []) (some i)
  (Ctx.put { c with s := (r.2.dropCode c.core e.base e.size).dropCode c.core e.base e.size } d (ofN (Config.areaVA + r.1))).done

/-- The state after a `spawn` behind a hold, on the hold's core: a NEW slip that the hold keeps, or a READY one where the hold
is not live (R369). -/
def Ctx.spawnedBehind (c : Ctx) (d : GOp) (v : Volume) (i off : Nat) (imm : BitVec 16) (hold : Word) (live : Bool) : State :=
  let e := (c.s.spaceOf v.id).entry i
  let k := handleCore hold
  let r := c.s.newSlip v (imm.toNat % 8) k (imm.toNat / 8 % 16) c.t.gidx (e.base + 8 * off) (0xFF0000000000 + k * 4096 + handleIdx hold * 4)
    (if live then 0 else 1) (codeDesc e :: c.t.sregs.drop 1) (if imm.getLsbD 7 then (List.range 8).map c.t.g else []) (some i)
  let keep (x : Hold) : Hold := { x with slips := x.slips ++ [r.1] }
  let s1 := if live then r.2.setCore k { r.2.core k with holds := mapIf (·.idx == handleIdx hold) keep (r.2.core k).holds } else r.2
  (Ctx.put { c with s := (s1.dropCode c.core e.base e.size).dropCode k e.base e.size } d (ofN (Config.areaVA + r.1))).done

/-- The state after a service call has been sent to the curator: the strand parks until the call is answered (R408). -/
def Ctx.svcSent (c : Ctx) (d : GOp) (n : BitVec 16) (va : Nat) (res : Option Nat) : State :=
  let r := c.op (c.dest d)
  let k := clusterOf c.core
  let x : SvcCall := { id := r.1, uid := c.t.uid, core := c.core, slot := c.slot, vol := c.t.vol, n := n.toNat, arg := va, res := res }
  let s1 := r.2.s.setCluster k { r.2.s.cluster k with svcs := (r.2.s.cluster k).svcs ++ [x] }
  (s1.push (svcEvent n.toNat c.core c.slot)).setStrand c.core c.slot { r.2.t.issued with run := .parked (.svc r.1), prog := 1 }

/-- The state after `emr` has read `v`: a held result, which lands at the next switch point (R406). -/
def Ctx.heldDone (c : Ctx) (d : GOp) (v : Word) : State :=
  ((c.op (c.dest d)).2.setOp (c.op (c.dest d)).1 fun o => { o with stage := .held, val := v.setWidth 512 }).done

/-! ## Steps that are no instruction words -/

/-- A message on the register network whose frame has come (R162). -/
def dueMsg (s : State) (m : Msg) : Prop := s.fab.msgs.find? (·.id == m.id) = some m ∧ m.due ≤ s.clk.frame

/-- The network without this message. -/
def State.took (s : State) (id : Nat) : State := { s with fab := { s.fab with msgs := s.fab.msgs.filter (·.id != id) } }

/-- An engine's message has been delivered into the inbox of its core, or the returns queue of a core that is out (R174). -/
def State.engDelivered (s : State) (m : EngMsg) : State :=
  State.deliver { s with fab := { s.fab with eng := s.fab.eng.filter (·.id != m.id) } } m.core
    { vol := m.vol, lane := m.lane, src := m.src, from_ := m.core, frame := s.clk.frame, word := m.word, held := m.held }

/-- An engine's message that could not be delivered stays, marked as one that has been held (R174). -/
def State.engHeld (s : State) (m : EngMsg) : State :=
  { s with fab := { s.fab with eng := mapIf (·.id == m.id) (fun x => { x with held := true }) s.fab.eng } }

/-- The other engine messages of one inbox are to be tried (R174). -/
def State.nextHeld (s : State) (core vol : Nat) : State :=
  (s.engFor core vol).foldl (fun s x => s.pushNew (.engineMessageDeliver x.id)) s

/-- An access whose next part is ready at the local key `k`: not failed, waiting or out, every part in its place and in reach, and no
earlier access of its strand holds it back (R196) or has failed before it at the same word. -/
def atBank (s : State) (f : Flight) (p : Part) (k : Nat) : Prop :=
  s.flights.find? (·.id == f.id) = some f ∧ f.parts[f.k]? = some p ∧ p.key = some k ∧ p.far = none ∧ f.failed = false ∧
    f.joined = none ∧ f.spill = none ∧ f.out = false ∧ s.failedBefore f.uid f.id (s.behind f) = none ∧ s.heldBack f = false ∧
    f.unplaced = none ∧ (f.k = 0 → s.partsFault f = none) ∧ s.keyFenced k = false

/-- No store of this access reaches a conflict filter (R193): it is a free strand's, or its volume does not ask for them. -/
def unfiltered (s : State) (f : Flight) : Prop := f.bound = false ∨ ((s.volume f.vol).map Volume.det).getD false = false

/-- A request that a unit of its cluster takes up: it waits there, what it named has been written, and the unit has reported. -/
def takesReq (s : State) (k : Nat) (unit : FuncKind) (r : Req) : Prop :=
  (s.cluster k).reqs.find? (·.id == r.id) = some r ∧ s.reqReady r = true ∧ s.unitUp unit k = true

/-- The network engine without this request. -/
def State.tookNet (s : State) (id : Nat) : State := { s with net := { s.net with reqs := s.net.reqs.filter (·.id != id) } }

/-- A `tenq` that its bindery, the one of cluster `b`, takes up (R262). -/
def takesTask (s : State) (k b : Nat) (r : Req) : Prop :=
  (s.cluster k).reqs.find? (·.id == r.id) = some r ∧ s.reqReady r = true ∧ b = s.binderyOf k r.iss ∧ s.unitUp .bind b = true

/-- The cluster without this request. -/
def State.tookReq (s : State) (k id : Nat) : State := s.setCluster k { s.cluster k with reqs := (s.cluster k).reqs.filter (·.id != id) }

/-- The block of a `spec` request, doubleword by doubleword (R337). -/
def State.specBlock (s : State) (k : Nat) (r : Req) : List (Option Word) := (List.range 8).map fun i => s.blockDw k r.iss (r.b.getD 0) i

/-- The values of that block, as its checks read them. -/
def State.specDws (s : State) (k : Nat) (r : Req) (i : Nat) : Word := ((s.specBlock k r).getD i none).getD 0

/-- The early values of a `spec` request. -/
def State.specEarly (s : State) (k : Nat) (r : Req) : List (Option Word) :=
  (List.range (specN (s.specDws k r))).map fun i => s.blockDw k r.iss (r.b.getD 0) (8 + i)

/-- A `spec` request taken: a reference to its source is kept, the operation is queued, 0 is the status (R338). -/
def State.takeSpec (s : State) (k : Nat) (r : Req) (src : Nat) : State :=
  let o : SpecOp := { id := r.id, iss := r.iss, ptr := r.b.getD 0, tag := r.imm, dws := (s.specBlock k r).map fun x => x.getD 0,
                      early := (s.specEarly k r).map fun x => x.getD 0, src := src }
  let s2 := s.setSpace ((s.spaceOf r.iss.vol).bump src 1 0)
  ((s2.setCluster k { s2.cluster k with specs := (s2.cluster k).specs ++ [o] }).status r.iss r.id 0).startSpec k

/-- A service call that the curator takes and whose blocks it can reach: its argument words are `ws` (R408). -/
def svcTaken (s : State) (core slot n : Nat) (x : SvcCall) (s1 : State) (ws : List Word) : Prop :=
  (s.cluster (clusterOf core)).svcs.find? (fun y => y.core == core && y.slot == slot && y.n == n && !y.taken) = some x ∧
    s.unitFenced .curator (clusterOf core) = false ∧ s.unitUp .curator (clusterOf core) = true ∧
    (s.cluster (clusterOf core)).switch = none ∧ s.svcArg (clusterOf core) x = .words s1 ws ∧ s1.svcResBad (clusterOf core) x = none

/-- A call that is executed where it arrives (R394, R415): the root of trust has passed its self-test, the call came over the
management port or over a port that is up, no earlier call of its session is unanswered, and its arguments are of its command. -/
def State.hears (s : State) (c : Call) : Prop :=
  s.root.st = .passed ∧ (c.mgmt = true ∨ s.portsUp c = true) ∧ s.callBusy c = false ∧ c.argsOk = true

/-- A packet that the network engine takes (R387): its port and the engine are up, its peer's entry valid. -/
def takesPacket (s : State) (p : Packet) : Prop :=
  s.isReady .net 0 = true ∧ s.isFenced .net 0 = false ∧ s.isReady .port p.port = true ∧ s.isFenced .port p.port = false ∧ (s.peer p.peer).valid = true

/-! ## Register-only instructions, by destination -/

/-- The general destination of an instruction that only computes it: the integer, bit, move and predicate-reading
instructions of R113 to R120, the scalar floating-point instructions of R123 to R128, and the vector instructions with a
general result that do not span a group. -/
def destG : Instr → Option GOp
  | .add _ _ _ d _ _ | .sub _ _ _ d _ _ | .mul _ _ _ d _ _ | .mulh _ _ d _ _ | .mulhu _ _ d _ _ | .min _ _ d _ _ | .max _ _ d _ _
  | .minu _ _ d _ _ | .maxu _ _ d _ _ | .and _ _ d _ _ | .or _ _ d _ _ | .xor _ _ d _ _ | .andn _ _ d _ _ | .shl _ _ d _ _ | .shr _ _ d _ _
  | .sar _ _ d _ _ | .rol _ _ d _ _ | .fadd _ _ _ d _ _ | .fsub _ _ _ d _ _ | .fmul _ _ _ d _ _ | .fmin _ _ _ d _ _ | .fmax _ _ _ d _ _
  | .addi _ _ _ d _ _ | .neg _ _ _ d _ | .abs _ _ _ d _ | .andi _ _ d _ _ | .ori _ _ d _ _ | .xori _ _ d _ _ | .shli _ _ d _ _ | .shri _ _ d _ _
  | .sari _ _ d _ _ | .clz _ _ d _ | .ctz _ _ d _ | .popc _ _ d _ | .sext _ _ d _ | .zext _ _ d _ | .mov _ _ d _
  | .movi _ d _ | .movhi _ d _ | .sel _ d _ _ _ | .mfp _ d | .mfs _ d _ | .ffma _ _ _ d _ _ _ | .lea _ d _ _ _ | .bfx _ d _ _ | .bfi _ d _ _
  | .vcmp _ _ _ d _ _ | .vget _ _ d _ _ => some d
  | _ => none

/-- The vector destination of an instruction that only computes it. -/
def destV : Instr → Option (Fin 16)
  | .vadd _ _ d _ _ | .vsub _ _ d _ _ | .vmul _ _ d _ _ | .vmin _ _ d _ _ | .vmax _ _ d _ _ | .vand _ d _ _ | .vor _ d _ _ | .vxor _ d _ _
  | .vshl _ _ d _ _ | .vshr _ _ d _ _ | .vsar _ _ d _ _ | .vfma _ _ d _ _ _ | .vabs _ _ d _ | .vneg _ _ d _ | .vsel _ _ d _ _ _
  | .vbc _ _ d _ | .vput _ _ d _ _ => some d
  | _ => none

/-- The predicate destination of an instruction that only computes it. -/
def destP : Instr → Option (Fin 16)
  | .cmp _ _ _ d _ _ | .cmpi _ _ _ d _ _ | .fcmp _ _ _ d _ _ | .pand _ d _ _ | .por _ d _ _ | .pxor _ d _ _ | .pandn _ d _ _ => some d
  | _ => none

/-- The state apart from the strand in one slot: everything else of the module. -/
def State.elsewhere (s : State) (core slot : Nat) : State := { s with strands := adel s.strands (core, slot) }

/-- Two strands differ at most in general registers and their parity, raised flags, pc, issue counts and what they hold pending. -/
def Strand.sameButResult (t u : Strand) : Prop :=
  { u with regs := t.regs, bad := t.bad, noDup := t.noDup, fflg := t.fflg, pc := t.pc, cnt := t.cnt, colN := t.colN, ops := t.ops } = t

/-! ## A program's orderings -/

/-- The events that R227 speaks of: 0 and 1 the initial x and cnt; A's stores 2 (x) and 3 (cnt, a release); B's increment 4 and 5; C1, 6;
D's reads 7 (cnt, an acquire) and 8 (x). `plain` is C1's ordering; B reads cnt from `b`, D reads cnt from C1 and x from `x`. -/
def releaseSequenceRun (plain : Bool) (b x : Nat) : Candidate :=
  { events := [
      { who := .start, kind := .write, loc := 0 },
      { who := .start, kind := .write, loc := 1 },
      { who := .strand 0 24, kind := .write, loc := 0, ordered := true },
      { who := .strand 0 24, kind := .write, loc := 1, ordered := true, release := true },
      { who := .strand 1 25, kind := .read, loc := 1, pair := some 5 },
      { who := .strand 1 25, kind := .write, loc := 1, pair := some 4 },
      { who := .strand 2 26, kind := .write, loc := 1, ordered := plain },
      { who := .strand 3 27, kind := .read, loc := 1, ordered := true, acquire := true },
      { who := .strand 3 27, kind := .read, loc := 0, ordered := true }]
    rf := [(b, 4, 0xFF), (6, 7, 0xFF), (x, 8, 0xFF)], co := [], s := [] }

end Sys2Proof.Machine
end

