-- ==== Sys2Proof/Certificates/Slice0/Obligations.lean ====
section
/-! DEFINITION. The statements about this machine. Instruction statements speak of a state in which the instruction enters
(`enters`, Safety.lean): the word is the issuing strand's, its predicate is true and its operands are ready. -/

set_option linter.unusedVariables false

open Sys2Proof Sys2Proof.Machine

/-- Integer arithmetic: results and flags (R113, R114). `add`, `addi`, `sub`, `mul`, `neg`, `abs` deliver the exact result
under the overflow mode of the word (wrapped, or clamped with saturate); `mulh`, `mulhu` the high half of the product;
`min`, `max`, `minu`, `maxu` one of the operands. Wherever one of them executes it completes with that result and
those flags. -/
def Obligations.IntegerArithmeticResults : Prop :=
    (∀ h o z d a b, Completes (.add h o z d a b) anyCtx fun c => c.two d a b fun x y => saDeliver o (szN z) (saRead o (szN z) x + saRead o (szN z) y)) ∧
    (∀ h o z d a imm, Completes (.addi h o z d a imm) anyCtx fun c => c.one d a fun x => saDeliver o (szN z) (saRead o (szN z) x + imm.toInt)) ∧
    (∀ h o z d a b, Completes (.sub h o z d a b) anyCtx fun c => c.two d a b fun x y => saDeliver o (szN z) (saRead o (szN z) x - saRead o (szN z) y)) ∧
    (∀ h o z d a b, Completes (.mul h o z d a b) anyCtx fun c => c.two d a b fun x y => saDeliver o (szN z) (saRead o (szN z) x * saRead o (szN z) y)) ∧
    (∀ h o z d a, Completes (.neg h o z d a) anyCtx fun c => c.one d a fun x => saDeliver o (szN z) (-(saRead o (szN z) x))) ∧
    (∀ h o z d a, Completes (.abs h o z d a) anyCtx fun c => c.one d a fun x => saDeliver o (szN z) (sxNat (szN z) x).natAbs) ∧
    (∀ h z d a b, Completes (.mulh h z d a b) anyCtx fun c => c.two d a b fun x y => (wrapN (szN z) (sxNat (szN z) x * sxNat (szN z) y / 2 ^ szN z), 0)) ∧
    (∀ h z d a b, Completes (.mulhu h z d a b) anyCtx fun c => c.two d a b fun x y => ((x % 2 ^ szN z) * (y % 2 ^ szN z) / 2 ^ szN z, 0)) ∧
    (∀ h z d a b, Completes (.min h z d a b) anyCtx fun c => c.two d a b fun x y => (wrapN (szN z) (min (sxNat (szN z) x) (sxNat (szN z) y)), 0)) ∧
    (∀ h z d a b, Completes (.max h z d a b) anyCtx fun c => c.two d a b fun x y => (wrapN (szN z) (max (sxNat (szN z) x) (sxNat (szN z) y)), 0)) ∧
    (∀ h z d a b, Completes (.minu h z d a b) anyCtx fun c => c.two d a b fun x y => (min (x % 2 ^ szN z) (y % 2 ^ szN z), 0)) ∧
    (∀ h z d a b, Completes (.maxu h z d a b) anyCtx fun c => c.two d a b fun x y => (max (x % 2 ^ szN z) (y % 2 ^ szN z), 0))

/-- The overflow modes (R113). An exact integer result is wrapped to n bits under `.wrap`; under `.ss` it is clamped to
the signed range and under `.us` to the unsigned range, and `saturate` rises exactly when the clamp changed it;
wrapping raises no flag. -/
def Obligations.SaturatingDelivery : Prop :=
    (∀ n e, (saDeliver .wrap n e).2 = 0 ∧ ((saDeliver .wrap n e).1 : Int) = e % 2 ^ n) ∧
    (∀ n e, 0 < n → -(2 ^ (n - 1)) ≤ e → e < 2 ^ (n - 1) → (saDeliver .ss n e).2 = 0 ∧ sxNat n (saDeliver .ss n e).1 = e) ∧
    (∀ n e, 0 < n → e < -(2 ^ (n - 1)) → (saDeliver .ss n e).2 = flSaturate ∧ sxNat n (saDeliver .ss n e).1 = -(2 ^ (n - 1))) ∧
    (∀ n e, 0 < n → 2 ^ (n - 1) ≤ e → (saDeliver .ss n e).2 = flSaturate ∧ sxNat n (saDeliver .ss n e).1 = 2 ^ (n - 1) - 1) ∧
    (∀ n e, 0 ≤ e → e < 2 ^ n → (saDeliver .us n e).2 = 0 ∧ ((saDeliver .us n e).1 : Int) = e) ∧
    (∀ n e, e < 0 → saDeliver .us n e = (0, flSaturate)) ∧
    (∀ n e, 2 ^ n ≤ e → saDeliver .us n e = (2 ^ n - 1, flSaturate))

/-- Division and its trap (R114). `div` and `rem` truncate toward zero, `divu` and `remu` are unsigned; a zero divisor
takes the DIV_ZERO task fault at issue and nothing else. -/
def Obligations.IntegerDivision : Prop :=
    (∀ h z d a b, Completes (.div h z d a b) (fun c => (c.g b).toNat % 2 ^ szN z ≠ 0) fun c => (c.put d (ofN (wrapN (szN z) (Int.tdiv (sxNat (szN z) (c.g a).toNat) (sxNat (szN z) (c.g b).toNat))))).done) ∧
    (∀ h z d a b, Completes (.divu h z d a b) (fun c => (c.g b).toNat % 2 ^ szN z ≠ 0) fun c => (c.put d (ofN ((c.g a).toNat % 2 ^ szN z / ((c.g b).toNat % 2 ^ szN z)))).done) ∧
    (∀ h z d a b, Completes (.rem h z d a b) (fun c => (c.g b).toNat % 2 ^ szN z ≠ 0) fun c => (c.put d (ofN (wrapN (szN z) (Int.tmod (sxNat (szN z) (c.g a).toNat) (sxNat (szN z) (c.g b).toNat))))).done) ∧
    (∀ h z d a b, Completes (.remu h z d a b) (fun c => (c.g b).toNat % 2 ^ szN z ≠ 0) fun c => (c.put d (ofN ((c.g a).toNat % 2 ^ szN z % ((c.g b).toNat % 2 ^ szN z)))).done) ∧
    (∀ h z d a b, FaultsAtIssue (.div h z d a b) (fun c => (c.g b).toNat % 2 ^ szN z = 0) fun c => taskFault 0x13) ∧
    (∀ h z d a b, FaultsAtIssue (.divu h z d a b) (fun c => (c.g b).toNat % 2 ^ szN z = 0) fun c => taskFault 0x13) ∧
    (∀ h z d a b, FaultsAtIssue (.rem h z d a b) (fun c => (c.g b).toNat % 2 ^ szN z = 0) fun c => taskFault 0x13) ∧
    (∀ h z d a b, FaultsAtIssue (.remu h z d a b) (fun c => (c.g b).toNat % 2 ^ szN z = 0) fun c => taskFault 0x13)

/-- Bitwise operations, shifts, counts and extensions (R114, R115, R116, R118). Bitwise operations act on n bits; shift
amounts are taken modulo n; `clz` and `ctz` of 0 give n; `sext` fills 64 bits and `zext` and `mov` clear the bits
above n; `bfx` extracts a field. -/
def Obligations.IntegerBitResults : Prop :=
    (∀ h z d a b, Completes (.and h z d a b) anyCtx fun c => c.two d a b fun x y => ((x &&& y) % 2 ^ szN z, 0)) ∧
    (∀ h z d a b, Completes (.or h z d a b) anyCtx fun c => c.two d a b fun x y => ((x ||| y) % 2 ^ szN z, 0)) ∧
    (∀ h z d a b, Completes (.xor h z d a b) anyCtx fun c => c.two d a b fun x y => ((x ^^^ y) % 2 ^ szN z, 0)) ∧
    (∀ h z d a b, Completes (.andn h z d a b) anyCtx fun c => c.two d a b fun x y => (x % 2 ^ szN z &&& (2 ^ szN z - 1 - y % 2 ^ szN z), 0)) ∧
    (∀ h z d a imm, Completes (.andi h z d a imm) anyCtx fun c => c.one d a fun x => ((x &&& immN z imm) % 2 ^ szN z, 0)) ∧
    (∀ h z d a imm, Completes (.ori h z d a imm) anyCtx fun c => c.one d a fun x => ((x ||| immN z imm) % 2 ^ szN z, 0)) ∧
    (∀ h z d a imm, Completes (.xori h z d a imm) anyCtx fun c => c.one d a fun x => ((x ^^^ immN z imm) % 2 ^ szN z, 0)) ∧
    (∀ h z d a b, Completes (.shl h z d a b) anyCtx fun c => c.two d a b fun x y => (x * 2 ^ (y % szN z) % 2 ^ szN z, 0)) ∧
    (∀ h z d a b, Completes (.shr h z d a b) anyCtx fun c => c.two d a b fun x y => (x % 2 ^ szN z / 2 ^ (y % szN z), 0)) ∧
    (∀ h z d a b, Completes (.sar h z d a b) anyCtx fun c => c.two d a b fun x y => (wrapN (szN z) (sxNat (szN z) x / 2 ^ (y % szN z)), 0)) ∧
    (∀ h z d a b, Completes (.rol h z d a b) anyCtx fun c => c.two d a b fun x y => ((x % 2 ^ szN z * 2 ^ (y % szN z)) % 2 ^ szN z + x % 2 ^ szN z * 2 ^ (y % szN z) / 2 ^ szN z, 0)) ∧
    (∀ h z d a imm, Completes (.shli h z d a imm) anyCtx fun c => c.one d a fun x => (x * 2 ^ (imm.toNat % szN z) % 2 ^ szN z, 0)) ∧
    (∀ h z d a imm, Completes (.shri h z d a imm) anyCtx fun c => c.one d a fun x => (x % 2 ^ szN z / 2 ^ (imm.toNat % szN z), 0)) ∧
    (∀ h z d a imm, Completes (.sari h z d a imm) anyCtx fun c => c.one d a fun x => (wrapN (szN z) (sxNat (szN z) x / 2 ^ (imm.toNat % szN z)), 0)) ∧
    (∀ h z d a, Completes (.clz h z d a) anyCtx fun c => c.one d a fun x => (clzN (szN z) x, 0)) ∧
    (∀ h z d a, Completes (.ctz h z d a) anyCtx fun c => c.one d a fun x => (ctzN (szN z) x, 0)) ∧
    (∀ h z d a, Completes (.popc h z d a) anyCtx fun c => c.one d a fun x => (popN (szN z) x, 0)) ∧
    (∀ h d a imm, Completes (.bfx h d a imm) anyCtx fun c => c.one d a fun x => (x / 2 ^ (imm.toNat % 64) % 2 ^ (imm.toNat / 64 % 128), 0)) ∧
    (∀ h z d a, Completes (.sext h z d a) anyCtx fun c => c.one d a fun x => (wrapN 64 (sxNat (szN z) x), 0)) ∧
    (∀ h z d a, Completes (.zext h z d a) anyCtx fun c => c.one d a fun x => (x % 2 ^ szN z, 0)) ∧
    (∀ h z d a, Completes (.mov h z d a) anyCtx fun c => c.one d a fun x => (x % 2 ^ szN z, 0))

/-- Immediates, insertion, segment pointers and selection (R117, R118, R119, R120). `movi` sign-extends its immediate;
`movhi` replaces the high half; `bfi` replaces a field of its destination; `lea` forms a segment pointer; `sel` takes
one of two sources by a predicate register. -/
def Obligations.MovesAndInserts : Prop :=
    (∀ h d imm, Completes (.movi h d imm) anyCtx fun c => (c.put d (ofN (imm.toInt % 2 ^ 64).toNat)).done) ∧
    (∀ h d imm, Completes (.movhi h d imm) anyCtx fun c => (c.put d (ofN (imm.toNat * 2 ^ 32 + (c.g d).toNat % 2 ^ 32))).done) ∧
    (∀ h d a imm s c, enters (formOf (.bfi h d a imm)) s = some c → ∃ v : Word, exec (.bfi h d a imm) s = .next (c.put d v).done ∧
      ∀ k, k < 64 → v.getLsbD k = if imm.toNat % 64 ≤ k ∧ k < imm.toNat % 64 + imm.toNat / 64 % 128
      then (c.g a).getLsbD (k - imm.toNat % 64) else (c.g d).getLsbD k) ∧
    (∀ h d a seg disp, Completes (.lea h d a seg disp) anyCtx fun c => (c.put d (ofN (seg.val * 2 ^ 61 + (c.g a + sx64 disp).toNat % 2 ^ 61))).done) ∧
    (∀ h d a b k, Completes (.sel h d a b k) (fun c => c.t.pred.getLsbD k = true) fun c => (c.put d (c.g a)).done) ∧
    (∀ h d a b k, Completes (.sel h d a b k) (fun c => c.t.pred.getLsbD k = false) fun c => (c.put d (c.g b)).done)

/-- Comparisons and predicate logic (R121, R122, R123, R127). Integer and floating comparisons write one predicate
register; `pand`, `por`, `pxor`, `pandn` combine two; `mfp` reads the predicate word with bit 0 as 1; `mtp` writes it
with bit 0 forced to 1. -/
def Obligations.PredicateResults : Prop :=
    (∀ h cc z d a b, Completes (.cmp h cc z d a b) anyCtx fun c => (c.putP d (ccHolds cc (szN z) (c.g a).toNat (c.g b).toNat)).done) ∧
    (∀ h cc z d a imm, Completes (.cmpi h cc z d a imm) anyCtx fun c => (c.putP d (ccHolds cc (szN z) (c.g a).toNat (immN z imm))).done) ∧
    (∀ h cc f d a b, Completes (.fcmp h cc f d a b) anyCtx fun c => (c.putP d (fpCmp cc ((fpFor f).src (c.g a).toNat) ((fpFor f).src (c.g b).toNat)).1 (fpCmp cc ((fpFor f).src (c.g a).toNat) ((fpFor f).src (c.g b).toNat)).2).done) ∧
    (∀ h d a b, Completes (.pand h d a b) anyCtx fun c => (c.putP d (c.p a && c.p b)).done) ∧
    (∀ h d a b, Completes (.por h d a b) anyCtx fun c => (c.putP d (c.p a || c.p b)).done) ∧
    (∀ h d a b, Completes (.pxor h d a b) anyCtx fun c => (c.putP d (c.p a != c.p b)).done) ∧
    (∀ h d a b, Completes (.pandn h d a b) anyCtx fun c => (c.putP d (c.p a && !c.p b)).done) ∧
    (∀ h d, Completes (.mfp h d) anyCtx fun c => (c.put d ((c.t.pred ||| 1).setWidth 64)).done) ∧
    (∀ h a, Completes (.mtp h a) anyCtx fun c => ({ c with t := c.t.setPred (c.g a) } : Ctx).done) ∧
    (∀ t v, (Strand.setPred t v).pred.getLsbD 0 = true ∧ ∀ k, 0 < k → k < 16 → (Strand.setPred t v).pred.getLsbD k = v.getLsbD k)

/-- Special registers (R110, R111, R124). `mfs` reads a special register, each of the twenty by its number; `mts` writes
the read/write bits of `tgt`, `fflg`, `rmod` and `dst`, and no other special register; `dst` bit 2 stays. -/
def Obligations.SpecialRegisters : Prop :=
    (∀ h d n, Completes (.mfs h d n) anyCtx fun c => (c.put d (c.s.special c.core c.slot c.t n.toNat)).done) ∧
    (∀ h a n, Completes (.mts h a n) anyCtx fun c => ({ c with t := c.t.setSpecial n.toNat (c.g a) } : Ctx).done) ∧
    (∀ s core slot t, State.special s core slot t 11 = ofN (t.cnt % 2 ^ 48) ∧ State.special s core slot t 12 = t.fflg.setWidth 64 ∧ State.special s core slot t 10 = ofN (t.size % 256)) ∧
    (∀ t n v, n ≠ 9 → (Strand.setSpecial t n v).tgt = t.tgt) ∧
    (∀ t n v, n ≠ 12 → (Strand.setSpecial t n v).fflg = t.fflg) ∧
    (∀ t n v, n ≠ 13 → (Strand.setSpecial t n v).rmod = t.rmod) ∧
    (∀ t n v, n ≠ 14 → (Strand.setSpecial t n v).dst = t.dst) ∧
    (∀ t v, (Strand.setSpecial t 9 v).tgt = v.setWidth 8 ∧ (Strand.setSpecial t 12 v).fflg = v.setWidth 7 ∧ (Strand.setSpecial t 13 v).rmod = v.setWidth 2) ∧
    (∀ t v, (Strand.setSpecial t 14 v).dst.getLsbD 2 = t.dst.getLsbD 2 ∧ (Strand.setSpecial t 14 v).dst.getLsbD 0 = v.getLsbD 0 ∧ (Strand.setSpecial t 14 v).dst.getLsbD 1 = v.getLsbD 1) ∧
    (∀ t n v, (Strand.setSpecial t n v).regs = t.regs ∧ (Strand.setSpecial t n v).pred = t.pred ∧ (Strand.setSpecial t n v).sregs = t.sregs ∧ (Strand.setSpecial t n v).amax = t.amax ∧ (Strand.setSpecial t n v).dsa = t.dsa) ∧
    (∀ t n v, n ≠ 9 → n ≠ 12 → n ≠ 13 → n ≠ 14 → Strand.setSpecial t n v = t) ∧
    (∀ s core slot t n m v, m ≠ n → State.special s core slot (Strand.setSpecial t n v) m = State.special s core slot t m) ∧
    (∀ s core slot t, State.special s core slot t 0 = ofN (slot % 64) ∧ State.special s core slot t 1 = ofN (core % 2048) ∧ State.special s core slot t 2 = ofN (core / 8 % 256) ∧
      State.special s core slot t 3 = ofN (2 * (core / 8 / 16 / 8 % 2) + core / 8 % 16 / 8) ∧ State.special s core slot t 4 = ofN (t.lane % 256) ∧ State.special s core slot t 5 = ofN (t.role % 256) ∧
      State.special s core slot t 7 = ofN (t.gidx % 2 ^ 24) ∧ State.special s core slot t 8 = ofN (t.vol % 2 ^ 16) ∧ State.special s core slot t 9 = t.tgt.setWidth 64 ∧ State.special s core slot t 13 = t.rmod.setWidth 64 ∧
      State.special s core slot t 14 = t.dst.setWidth 64 ∧ State.special s core slot t 15 = t.dsa.setWidth 64 ∧ State.special s core slot t 18 = ofN (t.colW % 16 + t.colI % 8 * 16) ∧
      State.special s core slot t 19 = (s.cluster (core / 8)).ver.setWidth 64) ∧
    (∀ s core slot t g, State.gathering s t.vol t.gidx = some g → State.special s core slot t 6 = ofN (g.members.length % 512)) ∧
    (∀ s core slot t v, State.volume s t.vol = some v → State.special s core slot t 16 = ofN v.upv ∧ State.special s core slot t 17 = ofN v.fhv)

/-- Scalar floating point (R125, R126, R128, R63). `fadd`, `fsub`, `fmul`, `ffma`, `fmin`, `fmax` compute on the exact
values of their sources and round once; `fcvt` converts one value, and AMAX takes its source first. -/
def Obligations.ScalarFloatResults : Prop :=
    (∀ h f rm d a b, Completes (.fadd h f rm d a b) anyCtx fun c => c.two d a b fun x y => fpAdd (fpFor f) rm ((fpFor f).src x) ((fpFor f).src y)) ∧
    (∀ h f rm d a b, Completes (.fsub h f rm d a b) anyCtx fun c => c.two d a b fun x y => fpAdd (fpFor f) rm ((fpFor f).src x) (negNum ((fpFor f).src y))) ∧
    (∀ h f rm d a b, Completes (.fmul h f rm d a b) anyCtx fun c => c.two d a b fun x y => fpMul (fpFor f) rm ((fpFor f).src x) ((fpFor f).src y)) ∧
    (∀ h f rm d a b c, Completes (.ffma h f rm d a b c) anyCtx fun x => (x.put d (ofN (fpFma (fpFor f) rm ((fpFor f).src (x.g a).toNat) ((fpFor f).src (x.g b).toNat) ((fpFor f).src (x.g c).toNat)).1) (fpFma (fpFor f) rm ((fpFor f).src (x.g a).toNat) ((fpFor f).src (x.g b).toNat) ((fpFor f).src (x.g c).toNat)).2).done) ∧
    (∀ h f rm d a b, Completes (.fmin h f rm d a b) anyCtx fun c => c.two d a b fun x y => fpMinMax (fpFor f) false (x % 2 ^ (fpFor f).w) (y % 2 ^ (fpFor f).w)) ∧
    (∀ h f rm d a b, Completes (.fmax h f rm d a b) anyCtx fun c => c.two d a b fun x y => fpMinMax (fpFor f) true (x % 2 ^ (fpFor f).w) (y % 2 ^ (fpFor f).w)) ∧
    (∀ h cv d a, Completes (.fcvt h cv d a) anyCtx fun c => (Ctx.put { c with t := { c.t with amax := BitVec.ofNat 32 (amaxStep c.t.amax.toNat (fmtValue cv.sf ((c.g a).toNat % 2 ^ fmtWidth cv.sf))) } } d
      (ofN (convFrom cv.df cv.sf cv.rm cv.sat ((c.g a).toNat % 2 ^ fmtWidth cv.sf) (fmtValue cv.sf ((c.g a).toNat % 2 ^ fmtWidth cv.sf))).1)
      (convFrom cv.df cv.sf cv.rm cv.sat ((c.g a).toNat % 2 ^ fmtWidth cv.sf) (fmtValue cv.sf ((c.g a).toNat % 2 ^ fmtWidth cv.sf))).2).done)

/-- Vector arithmetic, element by element (R130, R131, R133, R134, R135). Each vector arithmetic or bitwise instruction
applies its operation to every element of vA and of field B (a vector, or a broadcast general register) and writes all
of vD; its flags are the union of the elements’ flags. -/
def Obligations.VectorElementwise : Prop :=
    (∀ h f d a b, Completes (.vadd h f d a b) anyCtx fun c => c.vecTwo f.fmt d a b (arith2 f fpAdd (· + ·))) ∧
    (∀ h f d a b, Completes (.vsub h f d a b) anyCtx fun c => c.vecTwo f.fmt d a b (arith2 f (fun p rm x y => fpAdd p rm x (negNum y)) (· - ·))) ∧
    (∀ h f d a b, Completes (.vmul h f d a b) anyCtx fun c => c.vecTwo f.fmt d a b (arith2 f fpMul (· * ·))) ∧
    (∀ h f d a b c, Completes (.vfma h f d a b c) anyCtx fun x => x.vecPut d (mapElems f.fmt (fun q : Nat × Nat × Nat => fpFma (fpFor f.fmt) (modeRm f.mode) ((fpFor f.fmt).value q.1) ((fpFor f.fmt).value q.2.1) ((fpFor f.fmt).value q.2.2))
      ((elems f.fmt (x.v a).toNat).zip ((x.vb f.fmt b).zip (elems f.fmt (x.v c).toNat))))) ∧
    (∀ h f d a b, Completes (.vmin h f d a b) anyCtx fun c => c.vecTwo f.fmt d a b (minMax2 f false)) ∧
    (∀ h f d a b, Completes (.vmax h f d a b) anyCtx fun c => c.vecTwo f.fmt d a b (minMax2 f true)) ∧
    (∀ h f d a, Completes (.vabs h f d a) anyCtx fun c => c.vecOne f.fmt d a (fun x => match fpOf f.fmt with
      | some p => signOp p (fun _ => false) x
      | none => saDeliver (modeOvf f.mode) (fmtWidth f.fmt) (sxNat (fmtWidth f.fmt) x).natAbs)) ∧
    (∀ h f d a, Completes (.vneg h f d a) anyCtx fun c => c.vecOne f.fmt d a (fun x => match fpOf f.fmt with
      | some p => signOp p (!·) x
      | none => saDeliver (modeOvf f.mode) (fmtWidth f.fmt) (-(saRead (modeOvf f.mode) (fmtWidth f.fmt) x)))) ∧
    (∀ h d a b, Completes (.vand h d a b) anyCtx fun c => (c.putV d (c.v a &&& c.vbits b)).done) ∧
    (∀ h d a b, Completes (.vor h d a b) anyCtx fun c => (c.putV d (c.v a ||| c.vbits b)).done) ∧
    (∀ h d a b, Completes (.vxor h d a b) anyCtx fun c => (c.putV d (c.v a ^^^ c.vbits b)).done) ∧
    (∀ h f d a b, Completes (.vshl h f d a b) anyCtx fun c => c.vecTwo f d a b (fun x y => (x % 2 ^ fmtWidth f * 2 ^ (y % fmtWidth f) % 2 ^ fmtWidth f, 0))) ∧
    (∀ h f d a b, Completes (.vshr h f d a b) anyCtx fun c => c.vecTwo f d a b (fun x y => (x % 2 ^ fmtWidth f / 2 ^ (y % fmtWidth f), 0))) ∧
    (∀ h f d a b, Completes (.vsar h f d a b) anyCtx fun c => c.vecTwo f d a b (fun x y => (wrapN (fmtWidth f) (sxNat (fmtWidth f) x / 2 ^ (y % fmtWidth f)), 0)))

/-- Vector comparison, selection, broadcast and element access (R136, R137, R138, R139, R140, R141, R150). `vcmp` writes a
mask of the elements to a general register; `vsel` chooses elements by a mask; `vbc` broadcasts; `vget` reads one
element and `vput` replaces one; outside a collation group `vperm`, `vred` and `vdot` act on the strand’s own
registers at once. In a group each is a pending operation whose sources are those of the member’s own issue; once
every member has issued it, its result from the sources in member order is held: one value for every member of `vred`
and `vdot`, the member’s own elements for `vperm`. Which members a spanning instruction waits for is R152’s where a
member has left the group: those that are still in it; a part of a member whose predicate is false stands among the
parts (assumption 61). -/
def Obligations.VectorMoves : Prop :=
    (∀ h cc f d a b, Completes (.vcmp h cc f d a b) anyCtx fun c => (c.put d (ofN (packN 1 ((((elems f (c.v a).toNat).zip (c.vb f b)).map fun p => vcmpElem cc f p.1 p.2).map fun x => if x.1 then 1 else 0)))
      ((((elems f (c.v a).toNat).zip (c.vb f b)).map fun p => vcmpElem cc f p.1 p.2).foldl (fun z x => z ||| x.2) 0)).done) ∧
    (∀ h f d a b c, Completes (.vsel h f d a b c) anyCtx fun x => (x.putV d (BitVec.ofNat 512 (packElems f [] (((elems f (x.v a).toNat).zip (elems f (x.v b).toNat)).zipIdx.map
      fun e => if (x.g c).getLsbD e.2 then e.1.1 else e.1.2)))).done) ∧
    (∀ h f d a, Completes (.vbc h f d a) anyCtx fun c => (c.putV d (BitVec.ofNat 512 (packElems f [] (List.replicate (fmtCount f) (c.g a).toNat)))).done) ∧
    (∀ h f d a idx, Completes (.vget h f d a idx) anyCtx fun c => (c.put d (ofN ((c.v a).toNat / 2 ^ (fmtWidth f * idx.toNat) % 2 ^ fmtWidth f))).done) ∧
    (∀ h f d a idx, Completes (.vput h f d a idx) anyCtx fun c => (c.putV d (BitVec.ofNat 512 (packElems f [] (setAt (elems f (c.v d).toNat) idx.toNat (c.g a).toNat)))).done) ∧
    (∀ h f d a b, Completes (.vperm h f d a b) (fun c => c.t.group = 0) fun c => (c.putV d (BitVec.ofNat 512 (permValue f (elems f (c.v a).toNat) (elems f (c.v b).toNat)))).done) ∧
    (∀ h op f d a, Completes (.vred h op f d a) (fun c => c.t.group = 0) fun c => (c.put d ((BitVec.ofNat 512 (redValue op f (elems f.fmt (c.v a).toNat)).1).extractLsb' 0 64) (redValue op f (elems f.fmt (c.v a).toNat)).2).done) ∧
    (∀ h f d a b, Completes (.vdot h f d a b) (fun c => c.t.group = 0) fun c => (c.put d ((BitVec.ofNat 512 (dotValue f (elems f.fmt (c.v a).toNat) (elems f.fmt (c.v b).toNat)).1).extractLsb' 0 64) (dotValue f (elems f.fmt (c.v a).toNat) (elems f.fmt (c.v b).toNat)).2).done) ∧
    (∀ h f d a b, Completes (.vperm h f d a b) (fun c => c.t.group ≠ 0) fun c => ((c.op (.v d)).2.joinSpan (.vperm h f d a b) (some (c.op (.v d)).1) (c.v a) (c.v b)).done) ∧
    (∀ h op f d a, Completes (.vred h op f d a) (fun c => c.t.group ≠ 0) fun c => ((c.op (c.dest d)).2.joinSpan (.vred h op f d a) (some (c.op (c.dest d)).1) (c.v a) 0).done) ∧
    (∀ h f d a b, Completes (.vdot h f d a b) (fun c => c.t.group ≠ 0) fun c => ((c.op (c.dest d)).2.joinSpan (.vdot h f d a b) (some (c.op (c.dest d)).1) (c.v a) (c.v b)).done) ∧
    (∀ (c : Ctx) i op a b, ∃ x ∈ (c.joinSpan i op a b).s.circ.spans, x.group = c.t.group ∧ x.n = c.t.colN ∧ { idx := c.t.colI, uid := c.t.uid, op := op, a := a, b := b } ∈ x.parts ∧
      ∀ y, c.s.circ.spans.find? (fun z => z.group == c.t.group && z.n == c.t.colN) = some y → x.instr = y.instr ∧ ∀ p ∈ y.parts, p ∈ x.parts) ∧
    (∀ (s : State) core slot op t o x p, (s.core core).tileOps.find? (fun z => z.id == op && !z.failed) = none → s.strand core slot = some t → t.ops.find? (·.id == op) = some o → o.stage = .sent →
      s.circ.spans.findSome? (fun z => (z.parts.find? (·.op == some op)).map fun q => (z, q)) = some (x, p) → (∀ e ∈ s.strands, e.2.group = x.group → x.n < e.2.colN) →
      (∀ f w, t.run ≠ .halting f w) → (∀ f w, t.run ≠ .faulting f w) →
      ∃ u, exec (.resultReturn core slot op) s = .next u ∧ u.mem = s.mem ∧ u.strand core slot = some { t with ops := mapIf (·.id == op) (fun z => { z with stage := .held, val := (x.value p).1, flags := (x.value p).2 }) t.ops }) ∧
    (∀ (s : State) core slot op t o x p, (s.core core).tileOps.find? (fun z => z.id == op && !z.failed) = none → s.strand core slot = some t → t.ops.find? (·.id == op) = some o → o.stage = .sent →
      s.circ.spans.findSome? (fun z => (z.parts.find? (·.op == some op)).map fun q => (z, q)) = some (x, p) → (∃ e ∈ s.strands, e.2.group = x.group ∧ e.2.colN ≤ x.n) →
      exec (.resultReturn core slot op) s = .next s) ∧
    (∀ (x : Span) p h f d a b, x.instr = .vperm h f d a b → x.value p = (BitVec.ofNat 512 (permValue f ((sortParts x.parts).flatMap fun q => elems f q.a.toNat) (elems f p.b.toNat)), 0)) ∧
    (∀ (x : Span) p h op f d a, x.instr = .vred h op f d a → x.value p = (BitVec.ofNat 512 (redValue op f ((sortParts x.parts).flatMap fun q => elems f.fmt q.a.toNat)).1, (redValue op f ((sortParts x.parts).flatMap fun q => elems f.fmt q.a.toNat)).2)) ∧
    (∀ (x : Span) p h f d a b, x.instr = .vdot h f d a b → x.value p = (BitVec.ofNat 512 (dotValue f ((sortParts x.parts).flatMap fun q => elems f.fmt q.a.toNat) ((sortParts x.parts).flatMap fun q => elems f.fmt q.b.toNat)).1,
      (dotValue f ((sortParts x.parts).flatMap fun q => elems f.fmt q.a.toNat) ((sortParts x.parts).flatMap fun q => elems f.fmt q.b.toNat)).2)) ∧
    (∀ (ps : List SpanPart) (p q : SpanPart) (i j : Nat), p.idx < 8 → q.idx < 8 → (sortParts ps)[i]? = some p → (sortParts ps)[j]? = some q → p.idx < q.idx → i < j)

/-- Vector conversion and quantisation, and AMAX (R63, R64, R65, R66, R67). `vcvt`, `vqnt` and `vdeq` write the converted
register; the first two raise AMAX by their sources; `amxrd` reads AMAX and `amxsw` exchanges it, a NaN becoming 0
with `invalid`. -/
def Obligations.VectorConversions : Prop :=
    (∀ h cv d a, Completes (.vcvt h cv d a) anyCtx fun c => (Ctx.putV { c with t := { c.t with amax := BitVec.ofNat 32 (vcvt cv.df cv.sf cv.rm cv.sat c.t.amax.toNat (c.v a).toNat).2.2 } } d
      (BitVec.ofNat 512 (vcvt cv.df cv.sf cv.rm cv.sat c.t.amax.toNat (c.v a).toNat).1) (vcvt cv.df cv.sf cv.rm cv.sat c.t.amax.toNat (c.v a).toNat).2.1).done) ∧
    (∀ h fine df d a b, Completes (.vqnt h fine df d a b) anyCtx fun c => (Ctx.putV { c with t := { c.t with amax := BitVec.ofNat 32 (vqnt fine df c.t.amax.toNat (c.v a).toNat (c.g b).toNat).2.2 } } d
      (BitVec.ofNat 512 (vqnt fine df c.t.amax.toNat (c.v a).toNat (c.g b).toNat).1) (vqnt fine df c.t.amax.toNat (c.v a).toNat (c.g b).toNat).2.1).done) ∧
    (∀ h sf d a b, Completes (.vdeq h sf d a b) anyCtx fun c => (c.putV d (BitVec.ofNat 512 (vdeq sf (modeRm c.t.rmod) (c.v a).toNat (c.g b).toNat).1) (vdeq sf (modeRm c.t.rmod) (c.v a).toNat (c.g b).toNat).2).done) ∧
    (∀ h d, Completes (.amxrd h d) anyCtx fun c => (c.put d (c.t.amax.setWidth 64)).done) ∧
    (∀ h d a, Completes (.amxsw h d a) (fun c => isNan (fpF32.value ((c.g a).toNat % 2 ^ 31)) = false) fun c => (Ctx.put { c with t := { c.t with amax := BitVec.ofNat 32 ((c.g a).toNat % 2 ^ 31) } } d (c.t.amax.setWidth 64)).done) ∧
    (∀ h d a, Completes (.amxsw h d a) (fun c => isNan (fpF32.value ((c.g a).toNat % 2 ^ 31)) = true) fun c => (Ctx.put { c with t := { c.t with amax := 0 } } d (c.t.amax.setWidth 64) flInvalid).done)

/-- Branches (R94, R95, R150, R152, R232). A taken branch transfers to pc + 8·disp when that is a target of the running
code, and takes SEG_TARGET, with its pc at the branch, when it is none; a branch not taken goes on at the next word.
Signed and unsigned conditions compare all 64 bits. A follower of a collation group goes where its leader goes. A
follower of a collation group goes where its leader’s decision sends it (R150), and on to the next word where the
leader has left the group at this one (R152); when that decision is made is the model’s reading (assumption 73). -/
def Obligations.BranchOutcomes : Prop :=
    (∀ h disp, Completes (.br h disp) (fun c => ¬ follows (formOf (.br h disp)) c.t ∧ c.targetOk (c.branchTo disp)) fun c => c.gone (c.branchTo disp)) ∧
    (∀ h a b disp, Completes (.beq h a b disp) (fun c => ¬ follows (formOf (.beq h a b disp)) c.t ∧ c.g a = c.g b ∧ c.targetOk (c.branchTo disp)) fun c => c.gone (c.branchTo disp)) ∧
    (∀ h a b disp, Completes (.beq h a b disp) (fun c => ¬ follows (formOf (.beq h a b disp)) c.t ∧ ¬ c.g a = c.g b) fun c => c.done) ∧
    (∀ h a b disp, Completes (.bne h a b disp) (fun c => ¬ follows (formOf (.bne h a b disp)) c.t ∧ c.g a ≠ c.g b ∧ c.targetOk (c.branchTo disp)) fun c => c.gone (c.branchTo disp)) ∧
    (∀ h a b disp, Completes (.bne h a b disp) (fun c => ¬ follows (formOf (.bne h a b disp)) c.t ∧ ¬ c.g a ≠ c.g b) fun c => c.done) ∧
    (∀ h a b disp, Completes (.blt h a b disp) (fun c => ¬ follows (formOf (.blt h a b disp)) c.t ∧ (c.g a).toInt < (c.g b).toInt ∧ c.targetOk (c.branchTo disp)) fun c => c.gone (c.branchTo disp)) ∧
    (∀ h a b disp, Completes (.blt h a b disp) (fun c => ¬ follows (formOf (.blt h a b disp)) c.t ∧ ¬ (c.g a).toInt < (c.g b).toInt) fun c => c.done) ∧
    (∀ h a b disp, Completes (.bge h a b disp) (fun c => ¬ follows (formOf (.bge h a b disp)) c.t ∧ (c.g b).toInt ≤ (c.g a).toInt ∧ c.targetOk (c.branchTo disp)) fun c => c.gone (c.branchTo disp)) ∧
    (∀ h a b disp, Completes (.bge h a b disp) (fun c => ¬ follows (formOf (.bge h a b disp)) c.t ∧ ¬ (c.g b).toInt ≤ (c.g a).toInt) fun c => c.done) ∧
    (∀ h a b disp, Completes (.bltu h a b disp) (fun c => ¬ follows (formOf (.bltu h a b disp)) c.t ∧ (c.g a).toNat < (c.g b).toNat ∧ c.targetOk (c.branchTo disp)) fun c => c.gone (c.branchTo disp)) ∧
    (∀ h a b disp, Completes (.bltu h a b disp) (fun c => ¬ follows (formOf (.bltu h a b disp)) c.t ∧ ¬ (c.g a).toNat < (c.g b).toNat) fun c => c.done) ∧
    (∀ h a b disp, Completes (.bgeu h a b disp) (fun c => ¬ follows (formOf (.bgeu h a b disp)) c.t ∧ (c.g b).toNat ≤ (c.g a).toNat ∧ c.targetOk (c.branchTo disp)) fun c => c.gone (c.branchTo disp)) ∧
    (∀ h a b disp, Completes (.bgeu h a b disp) (fun c => ¬ follows (formOf (.bgeu h a b disp)) c.t ∧ ¬ (c.g b).toNat ≤ (c.g a).toNat) fun c => c.done) ∧
    (∀ c : Ctx, ∀ disp : BitVec 24, ((c.branchTo disp : Nat) : Int) = (c.t.pc + 8 * disp.toInt) % 2 ^ 64) ∧
    (∀ c : Ctx, ∀ t, c.targetOk t = true ↔ t % 8 = 0 ∧ c.codeBase ≤ t ∧ t < c.codeBase + descLimit (c.t.sreg 0)) ∧
    (∀ h disp, FaultsAfter (.br h disp) (fun c => ¬ follows (formOf (.br h disp)) c.t ∧ True ∧ c.targetOk (c.branchTo disp) = false) (fun c => c) fun c => taskFault 0x07 (c.branchTo disp)) ∧
    (∀ h a b disp, FaultsAfter (.beq h a b disp) (fun c => ¬ follows (formOf (.beq h a b disp)) c.t ∧ c.g a = c.g b ∧ c.targetOk (c.branchTo disp) = false) (fun c => c) fun c => taskFault 0x07 (c.branchTo disp)) ∧
    (∀ h a b disp, FaultsAfter (.bne h a b disp) (fun c => ¬ follows (formOf (.bne h a b disp)) c.t ∧ c.g a ≠ c.g b ∧ c.targetOk (c.branchTo disp) = false) (fun c => c) fun c => taskFault 0x07 (c.branchTo disp)) ∧
    (∀ h a b disp, FaultsAfter (.blt h a b disp) (fun c => ¬ follows (formOf (.blt h a b disp)) c.t ∧ (c.g a).toInt < (c.g b).toInt ∧ c.targetOk (c.branchTo disp) = false) (fun c => c) fun c => taskFault 0x07 (c.branchTo disp)) ∧
    (∀ h a b disp, FaultsAfter (.bge h a b disp) (fun c => ¬ follows (formOf (.bge h a b disp)) c.t ∧ (c.g b).toInt ≤ (c.g a).toInt ∧ c.targetOk (c.branchTo disp) = false) (fun c => c) fun c => taskFault 0x07 (c.branchTo disp)) ∧
    (∀ h a b disp, FaultsAfter (.bltu h a b disp) (fun c => ¬ follows (formOf (.bltu h a b disp)) c.t ∧ (c.g a).toNat < (c.g b).toNat ∧ c.targetOk (c.branchTo disp) = false) (fun c => c) fun c => taskFault 0x07 (c.branchTo disp)) ∧
    (∀ h a b disp, FaultsAfter (.bgeu h a b disp) (fun c => ¬ follows (formOf (.bgeu h a b disp)) c.t ∧ (c.g b).toNat ≤ (c.g a).toNat ∧ c.targetOk (c.branchTo disp) = false) (fun c => c) fun c => taskFault 0x07 (c.branchTo disp)) ∧
    (∀ h disp, Completes (.br h disp) (fun c => follows (formOf (.br h disp)) c.t = true) fun c => c.gone c.leaderPc) ∧
    (∀ h a b disp, Completes (.beq h a b disp) (fun c => follows (formOf (.beq h a b disp)) c.t = true) fun c => c.gone c.leaderPc) ∧
    (∀ h a b disp, Completes (.bne h a b disp) (fun c => follows (formOf (.bne h a b disp)) c.t = true) fun c => c.gone c.leaderPc) ∧
    (∀ h a b disp, Completes (.blt h a b disp) (fun c => follows (formOf (.blt h a b disp)) c.t = true) fun c => c.gone c.leaderPc) ∧
    (∀ h a b disp, Completes (.bge h a b disp) (fun c => follows (formOf (.bge h a b disp)) c.t = true) fun c => c.gone c.leaderPc) ∧
    (∀ h a b disp, Completes (.bltu h a b disp) (fun c => follows (formOf (.bltu h a b disp)) c.t = true) fun c => c.gone c.leaderPc) ∧
    (∀ h a b disp, Completes (.bgeu h a b disp) (fun c => follows (formOf (.bgeu h a b disp)) c.t = true) fun c => c.gone c.leaderPc) ∧
    (∀ (c : Ctx) x, c.s.leadOf c.t = some x → c.leaderPc = x.pc) ∧
    (∀ (c : Ctx), c.s.leadOf c.t = none → c.leaderPc = nextPc c.t.pc)

/-- Calls, register jumps, loops, nop and wait (R94, R96, R97, R98, R101, R150, R152, R232). `call` writes the offset of
the next word and transfers; `jr` transfers to an offset of the code segment, read before the link is written; `loop`
decrements its register and transfers while the result is not 0; `nop` does nothing; `wait` with w > 0 puts the next
issue w rounds later. A transfer to no target of the running code is SEG_TARGET, with the link or the count written;
`jr` to 2^48 or above is SEG_TARGET with nothing written. A follower of a collation group takes the leader’s target
and wait count, and writes its own link or count. A follower of a collation group takes its leader’s target and wait
count, writes its own link and decrements its own count (R150), and goes on at the next word where the leader has left
the group at this one (R152); when the decision is made is the model’s reading (assumption 73). -/
def Obligations.LinksAndLoops : Prop :=
    (∀ h, Completes (.nop h) anyCtx fun c => c.done) ∧
    (∀ h a disp, Completes (.call h a disp) (fun c => ¬ follows (formOf (.call h a disp)) c.t ∧ (c.put a c.link).targetOk (c.branchTo disp)) fun c => (c.put a c.link).gone (c.branchTo disp)) ∧
    (∀ h d a, Completes (.jr h d a) (fun c => ¬ follows (formOf (.jr h d a)) c.t ∧ (c.g a).toNat < 2 ^ 48 ∧ (c.put d c.link).targetOk (c.codeBase + (c.g a).toNat)) fun c => (c.put d c.link).gone (c.codeBase + (c.g a).toNat)) ∧
    (∀ h d a, FaultsAtIssue (.jr h d a) (fun c => ¬ follows (formOf (.jr h d a)) c.t ∧ 2 ^ 48 ≤ (c.g a).toNat) fun c => taskFault 0x07 (c.g a).toNat) ∧
    (∀ h a disp, Completes (.loop h a disp) (fun c => ¬ follows (formOf (.loop h a disp)) c.t ∧ c.g a ≠ 1 ∧ (c.put a (c.g a - 1)).targetOk (c.branchTo disp)) fun c => (c.put a (c.g a - 1)).gone (c.branchTo disp)) ∧
    (∀ h a disp, Completes (.loop h a disp) (fun c => ¬ follows (formOf (.loop h a disp)) c.t ∧ c.g a = 1) fun c => (c.put a 0).done) ∧
    (∀ h a imm, Completes (.wait h a imm) (fun c => ¬ follows (formOf (.wait h a imm)) c.t ∧ (c.g a + sx64 imm).toInt ≤ 0) fun c => ({ c with t := { c.t with colV := c.g a + sx64 imm } } : Ctx).done) ∧
    (∀ h a imm, Completes (.wait h a imm) (fun c => ¬ follows (formOf (.wait h a imm)) c.t ∧ 0 < (c.g a + sx64 imm).toInt) fun c => ({ c with t := { c.t with colV := c.g a + sx64 imm } } : Ctx).rested (c.g a + sx64 imm).toNat) ∧
    (∀ h a disp, FaultsAfter (.call h a disp) (fun c => ¬ follows (formOf (.call h a disp)) c.t ∧ (c.put a c.link).targetOk (c.branchTo disp) = false) (fun c => c.put a c.link) fun c => taskFault 0x07 (c.branchTo disp)) ∧
    (∀ h d a, FaultsAfter (.jr h d a) (fun c => ¬ follows (formOf (.jr h d a)) c.t ∧ (c.g a).toNat < 2 ^ 48 ∧ (c.put d c.link).targetOk (c.codeBase + (c.g a).toNat) = false) (fun c => c.put d c.link) fun c => taskFault 0x07 (c.codeBase + (c.g a).toNat)) ∧
    (∀ h a disp, FaultsAfter (.loop h a disp) (fun c => ¬ follows (formOf (.loop h a disp)) c.t ∧ c.g a ≠ 1 ∧ (c.put a (c.g a - 1)).targetOk (c.branchTo disp) = false) (fun c => c.put a (c.g a - 1)) fun c => taskFault 0x07 (c.branchTo disp)) ∧
    (∀ h a disp, Completes (.call h a disp) (fun c => follows (formOf (.call h a disp)) c.t = true) fun c => (c.put a c.link).gone c.leaderPc) ∧
    (∀ h d a, Completes (.jr h d a) (fun c => follows (formOf (.jr h d a)) c.t = true) fun c => (c.put d c.link).gone c.leaderPc) ∧
    (∀ h a disp, Completes (.loop h a disp) (fun c => follows (formOf (.loop h a disp)) c.t = true) fun c => (c.put a (c.g a - 1)).gone c.leaderPc) ∧
    (∀ h a imm x, Completes (.wait h a imm) (fun c => follows (formOf (.wait h a imm)) c.t = true ∧ c.s.leadOf c.t = some x ∧ x.w.toInt ≤ 0) fun c => ({ c with t := { c.t with colV := x.w } } : Ctx).done) ∧
    (∀ h a imm x, Completes (.wait h a imm) (fun c => follows (formOf (.wait h a imm)) c.t = true ∧ c.s.leadOf c.t = some x ∧ 0 < x.w.toInt) fun c => ({ c with t := { c.t with colV := x.w } } : Ctx).rested x.w.toNat) ∧
    (∀ h a imm, Completes (.wait h a imm) (fun c => follows (formOf (.wait h a imm)) c.t = true ∧ c.s.leadOf c.t = none) fun c => ({ c with t := { c.t with colV := 0 } } : Ctx).done) ∧
    (∀ (s : State) (t : Strand) l, t.lead = none → s.leaderOf t = some l → t.colN < l.colN → s.leadOf t = some { pred := l.pred, pc := l.pc, w := l.colV }) ∧
    (∀ (s : State) (t : Strand) x, t.lead = some x → s.leadOf t = some x)

/-- Ends of a strand, yield and collation (R99, R100, R87, R147, R148, R150, R151, R242). `stop` ends the strand, or every
member of its group; `yield` goes on at once in slot 63, in a pair and in an upcall, and otherwise makes the strand a
READY slip at the tail of its run list; `collate` waits for its partners or, as the last of them, forms the group, and
faults with the partners that wait in another width; `disband` ends the member’s part in it. That `stop` ends every
member and that a follower’s `stop` is its leader’s is R150’s, the partners in another width and a member already
collated are R148’s, `yield` in an upcall is R242’s. That a free strand or slot 63 which issues `collate` takes
COLLATION, and that `yield` passes in a member whose group is ending, are the model’s readings (assumption 26), and so
is when a follower has its leader’s decision (assumption 73). -/
def Obligations.EndsAndYields : Prop :=
    (∀ h, Completes (.stop h) (fun c => ¬ follows (formOf (.stop h)) c.t ∨ c.s.leadOf c.t ≠ none) fun c => ((c.s.groupOf c.core c.slot c.t).foldl (fun s e => s.endStrand e.1.1 e.1.2 e.2) c.s)) ∧
    (∀ h, Completes (.yield h) (fun c => c.slot = 63 ∨ c.s.inPair c.core c.slot = true ∨ c.t.faulter.isSome = true ∨ c.t.colEnd.isSome = true) fun c => c.done) ∧
    (∀ h, Completes (.yield h) (fun c => c.slot ≠ 63 ∧ c.s.inPair c.core c.slot = false ∧ c.t.faulter = none ∧ c.t.colEnd = none ∧ c.t.sound) fun c => c.yielded) ∧
    (∀ h n, Completes (.collate h n) (fun c => c.mayCollate n.toNat ∧ c.s.clashes c.t n.toNat = [] ∧ ((c.s.partners c.t n.toNat).length + 1 ≠ n.toNat ∨ ∃ e ∈ c.s.partners c.t n.toNat, e.2.inCollate n.toNat = false)) fun c => (c.s.setStrand c.core c.slot { c.t.issued with ir := c.word, run := .parked (.collate n.toNat) })) ∧
    (∀ h n, Completes (.collate h n) (fun c => c.mayCollate n.toNat ∧ c.s.clashes c.t n.toNat = [] ∧ (c.s.partners c.t n.toNat).length + 1 = n.toNat ∧ ∀ e ∈ c.s.partners c.t n.toNat, e.2.inCollate n.toNat = true) fun c => (c.s.fresh.2.formGroup (c.s.partners c.t n.toNat ++ [((c.core, c.slot), { c.t.issued with ir := c.word })]) c.t.uid n.toNat (c.s.fresh.1 + 1))) ∧
    (∀ h n, FaultsAtIssue (.collate h n) (fun c => c.t.free = true ∨ c.slot = 63 ∨ c.t.group ≠ 0) fun c => taskFault 0x12) ∧
    (∀ h, Completes (.disband h) anyCtx fun c => ({ c with s := c.s.endCollation c.t, t := c.t.alone } : Ctx).done) ∧
    (∀ h, Completes (.stop h) (fun c => follows (formOf (.stop h)) c.t = true ∧ c.s.leadOf c.t = none) fun c => c.done) ∧
    (∀ h n, Completes (.collate h n) (fun c => c.mayCollate n.toNat ∧ c.s.clashes c.t n.toNat ≠ []) fun c => (c.s.collateFaults (c.s.clashes c.t n.toNat ++ [((c.core, c.slot), { c.t with ir := c.word })])))

/-- Barriers (R364). `bara` counts the strand’s arrival and sends it so that it is performed at frame q + 2, or waits
while its last arrival has not been met; `barw` goes on once the strand’s arrivals have been met; a barrier the shape
does not have is BARRIER, and a strand without a gathering’s class, a free strand or slot 63, is CLASS. That a strand
whose gathering has ended takes CLASS, and that BARRIER comes before CLASS where both hold, are the model’s readings
(assumption 62). -/
def Obligations.BarrierInstructions : Prop :=
    (∀ h n, Completes (.bara h n) (fun c => c.barrierBad n.toNat = none ∧ (c.s.barrierOf c.t n.toNat).1 ≤ (c.s.barrierOf c.t n.toNat).2) fun c => ({ c with s := (c.s.setMember c.t.vol c.t.gidx c.t.role c.t.lane (fun m => { m with arr := bumpAt m.arr n.toNat })).sendAt (c.s.clk.frame + 2) c.core c.slot c.core (.bar c.t.vol c.t.gidx c.t.role c.t.lane n.toNat) } : Ctx).done) ∧
    (∀ h n, Completes (.barw h n) (fun c => c.barrierBad n.toNat = none ∧ (c.s.barrierOf c.t n.toNat).1 ≤ (c.s.barrierOf c.t n.toNat).2) fun c => c.done) ∧
    (∀ h n, FaultsAtIssue (.bara h n) (fun c => c.barrierNone n.toNat) fun c => taskFault 0x28) ∧
    (∀ h n, FaultsAtIssue (.barw h n) (fun c => c.barrierNone n.toNat) fun c => taskFault 0x28) ∧
    (∀ h n, FaultsAtIssue (.bara h n) (fun c => ¬ c.barrierNone n.toNat ∧ (c.t.free = true ∨ c.slot = 63 ∨ c.s.gathering c.t.vol c.t.gidx = none)) fun c => taskFault 0x2A) ∧
    (∀ h n, FaultsAtIssue (.barw h n) (fun c => ¬ c.barrierNone n.toNat ∧ (c.t.free = true ∨ c.slot = 63 ∨ c.s.gathering c.t.vol c.t.gidx = none)) fun c => taskFault 0x2A) ∧
    (∀ h n s c core slot t, s.clk.cur = some (core, slot) → s.strand core slot = some t → enters (formOf (.bara h n)) s = some c → c.barrierBad n.toNat = none → (c.s.barrierOf c.t n.toNat).2 < (c.s.barrierOf c.t n.toNat).1 → exec (.bara h n) s = .next ((s.landsAt (formOf (.bara h n)) core slot t).1.setStrand core slot { (s.landsAt (formOf (.bara h n)) core slot t).2 with run := .parked (.bara n.toNat), atSwitch := s.switches (formOf (.bara h n)) t }))

/-- Retirement (R373, R374). A bound strand that retires without a successor, or with the successor that its gathering
already named and a bequest block that agrees, becomes RETIRED and parks; a free strand, slot 63 or a strand without a
gathering is CLASS, a value that is neither z nor a current code point at offset 8 or beyond is STALE, a successor
other than the named one is BEQ_MISMATCH, and the header, the block and the tiles are checked for BEQ_SHAPE, BEQ_MASK
and BEQ_TILE. -/
def Obligations.RetireOutcomes : Prop :=
    (∀ h b g s c, enters (formOf (.retire h .z b)) s = some c → c.s.gathering c.t.vol c.t.gidx = some g → c.t.free = false → c.slot ≠ 63 →
      (g.retires = true → g.succ = none) → (b = .z ∨ ∃ l, c.placePtr (c.g b) 64 rR 64 = .ok l) → exec (.retire h .z b) s = .next (c.retiredTo g none [])) ∧
    (∀ h a b g i off hd l blk s c, enters (formOf (.retire h a b)) s = some c → c.s.gathering c.t.vol c.t.gidx = some g → c.t.free = false → c.slot ≠ 63 →
      a ≠ .z → c.s.codePoint c.t.vol (c.g a) = some (i, off) → 8 ≤ off → (g.retires = true → g.succ = some (c.g a)) →
      c.s.readWords (clusterOf c.core) (.va c.t.vol (((c.s.spaceOf c.t.vol).entry i).base + 8 * (off - 8))) .fetch 8 = .ok hd →
      c.placePtr (c.g b) 64 rR 64 = .ok l → c.s.readWords (clusterOf c.core) l .read 8 = .ok blk → shapeBad g hd c.t.wgr = false →
      blk.getD 0 0 = hd.getD 2 0 → (∀ k < 16, (hd.getD 2 0).getLsbD (16 + k) = true → ∃ x, x = (c.s.core c.core).tiles.getD k {} ∧ x.conf = true ∧
      (x.vol = c.t.vol → x.gidx = c.t.gidx → x.lane = c.t.lane → tileEntryOk blk k x = true)) → exec (.retire h a b) s = .next (c.retiredTo g (some (c.g a)) (hd ++ blk))) ∧
    (∀ h a b, FaultsAtIssue (.retire h a b) (fun c => c.s.gathering c.t.vol c.t.gidx = none ∨ c.t.free = true ∨ c.slot = 63) fun c => taskFault 0x2A) ∧
    (∀ h a b, FaultsAtIssue (.retire h a b) (fun c => ∃ g, c.s.gathering c.t.vol c.t.gidx = some g ∧ c.t.free = false ∧ c.slot ≠ 63 ∧ a = .z ∧ g.retires = true ∧ g.succ ≠ none) fun c => taskFault 0x2E) ∧
    (∀ h a b, FaultsAtIssue (.retire h a b) (fun c => ∃ g i off, c.s.gathering c.t.vol c.t.gidx = some g ∧ c.t.free = false ∧ c.slot ≠ 63 ∧ a ≠ .z ∧ c.s.codePoint c.t.vol (c.g a) = some (i, off) ∧ 8 ≤ off ∧ g.retires = true ∧ g.succ ≠ some (c.g a)) fun c => taskFault 0x2E) ∧
    (∀ h a b, FaultsAtIssue (.retire h a b) (fun c => (∃ g, c.s.gathering c.t.vol c.t.gidx = some g) ∧ c.t.free = false ∧ c.slot ≠ 63 ∧ a ≠ .z ∧ ∀ i off, c.s.codePoint c.t.vol (c.g a) = some (i, off) → off < 8) fun c => taskFault 0x24) ∧
    (∀ h a b g i off hd l blk, FaultsAtIssue (.retire h a b) (fun c => c.s.gathering c.t.vol c.t.gidx = some g ∧ c.t.free = false ∧ c.slot ≠ 63 ∧ a ≠ .z ∧ c.s.codePoint c.t.vol (c.g a) = some (i, off) ∧ 8 ≤ off ∧ (g.retires = true → g.succ = some (c.g a)) ∧ c.s.readWords (clusterOf c.core) (.va c.t.vol (((c.s.spaceOf c.t.vol).entry i).base + 8 * (off - 8))) .fetch 8 = .ok hd ∧ c.placePtr (c.g b) 64 rR 64 = .ok l ∧ c.s.readWords (clusterOf c.core) l .read 8 = .ok blk ∧ shapeBad g hd c.t.wgr = true) fun c => taskFault 0x2D) ∧
    (∀ h a b g i off hd l blk, FaultsAtIssue (.retire h a b) (fun c => c.s.gathering c.t.vol c.t.gidx = some g ∧ c.t.free = false ∧ c.slot ≠ 63 ∧ a ≠ .z ∧ c.s.codePoint c.t.vol (c.g a) = some (i, off) ∧ 8 ≤ off ∧ (g.retires = true → g.succ = some (c.g a)) ∧ c.s.readWords (clusterOf c.core) (.va c.t.vol (((c.s.spaceOf c.t.vol).entry i).base + 8 * (off - 8))) .fetch 8 = .ok hd ∧ c.placePtr (c.g b) 64 rR 64 = .ok l ∧ c.s.readWords (clusterOf c.core) l .read 8 = .ok blk ∧ shapeBad g hd c.t.wgr = false ∧ blk.getD 0 0 ≠ hd.getD 2 0) fun c => taskFault 0x2B) ∧
    (∀ h a b g i off hd l blk, FaultsAtIssue (.retire h a b) (fun c => c.s.gathering c.t.vol c.t.gidx = some g ∧ c.t.free = false ∧ c.slot ≠ 63 ∧ a ≠ .z ∧ c.s.codePoint c.t.vol (c.g a) = some (i, off) ∧ 8 ≤ off ∧ (g.retires = true → g.succ = some (c.g a)) ∧ c.s.readWords (clusterOf c.core) (.va c.t.vol (((c.s.spaceOf c.t.vol).entry i).base + 8 * (off - 8))) .fetch 8 = .ok hd ∧ c.placePtr (c.g b) 64 rR 64 = .ok l ∧ c.s.readWords (clusterOf c.core) l .read 8 = .ok blk ∧ shapeBad g hd c.t.wgr = false ∧ blk.getD 0 0 = hd.getD 2 0 ∧ ∃ k < 16, (hd.getD 2 0).getLsbD (16 + k) = true ∧ ((c.s.core c.core).tiles.getD k {}).conf = true ∧ ((c.s.core c.core).tiles.getD k {}).ownedBy c.t = true ∧ tileEntryOk blk k ((c.s.core c.core).tiles.getD k {}) = false) fun c => taskFault 0x2C) ∧
    (∀ h a b g i off hd l blk, FaultsAtIssue (.retire h a b) (fun c => c.s.gathering c.t.vol c.t.gidx = some g ∧ c.t.free = false ∧ c.slot ≠ 63 ∧ a ≠ .z ∧ c.s.codePoint c.t.vol (c.g a) = some (i, off) ∧ 8 ≤ off ∧ (g.retires = true → g.succ = some (c.g a)) ∧ c.s.readWords (clusterOf c.core) (.va c.t.vol (((c.s.spaceOf c.t.vol).entry i).base + 8 * (off - 8))) .fetch 8 = .ok hd ∧ c.placePtr (c.g b) 64 rR 64 = .ok l ∧ c.s.readWords (clusterOf c.core) l .read 8 = .ok blk ∧ shapeBad g hd c.t.wgr = false ∧ blk.getD 0 0 = hd.getD 2 0 ∧ (∀ m ∈ g.members, m.role = c.t.role → m.lane ≠ c.t.lane → m.st ≠ .live) ∧ ∃ k < 16, (hd.getD 2 0).getLsbD (16 + k) = true ∧ ((c.s.core c.core).tiles.getD k {}).conf = false) fun c => taskFault 0x2C) ∧
    (∀ h a b g e, FaultsAtIssue (.retire h a b) (fun c => c.s.gathering c.t.vol c.t.gidx = some g ∧ c.t.free = false ∧ c.slot ≠ 63 ∧ a = .z ∧ (g.retires = true → g.succ = none) ∧ b ≠ .z ∧ c.placePtr (c.g b) 64 rR 64 = .error e) fun c => e)

/-- Scalar loads and stores: what is sent (R195, R196, R197, R198, R231). A load or store whose place passes the checks of
its segment register sends one access of its width to that place, with the store’s data read at issue, and goes on;
`ldf`, `lde` and `stfe` park the strand until the access has landed. Where the checks fail it takes their fault at
issue. -/
def Obligations.LoadsAndStoresAreSent : Prop :=
    (∀ h m d a l, Completes (.ld h m d a) (fun c => c.place m.seg.val (c.offM a m.disp) (szB m.sz) rR (szB m.sz) = .ok l) fun c => (c.send (.ld false) (c.dest d) (memClass m.rx) (m.ord == .acq) [partAt l (szB m.sz)]).2.done) ∧
    (∀ h m d a l, Completes (.lds h m d a) (fun c => c.place m.seg.val (c.offM a m.disp) (szB m.sz) rR (szB m.sz) = .ok l) fun c => (c.send (.ld true) (c.dest d) (memClass m.rx) (m.ord == .acq) [partAt l (szB m.sz)]).2.done) ∧
    (∀ h m d a l, Completes (.st h m d a) (fun c => c.place m.seg.val (c.offM a m.disp) (szB m.sz) rW (szB m.sz) = .ok l) fun c => (c.send .st .none (memClass m.rx) (m.ord == .acq) [partAt l (szB m.sz) (c.g d)]).2.done) ∧
    (∀ h m d a l, Completes (.ldf h m d a) (fun c => c.place m.seg.val (c.offM a m.disp) 8 (rR + rF) 8 = .ok l) fun c => (c.send .ldf (c.dest d) (memClass m.rx) (m.ord == .acq) [partAt l 8]).2.blocked (c.send .ldf (c.dest d) (memClass m.rx) (m.ord == .acq) [partAt l 8]).1) ∧
    (∀ h m d a l, Completes (.lde h m d a) (fun c => c.place m.seg.val (c.offM a m.disp) 8 (rR + rW + rF) 8 = .ok l) fun c => (c.send .lde (c.dest d) (memClass m.rx) (m.ord == .acq) [partAt l 8]).2.blocked (c.send .lde (c.dest d) (memClass m.rx) (m.ord == .acq) [partAt l 8]).1) ∧
    (∀ h m d a l, Completes (.stf h m d a) (fun c => c.place m.seg.val (c.offM a m.disp) 8 (rW + rF) 8 = .ok l) fun c => (c.send .stf .none (memClass m.rx) (m.ord == .acq) [partAt l 8 (c.g d)]).2.done) ∧
    (∀ h m d a l, Completes (.stfe h m d a) (fun c => c.place m.seg.val (c.offM a m.disp) 8 (rW + rF) 8 = .ok l) fun c => (c.send .stfe .none (memClass m.rx) (m.ord == .acq) [partAt l 8 (c.g d)]).2.blocked (c.send .stfe .none (memClass m.rx) (m.ord == .acq) [partAt l 8 (c.g d)]).1) ∧
    (∀ h m a l, Completes (.clrf h m a) (fun c => c.place m.seg.val (c.offM a m.disp) 8 (rW + rF) 8 = .ok l) fun c => (c.send .clrf .none (memClass m.rx) (m.ord == .acq) [partAt l 8]).2.done) ∧
    (∀ h m d a e, FaultsAtIssue (.ld h m d a) (fun c => c.place m.seg.val (c.offM a m.disp) (szB m.sz) rR (szB m.sz) = .error e) fun c => { e with access := 0, size := Nat.log2 (szB m.sz) }) ∧
    (∀ h m d a e, FaultsAtIssue (.lds h m d a) (fun c => c.place m.seg.val (c.offM a m.disp) (szB m.sz) rR (szB m.sz) = .error e) fun c => { e with access := 0, size := Nat.log2 (szB m.sz) }) ∧
    (∀ h m d a e, FaultsAtIssue (.st h m d a) (fun c => c.place m.seg.val (c.offM a m.disp) (szB m.sz) rW (szB m.sz) = .error e) fun c => { e with access := 1, size := Nat.log2 (szB m.sz) }) ∧
    (∀ h m d a e, FaultsAtIssue (.ldf h m d a) (fun c => c.place m.seg.val (c.offM a m.disp) 8 (rR + rF) 8 = .error e) fun c => { e with access := 4, size := Nat.log2 8 }) ∧
    (∀ h m d a e, FaultsAtIssue (.lde h m d a) (fun c => c.place m.seg.val (c.offM a m.disp) 8 (rR + rW + rF) 8 = .error e) fun c => { e with access := 4, size := Nat.log2 8 }) ∧
    (∀ h m d a e, FaultsAtIssue (.stf h m d a) (fun c => c.place m.seg.val (c.offM a m.disp) 8 (rW + rF) 8 = .error e) fun c => { e with access := 4, size := Nat.log2 8 }) ∧
    (∀ h m d a e, FaultsAtIssue (.stfe h m d a) (fun c => c.place m.seg.val (c.offM a m.disp) 8 (rW + rF) 8 = .error e) fun c => { e with access := 4, size := Nat.log2 8 }) ∧
    (∀ h m a e, FaultsAtIssue (.clrf h m a) (fun c => c.place m.seg.val (c.offM a m.disp) 8 (rW + rF) 8 = .error e) fun c => { e with access := 4, size := Nat.log2 8 })

/-- Vector loads and stores: what is sent (R142, R143, R144, R145, R146, R231, R241). A 64-byte vector access sends eight
doubleword parts in ascending order; a folio store converts its register first; an indexed access sends one part per
element in ascending order. A place that fails the checks of its segment register is a fault at issue, and nothing is
sent. That a fault of an indexed access names the size of an element’s doubleword, and the other sizes, are the
model’s reading (assumption 80). -/
def Obligations.VectorMemoryIsSent : Prop :=
    (∀ h m d a l, Completes (.vld h m d a) (fun c => c.place m.seg.val (c.offM a m.disp) 64 rR 64 = .ok l) fun c => (c.send .vld (.v d) (memClass m.rx) (m.ord == .acq) (parts8 l 0)).2.done) ∧
    (∀ h m d a l, Completes (.vst h m d a) (fun c => c.place m.seg.val (c.offM a m.disp) 64 rW 64 = .ok l) fun c => (c.send .vst .none (memClass m.rx) (m.ord == .acq) (parts8 l (c.v d))).2.done) ∧
    (∀ h m d a l, Completes (.vldf h m d a) (fun c => c.place m.seg.val (c.offM a m.disp) 64 rR 64 = .ok l) fun c => (c.send (.vldf m.fmt (modeRm c.t.rmod)) (.v d) (memClass m.rx) false (parts8 l 0)).2.done) ∧
    (∀ h m d a l, Completes (.vstf h m d a) (fun c => c.place m.seg.val (c.offM a m.disp) 64 rW 64 = .ok l) fun c => (c.send .vstf .none (memClass m.rx) false (parts8 l (BitVec.ofNat 512 (folioWrite m.fmt (c.v d).toNat)))).2.done) ∧
    (∀ h m d a ls, Completes (.vldx h m d a) (fun c => c.places m.seg.val (2 ^ m.sz.code) rR ((List.range (64 / 2 ^ m.sz.code)).map fun j => (ofN (wrapN 64 (sxNat (8 * 2 ^ m.sz.code) (elemN (8 * 2 ^ m.sz.code) (c.v a).toNat j))) + sx64 m.disp).toNat) = .ok ls) fun c => (c.send .vldx (.v d) (memClass m.rx) false (ls.zipIdx.map fun p => partAt p.1 (2 ^ m.sz.code) 0)).2.done) ∧
    (∀ h m d a ls, Completes (.vstx h m d a) (fun c => c.places m.seg.val (2 ^ m.sz.code) rW ((List.range (64 / 2 ^ m.sz.code)).map fun j => (ofN (wrapN 64 (sxNat (8 * 2 ^ m.sz.code) (elemN (8 * 2 ^ m.sz.code) (c.v a).toNat j))) + sx64 m.disp).toNat) = .ok ls) fun c => (c.send .vstx .none (memClass m.rx) false (ls.zipIdx.map fun p => partAt p.1 (2 ^ m.sz.code) (ofN (elemN (8 * 2 ^ m.sz.code) (c.v d).toNat p.2)))).2.done) ∧
    (∀ h m d a e, FaultsAtIssue (.vld h m d a) (fun c => c.place m.seg.val (c.offM a m.disp) 64 rR 64 = .error e) fun c => { e with access := 5, size := 6 }) ∧
    (∀ h m d a e, FaultsAtIssue (.vst h m d a) (fun c => c.place m.seg.val (c.offM a m.disp) 64 rW 64 = .error e) fun c => { e with access := 5, size := 6 }) ∧
    (∀ h m d a e, FaultsAtIssue (.vldf h m d a) (fun c => c.place m.seg.val (c.offM a m.disp) 64 rR 64 = .error e) fun c => { e with access := 5, size := 6 }) ∧
    (∀ h m d a e, FaultsAtIssue (.vstf h m d a) (fun c => c.place m.seg.val (c.offM a m.disp) 64 rW 64 = .error e) fun c => { e with access := 5, size := 6 }) ∧
    (∀ h m d a e, FaultsAtIssue (.vldx h m d a) (fun c => c.places m.seg.val (2 ^ m.sz.code) rR ((List.range (64 / 2 ^ m.sz.code)).map fun j => (ofN (wrapN 64 (sxNat (8 * 2 ^ m.sz.code) (elemN (8 * 2 ^ m.sz.code) (c.v a).toNat j))) + sx64 m.disp).toNat) = .error e) fun c => { e with access := 5, size := 6 }) ∧
    (∀ h m d a e, FaultsAtIssue (.vstx h m d a) (fun c => c.places m.seg.val (2 ^ m.sz.code) rW ((List.range (64 / 2 ^ m.sz.code)).map fun j => (ofN (wrapN 64 (sxNat (8 * 2 ^ m.sz.code) (elemN (8 * 2 ^ m.sz.code) (c.v a).toNat j))) + sx64 m.disp).toNat) = .error e) fun c => { e with access := 5, size := 6 })

/-- Atomic operations: what is sent (R199, R200, R231, R393). An atomic at [sN + gA], whose segment needs the rights R, W
and A, sends one access with its operands; on a page of another module it is REMOTE_ATOMIC, and a place that fails the
segment’s checks is their fault at issue. -/
def Obligations.AtomicsAreSent : Prop :=
    (∀ h op m d a b l, Completes (.amo h op m d a b) (fun c0 => c0.place m.seg.val (c0.g a).toNat (szB m.sz) (rR + rW + rA) (szB m.sz) = .ok l ∧ c0.remote l = false) fun c0 => (c0.send (.amo op) (c0.dest d) (memClass m.rx) (m.ord == .acq) [partAt l (szB m.sz)] (c0.g b) 0).2.done) ∧
    (∀ h m d a b c l, Completes (.cas h m d a b c) (fun c0 => c0.place m.seg.val (c0.g a).toNat (szB m.sz) (rR + rW + rA) (szB m.sz) = .ok l ∧ c0.remote l = false) fun c0 => (c0.send .cas (c0.dest d) (memClass m.rx) (m.ord == .acq) [partAt l (szB m.sz)] (c0.g b) (c0.g c)).2.done) ∧
    (∀ h op m d a b l, Completes (.amof h op m d a b) (fun c0 => c0.place m.seg.val (c0.g a).toNat (szB m.sz) (rR + rW + rA) (szB m.sz) = .ok l ∧ c0.remote l = false) fun c0 => (c0.send (.amof op) (c0.dest d) (memClass m.rx) (m.ord == .acq) [partAt l (szB m.sz)] (c0.g b) 0).2.done) ∧
    (∀ h op m d a b l, FaultsAtIssue (.amo h op m d a b) (fun c0 => c0.place m.seg.val (c0.g a).toNat (szB m.sz) (rR + rW + rA) (szB m.sz) = .ok l ∧ c0.remote l = true) fun c0 => { taskFault 0x39 l.shown with access := 2, size := Nat.log2 (szB m.sz) }) ∧
    (∀ h m d a b c l, FaultsAtIssue (.cas h m d a b c) (fun c0 => c0.place m.seg.val (c0.g a).toNat (szB m.sz) (rR + rW + rA) (szB m.sz) = .ok l ∧ c0.remote l = true) fun c0 => { taskFault 0x39 l.shown with access := 2, size := Nat.log2 (szB m.sz) }) ∧
    (∀ h op m d a b l, FaultsAtIssue (.amof h op m d a b) (fun c0 => c0.place m.seg.val (c0.g a).toNat (szB m.sz) (rR + rW + rA) (szB m.sz) = .ok l ∧ c0.remote l = true) fun c0 => { taskFault 0x39 l.shown with access := 2, size := Nat.log2 (szB m.sz) }) ∧
    (∀ h op m d a b e, FaultsAtIssue (.amo h op m d a b) (fun c0 => c0.place m.seg.val (c0.g a).toNat (szB m.sz) (rR + rW + rA) (szB m.sz) = .error e) fun c0 => { e with access := 2, size := Nat.log2 (szB m.sz) }) ∧
    (∀ h m d a b c e, FaultsAtIssue (.cas h m d a b c) (fun c0 => c0.place m.seg.val (c0.g a).toNat (szB m.sz) (rR + rW + rA) (szB m.sz) = .error e) fun c0 => { e with access := 2, size := Nat.log2 (szB m.sz) }) ∧
    (∀ h op m d a b e, FaultsAtIssue (.amof h op m d a b) (fun c0 => c0.place m.seg.val (c0.g a).toNat (szB m.sz) (rR + rW + rA) (szB m.sz) = .error e) fun c0 => { e with access := 2, size := Nat.log2 (szB m.sz) })

/-- Sync words, segment registers and abstracts (R202, R203, R204, R244, R245, R246, R303). `swarm` with a target out of
range answers BADTARGET at once; the sync-word instructions, `segld`, `segst` and `kabs` send their access through a
segment pointer; `swwait` and `segld` park the strand; a `swadd` amount above 24 bits is SYNCARG, and a pointer that
fails its checks is their fault at issue; `segrd` reads a half of a segment register. That `swarm` answers BADTARGET
without translating its address is the model’s choice (assumption 79), and the access codes 4 of the sync-word
instructions and 6 of `segld`, `segst` and `kabs` in their faults are its reading (assumption 32). -/
def Obligations.SyncWordsAndSegmentsAreSent : Prop :=
    (∀ h d a b l, Completes (.swarm h d a b) (fun c => c.placePtr (c.g a) 8 (rW + rF) 8 = .ok l ∧ (c.g b = 0 ∨ 2 ^ 24 ≤ (c.g b).toNat)) fun c => (c.result d (ofN (2 * 2 ^ 16))).done) ∧
    (∀ h d a b l, Completes (.swarm h d a b) (fun c => c.placePtr (c.g a) 8 (rW + rF) 8 = .ok l ∧ c.g b ≠ 0 ∧ (c.g b).toNat < 2 ^ 24) fun c => (c.send .swarm (c.dest d) .ordered false [partAt l 8] (c.g b)).2.done) ∧
    (∀ h a b l, Completes (.swadd h a b) (fun c => c.placePtr (c.g a) 8 (rW + rF) 8 = .ok l ∧ (c.g b).toNat < 2 ^ 24) fun c => (c.send .swadd .none .ordered false [partAt l 8] (c.g b)).2.done) ∧
    (∀ h a b l, FaultsAtIssue (.swadd h a b) (fun c => c.placePtr (c.g a) 8 (rW + rF) 8 = .ok l ∧ 2 ^ 24 ≤ (c.g b).toNat) fun c => taskFault 0x15) ∧
    (∀ h a b l, Completes (.swwait h a b) (fun c => c.placePtr (c.g a) 8 (rR + rF) 8 = .ok l) fun c => (c.send .swwait .none .ordered true [partAt l 8] (c.g b)).2.blocked (c.send .swwait .none .ordered true [partAt l 8] (c.g b)).1) ∧
    (∀ h d a l, Completes (.swrd h d a) (fun c => c.placePtr (c.g a) 8 (rR + rF) 8 = .ok l) fun c => (c.send .swrd (c.dest d) .ordered true [partAt l 8] 0).2.done) ∧
    (∀ h d a l, Completes (.segld h d a) (fun c => c.placePtr (c.g a) 16 rR 16 = .ok l) fun c => (c.send (.segld d) (.s d.val) .ordered false [partAt l 8, partAt (l.plus 8) 8] 0).2.blocked (c.send (.segld d) (.s d.val) .ordered false [partAt l 8, partAt (l.plus 8) 8] 0).1) ∧
    (∀ h a b l, Completes (.segst h a b) (fun c => c.placePtr (c.g a) 16 rW 16 = .ok l) fun c => (c.send .segst .none .ordered false [partAt l 8 (ofN (descLow (c.t.sreg b.val))), partAt (l.plus 8) 8 (ofN (descHigh (c.t.sreg b.val)))] 0).2.done) ∧
    (∀ h hi d a, Completes (.segrd h hi d a) anyCtx fun c => (c.put d (ofN (if hi then descHigh (c.t.sreg a.val) else descLow (c.t.sreg a.val)))).done) ∧
    (∀ h d a l, Completes (.kabs h d a) (fun c => c.placePtr (c.g a) 1 (rR + rW) 1 = .ok l) fun c => (c.send .kabs (c.dest d) .other false [partAt l 1] 0).2.done) ∧
    (∀ h d a b e, FaultsAtIssue (.swarm h d a b) (fun c => c.placePtr (c.g a) 8 (rW + rF) 8 = .error e) fun c => { e with access := 4, size := Nat.log2 8 }) ∧
    (∀ h a b e, FaultsAtIssue (.swadd h a b) (fun c => c.placePtr (c.g a) 8 (rW + rF) 8 = .error e) fun c => { e with access := 4, size := Nat.log2 8 }) ∧
    (∀ h a b e, FaultsAtIssue (.swwait h a b) (fun c => c.placePtr (c.g a) 8 (rR + rF) 8 = .error e) fun c => { e with access := 4, size := Nat.log2 8 }) ∧
    (∀ h d a e, FaultsAtIssue (.swrd h d a) (fun c => c.placePtr (c.g a) 8 (rR + rF) 8 = .error e) fun c => { e with access := 4, size := Nat.log2 8 }) ∧
    (∀ h d a e, FaultsAtIssue (.segld h d a) (fun c => c.placePtr (c.g a) 16 rR 16 = .error e) fun c => { e with access := 6, size := Nat.log2 16 }) ∧
    (∀ h a b e, FaultsAtIssue (.segst h a b) (fun c => c.placePtr (c.g a) 16 rW 16 = .error e) fun c => { e with access := 6, size := Nat.log2 16 }) ∧
    (∀ h d a e, FaultsAtIssue (.kabs h d a) (fun c => c.placePtr (c.g a) 1 (rR + rW) 1 = .error e) fun c => { e with access := 6, size := Nat.log2 1 })

/-- Fences, invalidation and page requests (R201, R247, R248, R250, R251). `fence` completes once its strand’s results
have landed; `cfence` empties the core’s instruction cache; `tlbi` broadcasts an invalidation of its range; `tlbsync`
completes when the strand’s invalidations are over; `upret` makes a faulter READY, or gives it the upcall’s own slot
if its slip is still well formed, and names it or faults; `pgrq` joins a queued request for its page, opens a new one,
or answers that the queue is full or that its pointer is none of a `dv` segment. That `pgrq` asks for no right of its
pointer and for W of its result word is the model’s reading (assumption 81), and so is that a request joins one for
the same 4 KiB (assumption 35). -/
def Obligations.FencesAndInvalidation : Prop :=
    (∀ h k sc, Completes (.fence h k sc) anyCtx fun c => c.done) ∧
    (∀ h, Completes (.cfence h) anyCtx fun c => ({ c with s := c.s.setCore c.core { c.s.core c.core with icache := [] } } : Ctx).done) ∧
    (∀ h a b, Completes (.tlbi h a b) anyCtx fun c => (Ctx.done { c with s := State.push { c.s.fresh.2 with tlbis := c.s.fresh.2.tlbis ++ [{ id := c.s.fresh.1, uid := c.t.uid, vol := fld (c.g a) 63 48, lo := fld (c.g a) 47 0, hi := if (c.g b).toNat = 0 ∨ 2 ^ 48 < fld (c.g a) 47 0 + (c.g b).toNat then 2 ^ 48 else fld (c.g a) 47 0 + (c.g b).toNat }] } (.tlbiTakesEffect c.s.fresh.1), t := { c.t with tlbis := c.t.tlbis ++ [c.s.fresh.1] } })) ∧
    (∀ h, Completes (.tlbsync h) (fun c => c.s.tlbsyncDone c.t = true) fun c => (Ctx.done { c with s := { c.s with tlbis := c.s.tlbis.filter fun x => !(c.t.tlbis.contains x.id) }, t := { c.t with tlbis := [] } })) ∧
    (∀ h a pa, Completes (.upret h a) (fun c => c.s.slipAt c.t.vol (c.g a).toNat = some pa ∧ c.s.slipVol pa = c.t.vol ∧ c.s.slipState pa = 2 ∧ (c.s.slipFault pa).1 = 2 ∧ c.t.faulter ≠ some (c.g a).toNat) fun c => (Ctx.done { c with s := (c.s.setSlipFault pa 0 0).appendRun ((c.s.setSlipFault pa 0 0).slipHome pa) ((c.s.setSlipFault pa 0 0).slipPrio pa) c.t.vol pa })) ∧
    (∀ h a pa, Completes (.upret h a) (fun c => c.s.slipAt c.t.vol (c.g a).toNat = some pa ∧ c.s.slipVol pa = c.t.vol ∧ c.s.slipState pa = 2 ∧ (c.s.slipFault pa).1 = 2 ∧ c.t.faulter = some (c.g a).toNat ∧ ((c.s.setSlipFault pa 0 0).endStrand c.core c.slot c.t).slipOk pa = true) fun c => (((c.s.setSlipFault pa 0 0).endStrand c.core c.slot c.t).loadSlip c.core c.slot c.t.vol pa c.t.gran)) ∧
    (∀ h d a b n off va r s c, enters (formOf (.pgrq h d a b)) s = some c → ptrParts (c.g a) = .ok (n, off) → ((b = .z ∧ r = none) ∨ (b ≠ .z ∧ ∃ v x, c.placePtr (c.g b) 8 rW 1 = .ok (Loc.va v x) ∧ r = some (Loc.va v x))) → descType (c.t.sreg n) = 1 → segCheck (c.t.sreg n) off 1 0 1 = .ok va → (c.s.cluster (clusterOf c.core)).pages.any (fun p => p.vol == c.t.vol && p.page == va / 4096 * 4096) = true → exec (.pgrq h d a b) s = .next (Ctx.result { c with s := c.s.setCluster (clusterOf c.core) { c.s.cluster (clusterOf c.core) with pages := mapIf (fun p => p.vol == c.t.vol && p.page == va / 4096 * 4096) (fun p => { p with waiters := p.waiters ++ [{ core := c.core, lane := c.t.lane, res := r, svc := none }] }) (c.s.cluster (clusterOf c.core)).pages } } d 0).done) ∧
    (∀ h d a b n off va r s c, enters (formOf (.pgrq h d a b)) s = some c → ptrParts (c.g a) = .ok (n, off) → ((b = .z ∧ r = none) ∨ (b ≠ .z ∧ ∃ v x, c.placePtr (c.g b) 8 rW 1 = .ok (Loc.va v x) ∧ r = some (Loc.va v x))) → descType (c.t.sreg n) = 1 → segCheck (c.t.sreg n) off 1 0 1 = .ok va → (c.s.cluster (clusterOf c.core)).pages.any (fun p => p.vol == c.t.vol && p.page == va / 4096 * 4096) = false → 64 ≤ (c.s.cluster (clusterOf c.core)).pages.length → exec (.pgrq h d a b) s = .next (c.result d 1).done) ∧
    (∀ h d a b n off va r s c, enters (formOf (.pgrq h d a b)) s = some c → ptrParts (c.g a) = .ok (n, off) → ((b = .z ∧ r = none) ∨ (b ≠ .z ∧ ∃ v x, c.placePtr (c.g b) 8 rW 1 = .ok (Loc.va v x) ∧ r = some (Loc.va v x))) → descType (c.t.sreg n) = 1 → segCheck (c.t.sreg n) off 1 0 1 = .ok va → (c.s.cluster (clusterOf c.core)).pages.any (fun p => p.vol == c.t.vol && p.page == va / 4096 * 4096) = false → (c.s.cluster (clusterOf c.core)).pages.length < 64 → exec (.pgrq h d a b) s = .next (Ctx.result { c with s := State.pushNew (c.s.fresh.2.setCluster (clusterOf c.core) { c.s.cluster (clusterOf c.core) with pages := (c.s.cluster (clusterOf c.core)).pages ++ [{ id := c.s.fresh.1, vol := c.t.vol, page := va / 4096 * 4096, waiters := [{ core := c.core, lane := c.t.lane, res := r, svc := none }], core := c.core, slot := c.slot, gidx := c.t.gidx }] }) (.pageRequestForward (clusterOf c.core)) } d 0).done) ∧
    (∀ h d a b n off r s c, enters (formOf (.pgrq h d a b)) s = some c → ptrParts (c.g a) = .ok (n, off) → ((b = .z ∧ r = none) ∨ (b ≠ .z ∧ ∃ v x, c.placePtr (c.g b) 8 rW 1 = .ok (Loc.va v x) ∧ r = some (Loc.va v x))) → (descType (c.t.sreg n) ≠ 1 ∨ ∃ e, segCheck (c.t.sreg n) off 1 0 1 = .error e) → exec (.pgrq h d a b) s = .next (c.result d 2).done) ∧
    (∀ h a pa, Completes (.upret h a) (fun c => c.s.slipAt c.t.vol (c.g a).toNat = some pa ∧ c.s.slipVol pa = c.t.vol ∧ c.s.slipState pa = 2 ∧ (c.s.slipFault pa).1 = 2 ∧ c.t.faulter = some (c.g a).toNat ∧ ((c.s.setSlipFault pa 0 0).endStrand c.core c.slot c.t).slipOk pa = false) fun c => (((c.s.setSlipFault pa 0 0).endStrand c.core c.slot c.t).refuseSlip c.core c.slot c.core c.t.vol pa)) ∧
    (∀ h a, FaultsAtIssue (.upret h a) (fun c => c.s.slipAt c.t.vol (c.g a).toNat = none ∨ ∃ pa, c.s.slipAt c.t.vol (c.g a).toNat = some pa ∧ (c.s.slipVol pa ≠ c.t.vol ∨ c.s.slipState pa ≠ 2 ∨ (c.s.slipFault pa).1 ≠ 2)) fun c => taskFault 0x01 (c.g a).toNat)

/-- Special functions (R153, R158, R416). `sfn` sends its operation: on a ready unit its value and flags return after two
frames; on a fenced unit it returns a FENCED fault; before the unit has reported, it waits. -/
def Obligations.SpecialFunctionResult : Prop :=
    (∀ h f d a b fn, Completes (.sfn h f d a b fn) (fun c => c.s.isFenced .sfu (clusterOf c.core) = false ∧ c.s.clusterFenced (clusterOf c.core) = false ∧ c.s.isReady .sfu (clusterOf c.core) = true) fun c => (Ctx.replyIn ((c.op (c.dest d)).2.setOp (c.op (c.dest d)).1 fun o => { o with stage := .done, val := BitVec.ofNat 512 (sfnValue fn.toNat (modeRm c.t.rmod) f (c.g a).toNat (c.g b).toNat).1, flags := (sfnValue fn.toNat (modeRm c.t.rmod) f (c.g a).toNat (c.g b).toNat).2, fault := none }) 2 (c.op (c.dest d)).1).done) ∧
    (∀ h f d a b fn, Completes (.sfn h f d a b fn) (fun c => c.s.isFenced .sfu (clusterOf c.core) = true ∨ c.s.clusterFenced (clusterOf c.core) = true) fun c => (Ctx.replyIn ((c.op (c.dest d)).2.setOp (c.op (c.dest d)).1 fun o => { o with stage := .done, val := BitVec.ofNat 512 (sfnValue fn.toNat (modeRm c.t.rmod) f (c.g a).toNat (c.g b).toNat).1, flags := 0, fault := some { cls := 5, code := 3 } }) 2 (c.op (c.dest d)).1).done) ∧
    (∀ h f d a b fn, Completes (.sfn h f d a b fn) (fun c => c.s.isFenced .sfu (clusterOf c.core) = false ∧ c.s.clusterFenced (clusterOf c.core) = false ∧ c.s.isReady .sfu (clusterOf c.core) = false) fun c => ((c.op (c.dest d)).2.setOp (c.op (c.dest d)).1 fun o => { o with stage := .sent, val := BitVec.ofNat 512 (sfnValue fn.toNat (modeRm c.t.rmod) f (c.g a).toNat (c.g b).toNat).1, flags := (sfnValue fn.toNat (modeRm c.t.rmod) f (c.g a).toNat (c.g b).toNat).2, fault := none }).done)

/-- Tile instructions (R252, R254, R274, R275, R276, R277, R278, R279, R281). `tcfg` configures the tiles of its mask from
the block and zeroes their units, or answers that an entry is bad or tiles overlap; `trel` and `tzero` without a
pending task act at once; `twait` completes when no task is pending; `tld`, `tst`, `tget`, `tset` and `mmar` send one
direct operation to their tile; `msset` sets a stream and `msrd` answers its residue and position. A free strand, slot
63 or a tile of another strand is TILE_OWNER, an unconfigured tile or an index beyond the tile TILE_STATE, and `msset`
takes its segment’s fault. -/
def Obligations.TileInstructions : Prop :=
    (∀ h d a mask l ws, Completes (.tcfg h d a mask) (fun c => c.placePtr (c.g a) 128 rR 64 = .ok l ∧ c.tileFault mask.toNat false = none ∧ c.s.tilePending c.core c.t.uid mask.toNat = false ∧ c.walk l 128 .read = none ∧ c.s.readRec (clusterOf c.core) l 16 = .ok ws ∧ mask = 0) fun c => (c.result d 3).done) ∧
    (∀ h d a mask l ws, Completes (.tcfg h d a mask) (fun c => c.placePtr (c.g a) 128 rR 64 = .ok l ∧ c.tileFault mask.toNat false = none ∧ c.s.tilePending c.core c.t.uid mask.toNat = false ∧ c.walk l 128 .read = none ∧ c.s.readRec (clusterOf c.core) l 16 = .ok ws ∧ mask ≠ 0 ∧ ((List.range 16).filter (bitN mask.toNat)).any (fun i => badTileEntry (ws.getD i 0)) = true) fun c => (c.result d 1).done) ∧
    (∀ h d a mask l ws, Completes (.tcfg h d a mask) (fun c => c.placePtr (c.g a) 128 rR 64 = .ok l ∧ c.tileFault mask.toNat false = none ∧ c.s.tilePending c.core c.t.uid mask.toNat = false ∧ c.walk l 128 .read = none ∧ c.s.readRec (clusterOf c.core) l 16 = .ok ws ∧ mask ≠ 0 ∧ ((List.range 16).filter (bitN mask.toNat)).any (fun i => badTileEntry (ws.getD i 0)) = false ∧ c.tilesClash mask.toNat (((List.range 16).filter (bitN mask.toNat)).map (fun i => (i, tileOfEntry (ws.getD i 0) c.t.vol c.t.gidx c.t.lane))) = true) fun c => (c.result d 2).done) ∧
    (∀ h d a mask l ws, Completes (.tcfg h d a mask) (fun c => c.placePtr (c.g a) 128 rR 64 = .ok l ∧ c.tileFault mask.toNat false = none ∧ c.s.tilePending c.core c.t.uid mask.toNat = false ∧ c.walk l 128 .read = none ∧ c.s.readRec (clusterOf c.core) l 16 = .ok ws ∧ mask ≠ 0 ∧ ((List.range 16).filter (bitN mask.toNat)).any (fun i => badTileEntry (ws.getD i 0)) = false ∧ c.tilesClash mask.toNat (((List.range 16).filter (bitN mask.toNat)).map (fun i => (i, tileOfEntry (ws.getD i 0) c.t.vol c.t.gidx c.t.lane))) = false) fun c => (Ctx.result { c with s := c.s.setCore c.core ((((List.range 16).filter (bitN mask.toNat)).map (fun i => (i, tileOfEntry (ws.getD i 0) c.t.vol c.t.gidx c.t.lane))).foldl (fun (k : Core) x => (k.zeroUnits x.2).setTile x.1 x.2) (c.s.core c.core)) } d 0).done) ∧
    (∀ h mask s c, enters (formOf (.trel h mask)) s = some c → noTaskPending s mask.toNat → c.tileFault mask.toNat false = none → c.s.tilePending c.core c.t.uid mask.toNat = false → c.s.tileBusy c.core mask.toNat = false → exec (.trel h mask) s = .next (c.tilesDone mask.toNat fun k i => k.releaseTile i)) ∧
    (∀ h mask s c, enters (formOf (.tzero h mask)) s = some c → noTaskPending s mask.toNat → c.tileFault mask.toNat true = none → c.s.tilePending c.core c.t.uid mask.toNat = false → c.s.tileBusy c.core mask.toNat = false → exec (.tzero h mask) s = .next (c.tilesDone mask.toNat fun k i => (k.zeroTile i).setTile i { (k.zeroTile i).tile i with halted := false })) ∧
    (∀ h mask, Completes (.twait h mask) (fun c => c.tileFault mask.toNat false = none ∧ c.s.tilePending c.core c.t.uid mask.toNat = false) fun c => c.done) ∧
    (∀ h f t a b, Completes (.tld h f t a b) (fun c => c.tileFault (2 ^ t.val) true = none ∧ c.s.tilePending c.core c.t.uid (2 ^ t.val) = false) fun c => c.tileSent .none t.val (.tld f (c.g a) (c.g b))) ∧
    (∀ h f rm t a b, Completes (.tst h f rm t a b) (fun c => c.tileFault (2 ^ t.val) true = none ∧ c.s.tilePending c.core c.t.uid (2 ^ t.val) = false) fun c => c.tileSent .none t.val (.tst f rm (c.g a) (c.g b))) ∧
    (∀ h err t d a, Completes (.tget h err t d a) (fun c => c.tileFault (2 ^ t.val) true = none ∧ c.s.tilePending c.core c.t.uid (2 ^ t.val) = false ∧ (c.g a).toNat < ((c.s.core c.core).tile t.val).rows * ((c.s.core c.core).tile t.val).cols) fun c => c.tileSent (c.dest d) t.val (.tget err (c.g a).toNat)) ∧
    (∀ h err t a b, Completes (.tset h err t a b) (fun c => c.tileFault (2 ^ t.val) true = none ∧ c.s.tilePending c.core c.t.uid (2 ^ t.val) = false ∧ (c.g a).toNat < ((c.s.core c.core).tile t.val).rows * ((c.s.core c.core).tile t.val).cols) fun c => c.tileSent .none t.val (.tset err (c.g a).toNat (c.g b))) ∧
    (∀ h f t a b, Completes (.mmar h f t a b) (fun c => c.tileFault (2 ^ t.val) true = none ∧ c.s.tilePending c.core c.t.uid (2 ^ t.val) = false ∧ ((c.s.core c.core).tile t.val).modeK = kFormat f) fun c => c.tileSent .none t.val (.mmar f ((quad a).flatMap fun v => (List.range 8).map fun j => c.t.g (8 * v.val + j)) ((quad b).flatMap fun v => (List.range 8).map fun j => c.t.g (8 * v.val + j)))) ∧
    (∀ h f t a b, FaultsAtIssue (.mmar h f t a b) (fun c => c.tileFault (2 ^ t.val) true = none ∧ ((c.s.core c.core).tile t.val).modeK ≠ kFormat f) fun c => taskFault 0x22) ∧
    (∀ h m a b n off, Completes (.msset h m a b) (fun c => ptrParts (c.g a) = .ok (n, off) ∧ descType (c.t.sreg n) = 3 ∧ hasRights (descRights (c.t.sreg n)) rR = true ∧ ((c.g b).toNat % 2 = 0 ∧ (c.g b).toNat ≠ 0 ∧ off + (c.g b).toNat ≤ descLimit (c.t.sreg n) ∧ c.s.streamPending c.core c.t.uid m.val = false)) fun c => (Ctx.done { c with s := c.s.setCore c.core { c.s.core c.core with streams := setAt (c.s.core c.core).streams m.val { base := descBase (c.t.sreg n) + off, len := (c.g b).toNat } } })) ∧
    (∀ h m d, Completes (.msrd h m d) (fun c => c.s.streamPending c.core c.t.uid m.val = false) fun c => (c.result d (ofN (((c.s.core c.core).streams.getD m.val {}).res % 65536 * 2 ^ 32 + ((c.s.core c.core).streams.getD m.val {}).pos % 2 ^ 32))).done) ∧
    (∀ h f t a b, FaultsAtIssue (.tld h f t a b) (fun c => c.tileForeign (2 ^ t.val)) fun c => taskFault 0x20) ∧
    (∀ h f rm t a b, FaultsAtIssue (.tst h f rm t a b) (fun c => c.tileForeign (2 ^ t.val)) fun c => taskFault 0x20) ∧
    (∀ h err t d a, FaultsAtIssue (.tget h err t d a) (fun c => c.tileForeign (2 ^ t.val)) fun c => taskFault 0x20) ∧
    (∀ h err t a b, FaultsAtIssue (.tset h err t a b) (fun c => c.tileForeign (2 ^ t.val)) fun c => taskFault 0x20) ∧
    (∀ h f t a b, FaultsAtIssue (.mmar h f t a b) (fun c => c.tileForeign (2 ^ t.val)) fun c => taskFault 0x20) ∧
    (∀ h f t a b, FaultsAtIssue (.tld h f t a b) (fun c => ¬ c.tileForeign (2 ^ t.val) ∧ c.tileUnset (2 ^ t.val)) fun c => taskFault 0x21) ∧
    (∀ h f rm t a b, FaultsAtIssue (.tst h f rm t a b) (fun c => ¬ c.tileForeign (2 ^ t.val) ∧ c.tileUnset (2 ^ t.val)) fun c => taskFault 0x21) ∧
    (∀ h err t d a, FaultsAtIssue (.tget h err t d a) (fun c => ¬ c.tileForeign (2 ^ t.val) ∧ c.tileUnset (2 ^ t.val)) fun c => taskFault 0x21) ∧
    (∀ h err t a b, FaultsAtIssue (.tset h err t a b) (fun c => ¬ c.tileForeign (2 ^ t.val) ∧ c.tileUnset (2 ^ t.val)) fun c => taskFault 0x21) ∧
    (∀ h f t a b, FaultsAtIssue (.mmar h f t a b) (fun c => ¬ c.tileForeign (2 ^ t.val) ∧ c.tileUnset (2 ^ t.val)) fun c => taskFault 0x21) ∧
    (∀ h err t d a, FaultsAtIssue (.tget h err t d a) (fun c => ¬ c.tileForeign (2 ^ t.val) ∧ ¬ c.tileUnset (2 ^ t.val) ∧ ((c.s.core c.core).tile t.val).rows * ((c.s.core c.core).tile t.val).cols ≤ (c.g a).toNat) fun c => taskFault 0x21) ∧
    (∀ h err t a b, FaultsAtIssue (.tset h err t a b) (fun c => ¬ c.tileForeign (2 ^ t.val) ∧ ¬ c.tileUnset (2 ^ t.val) ∧ ((c.s.core c.core).tile t.val).rows * ((c.s.core c.core).tile t.val).cols ≤ (c.g a).toNat) fun c => taskFault 0x21) ∧
    (∀ h mask, FaultsAtIssue (.twait h mask) (fun c => c.tileForeign mask.toNat) fun c => taskFault 0x20) ∧
    (∀ h d a mask l, FaultsAtIssue (.tcfg h d a mask) (fun c => c.placePtr (c.g a) 128 rR 64 = .ok l ∧ c.tileForeign mask.toNat) fun c => taskFault 0x20) ∧
    (∀ h d a mask e, FaultsAtIssue (.tcfg h d a mask) (fun c => c.placePtr (c.g a) 128 rR 64 = .error e) fun c => e) ∧
    (∀ h mask s c, enters (formOf (.trel h mask)) s = some c → noTaskPending s mask.toNat → c.tileForeign mask.toNat → exec (.trel h mask) s = .next (c.s.faultAtIssue c.core c.slot c.t (taskFault 0x20) c.word)) ∧
    (∀ h mask s c, enters (formOf (.tzero h mask)) s = some c → noTaskPending s mask.toNat → c.tileForeign mask.toNat → exec (.tzero h mask) s = .next (c.s.faultAtIssue c.core c.slot c.t (taskFault 0x20) c.word)) ∧
    (∀ h mask s c, enters (formOf (.tzero h mask)) s = some c → noTaskPending s mask.toNat → ¬ c.tileForeign mask.toNat → c.tileUnset mask.toNat → exec (.tzero h mask) s = .next (c.s.faultAtIssue c.core c.slot c.t (taskFault 0x21) c.word)) ∧
    (∀ h m a b n off, FaultsAtIssue (.msset h m a b) (fun c => ptrParts (c.g a) = .ok (n, off) ∧ descType (c.t.sreg n) = 0) fun c => segFault 0x01 (fld (c.g a) 60 0)) ∧
    (∀ h m a b n off, FaultsAtIssue (.msset h m a b) (fun c => ptrParts (c.g a) = .ok (n, off) ∧ descType (c.t.sreg n) ≠ 0 ∧ descType (c.t.sreg n) ≠ 3) fun c => segFault 0x06 (fld (c.g a) 60 0)) ∧
    (∀ h m a b n off, FaultsAtIssue (.msset h m a b) (fun c => ptrParts (c.g a) = .ok (n, off) ∧ descType (c.t.sreg n) = 3 ∧ hasRights (descRights (c.t.sreg n)) rR = false) fun c => segFault 0x02 (fld (c.g a) 60 0)) ∧
    (∀ h m a b n off, FaultsAtIssue (.msset h m a b) (fun c => ptrParts (c.g a) = .ok (n, off) ∧ descType (c.t.sreg n) = 3 ∧ hasRights (descRights (c.t.sreg n)) rR = true ∧ (c.g b).toNat % 2 = 1) fun c => segFault 0x03 (fld (c.g a) 60 0)) ∧
    (∀ h m a b n off, FaultsAtIssue (.msset h m a b) (fun c => ptrParts (c.g a) = .ok (n, off) ∧ descType (c.t.sreg n) = 3 ∧ hasRights (descRights (c.t.sreg n)) rR = true ∧ (c.g b).toNat % 2 = 0 ∧ ((c.g b).toNat = 0 ∨ descLimit (c.t.sreg n) < off + (c.g b).toNat)) fun c => segFault 0x04 (fld (c.g a) 60 0))

/-- Engine instructions: what is sent (R260, R280, R283, R305, R319, R337, R352, R362, R384). An engine instruction whose
record pointer and sync-word pointer pass their checks sends one request to its unit, with an outstanding operation
for the status; what the unit makes of it is the unit’s own step. `tenq` with a bad count answers 0xFF02 at once. -/
def Obligations.EngineRequestsAreSent : Prop :=
    (∀ h d a b r, Completes (.cpy h d a b) (fun c => c.enginePtr (c.g a) 64 (rR + rE) 64 = .ok r ∧ c.syncOk b) fun c => c.unitSent d .cpy (c.g a) (c.syncWord b) 0) ∧
    (∀ h d a b r, Completes (.cpyRp h d a b) (fun c => c.enginePtr (c.g a) 64 (rR + rE) 64 = .ok r ∧ c.syncOk b) fun c => c.unitSent d .cpyRp (c.g a) (c.syncWord b) 1) ∧
    (∀ h d a b r, Completes (.gath h d a b) (fun c => c.enginePtr (c.g a) 64 (rR + rE) 64 = .ok r ∧ c.syncOk b) fun c => c.unitSent d .gath (c.g a) (c.syncWord b) 0) ∧
    (∀ h d a b r, Completes (.scat h d a b) (fun c => c.enginePtr (c.g a) 64 (rR + rE) 64 = .ok r ∧ c.syncOk b) fun c => c.unitSent d .scat (c.g a) (c.syncWord b) 0) ∧
    (∀ h d a b r, Completes (.cmpct h d a b) (fun c => c.enginePtr (c.g a) 64 (rR + rE) 64 = .ok r ∧ c.syncOk b) fun c => c.unitSent d .cmpct (c.g a) (c.syncWord b) 0) ∧
    (∀ h d a b r, Completes (.dcpy h d a b) (fun c => c.enginePtr (c.g a) 64 (rR + rE) 64 = .ok r ∧ c.syncOk b) fun c => c.unitSent d .dcpy (c.g a) (c.syncWord b) 0) ∧
    (∀ h note d a b r, Completes (.ksel h note d a b) (fun c => c.enginePtr (c.g a) 64 (rR + rE) 64 [2] = .ok r ∧ c.syncOk b) fun c => c.unitSent d .ksel (c.g a) (c.syncWord b) (if note then 1 else 0)) ∧
    (∀ h note d a b r, Completes (.kgath h note d a b) (fun c => c.enginePtr (c.g a) 64 (rR + rE) 64 [2] = .ok r ∧ c.syncOk b) fun c => c.unitSent d .kgath (c.g a) (c.syncWord b) (if note then 1 else 0)) ∧
    (∀ h note d a b l, Completes (.emb h note d a b) (fun c => c.enginePtr (c.g a) 64 (rR + rE) 64 = .ok (1, l) ∧ (∃ k kp, c.s.locKey (clusterOf c.core) l .read = .key k kp ∧ isAnnex k = true) ∧ c.syncOk b [2, 3]) fun c => c.unitSent d .emb (c.g a) (c.syncWord b) (if note then 1 else 0)) ∧
    (∀ h d a b tag l, Completes (.spec h d a b tag) (fun c => c.enginePtr (c.g b) 64 (rR + rW + rE) 64 = .ok (1, l)) fun c => c.unitSent d .spec (c.g a) (some (c.g b)) tag.toNat) ∧
    (∀ h d a b, Completes (.tenq h d a b) (fun c => 128 ≤ (c.g b).toNat ∨ 64 < (c.g b).toNat % 128) fun c => (c.result d 0xFF02).done) ∧
    (∀ h d a b r, Completes (.tenq h d a b) (fun c => (c.g b).toNat ≤ 64 ∧ c.enginePtr (c.g a) (64 * (if (c.g b).toNat % 128 = 0 then 1 else (c.g b).toNat % 128)) (rR + rE) 64 = .ok r) fun c => c.unitSent d .tenq (c.g a) none (if (c.g b).toNat % 128 = 0 then 1 else (c.g b).toNat % 128)) ∧
    (∀ h d a b r, Completes (.launch h d a b) (fun c => c.enginePtr (c.g a) 256 (rR + rE) 64 = .ok r ∧ c.syncOk b) fun c => c.circSent d .launch (c.g a) (c.syncWord b) 0) ∧
    (∀ h note d a l, Completes (.nsend h note d a) (fun c => c.enginePtr (c.g a) 64 (rR + rE) 64 = .ok (1, l)) fun c => c.netSent d .nsend (c.g a) (if note then 1 else 0)) ∧
    (∀ h note d a l, Completes (.nread h note d a) (fun c => c.enginePtr (c.g a) 64 (rR + rE) 64 = .ok (1, l)) fun c => c.netSent d .nread (c.g a) (if note then 1 else 0)) ∧
    (∀ h note d a l, Completes (.nwrite h note d a) (fun c => c.enginePtr (c.g a) 64 (rR + rE) 64 = .ok (1, l)) fun c => c.netSent d .nwrite (c.g a) (if note then 1 else 0)) ∧
    (∀ h note d a l, Completes (.nrecv h note d a) (fun c => c.enginePtr (c.g a) 64 (rR + rE) 64 = .ok (1, l)) fun c => c.netSent d .nrecv (c.g a) (if note then 1 else 0)) ∧
    (∀ h note d a ty l, FaultsAtIssue (.nsend h note d a) (fun c => c.enginePtr (c.g a) 64 (rR + rE) 64 = .ok (ty, l) ∧ ty ≠ 1) fun c => segFault 0x06 (fld (c.g a) 60 0)) ∧
    (∀ h note d a ty l, FaultsAtIssue (.nread h note d a) (fun c => c.enginePtr (c.g a) 64 (rR + rE) 64 = .ok (ty, l) ∧ ty ≠ 1) fun c => segFault 0x06 (fld (c.g a) 60 0)) ∧
    (∀ h note d a ty l, FaultsAtIssue (.nwrite h note d a) (fun c => c.enginePtr (c.g a) 64 (rR + rE) 64 = .ok (ty, l) ∧ ty ≠ 1) fun c => segFault 0x06 (fld (c.g a) 60 0)) ∧
    (∀ h note d a ty l, FaultsAtIssue (.nrecv h note d a) (fun c => c.enginePtr (c.g a) 64 (rR + rE) 64 = .ok (ty, l) ∧ ty ≠ 1) fun c => segFault 0x06 (fld (c.g a) 60 0))

/-- Patterns and queries (R290, R297, R335, R385). `dpat` sets the core’s pattern register; `cqry`, `nqry` and `ainf`
answer what their unit holds now. -/
def Obligations.EngineQueries : Prop :=
    (∀ h a b, Completes (.dpat h a b) anyCtx fun c => (Ctx.done { c with s := c.s.setCore c.core { c.s.core c.core with pat := (c.g a, c.g b) } })) ∧
    (∀ h d a q, Completes (.cqry h d a q) (fun c => q = 0) fun c => (c.result d (ofN (256 - ((c.s.cluster (clusterOf c.core)).copies.length + c.s.held (clusterOf c.core) 1)))).done) ∧
    (∀ h d a q, Completes (.cqry h d a q) (fun c => q = 1) fun c => (c.result d (match (c.s.cluster (clusterOf c.core)).copies.find? (fun o => o.iss.uid == c.t.uid && o.ptr == c.g a) with | none => if c.s.fab.eng.any (fun m => m.src == 1 && m.uid == c.t.uid && m.ptr == c.g a && clusterOf m.core == clusterOf c.core) then 2 else 0 | some o => if o.started then 2 else 1)).done) ∧
    (∀ h d a q, Completes (.cqry h d a q) (fun c => q = 2) fun c => (c.result d (c.s.core c.core).pat.1).done) ∧
    (∀ h d a q, Completes (.cqry h d a q) (fun c => q = 3) fun c => (c.result d (c.s.core c.core).pat.2).done) ∧
    (∀ h d a item, Completes (.nqry h d a item) (fun c => fld (c.g a) 63 12 ≠ 0) fun c => (c.result d 0xFFFFFFFFFFFFFFFF).done) ∧
    (∀ h d a item, Completes (.nqry h d a item) (fun c => fld (c.g a) 63 12 = 0 ∧ item = 0) fun c => (c.result d (c.s.peer (fld (c.g a) 11 0)).word).done) ∧
    (∀ h d a item, Completes (.nqry h d a item) (fun c => fld (c.g a) 63 12 = 0 ∧ item = 1) fun c => (c.result d (ofN (c.s.wrsTo c.t.vol (fld (c.g a) 11 0)).length)).done) ∧
    (∀ h d a item, Completes (.nqry h d a item) (fun c => fld (c.g a) 63 12 = 0 ∧ item = 2) fun c => (c.result d (ofN (c.s.peer (fld (c.g a) 11 0)).payload)).done) ∧
    (∀ h d a item, Completes (.nqry h d a item) (fun c => fld (c.g a) 63 12 = 0 ∧ item = 3) fun c => (c.result d (ofN (65536 - c.s.netUsed))).done) ∧
    (∀ h item d a, Completes (.ainf h item d a) (fun c => fld (c.g a) 47 44 = 0 ∨ fld (c.g a) 47 44 = 8) fun c => (c.result d (((c.s.spaceOf c.t.vol).entry (fld (c.g a) 43 32)).item (fld (c.g a) 43 32) item.val)).done) ∧
    (∀ h item d a, Completes (.ainf h item d a) (fun c => fld (c.g a) 47 44 ≠ 0 ∧ fld (c.g a) 47 44 ≠ 8) fun c => (c.result d 0xFFFFFFFFFFFFFFFF).done)

/-- Calls between routines and reference counts (R332, R333, R334). `acall` of a current handle or return link changes the
counts of the two routines, writes a return link, loads the code segment and transfers; a value that names none is
ACCESSION. `aref` and `arel` change one reference count, and fault at its ends. -/
def Obligations.AccessionCalls : Prop :=
    (∀ h d a i e off link, Completes (.acall h d a) (fun c => ¬ follows (formOf (.acall h d a)) c.t ∧ c.s.callTarget c.t.vol (c.g a) = some (i, e, off, link)) fun c => (Ctx.gone { (c.called d i e link) with t := { (c.called d i e link).t with acc := some i, colV := c.g a, sregs := setAt (c.called d i e link).t.sregs 0 (codeDesc e) } } (e.base + 8 * off))) ∧
    (∀ h d a, FaultsAtIssue (.acall h d a) (fun c => ¬ follows (formOf (.acall h d a)) c.t ∧ c.s.callTarget c.t.vol (c.g a) = none) fun c => taskFault 0x24) ∧
    (∀ h a k, Completes (.aref h a) (fun c => c.s.currentHandle c.t.vol (c.g a) = some k ∧ ((c.s.spaceOf c.t.vol).entry k).refs ≠ 2 ^ 32 - 1) fun c => (Ctx.done { c with s := c.s.setSpace ((c.s.spaceOf c.t.vol).bump k 1 0) })) ∧
    (∀ h a k, Completes (.arel h a) (fun c => c.s.currentHandle c.t.vol (c.g a) = some k ∧ ((c.s.spaceOf c.t.vol).entry k).refs ≠ 0) fun c => (Ctx.done { c with s := c.s.setSpace ((c.s.spaceOf c.t.vol).bump k (-1) 0) })) ∧
    (∀ h a, FaultsAtIssue (.aref h a) (fun c => c.s.currentHandle c.t.vol (c.g a) = none) fun c => taskFault 0x24) ∧
    (∀ h a, FaultsAtIssue (.arel h a) (fun c => c.s.currentHandle c.t.vol (c.g a) = none) fun c => taskFault 0x24) ∧
    (∀ h a k, FaultsAtIssue (.aref h a) (fun c => c.s.currentHandle c.t.vol (c.g a) = some k ∧ ((c.s.spaceOf c.t.vol).entry k).refs = 2 ^ 32 - 1) fun c => taskFault 0x25) ∧
    (∀ h a k, FaultsAtIssue (.arel h a) (fun c => c.s.currentHandle c.t.vol (c.g a) = some k ∧ ((c.s.spaceOf c.t.vol).entry k).refs = 0) fun c => taskFault 0x25)

/-- Holds and range deques (R365, R366, R370, R371, R372). `hold` takes a free hold of its core, or answers that there is
none or that the count is out of range; `dech` sends its decrement; `pushr`, `popr` and `splitr` work at the bottom of
the volume’s deque on the core, `stealr` asks another core. -/
def Obligations.HoldsAndDeques : Prop :=
    (∀ h d a imm, Completes (.hold h d a imm) (fun c => (c.g a + sx64 imm).toNat = 0 ∨ 2 ^ 31 ≤ (c.g a + sx64 imm).toNat) fun c => (c.put d 0xFFFFFFFFFFFFFFFE).done) ∧
    (∀ h d a imm, Completes (.hold h d a imm) (fun c => (c.g a + sx64 imm).toNat ≠ 0 ∧ (c.g a + sx64 imm).toNat < 2 ^ 31 ∧ (c.s.core c.core).freeHolds = []) fun c => (c.put d 0xFFFFFFFFFFFFFFFF).done) ∧
    (∀ h d a imm i r, Completes (.hold h d a imm) (fun c => (c.g a + sx64 imm).toNat ≠ 0 ∧ (c.g a + sx64 imm).toNat < 2 ^ 31 ∧ (c.s.core c.core).freeHolds = i :: r) fun c => (Ctx.put { c with s := c.s.setCore c.core { c.s.core c.core with freeHolds := r, holds := (c.s.core c.core).holds ++ [{ idx := i, vol := c.t.vol, count := (c.g a + sx64 imm).toNat }] } } d (mkHandle c.core i ((aget (c.s.core c.core).gens i).getD 0))).done) ∧
    (∀ h a imm, Completes (.dech h a imm) (fun c => 1 ≤ imm.toInt ∧ holdBad (c.g a) = false) fun c => (Ctx.done { c with s := c.s.sendMsg c.core c.slot (handleCore (c.g a)) (.dec c.t.vol (handleGen (c.g a)) (handleIdx (c.g a)) imm.toNat false c.t.gidx (c.g a)) })) ∧
    (∀ h a imm, FaultsAtIssue (.dech h a imm) (fun c => imm.toInt < 1 ∨ holdBad (c.g a) = true) fun c => taskFault 0x29) ∧
    (∀ h d a, Completes (.pushr h d a) (fun c => rangeHi (c.g a) ≤ rangeLo (c.g a)) fun c => (c.put d 2).done) ∧
    (∀ h d a, Completes (.pushr h d a) (fun c => rangeLo (c.g a) < rangeHi (c.g a) ∧ ((c.s.volume c.t.vol).map Volume.dequeN).getD 0 ≤ ((c.s.core c.core).deques.filter (·.1 == c.t.vol)).length) fun c => (c.put d 1).done) ∧
    (∀ h d a, Completes (.pushr h d a) (fun c => rangeLo (c.g a) < rangeHi (c.g a) ∧ ((c.s.core c.core).deques.filter (·.1 == c.t.vol)).length < ((c.s.volume c.t.vol).map Volume.dequeN).getD 0) fun c => (Ctx.put { c with s := c.s.setCore c.core { c.s.core c.core with deques := (c.s.core c.core).deques ++ [(c.t.vol, c.g a)] } } d 0).done) ∧
    (∀ h d, Completes (.popr h d) (fun c => bottomOf c.t.vol (c.s.core c.core).deques = none) fun c => (c.put d 0).done) ∧
    (∀ h d w l, Completes (.popr h d) (fun c => bottomOf c.t.vol (c.s.core c.core).deques = some (w, l)) fun c => (Ctx.put { c with s := c.s.setCore c.core { c.s.core c.core with deques := l } } d w).done) ∧
    (∀ h d, Completes (.splitr h d) (fun c => bottomOf c.t.vol (c.s.core c.core).deques = none) fun c => (c.put d 0).done) ∧
    (∀ h d w l, Completes (.splitr h d) (fun c => bottomOf c.t.vol (c.s.core c.core).deques = some (w, l) ∧ rangeHi w - rangeLo w < 2) fun c => (c.put d 0).done) ∧
    (∀ h d w l, Completes (.splitr h d) (fun c => bottomOf c.t.vol (c.s.core c.core).deques = some (w, l) ∧ 2 ≤ rangeHi w - rangeLo w) fun c => (Ctx.put { c with s := c.s.setCore c.core { c.s.core c.core with deques := l ++ [(c.t.vol, mkRange (rangeLo w + (rangeHi w - rangeLo w) / 2) (rangeHi w))] } } d (mkRange (rangeLo w) (rangeLo w + (rangeHi w - rangeLo w) / 2))).done) ∧
    (∀ h d a, Completes (.stealr h d a) (fun c => fld (c.g a) 63 11 ≠ 0) fun c => (c.resultFrom d (fld (c.g a) 10 0) 0).done) ∧
    (∀ h d a, Completes (.stealr h d a) (fun c => fld (c.g a) 63 11 = 0) fun c => c.messageSent d (fld (c.g a) 10 0) (.steal c.t.vol))

/-- Spawned strands, posted messages and pre-emption requests (R363, R368, R369, R175). `spawn` without a hold makes a
READY free strand of the volume on its own core, and behind a hold one that the hold keeps on its core, unless the
volume’s run list is full; `post` sends its message to a core or to a role’s core of its gathering, and a malformed
destination for status 2 (by way of its own core: assumption 72); `pmt` asks a core to save or resume its strands, or
answers a bad core at once. -/
def Obligations.SpawnPostAndPreempt : Prop :=
    (∀ h d a imm i off v s c, enters (formOf (.spawn h d a .z imm)) s = some c → c.s.codePoint c.t.vol (c.g a) = some (i, off) → c.s.volume c.t.vol = some v →
      v.pool.length < v.runlist → exec (.spawn h d a .z imm) s = .next (c.spawned d v i off imm)) ∧
    (∀ h d a b imm i off v s c, enters (formOf (.spawn h d a b imm)) s = some c → c.s.codePoint c.t.vol (c.g a) = some (i, off) → (b = .z ∨ holdBad (c.g b) = false) → c.s.volume c.t.vol = some v →
      v.runlist ≤ v.pool.length → exec (.spawn h d a b imm) s = .next (c.put d 0).done) ∧
    (∀ h d a b imm, FaultsAtIssue (.spawn h d a b imm) (fun c => c.s.codePoint c.t.vol (c.g a) = none) fun c => taskFault 0x24) ∧
    (∀ h d a b imm r, FaultsAtIssue (.spawn h d a b imm) (fun c => c.s.codePoint c.t.vol (c.g a) = some r ∧ b ≠ .z ∧ holdBad (c.g b) = true) fun c => taskFault 0x29) ∧
    (∀ h d a b tag, Completes (.post h d a b tag) (fun c => fld (c.g a) 63 27 = 0 ∧ fld (c.g a) 15 11 = 0) fun c => c.messageSent d (fld (c.g a) 10 0) (.post c.t.vol (fld (c.g a) 23 16) false (ofN (tag.toNat * 2 ^ 48 + (c.g b).toNat % 2 ^ 44)) c.t.gidx 0)) ∧
    (∀ h d a b tag g k, Completes (.post h d a b tag) (fun c => (fld (c.g a) 63 32 = 0 ∧ fld (c.g a) 30 27 = 0 ∧ fld (c.g a) 15 0 = 0 ∧ (c.g a).getLsbD 31 = true) ∧ c.t.free = false ∧ c.slot ≠ 63 ∧ c.s.gathering c.t.vol c.t.gidx = some g ∧ g.cores[fld (c.g a) 26 24]? = some k) fun c => c.messageSent d k (.post c.t.vol (fld (c.g a) 23 16) true (ofN (tag.toNat * 2 ^ 48 + (c.g b).toNat % 2 ^ 44)) c.t.gidx 0)) ∧
    (∀ h d a b tag, Completes (.post h d a b tag) (fun c => fld (c.g a) 63 32 ≠ 0 ∨ fld (c.g a) 30 27 ≠ 0 ∨ fld (c.g a) 15 11 ≠ 0 ∨ ((c.g a).getLsbD 31 = true ∧ (c.t.free = true ∨ c.slot = 63 ∨ c.s.coreCount c.t ≤ fld (c.g a) 26 24 ∨ fld (c.g a) 10 0 ≠ 0))) fun c => c.messageSent d c.core (.post c.t.vol (fld (c.g a) 23 16) ((c.g a).getLsbD 31) (ofN (tag.toNat * 2 ^ 48 + (c.g b).toNat % 2 ^ 44)) c.t.gidx 2)) ∧
    (∀ h d a, Completes (.pmt h d a) (fun c => fld (c.g a) 62 11 ≠ 0) fun c => (c.resultFrom d (fld (c.g a) 10 0) 2).done) ∧
    (∀ h d a, Completes (.pmt h d a) (fun c => fld (c.g a) 62 11 = 0 ∧ (c.g a).getLsbD 63 = false) fun c => c.messageSent d (fld (c.g a) 10 0) .preempt) ∧
    (∀ h d a, Completes (.pmt h d a) (fun c => fld (c.g a) 62 11 = 0 ∧ (c.g a).getLsbD 63 = true) fun c => c.messageSent d (fld (c.g a) 10 0) .resume) ∧
    (∀ h d a b imm i off v s c, enters (formOf (.spawn h d a b imm)) s = some c → c.s.codePoint c.t.vol (c.g a) = some (i, off) → b ≠ .z → holdBad (c.g b) = false → c.s.volume c.t.vol = some v →
      v.pool.length < v.runlist → exec (.spawn h d a b imm) s = .next (c.spawnedBehind d v i off imm (c.g b) (c.s.liveHold v.id (handleCore (c.g b)) (handleGen (c.g b)) (handleIdx (c.g b))).isSome))

/-- The supervisor’s instructions on strands (R406). On a halted strand, `emr` reads and `emw` writes a register, the
predicate word or a special register; `resume` makes it READY at its pc or the next word, or saves it as a FAULTED
slip of class 1; `kill` ends it. On a FAULTED slip they act on the save area and the slip. A register outside the
window, and a handle that names neither, reads as all ones and is otherwise ignored. That bits 62 and 61 of a handle
are read by `resume` alone is the model’s reading (assumption 38), and so is that `resume` with the park bit does
nothing where there is no slip to save into, in slot 63 and in an upcall, nor on a FAULTED slip (assumption 97); that
a register of a halted strand whose parity fails is repaired or is a register-lost fault of `emr` follows R107. -/
def Obligations.SupervisorInstructions : Prop :=
    (∀ h d a rs core slot t, Completes (.emr h d a rs) (fun c => c.s.target c.core (c.g a) = .halted core slot t ∧ (rs.toNat < 128 → t.failing.contains rs.toNat = false) ∧ (rs.toNat = 128 → t.predBad = false) ∧ (128 < rs.toNat → t.sregBad.contains (rs.toNat - 256) = false)) fun c => c.heldDone d (if rs.toNat < 128 then (if t.size ≤ rs.toNat then 0xFFFFFFFFFFFFFFFF else t.g rs.toNat) else if rs.toNat = 128 then t.pred.setWidth 64 else c.s.special core slot t (rs.toNat - 256))) ∧
    (∀ h d a rs vol pa, Completes (.emr h d a rs) (fun c => c.s.target c.core (c.g a) = .slip vol pa ∧ rs.toNat < 128 ∧ rs.toNat < 8 * (fld (c.s.slipDw pa 0) 58 55 + 1)) fun c => c.heldDone d (c.s.saveDw vol pa (0x540 + 8 * rs.toNat))) ∧
    (∀ h d a rs, Completes (.emr h d a rs) (fun c => c.s.target c.core (c.g a) = .none) fun c => c.heldDone d 0xFFFFFFFFFFFFFFFF) ∧
    (∀ h d a rs core slot t, Completes (.emw h d a rs) (fun c => c.s.target c.core (c.g a) = .halted core slot t ∧ rs.toNat < 128 ∧ rs.toNat < t.size) fun c => (Ctx.done { c with s := c.s.setStrand core slot (t.setG rs.toNat (c.g d)) })) ∧
    (∀ h d a rs core slot t, Completes (.emw h d a rs) (fun c => c.s.target c.core (c.g a) = .halted core slot t ∧ rs.toNat = 128) fun c => (Ctx.done { c with s := c.s.setStrand core slot (t.setPred (c.g d)) })) ∧
    (∀ h d a rs core slot t, Completes (.emw h d a rs) (fun c => c.s.target c.core (c.g a) = .halted core slot t ∧ 256 ≤ rs.toNat) fun c => (Ctx.done { c with s := c.s.setStrand core slot (t.setSpecial (rs.toNat - 256) (c.g d)) })) ∧
    (∀ h d a rs vol pa, Completes (.emw h d a rs) (fun c => c.s.target c.core (c.g a) = .slip vol pa ∧ rs.toNat < 128 ∧ rs.toNat < 8 * (fld (c.s.slipDw pa 0) 58 55 + 1)) fun c => (Ctx.done { c with s := c.s.setSaveDw vol pa (0x540 + 8 * rs.toNat) (c.g d) })) ∧
    (∀ h d a rs, Completes (.emw h d a rs) (fun c => c.s.target c.core (c.g a) = .none) fun c => c.done) ∧
    (∀ h a core slot t, Completes (.resume h a) (fun c => c.s.target c.core (c.g a) = .halted core slot t ∧ (c.g a).getLsbD 61 = false) fun c => (Ctx.done { c with s := c.s.continueHalted core slot t (if (c.g a).getLsbD 62 then nextPc t.pc else t.pc) })) ∧
    (∀ h a core slot t, Completes (.resume h a) (fun c => c.s.target c.core (c.g a) = .halted core slot t ∧ (c.g a).getLsbD 61 = true ∧ (slot = 63 ∨ t.faulter.isSome = true)) fun c => c.done) ∧
    (∀ h a vol pa, Completes (.resume h a) (fun c => c.s.target c.core (c.g a) = .slip vol pa ∧ (c.g a).getLsbD 61 = false) fun c => (Ctx.done { c with s := c.s.resumeSlip vol pa ((c.g a).getLsbD 62) })) ∧
    (∀ h a, Completes (.resume h a) (fun c => c.s.target c.core (c.g a) = .none) fun c => c.done) ∧
    (∀ h a core slot t, Completes (.kill h a) (fun c => c.s.target c.core (c.g a) = .halted core slot t) fun c => (Ctx.done { c with s := c.s.endStrand core slot t })) ∧
    (∀ h a vol pa, Completes (.kill h a) (fun c => c.s.target c.core (c.g a) = .slip vol pa) fun c => (Ctx.done { c with s := (c.s.removeRun (c.s.slipHome pa) pa).endSlip vol pa })) ∧
    (∀ h a, Completes (.kill h a) (fun c => c.s.target c.core (c.g a) = .none) fun c => c.done) ∧
    (∀ h a core slot t, Completes (.resume h a) (fun c => c.s.target c.core (c.g a) = .halted core slot t ∧ (c.g a).getLsbD 61 = true ∧ slot ≠ 63 ∧ t.faulter.isSome = false) fun c => (Ctx.done { c with s := c.s.parkHalted core slot t (if (c.g a).getLsbD 62 then nextPc t.pc else t.pc) })) ∧
    (∀ h a vol pa, Completes (.resume h a) (fun c => c.s.target c.core (c.g a) = .slip vol pa ∧ (c.g a).getLsbD 61 = true) fun c => c.done) ∧
    (∀ h d a rs vol pa, Completes (.emr h d a rs) (fun c => c.s.target c.core (c.g a) = .slip vol pa ∧ rs.toNat < 128 ∧ 8 * (fld (c.s.slipDw pa 0) 58 55 + 1) ≤ rs.toNat) fun c => c.heldDone d 0xFFFFFFFFFFFFFFFF) ∧
    (∀ h d a rs vol pa, Completes (.emr h d a rs) (fun c => c.s.target c.core (c.g a) = .slip vol pa ∧ rs.toNat = 128) fun c => c.heldDone d (ofN (fld (c.s.slipDw pa 1) 15 0))) ∧
    (∀ h d a rs vol pa, Completes (.emr h d a rs) (fun c => c.s.target c.core (c.g a) = .slip vol pa ∧ 256 ≤ rs.toNat) fun c => c.heldDone d (c.s.slipSpecial c.core vol pa (rs.toNat - 256))) ∧
    (∀ h d a rs vol pa, Completes (.emw h d a rs) (fun c => c.s.target c.core (c.g a) = .slip vol pa ∧ rs.toNat < 128 ∧ 8 * (fld (c.s.slipDw pa 0) 58 55 + 1) ≤ rs.toNat) fun c => c.done) ∧
    (∀ h d a rs vol pa, Completes (.emw h d a rs) (fun c => c.s.target c.core (c.g a) = .slip vol pa ∧ rs.toNat = 128) fun c => (Ctx.done { c with s := c.s.setSlipDw pa 1 (putBits (c.s.slipDw pa 1).toNat 15 0 ((c.g d).toNat / 2 * 2 + 1)) })) ∧
    (∀ h d a rs vol pa, Completes (.emw h d a rs) (fun c => c.s.target c.core (c.g a) = .slip vol pa ∧ 256 ≤ rs.toNat) fun c => (Ctx.done { c with s := c.s.setSlipSpecial pa (rs.toNat - 256) (c.g d) })) ∧
    (∀ h d a rs core slot t, Completes (.emw h d a rs) (fun c => c.s.target c.core (c.g a) = .halted core slot t ∧ rs.toNat < 128 ∧ t.size ≤ rs.toNat) fun c => (Ctx.done { c with s := c.s.setStrand core slot t })) ∧
    (∀ h d a rs core slot t v s1, Completes (.emr h d a rs) (fun c => c.s.target c.core (c.g a) = .halted core slot t ∧ c.s.readHalted core slot rs.toNat t = .ok (v, s1)) fun c => (Ctx.heldDone { c with s := s1 } d v)) ∧
    (∀ h d a rs core slot t e s1, FaultsAfter (.emr h d a rs) (fun c => c.s.target c.core (c.g a) = .halted core slot t ∧ c.s.readHalted core slot rs.toNat t = .error (e, s1)) (fun c => { c with s := s1 }) fun c => e) ∧
    (∀ (s : State) core slot (t : Strand) pc, s.redoOf core t = [] → s.continueHalted core slot t pc = (s.dropFailed core t.uid).setStrand core slot { t with run := .ready, pc := pc, atSwitch := t.atSwitch && pc == t.pc }) ∧
    (∀ (s : State) core slot (t : Strand) pc r x, x = s.settle core t (List.range t.regs.length) →
      (x.1.dropFailed core x.2.uid).saveSettled core slot x.2 pc 3 1 0 { vol := x.2.vol, pa := x.2.slip - Config.areaVA, redo := x.1.redoOf core x.2 } = (r, none) →
      s.parkHalted core slot t pc = r.pushNew .placement)

/-- Traps, service calls and illegal words (R40, R42, R152, R399, R407, R408). `trap` takes its task fault with the
immediate as the argument; `svc` sends its call to the curator and parks, or answers that a pointer is out of reach or
the curator is fenced; an illegal word halts its strand with the pc at it; in a collation group it is a fault at issue
of every member for which it is illegal. In a collation group an illegal word is the fault at issue of R152: where a
pairing alone makes it illegal (R42), the members for which it is illegal halt, and else every member that has issued
the words before it does; an illegal word outside a group is R40’s. -/
def Obligations.ServiceCallsAndTraps : Prop :=
    (∀ h code, FaultsAtIssue (.trap h code) (fun c => True) fun c => taskFault 0x16 code.toNat) ∧
    (∀ h d a b n, Completes (.svc h d a b n) (fun c => c.svcReach (c.g a) = true ∨ (b ≠ .z ∧ c.svcReach (c.g b) = true)) fun c => (c.result d 1).done) ∧
    (∀ h d a n va s c, enters (formOf (.svc h d a .z n)) s = some c → c.svcReach (c.g a) = false → c.svcBlock (c.g a) rR = .ok va → c.s.isFenced .curator (clusterOf c.core) = false → exec (.svc h d a .z n) s = .next (c.svcSent d n va none)) ∧
    (∀ h d a b n va vb s c, enters (formOf (.svc h d a b n)) s = some c → b ≠ .z → c.svcReach (c.g a) = false → c.svcReach (c.g b) = false → c.svcBlock (c.g a) rR = .ok va → c.svcBlock (c.g b) rW = .ok vb → c.s.isFenced .curator (clusterOf c.core) = false → exec (.svc h d a b n) s = .next (c.svcSent d n va (some vb))) ∧
    (∀ h d a n va s c, enters (formOf (.svc h d a .z n)) s = some c → c.svcReach (c.g a) = false → c.svcBlock (c.g a) rR = .ok va → c.s.isFenced .curator (clusterOf c.core) = true → exec (.svc h d a .z n) s = .next (c.result d 3).done) ∧
    (∀ w s core slot t, s.clk.cur = some (core, slot) → s.strand core slot = some t → t.group = 0 → exec (.illegalEncoding w) s = .next (s.halt core slot t { cls := 1, code := 0 } w)) ∧
    (∀ w s core slot t, s.clk.cur = some (core, slot) → s.strand core slot = some t → t.group ≠ 0 → s.fresh.1 ≠ 0 → illegalByPairOnly (s.decCtx core slot) w = true →
      (∀ e ∈ s.strands, ∀ x ∈ s.strands, e.2.uid = x.2.uid → e = x) → (∀ e ∈ s.strands, e.2.group ≠ s.fresh.1) →
      ∃ (r : State) (u : Strand), exec (.illegalEncoding w) s = .next ((r.illegalMates u).foldl (fun s e => s.halt e.1.1 e.1.2 e.2 { cls := 1, code := 0 } w) r) ∧
      r.strand core slot = some u ∧ u.group = s.fresh.1 ∧ u.colN = t.colN ∧ r.mem = s.mem ∧ (∀ e ∈ r.illegalMates u, illegalByPairOnly (s.decCtx e.1.1 e.1.2) w = true) ∧
      (∀ e ∈ s.strands, e.2.group = t.group → e.2.colN = t.colN → e.2.run = .ready → e.2.colI < 8 → illegalByPairOnly (s.decCtx e.1.1 e.1.2) w = true →
      ∃ x ∈ r.illegalMates u, x.1 = e.1)) ∧
    (∀ w s core slot t, s.clk.cur = some (core, slot) → s.strand core slot = some t → t.group ≠ 0 → illegalByPairOnly (s.decCtx core slot) w = false →
      exec (.illegalEncoding w) s = .next ((s.illegalMates t).foldl (fun s e => s.halt e.1.1 e.1.2 e.2 { cls := 1, code := 0 } w) s)) ∧
    (∀ h d a b n va vb s c, enters (formOf (.svc h d a b n)) s = some c → b ≠ .z → c.svcReach (c.g a) = false → c.svcReach (c.g b) = false → c.svcBlock (c.g a) rR = .ok va → c.svcBlock (c.g b) rW = .ok vb → c.s.isFenced .curator (clusterOf c.core) = true → exec (.svc h d a b n) s = .next (c.result d 3).done)

/-- Results return, parked strands wake (R72, R92, R101, R148, R166, R172, R188, R248, R273, R281, R364, R400). A finished
operation’s result is held at its core; a strand parked on operations, credits, queues, the inbox, barriers, tiles,
streams or `tlbsync` is READY once its event has come, and stays parked before (what each waits for is spelled out);
each round counts a `wait` down; a strand parked on its blocking operation lands the result and goes on at the next
word. That a strand whose blocking operation has returned also waits for a credit of a push that lands with it, and
goes on past the word once every push has one, is the model’s reading (assumption 11). -/
def Obligations.ResultsAndWakes : Prop :=
    (∀ s core slot t op o, (s.core core).tileOps.find? (fun x => x.id == op && !x.failed) = none → s.strand core slot = some t → t.ops.find? (·.id == op) = some o → o.stage = .done →
      (∀ f w, t.run ≠ .halting f w) → (∀ f w, t.run ≠ .faulting f w) →
      exec (.resultReturn core slot op) s = .next (s.setStrand core slot { t with ops := mapIf (·.id == op) (fun x => { x with stage := .held }) t.ops })) ∧
    (∀ s core slot t p, s.strand core slot = some t → t.run = .parked p → s.wakeable core slot t = true → (∀ id, p ≠ .op id) → (∀ id, p ≠ .svc id) → (∀ n, p ≠ .collate n) →
      exec (.strandWake core slot) s = .next (s.setStrand core slot { t with run := .ready })) ∧
    (∀ s core slot t, s.strand core slot = some t → s.wakeable core slot t = false → exec (.strandWake core slot) s = .next s) ∧
    (∀ s core slot t id o, s.strand core slot = some t → t.run = .parked (.op id) → s.wakeable core slot t = true → t.ops.find? (·.id == id) = some o → o.fault = none → s.pushShort t = none →
      exec (.strandWake core slot) s = .next ((s.land core slot t).1.setStrand core slot { (s.land core slot t).2 with run := .ready, prog := 0, pc := nextPc t.pc, atSwitch := false })) ∧
    (∀ (s : State) core slot (t : Strand) q, t.run = .parked (.credit q) → (s.wakeable core slot t = true ↔ 0 < s.credits q)) ∧
    (∀ (s : State) core slot (t : Strand), t.run = .parked .results → (s.wakeable core slot t = true ↔ t.outstanding = [])) ∧
    (∀ (s : State) core slot (t : Strand) b, t.run = .parked (.barw b) → (s.wakeable core slot t = true ↔ (s.barrierOf t b).1 ≤ (s.barrierOf t b).2)) ∧
    (∀ s core slot t, s.strand core slot = some t → t.run = .waiting 0 → t.prog ≠ 3 → exec (.waitExpiry core slot) s = .next (s.setStrand core slot { t with run := .ready })) ∧
    (∀ s core slot t n, s.strand core slot = some t → t.run = .waiting (n + 1) → exec (.waitExpiry core slot) s = .next (s.setStrand core slot { t with run := .waiting n })) ∧
    (∀ (s : State) core slot (t : Strand) q, t.run = .parked (.queue q) → (s.wakeable core slot t = true ↔ (∃ w ∈ (s.core core).words, w.q = q) ∨ s.coreFenced (s.feederCore q) = true)) ∧
    (∀ (s : State) core slot (t : Strand), t.run = .parked .anyQueue → (s.wakeable core slot t = true ↔ (∃ w ∈ (s.core core).words, w.q.vol = t.vol ∧ w.q.gidx = t.gidx ∧ w.q.role = t.role ∧ w.q.lane = t.lane ∧ ∃ k, w.q.src = .role k) ∨
      ∃ g, s.gathering t.vol t.gidx = some g ∧ ∀ k ∈ g.cores, s.coreFenced k = true)) ∧
    (∀ (s : State) core slot (t : Strand), t.run = .parked .inbox → (s.wakeable core slot t = true ↔ ∃ m ∈ (s.core core).inbox, if slot = 63 then m.vol = 0 ∧ m.lane = 63 else m.vol = t.vol ∧ m.lane = t.lane)) ∧
    (∀ (s : State) core slot (t : Strand) b, t.run = .parked (.bara b) → (s.wakeable core slot t = true ↔ (s.barrierOf t b).1 ≤ (s.barrierOf t b).2)) ∧
    (∀ (s : State) core slot (t : Strand) m, t.run = .parked (.tiles m) → (s.wakeable core slot t = true ↔ (∀ k ∈ (s.cluster (clusterOf core)).tasks, ¬ (k.on core = true ∧ bitN m k.tile = true)) ∧ s.tcfgOut core m = false ∧
      (m = 0 ∨ ∀ r ∈ (s.cluster (clusterOf core)).reqs, ¬ (r.kind = .tenq ∧ r.iss.uid = t.uid)))) ∧
    (∀ (s : State) core slot (t : Strand) m, t.run = .parked (.stream m) → (s.wakeable core slot t = true ↔ (∀ k ∈ (s.cluster (clusterOf core)).tasks, ¬ (k.on core = true ∧ k.kind = 1 ∧ recStrm k.dw = m)) ∧
      ∀ r ∈ (s.cluster (clusterOf core)).reqs, ¬ (r.kind = .tenq ∧ r.iss.uid = t.uid))) ∧
    (∀ (s : State) core slot (t : Strand), t.run = .parked .tlbsync → (s.wakeable core slot t = true ↔ ∀ i ∈ t.tlbis, ∀ x, s.tlbis.find? (·.id == i) = some x → x.done = true ∧ ∀ e ∈ x.old, e ∉ s.translated)) ∧
    (∀ (s : State) core slot (t : Strand) id, t.run = .parked (.op id) → (s.wakeable core slot t = true ↔ (∀ o ∈ t.ops, o.id = id → o.stage = .held) ∧ (t.faulted ≠ none ∨ ∀ q, s.pushShort t = some q → 0 < s.credits q))) ∧
    (∀ (s : State) core slot (t : Strand), t.run = .parked .remote → (s.wakeable core slot t = true ↔ ∀ r ∈ s.net.far, r.uid = t.uid → r.write = false)) ∧
    (∀ (s : State) core slot (t : Strand) n, t.run = .parked (.collate n) → (s.wakeable core slot t = true ↔ s.clashes t n ≠ [] ∨ ((s.partners t n).length + 1 = n ∧ ∀ e ∈ s.partners t n, e.2.inCollate n = true))) ∧
    (∀ (s : State) core slot (t : Strand), t.run = .parked .retired → s.wakeable core slot t = false) ∧
    (∀ s core slot t, s.strand core slot = some t → t.run = .waiting 0 → t.prog = 3 → exec (.waitExpiry core slot) s = .next (s.setStrand core slot { t with run := .parked .results, prog := 0 })) ∧
    (∀ s core slot t id o q, s.strand core slot = some t → t.run = .parked (.op id) → s.wakeable core slot t = true → t.ops.find? (·.id == id) = some o → o.fault = none → s.pushShort t = some q →
      exec (.strandWake core slot) s = .next ((s.land core slot t).1.setStrand core slot (s.land core slot t).2))

/-- Idle slots take slips, fetches fill the cache (R70, R79, R84, R85, R231). A slot that may not search changes nothing;
a free strand’s slip at the head of the first list an idle slot searches, well-formed and with granules to spare,
leaves its list and becomes resident there; a fetch whose place is known, or whose walk has found its page, enters the
word in the instruction cache, one that misses asks for a walk, one whose check fails faults at its pc, and a follower
leaves the fetch to its leader. -/
def Obligations.SlipsAndFetch : Prop :=
    (∀ s core slot, s.idleSlot core slot = none → exec (.idleSlotSearch core slot) s = .next s) ∧
    (∀ s core slot g m pa gr, s.idleSlot core slot = some (g, m) → ((s.core (clusterOf core * 8 + core % 8)).runs.getD 7 []).head? = some (g.vol, pa) →
      (s.slipDw pa 0).getLsbD 51 = true → s.slipOk pa = true → s.takeGran core (fld (s.slipDw pa 0) 58 55 + 1) = some gr →
      exec (.idleSlotSearch core slot) s = .next ((s.removeRun (clusterOf core * 8 + core % 8) pa).loadSlip core slot g.vol pa gr)) ∧
    (∀ s core slot t va x kp, s.strand core slot = some t → t.run = .ready → (t.follower && (s.leaderOf t).isSome) = false → s.cached core t = none → t.fetchCheck = .ok va →
      s.lookup (s.cluster (clusterOf core)).tlb t.vol va .fetch = some (.key x kp) → s.keyFenced x = false →
      exec (.fetchFill core slot) s = .next (s.setCore core ((s.core core).cache t.vol va (s.rdW x)))) ∧
    (∀ s core slot t va, s.strand core slot = some t → t.run = .ready → (t.follower && (s.leaderOf t).isSome) = false → s.cached core t = none → t.fetchCheck = .ok va →
      s.lookup (s.cluster (clusterOf core)).tlb t.vol va .fetch = none → exec (.fetchFill core slot) s = .next (s.miss (clusterOf core) t.vol va (.fetch core slot))) ∧
    (∀ s core slot t e, s.strand core slot = some t → t.run = .ready → (t.follower && (s.leaderOf t).isSome) = false → s.cached core t = none → t.fetchCheck = .error e →
      exec (.fetchFill core slot) s = .next (s.faultAtIssue core slot t { cls := 3, code := e, arg := t.pc - descBase (t.sregs.getD 0 0), access := 3, size := 3 } 0)) ∧
    (∀ s core slot t l, s.strand core slot = some t → t.follower = true → s.leaderOf t = some l → exec (.fetchFill core slot) s = .next s) ∧
    (∀ (s : State) w l core slot t va x kp, s.strand core slot = some t → t.run = .ready → t.vol = w.vol → s.cached core t = none → t.fetchCheck = .ok va → va / 2 ^ l.bits = w.va / 2 ^ l.bits →
      s.leafPlace l va .fetch = .key x kp → s.keyFenced x = false → s.walked w (.leaf l) (.fetch core slot) = s.setCore core ((s.core core).cache t.vol va (s.rdW x)))

/-- Arrivals on the register network (R162, R163, R170, R174, R175, R176, R41). A port word enters its queue, or the
returns queue of a core whose strands are saved, and is dropped when its gathering has ended; a credit is given back
to its queue; a posted message with room and a lane is delivered, after the engine messages that waited before it,
with status 0, and a full inbox answers 1; engine messages enter an inbox in order and only with room; a fault message
reaches slot 63 or the curator. -/
def Obligations.NetworkArrivals : Prop :=
    (∀ s m q v g, dueMsg s m → m.kind = .word q v → s.gathering q.vol q.gidx = some g → (s.core m.dst).away q.vol q.gidx = false →
      exec (.portWordArrive m.id) s = .next ((s.took m.id).setCore m.dst { s.core m.dst with words := insertWord { q := q, val := v, frame := s.clk.frame } (s.core m.dst).words })) ∧
    (∀ s m q v g, dueMsg s m → m.kind = .word q v → s.gathering q.vol q.gidx = some g → (s.core m.dst).away q.vol q.gidx = true →
      exec (.portWordArrive m.id) s = .next ((s.took m.id).setCore m.dst { s.core m.dst with returns := (s.core m.dst).returns ++ [.word { q := q, val := v, frame := s.clk.frame }] })) ∧
    (∀ s m q v, dueMsg s m → m.kind = .word q v → s.gathering q.vol q.gidx = none → exec (.portWordArrive m.id) s = .next (s.took m.id)) ∧
    (∀ s m q g, dueMsg s m → m.kind = .credit q → s.gathering q.vol q.gidx = some g →
      exec (.creditReturn m.id) s = .next ((s.took m.id).setGathering { g with spent := aput g.spent q ((aget g.spent q).getD 0 - 1) })) ∧
    (∀ s m vol lane byRole word gidx op s1, dueMsg s m → m.kind = .post vol lane byRole word gidx 0 op → s1 = (s.took m.id).heldFirst m.dst vol → s1.postStatus m vol lane byRole gidx = 0 →
      exec (.postArrive m.id) s = .next ((s1.deliver m.dst { vol := vol, lane := lane, src := 0, from_ := m.core, frame := s1.clk.frame, word := word }).replyOp
      m.core m.slot op (s1.clk.frame + hops m.core m.dst + 1) 0)) ∧
    (∀ s m vol lane byRole word gidx op s1, dueMsg s m → m.kind = .post vol lane byRole word gidx 0 op → s1 = (s.took m.id).heldFirst m.dst vol → s1.postStatus m vol lane byRole gidx ≠ 0 →
      exec (.postArrive m.id) s = .next (s1.replyOp m.core m.slot op (s1.clk.frame + hops m.core m.dst + 1) (ofN (s1.postStatus m vol lane byRole gidx)))) ∧
    (∀ s m vol lane byRole word gidx op bad s1, dueMsg s m → m.kind = .post vol lane byRole word gidx bad op → bad ≠ 0 → s1 = (s.took m.id).heldFirst m.dst vol →
      exec (.postArrive m.id) s = .next (s1.replyOp m.core m.slot op (s1.clk.frame + hops m.core m.dst + 1) 2)) ∧
    (∀ (s : State) core vol, s.engFor core vol = [] → s.heldFirst core vol = s) ∧
    (∀ s m, s.fab.eng.find? (·.id == m.id) = some m → (∀ x ∈ s.fab.eng, x.id < m.id → x.core = m.core → x.vol = m.vol → x.lane ≠ m.lane) →
      ((m.vol = 0 ∧ (s.core m.core).inbox.countP (·.vol == 0) < 16) ∨ (m.vol ≠ 0 ∧ ∃ v, s.volume m.vol = some v ∧ s.inboxUsed m.vol m.core < v.inboxN)) →
      exec (.engineMessageDeliver m.id) s = .next ((s.engDelivered m).nextHeld m.core m.vol)) ∧
    (∀ s m v, s.fab.eng.find? (·.id == m.id) = some m → m.vol ≠ 0 → s.volume m.vol = some v → v.inboxN ≤ s.inboxUsed m.vol m.core → exec (.engineMessageDeliver m.id) s = .next (s.engHeld m)) ∧
    (∀ (s : State) core m, (s.core core).awayVol m.vol = false → s.deliver core m = s.setCore core { s.core core with inbox := insertMsg m (s.core core).inbox }) ∧
    (∀ s m, s.fab.eng.find? (·.id == m.id) = some m → m.vol = 0 → 16 ≤ (s.core m.core).inbox.countP (·.vol == 0) → exec (.engineMessageDeliver m.id) s = .next (s.engHeld m)) ∧
    (∀ s m k, s.fab.sup.find? (·.id == m.id) = some m → m.dst = some k → (s.core k).inbox.countP (·.vol == 0) < 16 →
      exec (.faultMessageDeliver m.id) s = .next (State.setCore { s with fab := { s.fab with sup := s.fab.sup.filter (·.id != m.id) } } k
      { s.core k with inbox := insertMsg { vol := 0, lane := 63, src := m.src, from_ := m.from_, frame := s.clk.frame, word := m.word } (s.core k).inbox })) ∧
    (∀ s m, s.fab.sup.find? (·.id == m.id) = some m → m.dst = none →
      exec (.faultMessageDeliver m.id) s = .next { s with fab := { s.fab with sup := s.fab.sup.filter (·.id != m.id), curator := s.fab.curator ++ [m] } })

/-- Barrier arrivals, hold decrements and steals arrive (R355, R364, R367, R368, R372). A barrier arrival is counted for
its member and phases that are met complete; a decrement lowers its hold, frees it at zero with its slips READY in
spawn order, and is reported when the hold is not live or would fall below zero; a steal takes the low half of the top
range, rounded up, answers 0 when there is none, and one that takes the last range of a volume lets placement run. -/
def Obligations.BarriersHoldsAndSteals : Prop :=
    (∀ s m vol gidx role lane b, dueMsg s m → m.kind = .bar vol gidx role lane b →
      exec (.barrierArrival m.id) s = .next (((s.took m.id).setMember vol gidx role lane fun x => { x with seen := bumpAt x.seen b }).pokeBarriers vol gidx)) ∧
    (∀ s m vol gen idx n e gidx w h, dueMsg s m → m.kind = .dec vol gen idx n e gidx w → s.liveHold vol m.dst gen idx = some h → n < h.count →
      exec (.holdDecrement m.id) s = .next ((s.took m.id).setCore m.dst { s.core m.dst with holds := mapIf (·.idx == idx) (fun x => { x with count := x.count - n }) (s.core m.dst).holds })) ∧
    (∀ s m vol gen idx n e gidx w h, dueMsg s m → m.kind = .dec vol gen idx n e gidx w → s.liveHold vol m.dst gen idx = some h → n = h.count →
      exec (.holdDecrement m.id) s = .next ((s.took m.id).holdZero m.dst h)) ∧
    (∀ s m vol gen idx n e gidx w h, dueMsg s m → m.kind = .dec vol gen idx n e gidx w → s.liveHold vol m.dst gen idx = some h → h.count < n →
      exec (.holdDecrement m.id) s = .next ((s.took m.id).errata vol 4 0 m.core m.slot gidx [w, ofN (0x41 * 2 ^ 56 + 0x72 * 2 ^ 48 + n % 2 ^ 32), ofN (m.core * 2 ^ 16 + m.slot)])) ∧
    (∀ s m vol gen idx n e gidx w, dueMsg s m → m.kind = .dec vol gen idx n e gidx w → s.liveHold vol m.dst gen idx = none →
      exec (.holdDecrement m.id) s = .next ((s.took m.id).errata vol 4 0 m.core m.slot gidx [w, ofN (0x41 * 2 ^ 56 + 0x71 * 2 ^ 48 + n % 2 ^ 32), ofN (m.core * 2 ^ 16 + m.slot)])) ∧
    (∀ s m vol op, dueMsg s m → m.kind = .steal vol op → (s.core m.dst).deques.find? (·.1 == vol) = none →
      exec (.stealPerform m.id) s = .next ((s.took m.id).replyOp m.core m.slot op (s.clk.frame + hops m.core m.dst + 1) 0)) ∧
    (∀ s m vol op w, dueMsg s m → m.kind = .steal vol op → (s.core m.dst).deques.find? (·.1 == vol) = some (vol, w) → rangeLo w + (rangeHi w - rangeLo w + 1) / 2 < rangeHi w →
      exec (.stealPerform m.id) s = .next (((s.took m.id).setCore m.dst { s.core m.dst with deques := replaceBy (·.1 == vol) (vol, mkRange (rangeLo w + (rangeHi w - rangeLo w + 1) / 2) (rangeHi w)) (s.core m.dst).deques }).replyOp
      m.core m.slot op (s.clk.frame + hops m.core m.dst + 1) (mkRange (rangeLo w) (rangeLo w + (rangeHi w - rangeLo w + 1) / 2)))) ∧
    (∀ s m vol op w l, dueMsg s m → m.kind = .steal vol op → (s.core m.dst).deques.find? (·.1 == vol) = some (vol, w) → rangeHi w ≤ rangeLo w + (rangeHi w - rangeLo w + 1) / 2 →
      l = removeFirst (·.1 == vol) (s.core m.dst).deques → (∃ e ∈ l, e.1 = vol) →
      exec (.stealPerform m.id) s = .next (((s.took m.id).setCore m.dst { s.core m.dst with deques := l }).replyOp
      m.core m.slot op (s.clk.frame + hops m.core m.dst + 1) (mkRange (rangeLo w) (rangeLo w + (rangeHi w - rangeLo w + 1) / 2)))) ∧
    (∀ s m vol op w l, dueMsg s m → m.kind = .steal vol op → (s.core m.dst).deques.find? (·.1 == vol) = some (vol, w) → rangeHi w ≤ rangeLo w + (rangeHi w - rangeLo w + 1) / 2 →
      l = removeFirst (·.1 == vol) (s.core m.dst).deques → (∀ e ∈ l, e.1 ≠ vol) → (∃ v ∈ s.circ.volumes, v.next < v.count) →
      exec (.stealPerform m.id) s = .next ((((s.took m.id).setCore m.dst { s.core m.dst with deques := l }).pushNew .placement).replyOp
      m.core m.slot op (s.clk.frame + hops m.core m.dst + 1) (mkRange (rangeLo w) (rangeLo w + (rangeHi w - rangeLo w + 1) / 2))))

/-- What a transaction does at its bank (R185, R187, R196, R197, R233, R237, R189). At a local word a plain store writes
exactly its own bytes, little-endian, and no other byte of memory changes; a load changes no byte and gives its
operation the bytes read; a load that waits for a full word joins the wait list; a walk reads one level a step, and
its leaf enters the cluster’s cache and places the accesses that wait for it; an access on the overflow list is tried
every 64 rounds. That a walk of a strand’s access reads one level a step is the model’s choice (assumption 7). -/
def Obligations.BankTransactions : Prop :=
    (∀ s f p k, atBank s f p k → (f.kind = .st ∨ f.kind = .vst ∨ f.kind = .vstf ∨ f.kind = .vstx ∨ f.kind = .segst) → p.kpage = none → unfiltered s f → s.mem.wf = true →
      ∃ t, exec (.bankTransaction f.id) s = .next t ∧ t.mem.getBytes k p.n = leBytes p.n p.data.toNat ∧ t.empty = s.empty ∧ ∀ a, a < k ∨ k + p.n ≤ a → t.mem.get a = s.mem.get a) ∧
    (∀ s f p k core slot t0 o, atBank s f p k → f.kind = .ld false → f.parts = [p] → f.k = 0 → f.acc = 0 → s.byUid f.uid = some ((core, slot), t0) → t0.ops.find? (·.id == f.id) = some o →
      ∃ t t1, exec (.bankTransaction f.id) s = .next t ∧ t.mem = s.mem ∧ t.empty = s.empty ∧ t.strand core slot = some t1 ∧
      t1.ops.find? (·.id == f.id) = some { o with stage := .done, val := BitVec.ofNat 512 (s.rdN k p.n), flags := 0, fault := none }) ∧
    (∀ s f p k, atBank s f p k → (f.kind = .ldf ∨ f.kind = .lde) → s.full k = false → f.bound = false → 0 < s.poolFree (ownerCluster k) →
      exec (.bankTransaction f.id) s = .next (s.fresh.2.setFlight { f with joined := some s.fresh.1 })) ∧
    (∀ (s : State) f i p v a l w, s.flights.find? (·.id == f.id) = some f → f.unplaced = some (i, p, v, a) → f.failed = false →
      v = w.vol → a / 2 ^ l.bits = w.va / 2 ^ l.bits → s.walked w (.leaf l) (.access f.id) = s.placed f i p a (s.leafPlace l a f.kind.need)) ∧
    (∀ s k w id r, s.walkRun id = some (k, w) → (w.fuel = 4 → (s.spaceOf w.vol).root ≠ none) → walkLevel s w.va w.fuel w.table w.p = .inl r →
      exec (.translationWalk id) s = .next (s.walkEnds k w r)) ∧
    (∀ s k w id n, s.walkRun id = some (k, w) → (w.fuel = 4 → (s.spaceOf w.vol).root ≠ none) → walkLevel s w.va w.fuel w.table w.p = .inr n →
      exec (.translationWalk id) s = .next ((s.setCluster k { s.cluster k with walks := replaceBy (·.id == id) { w with fuel := w.fuel - 1, table := n.1, p := n.2 } (s.cluster k).walks }).push (.translationWalk id))) ∧
    (∀ s k w id, s.walkRun id = some (k, w) → w.fuel = 4 → (s.spaceOf w.vol).root = none → exec (.translationWalk id) s = .next (s.walkEnds k w (.fail 1))) ∧
    (∀ (s : State) k w l, w.for_ = [] → (s.cluster k).misses = [] →
      ((s.walkEnds k w (.leaf l)).cluster k).tlb = tlbFill (s.cluster k).tlb w.vol w.va l) ∧
    (∀ s f p q, s.flights.find? (·.id == f.id) = some f → f.spill = some q → f.parts[f.k]? = some p → q < s.clk.frame → (s.clk.frame - q) % 64 = 0 → p.key ≠ none →
      s.bankDo f p (p.key.getD 0) ≠ .wait → exec (.overflowRetry f.id) s = .next (s.attempt { f with spill := none } p (p.key.getD 0))) ∧
    (∀ s f q, s.flights.find? (·.id == f.id) = some f → f.spill = some q → (s.clk.frame - q) % 64 ≠ 0 → exec (.overflowRetry f.id) s = .next s)

/-- Pre-emption and resumption of a core (R363, R71, R88, R176). A pre-emption request is answered 0 and the core starts
to save when it holds user strands, 1 when it is already pre-empted, 2 when it does not exist or is fenced, 3 without
user strands; a resume request is answered 1 unless the core is out; a save ends with the core out and its W and A
buffers cleared; a resume brings back the tiles of the gatherings that are still there, and the streams. The request
enters slot 63’s inbox at its core. The word of that message is a free value (assumption 89). -/
def Obligations.PreemptionAndResumption : Prop :=
    (∀ s m op, dueMsg s m → m.kind = .preempt op →
      exec (.preemptRequest m.id) s = .next (((s.took m.id).preemptAsked m.dst (some m.core)).2.replyOp m.core m.slot op (s.clk.frame + hops m.core m.dst + 1) (ofN ((s.took m.id).preemptAsked m.dst (some m.core)).1))) ∧
    (∀ (s s1 : State) core by_, core < 2048 → s.coreFenced core = false → (s.core core).pre = .none → s.users core ≠ [] →
      s1 = (s.users core).foldl (fun s e => ((s.strand core e.1).map s.endCollation).getD s) s →
      s.startPreempt core by_ = (0, (s1.setCore core { s1.core core with pre := .saving by_ }).pushNew (.preemptSave core))) ∧
    (∀ (s : State) core by_, core < 2048 → s.coreFenced core = false → (s.core core).pre ≠ .none → s.startPreempt core by_ = (1, s)) ∧
    (∀ (s : State) core by_, (2048 ≤ core ∨ s.coreFenced core = true) → s.startPreempt core by_ = (2, s) ∧ s.startResume core by_ = (2, s)) ∧
    (∀ (s : State) core by_, core < 2048 → s.coreFenced core = false → (s.core core).pre = .none → s.users core = [] → s.startPreempt core by_ = (3, s)) ∧
    (∀ s m op, dueMsg s m → m.kind = .resume op →
      exec (.resumeRequest m.id) s = .next (((s.took m.id).startResume m.dst (some m.core)).2.replyOp m.core m.slot op (s.clk.frame + hops m.core m.dst + 1) (ofN ((s.took m.id).startResume m.dst (some m.core)).1))) ∧
    (∀ (s : State) core by_, core < 2048 → s.coreFenced core = false → (s.core core).pre = .out → s.startResume core by_ = (0, (s.setCore core { s.core core with pre := .resuming by_ }).pushNew (.coreResume core))) ∧
    (∀ (s : State) core by_, core < 2048 → s.coreFenced core = false → (s.core core).pre ≠ .out → s.startResume core by_ = (1, s)) ∧
    (∀ s core by_, (s.core core).pre = .saving by_ → s.savesReady core = true →
      ∃ t, exec (.preemptSave core) s = .next t ∧ (t.core core).pre = .out ∧ ∀ a, wKey core 0 ≤ a → a < wKey core 0 + 2 ^ 20 → t.mem.get a = 0 ∧ t.full a = true) ∧
    (∀ s core by_, (s.core core).pre = .resuming by_ → s.resumeFits core = true →
      ∃ t, exec (.coreResume core) s = .next t ∧ (t.core core).pre = .none ∧
      (∀ i < 16, (t.core core).tile i = if ((s.tilesBack core).getD i {}).conf then (s.tilesBack core).getD i {} else (s.core core).tile i) ∧
      (t.core core).streams = (s.core core).carrel.streams ∧ (t.core core).saved = [] ∧ (t.core core).returns = []) ∧
    (∀ (s : State) core from_, core < 2048 → s.coreFenced core = false → ∃ m, (s.preemptMsg core from_).fab.sup = s.fab.sup ++ [m] ∧ m.dst = some core ∧ m.from_ = from_ ∧
      (s.preemptMsg core from_).strands = s.strands ∧ (s.preemptMsg core from_).cores = s.cores ∧ (s.preemptMsg core from_).mem = s.mem) ∧
    (∀ (s : State) core from_, (2048 ≤ core ∨ s.coreFenced core = true) → s.preemptMsg core from_ = s)

/-- Launches, placement and the end of gatherings (R353, R354, R355, R356, R373, R374). A launch record that is read is
answered with what admission gives; admission refuses a bad record by its failing doubleword and answers 1 for a
volume that has as many launches as it may; placement puts the next gathering of the only volume that waits on the
lowest cluster that fits, and does nothing when none waits; a gathering with no live member ends, or hands its slots
to its successor, and one with a live member stays. -/
def Obligations.LaunchPlacementRetirement : Prop :=
    (∀ (s : State) r ty l ws, s.circ.reqs.find? (·.id == r.id) = some r → s.reqReady r = true → s.isReady .circ 0 = true → s.isFenced .circ 0 = false → r.iss.place r.a 256 (rR + rE) 64 = .ok (ty, l) →
      State.reqRecord { s with circ := { s.circ with reqs := s.circ.reqs.filter (·.id != r.id) } } (clusterOf r.iss.core) r l 32 = .words ws →
      exec (.launchAccept r.id) s = .next ((State.grantLaunch { s with circ := { s.circ with reqs := s.circ.reqs.filter (·.id != r.id) } } ws (some r.iss.vol) r.iss.vol none r.syncLoc).2.status r.iss r.id
      (State.grantLaunch { s with circ := { s.circ with reqs := s.circ.reqs.filter (·.id != r.id) } } ws (some r.iss.vol) r.iss.vol none r.syncLoc).1)) ∧
    (∀ (r : Req) w ty l, r.b = some w → r.iss.place w 8 (rW + rF + rE) 8 = .ok (ty, l) → r.syncLoc = some l) ∧
    (∀ (r : Req), (r.b = none ∨ ∃ w e, r.b = some w ∧ r.iss.place w 8 (rW + rF + rE) 8 = .error e) → r.syncLoc = none) ∧
    (∀ (s : State) r e, s.circ.reqs.find? (·.id == r.id) = some r → s.reqReady r = true → s.isReady .circ 0 = true → s.isFenced .circ 0 = false → r.iss.place r.a 256 (rR + rE) 64 = .error e →
      exec (.launchAccept r.id) s = .next (State.status { s with circ := { s.circ with reqs := s.circ.reqs.filter (·.id != r.id) } } r.iss r.id 2)) ∧
    (∀ (s : State) r, s.circ.reqs.find? (·.id == r.id) = some r → s.reqReady r = true → s.isFenced .circ 0 = true →
      exec (.launchAccept r.id) s = .next (State.opDone { s with circ := { s.circ with reqs := s.circ.reqs.filter (·.id != r.id) } } r.iss.uid r.id 0 0 (some { cls := 5, code := 3 }) |>.kickReqs (clusterOf r.iss.core))) ∧
    (∀ (s : State) ws own v want sync i, s.badRecord v ws = some i → s.grantLaunch ws own v want sync = (ofN (i * 2 ^ 8 + 2), s)) ∧
    (∀ (s : State) ws p v want sync, s.badRecord v ws = none → shapeNever s ws = false → ((s.volume p).map Volume.launchN).getD 0 ≤ s.launched p → s.grantLaunch ws (some p) v want sync = (1, s)) ∧
    (∀ (s : State) k v f, s.isReady .circ 0 = true → s.isFenced .circ 0 = false → s.placeOrder = [v.id] → s.volume v.id = some v → v.count = v.next + 1 → v.reserved = none → (∀ x ∈ s.circ.volumes, x.id ≠ v.id → x.reserved = none) → k < Config.clusters →
      (∀ j < k, s.clusterFits v j = none) → s.clusterFits v k = some f → (s.codePoint v.id (v.dw 0)).isSome = true → exec .placement s = .next (s.place v k f.1 f.2)) ∧
    (∀ s, s.isReady .circ 0 = true → s.isFenced .circ 0 = false → s.placeOrder = [] → exec .placement s = .next s) ∧
    (∀ s vol gidx g v, s.gathering vol gidx = some g → s.volume vol = some v → (∀ m ∈ g.members, m.st ≠ .live) → s.retireWaits g = false → s.strangers g = [] → g.succ = none →
      exec (.gatheringRetire vol gidx) s = .next (s.endGathering g)) ∧
    (∀ s vol gidx g v w i off, s.gathering vol gidx = some g → s.volume vol = some v → (∀ m ∈ g.members, m.st ≠ .live) → s.retireWaits g = false → s.strangers g = [] → g.succ = some w → s.codePoint vol w = some (i, off) → s.granFits g = true →
      exec (.gatheringRetire vol gidx) s = .next (s.handOn v g i off)) ∧
    (∀ s vol gidx g v m, s.gathering vol gidx = some g → s.volume vol = some v → m ∈ g.members → m.st = .live → exec (.gatheringRetire vol gidx) s = .next s)

/-- The copy engine takes, runs and completes operations (R283, R284, R286, R288, R295). A copy request is answered 3 by a
fenced engine, 1 by a full queue, BADREC with the failing doubleword, or 0 and is queued, after what of its records
lies on a remote page has been asked for; a chunk whose reads have come is written; an operation whose last chunk is
over, without faults, leaves the queue with no errata record. That a fenced engine, then a full queue, then the record
are looked at in this order is the model’s reading (assumption 39). -/
def Obligations.CopyOperations : Prop :=
    (∀ s k r, takesReq s k .copy r → s.unitFenced .copy k = true → exec (.copyAccept k r.id) s = .next ((s.tookReq k r.id).status r.iss r.id 3)) ∧
    (∀ s k r, takesReq s k .copy r → s.unitFenced .copy k = false → 256 ≤ (s.cluster k).copies.length + s.held k 1 → exec (.copyAccept k r.id) s = .next ((s.tookReq k r.id).status r.iss r.id 1)) ∧
    (∀ s k r dw, takesReq s k .copy r → s.unitFenced .copy k = false → (s.cluster k).copies.length + s.held k 1 < 256 → (s.tookReq k r.id).copyRecord k r = .bad dw →
      exec (.copyAccept k r.id) s = .next ((s.tookReq k r.id).status r.iss r.id (badRec dw))) ∧
    (∀ s k r o, takesReq s k .copy r → s.unitFenced .copy k = false → (s.cluster k).copies.length + s.held k 1 < 256 → (s.tookReq k r.id).copyRecord k r = .op o →
      exec (.copyAccept k r.id) s = .next ((((s.tookReq k r.id).setCluster k { (s.tookReq k r.id).cluster k with copies := ((s.tookReq k r.id).cluster k).copies ++ [o] }).status r.iss r.id 0).startCopies k)) ∧
    (∀ s k op o, (s.cluster k).copies.find? (·.id == op) = some o → o.started = true → o.chunk < o.chunks → s.copyBlocked o = false → (∀ a ∈ o.far, a.res ≠ none) → o.sent = none → (s.copyScan k o).wait = false →
      exec (.copyChunk k op) s = .next (s.copyWrites k { o with far := [] } (s.copyScan k o))) ∧
    (∀ s k op o, (s.cluster k).copies.find? (·.id == op) = some o → o.chunks ≤ o.chunk → s.copyBlocked o = false → o.marks = [] → o.extra = [] → (o.dws.getD 6 0).getLsbD 63 = false →
      exec (.copyComplete k op) s = .next ((s.setCluster k { s.cluster k with copies := (s.cluster k).copies.filter (·.id != op) }).nextCopies k o.iss)) ∧
    (∀ (s : State) k iss, s.det iss.vol = false → s.nextCopies k iss = s.startCopies k) ∧
    (∀ s k op o, (s.cluster k).copies.find? (·.id == op) = some o → o.chunk < o.chunks → exec (.copyComplete k op) s = .next s) ∧
    (∀ s k r as, takesReq s k .copy r → s.unitFenced .copy k = false → (s.cluster k).copies.length + s.held k 1 < 256 → (s.tookReq k r.id).copyRecord k r = .ask as →
      exec (.copyAccept k r.id) s = .next (s.askRecord k r as))

/-- The bindery takes, starts and completes tasks (R260, R262, R263, R264, R266, R267, R280). A `tenq` is answered 4 by a
fenced bindery, with the position and status of the first record that fails, 1 when its tasks do not fit, and 0 when
they join the queue; a waiting record that may start is started on its free core; a part that completes leaves the
queue with its task, and a part that faults halts its tile. The answer of a fenced bindery with position 0, and the
records being checked before the room in the queue, are the model’s readings (assumption 30). -/
def Obligations.BinderyTasks : Prop :=
    (∀ s k b r, takesTask s k b r → s.unitFenced .bind b = true → exec (.binderyEnqueue k r.id) s = .next ((s.tookReq k r.id).tenqEnd r b 4)) ∧
    (∀ s k b r ty l ws g v i, takesTask s k b r → s.unitFenced .bind b = false → r.iss.place r.a (64 * r.imm) (rR + rE) 64 = .ok (ty, l) → (s.tookReq k r.id).reqRecord k r l (8 * r.imm) = .words ws →
      (s.tookReq k r.id).gathering r.iss.vol r.iss.gidx = some g → ((recordsOf ws r.imm).map fun d => (s.tookReq k r.id).recordStatus r.iss g fun i => d.getD i 0).zipIdx.find? (·.1 != 0) = some (v, i) →
      exec (.binderyEnqueue k r.id) s = .next ((s.tookReq k r.id).tenqEnd r b (i * 256 + v))) ∧
    (∀ s k b r ty l ws g, takesTask s k b r → s.unitFenced .bind b = false → r.iss.place r.a (64 * r.imm) (rR + rE) 64 = .ok (ty, l) → (s.tookReq k r.id).reqRecord k r l (8 * r.imm) = .words ws →
      (s.tookReq k r.id).gathering r.iss.vol r.iss.gidx = some g → (∀ d ∈ recordsOf ws r.imm, (s.tookReq k r.id).recordStatus r.iss g (fun i => d.getD i 0) = 0) →
      1024 < ((s.tookReq k r.id).cluster b).tasks.length + (s.tookReq k r.id).held b 2 + (recordsOf ws r.imm).length → exec (.binderyEnqueue k r.id) s = .next ((s.tookReq k r.id).tenqEnd r b 1)) ∧
    (∀ s k c t, (s.cluster k).tasks = [t] → t.cores = [8 * k + c] → c < 8 → t.parts = [.waiting] → s.startable k (8 * k + c) [] t = true →
      exec (.taskStart k) s = .next ((s.putTask k { t.mark (8 * k + c) .started with met := true }).push (.taskPartComplete k t.id 0))) ∧
    (∀ s k t core, (s.cluster k).tasks.find? (·.id == t.id) = some t → t.cores = [core] → t.parts = [.started] → ((s.core core).tile t.tile).halted = false → s.coreFenced core = false → t.kind = 2 →
      exec (.taskPartComplete k t.id 0) s = .next (((s.setCore core ((s.core core).zeroTile t.tile)).putTask k (t.mark core (.ended 0))).finishTask k (t.mark core (.ended 0)))) ∧
    (∀ s k t core s1 code chunk, (s.cluster k).tasks.find? (·.id == t.id) = some t → t.cores = [core] → t.parts = [.started] → ((s.core core).tile t.tile).halted = false → s.coreFenced core = false → s.runPart k core t 0 = (s1, some (code, chunk)) →
      exec (.taskPartComplete k t.id 0) s = .next ((((s1.setCore core ((s1.core core).setTile t.tile { (s1.core core).tile t.tile with halted := true })).taskErrata t code 0 chunk).putTask k (t.mark core (.ended 1))).finishTask k (t.mark core (.ended 1)))) ∧
    (∀ s k b r ty l ws g, takesTask s k b r → s.unitFenced .bind b = false → r.iss.place r.a (64 * r.imm) (rR + rE) 64 = .ok (ty, l) → (s.tookReq k r.id).reqRecord k r l (8 * r.imm) = .words ws →
      (s.tookReq k r.id).gathering r.iss.vol r.iss.gidx = some g → (∀ d ∈ recordsOf ws r.imm, (s.tookReq k r.id).recordStatus r.iss g (fun i => d.getD i 0) = 0) →
      ((s.tookReq k r.id).cluster b).tasks.length + (s.tookReq k r.id).held b 2 + (recordsOf ws r.imm).length ≤ 1024 → exec (.binderyEnqueue k r.id) s = .next (((s.tookReq k r.id).enqueued b r g (recordsOf ws r.imm)).tenqEnd r b 0)) ∧
    (∀ s k t core s1, (s.cluster k).tasks.find? (·.id == t.id) = some t → t.cores = [core] → t.parts = [.started] → ((s.core core).tile t.tile).halted = false → s.coreFenced core = false → s.runPart k core t 0 = (s1, none) →
      exec (.taskPartComplete k t.id 0) s = .next ((s1.putTask k (t.mark core (.ended 0))).finishTask k (t.mark core (.ended 0)))) ∧
    (∀ (s : State) r b v, (s.status r.iss r.id (ofN v)).requestEvents r.iss.uid = [] → s.tenqEnd r b v = (s.status r.iss r.id (ofN v)).pushNew (.taskStart b))

/-- Selection and gathering run (R295, R305, R307, R311, R313, R314). A `ksel` or `kgath` is answered 3 by a fenced engine
and 1 by a full queue, and BADREC or 0 as its checks go; the head of the queue runs: a `ksel` reads its query and then
one abstract a step, each with the bound that its read gives, a `kgath` its header first; an entry’s slots are moved
and its map words name their tokens, and one whose slots cannot be gathered has no token in its map words and an
errata record; a `kgath` whose header cannot be read has no token in any map word and one errata record, and after the
last entry the operation ends. What of a record lies on a remote page is asked for first. That a `ksel` reads its
query and then one abstract a step is the model’s reading (assumption 42), and so is the order of the statuses
(assumption 39). -/
def Obligations.SelectionOperations : Prop :=
    (∀ s k r, takesReq s k .sel r → s.unitFenced .sel k = true → exec (.selectionAccept k r.id) s = .next ((s.tookReq k r.id).status r.iss r.id 3)) ∧
    (∀ s k r, takesReq s k .sel r → s.unitFenced .sel k = false → 64 ≤ (s.cluster k).sels.length + s.held k 3 → exec (.selectionAccept k r.id) s = .next ((s.tookReq k r.id).status r.iss r.id 1)) ∧
    (∀ s k r ty l ws dw, takesReq s k .sel r → s.unitFenced .sel k = false → (s.cluster k).sels.length + s.held k 3 < 64 → r.iss.place r.a 64 (rR + rE) 64 = .ok (ty, l) → (s.tookReq k r.id).reqRecord k r l 8 = .words ws → r.kind = .ksel →
      lowestBad (kselChecks r.iss fun i => ws.getD i 0) = some dw → exec (.selectionAccept k r.id) s = .next ((s.tookReq k r.id).status r.iss r.id (badRec dw))) ∧
    (∀ s k r ty l ws, takesReq s k .sel r → s.unitFenced .sel k = false → (s.cluster k).sels.length + s.held k 3 < 64 → r.iss.place r.a 64 (rR + rE) 64 = .ok (ty, l) → (s.tookReq k r.id).reqRecord k r l 8 = .words ws → r.kind = .ksel →
      lowestBad (kselChecks r.iss fun i => ws.getD i 0) = none → exec (.selectionAccept k r.id) s = .next ((((s.tookReq k r.id).setCluster k { (s.tookReq k r.id).cluster k with sels := ((s.tookReq k r.id).cluster k).sels ++ [{ id := r.id, iss := r.iss, kind := r.kind, ptr := r.a, dws := ws, sync := r.b, note := r.imm == 1 }] }).status r.iss r.id 0).startSel k)) ∧
    (∀ s k o, (s.cluster k).sels.head? = some o → s.unitFenced .sel k = false → o.hdr = none → s.selBlocked o = false → o.kind = .ksel → exec (.selectRun k o.id) s = .next (s.runKsel k o)) ∧
    (∀ s k o v, (s.cluster k).sels.head? = some o → s.unitFenced .sel k = false → o.hdr = none → s.selBlocked o = false → o.kind = .kgath → s.engRead k (o.iss.at_ (o.dws.getD 0 0) 0) 8 = .ok v →
      exec (.selectRun k o.id) s = .next ((s.setCluster k { s.cluster k with sels := replaceBy (·.id == o.id) { o with hdr := some (v % 2 ^ 13) } (s.cluster k).sels }).push (.gatherEntry k o.id))) ∧
    (∀ s k o h, (s.cluster k).sels.head? = some o → s.unitFenced .sel k = false → o.hdr = some h → s.selBlocked o = false → gathM (fun i => o.dws.getD i 0) ≤ o.e → exec (.gatherEntry k o.id) s = .next (s.endSel k o o.moved)) ∧
    (∀ s k o h code idx va, (s.cluster k).sels.head? = some o → s.unitFenced .sel k = false → o.hdr = some h → s.selBlocked o = false → o.e < gathM (fun i => o.dws.getD i 0) → s.gatherSlots k o (gathE0 (fun i => o.dws.getD i 0) + o.e) h = .error (code, idx, va, none) →
      exec (.gatherEntry k o.id) s = .next (((s.mapWords k o o.e noToken).selErrata o code idx va).nextEntry k { o with errata := true })) ∧
    (∀ s k r ty l ws, takesReq s k .sel r → s.unitFenced .sel k = false → (s.cluster k).sels.length + s.held k 3 < 64 → r.iss.place r.a 64 (rR + rE) 64 = .ok (ty, l) → (s.tookReq k r.id).reqRecord k r l 8 = .words ws → r.kind = .kgath →
      lowestBad (kgathChecks r.iss fun i => ws.getD i 0) = none → exec (.selectionAccept k r.id) s = .next ((((s.tookReq k r.id).setCluster k { (s.tookReq k r.id).cluster k with sels := ((s.tookReq k r.id).cluster k).sels ++ [{ id := r.id, iss := r.iss, kind := r.kind, ptr := r.a, dws := ws, sync := r.b, note := r.imm == 1 }] }).status r.iss r.id 0).startSel k)) ∧
    (∀ s k o h idx kg vg, (s.cluster k).sels.head? = some o → s.unitFenced .sel k = false → o.hdr = some h → s.selBlocked o = false → o.e < gathM (fun i => o.dws.getD i 0) → s.gatherSlots k o (gathE0 (fun i => o.dws.getD i 0) + o.e) h = .ok (idx, kg, vg) → o.sync = none →
      exec (.gatherEntry k o.id) s = .next (if (s.gathered k o kg vg).2
      then (((s.gathered k o kg vg).1.mapWords k o o.e noToken).selErrata o 0x58 idx 0).nextEntry k { o with errata := true }
      else ((s.gathered k o kg vg).1.mapWords k o o.e fun t => idx * 64 + t).nextEntry k { o with moved := o.moved + 1 })) ∧
    (∀ s k o h idx kg vg w s2, (s.cluster k).sels.head? = some o → s.unitFenced .sel k = false → o.hdr = some h → s.selBlocked o = false → o.e < gathM (fun i => o.dws.getD i 0) →
      s.gatherSlots k o (gathE0 (fun i => o.dws.getD i 0) + o.e) h = .ok (idx, kg, vg) → o.sync = some w → (s.gathered k o kg vg).2 = false →
      s2 = ((s.gathered k o kg vg).1.mapWords k o o.e fun t => idx * 64 + t).arriveOnce k o.iss w (fld (o.dws.getD 7 0) 23 0) →
      exec (.gatherEntry k o.id) s = .next (if s2.2 = .done then s2.1.nextEntry k { o with moved := o.moved + 1 }
      else ((s2.1.mapWords k o o.e noToken).selErrata o (if s2.2 = .fenced then 0x58 else 0x59) idx (o.iss.at_ w 0).vaOr0).nextEntry k { o with errata := true })) ∧
    (∀ (s : State) k o qs, o.qry = none → (∀ c < selC (fun i => o.dws.getD i 0), s.engRead k (o.iss.at_ (o.dws.getD 0 0) (c * selQ fun i => o.dws.getD i 0)) (selQ fun i => o.dws.getD i 0) = .ok (qs c)) →
      s.runKsel k o = (s.putSel k { o with qry := some ((List.range (selC fun i => o.dws.getD i 0)).map qs) }).push (.selectRun k o.id)) ∧
    (∀ (s : State) k o q, o.qry = some q → selN (fun i => o.dws.getD i 0) ≤ o.e → s.runKsel k o = s.endKsel k o) ∧
    (∀ (s : State) k o q w b va, o.qry = some q → o.e < selN (fun i => o.dws.getD i 0) → s.engRead k (o.iss.at_ (o.dws.getD 1 0) (16 * o.e)) 8 = .ok w →
      s.descBound k o (q.map (if selQ (fun i => o.dws.getD i 0) == 4 then fpF32 else fpBf16).value) (ofN w) = .ok (b, va) →
      s.runKsel k o = ((s.cacheFill k (.va o.iss.vol va) 8).putSel k { o with e := o.e + 1, good := o.good ++ [(o.e, b, va)] }).push (.selectRun k o.id)) ∧
    (∀ (s : State) k o q w c va, o.qry = some q → o.e < selN (fun i => o.dws.getD i 0) → s.engRead k (o.iss.at_ (o.dws.getD 1 0) (16 * o.e)) 8 = .ok w →
      s.descBound k o (q.map (if selQ (fun i => o.dws.getD i 0) == 4 then fpF32 else fpBf16).value) (ofN w) = .error (c, va) →
      s.runKsel k o = ((s.cacheFill k (.va o.iss.vol va) 8).putSel k { o with e := o.e + 1, bad := o.bad ++ [(o.e, c, va)] }).push (.selectRun k o.id)) ∧
    (∀ s k r ty l as, takesReq s k .sel r → s.unitFenced .sel k = false → (s.cluster k).sels.length + s.held k 3 < 64 → r.iss.place r.a 64 (rR + rE) 64 = .ok (ty, l) → (s.tookReq k r.id).reqRecord k r l 8 = .ask as →
      exec (.selectionAccept k r.id) s = .next (s.askRecord k r as)) ∧
    (∀ s k o c, (s.cluster k).sels.head? = some o → s.unitFenced .sel k = false → o.hdr = none → s.selBlocked o = false → o.kind = .kgath → s.engRead k (o.iss.at_ (o.dws.getD 0 0) 0) 8 = .bad c →
      exec (.selectRun k o.id) s = .next ((((List.range (gathM fun i => o.dws.getD i 0)).foldl (fun u i => State.mapWords u k o i noToken) s).selErrata o 0x58 (gathE0 fun i => o.dws.getD i 0) 0).endSel k { o with errata := true } 0))

/-- Pooling in the annex runs (R319, R322, R323, R324, R325). An `emb` of a fenced interface is answered 3, one whose
record fails BADREC, one for whose bags a chip has no room 1, and any other 0; a chip that reaches its rows adds its
partial to the operation and its entry is released, and a failing access makes the bag faulted; a bag whose partials
are complete is written, a faulted one is not but has its errata record, and after the last bag the operation ends. -/
def Obligations.PoolingOperations : Prop :=
    (∀ s k r, takesReq s k .annexif r → (∀ c < 8, s.isReady .chip c = true ∨ s.isFenced .chip c = true) → s.unitFenced .annexif k = true → exec (.embAccept k r.id) s = .next ((s.tookReq k r.id).embStatus r 3)) ∧
    (∀ s k r ty l ws dw, takesReq s k .annexif r → (∀ c < 8, s.isReady .chip c = true ∨ s.isFenced .chip c = true) → s.unitFenced .annexif k = false → r.iss.place r.a 64 (rR + rE) 64 = .ok (ty, l) → (s.tookReq k r.id).reqRecord k r l 8 = .words ws →
      lowestBad (bagChecks r.iss (fun i => ws.getD i 0) ((s.tookReq k r.id).readOffs r.iss fun i => ws.getD i 0)) = some dw → exec (.embAccept k r.id) s = .next ((s.tookReq k r.id).embStatus r (badRec dw))) ∧
    (∀ s k r ty l ws, takesReq s k .annexif r → (∀ c < 8, s.isReady .chip c = true ∨ s.isFenced .chip c = true) → s.unitFenced .annexif k = false → r.iss.place r.a 64 (rR + rE) 64 = .ok (ty, l) → (s.tookReq k r.id).reqRecord k r l 8 = .words ws →
      lowestBad (bagChecks r.iss (fun i => ws.getD i 0) ((s.tookReq k r.id).readOffs r.iss fun i => ws.getD i 0)) = none →
      (∃ c ∈ s.liveChips, 256 < (s.chips.filter (·.1 == c)).length + bagNb fun i => ws.getD i 0) → exec (.embAccept k r.id) s = .next ((s.tookReq k r.id).embStatus r 1)) ∧
    (∀ (s : State) k o bag chip rows, (s.cluster k).bags.find? (·.id == o.id) = some o → o.started = true → (chip, o.id, bag) ∈ s.chips →
      s.bagRows o bag = .ok rows → exec (.chipPartial k o.id bag chip) s = .next (((State.bagFill { s with chips := s.chips.filter (· != (chip, o.id, bag)) } o bag).putBag k { o with partials := o.partials ++ [(bag, chip, (s.partialOf (fun i => o.dws.getD i 0) (rows.filter (·.chip == chip))).1)], flags := o.flags ||| (s.partialOf (fun i => o.dws.getD i 0) (rows.filter (·.chip == chip))).2 }).pushNew (.bagWrite k o.id))) ∧
    (∀ (s : State) k o bag chip c j va, (s.cluster k).bags.find? (·.id == o.id) = some o → o.started = true → (chip, o.id, bag) ∈ s.chips → (∀ b ∈ o.bad, b.1 ≠ bag) →
      s.bagRows o bag = .error (c, j, va) → exec (.chipPartial k o.id bag chip) s = .next (((State.bagFill { s with chips := s.chips.filter (· != (chip, o.id, bag)) } o bag).putBag k { o with bad := o.bad ++ [(bag, c, j, va)] }).pushNew (.bagWrite k o.id))) ∧
    (∀ s k o, (s.cluster k).bags.find? (·.id == o.id) = some o → o.started = true → s.unitFenced .annexif k = false → bagNb (fun i => o.dws.getD i 0) ≤ o.bag → exec (.bagWrite k o.id) s = .next (s.endBag k o (if o.errata then 1 else 0))) ∧
    (∀ s k o code pos va, (s.cluster k).bags.find? (·.id == o.id) = some o → o.started = true → s.unitFenced .annexif k = false → o.bag < bagNb (fun i => o.dws.getD i 0) → (∀ e ∈ s.chips, e.2.1 = o.id → e.2.2 ≠ o.bag) →
      o.bad.find? (·.1 == o.bag) = some (o.bag, code, pos, va) → exec (.bagWrite k o.id) s = .next ((s.bagErrata o o.bag code pos va).nextBag k { o with errata := true })) ∧
    (∀ (s : State) k r ty l ws, takesReq s k .annexif r → (∀ c < 8, s.isReady .chip c = true ∨ s.isFenced .chip c = true) → s.unitFenced .annexif k = false → r.iss.place r.a 64 (rR + rE) 64 = .ok (ty, l) → (s.tookReq k r.id).reqRecord k r l 8 = .words ws →
      lowestBad (bagChecks r.iss (fun i => ws.getD i 0) ((s.tookReq k r.id).readOffs r.iss fun i => ws.getD i 0)) = none →
      (∀ c ∈ s.liveChips, (s.chips.filter (·.1 == c)).length + bagNb (fun i => ws.getD i 0) ≤ 256) →
      exec (.embAccept k r.id) s = .next ((State.embStatus { (s.tookReq k r.id).setCluster k { (s.tookReq k r.id).cluster k with bags := ((s.tookReq k r.id).cluster k).bags ++ [{ id := r.id, iss := r.iss, ptr := r.a, dws := ws, sync := r.b, note := r.imm == 1, offs := ((s.tookReq k r.id).readOffs r.iss fun i => ws.getD i 0).getD [] }] } with chips := s.chips ++ (List.range (bagNb fun i => ws.getD i 0)).flatMap fun b => s.liveChips.map fun c => (c, r.id, b) } r 0).startBags k)) ∧
    (∀ s k o, (s.cluster k).bags.find? (·.id == o.id) = some o → o.started = true → s.unitFenced .annexif k = false → o.bag < bagNb (fun i => o.dws.getD i 0) → (∀ e ∈ s.chips, e.2.1 = o.id → e.2.2 ≠ o.bag) →
      o.bad.find? (·.1 == o.bag) = none → (∀ e < bagD (fun i => o.dws.getD i 0), s.outCode k (o.out e) (bagOb fun i => o.dws.getD i 0) = none) → o.sync = none →
      exec (.bagWrite k o.id) s = .next ((s.bagStored k o).nextBag k { o with written := o.written + 1, flags := o.sums.foldl (fun f v => f ||| v.2) o.flags, partials := o.partials.filter (·.1 != o.bag) })) ∧
    (∀ s k o w s2, (s.cluster k).bags.find? (·.id == o.id) = some o → o.started = true → s.unitFenced .annexif k = false → o.bag < bagNb (fun i => o.dws.getD i 0) → (∀ e ∈ s.chips, e.2.1 = o.id → e.2.2 ≠ o.bag) →
      o.bad.find? (·.1 == o.bag) = none → (∀ e < bagD (fun i => o.dws.getD i 0), s.outCode k (o.out e) (bagOb fun i => o.dws.getD i 0) = none) → o.sync = some w →
      s2 = (s.bagStored k o).arriveOnce k o.iss w (bagD (fun i => o.dws.getD i 0) * bagOb fun i => o.dws.getD i 0) →
      exec (.bagWrite k o.id) s = .next (if s2.2 = .done then s2.1.nextBag k o.pooled
      else (s2.1.bagErrata o o.bag (if s2.2 = .fenced then 0x67 else 0x68) 0 (o.iss.at_ w 0).vaOr0).nextBag k { o.pooled with errata := true }))

/-- Specialisation runs (R326, R338, R339, R340, R345). A `spec` is answered 3 by a fenced redactor, 1 by a full queue, 4
when its source is no current accession, 0 otherwise with a reference kept; the head of the queue is traced: for a
trace that ends the residual is written and its entry is PENDING until the block is written, which publishes it, and a
block that cannot be written returns the entry with its generation advanced; any other end fails. That every other
field of a FREE entry is 0 is the model’s reading (assumption 44), and so is that a fenced redactor answers before a
full queue is looked at (assumption 39). -/
def Obligations.SpecialisationOperations : Prop :=
    (∀ s k r, takesReq s k .red r → s.unitFenced .red k = true → exec (.specAccept k r.id) s = .next ((s.tookReq k r.id).status r.iss r.id 3)) ∧
    (∀ s k r, takesReq s k .red r → s.unitFenced .red k = false → 32 ≤ (s.cluster k).specs.length + s.held k 5 → exec (.specAccept k r.id) s = .next ((s.tookReq k r.id).status r.iss r.id 1)) ∧
    (∀ s k o t, (s.cluster k).specs.head? = some o → o.taken = none → s.specTrace k o = .done t →
      exec (.specRun k o.id) s = .next (s.specPublish k o ((s.spaceOf o.iss.vol).entry o.src) t (specLive fun i => o.dws.getD i 0))) ∧
    (∀ s k o t st, (s.cluster k).specs.head? = some o → o.taken = none → s.specTrace k o = .end_ t st → exec (.specRun k o.id) s = .next (s.specFail k o t st)) ∧
    (∀ (s : State) k o src t live ws s1 i gen base, ws = deadPass live (copyPass t.out.length t.out) → s.placeCode o.iss.vol (ws.map Raw.toWord) = some (s1, i, gen, base) →
      ∃ s2, s2 = s1.setSpace ((s1.spaceOf o.iss.vol).setEntry i { gen := gen, state := 2, base := base, sgen := src.gen, sidx := o.src, size := ws.length }) ∧
      s.specPublish k o src t live = (s2.setCluster k { s2.cluster k with specs := mapIf (·.id == o.id) (fun x => { x with taken := some (i, gen, base, specStats ws.length t) }) (s2.cluster k).specs }).push (.specRun k o.id)) ∧
    (∀ (s : State) k o src t live ws, ws = deadPass live (copyPass t.out.length t.out) → s.placeCode o.iss.vol (ws.map Raw.toWord) = none →
      s.specPublish k o src t live = ((s.blockOut k o 0 (specStats ws.length t)).1).endSpec k o 7) ∧
    (∀ s k o i gen base st, (s.cluster k).specs.head? = some o → o.taken = some (i, gen, base, st) → exec (.specRun k o.id) s = .next (s.specEnd k o i gen base st)) ∧
    (∀ (s : State) k o i gen base st e s1, e = (s.spaceOf o.iss.vol).entry i → s.blockOut k o (gen * 2 ^ 48 + i * 2 ^ 32 + e.size) st = (s1, false) →
      s.specEnd k o i gen base st = (s1.publish o.iss.vol i gen base e.size e.sgen e.sidx).endSpec k o 0) ∧
    (∀ (s : State) k o i gen base st e s1, e = (s.spaceOf o.iss.vol).entry i → s.blockOut k o (gen * 2 ^ 48 + i * 2 ^ 32 + e.size) st = (s1, true) →
      s.specEnd k o i gen base st = (s1.setSpace ((s1.spaceOf o.iss.vol).setEntry i { gen := gen })).endSpec k o 8) ∧
    (∀ s k r, takesReq s k .red r → s.unitFenced .red k = false → (s.cluster k).specs.length + s.held k 5 < 32 → (∀ x ∈ (s.tookReq k r.id).specBlock k r, x ≠ none) → lowestBad (specChecks ((s.tookReq k r.id).specDws k r)) = none →
      (∀ x ∈ (s.tookReq k r.id).specEarly k r, x ≠ none) → (s.tookReq k r.id).currentHandle r.iss.vol r.a = none → exec (.specAccept k r.id) s = .next ((s.tookReq k r.id).status r.iss r.id 4)) ∧
    (∀ s k r src, takesReq s k .red r → s.unitFenced .red k = false → (s.cluster k).specs.length + s.held k 5 < 32 → (∀ x ∈ (s.tookReq k r.id).specBlock k r, x ≠ none) → lowestBad (specChecks ((s.tookReq k r.id).specDws k r)) = none →
      (∀ x ∈ (s.tookReq k r.id).specEarly k r, x ≠ none) → (s.tookReq k r.id).currentHandle r.iss.vol r.a = some src → exec (.specAccept k r.id) s = .next ((s.tookReq k r.id).takeSpec k r src))

/-- Work requests, packets and their failures (R380, R384, R386, R387, R388, R389, R390, R425). A work request whose
record cannot be read is answered BADREC, one to an invalid or failed peer 4, and one within the depth of a working
peer of its volume is taken; a packet the engine takes is served by its kind; a write with its key is placed and
acknowledged once, and the data of a read of the device’s own is placed once and acknowledged each time; acknowledged
packets count, and with the last the request is done; a refused packet fails it; an unacknowledged packet is sent
again, 64 times at most. A packet of a send is placed in the receive of its number as far as it fits and acknowledged,
the bytes beyond the receive’s length are discarded, and a receive shorter than its message ends TRUNC with its
record, any other DONE. How packets are named, that a duplicate and the data of none of the outstanding requests place
nothing (assumption 47), and that a request fails only when the time of its 64th retransmission has run out
(assumption 48), are the model’s readings. -/
def Obligations.NetworkRequests : Prop :=
    (∀ (s : State) r ty l, s.net.reqs.find? (·.id == r.id) = some r → s.reqReady r = true → s.isReady .net 0 = true → r.iss.place r.a 64 (rR + rE) 64 = .ok (ty, l) → (State.devFill (s.tookNet r.id) l 64).netRecord r = none →
      exec (.netAccept r.id) s = .next (((s.tookNet r.id).devFill l 64).status r.iss r.id (badRec 0))) ∧
    (∀ (s s1 : State) r ws ty l, s.net.reqs.find? (·.id == r.id) = some r → s.reqReady r = true → s.isReady .net 0 = true → r.iss.place r.a 64 (rR + rE) 64 = .ok (ty, l) → s1 = (s.tookNet r.id).devFill l 64 → s1.netRecord r = some ws →
      lowestBad (netChecks s1 r.iss r.kind fun i => ws.getD i 0) = none →
      ((s1.peer (wrPeer fun i => ws.getD i 0)).valid = false ∨ (s1.peer (wrPeer fun i => ws.getD i 0)).state = 2) → exec (.netAccept r.id) s = .next (s1.status r.iss r.id 4)) ∧
    (∀ (s s1 : State) r ws ty l e, s.net.reqs.find? (·.id == r.id) = some r → s.reqReady r = true → s.isReady .net 0 = true → r.iss.place r.a 64 (rR + rE) 64 = .ok (ty, l) → s1 = (s.tookNet r.id).devFill l 64 → s1.netRecord r = some ws →
      lowestBad (netChecks s1 r.iss r.kind fun i => ws.getD i 0) = none → e = s1.peer (wrPeer fun i => ws.getD i 0) → e.valid = true → e.state ≠ 2 → e.vol = r.iss.vol →
      (s1.wrsTo r.iss.vol (wrPeer fun i => ws.getD i 0)).length < e.depth → s1.netUsed < 65536 → s1.isFenced .net 0 = false → s1.isFenced .port e.port = false →
      s.isReady .port e.port = true → exec (.netAccept r.id) s = .next (s1.takeWr r ws)) ∧
    (∀ s p vol n i len bs, takesPacket s p → p.kind = .send vol n i len bs → exec (.packetReceive p) s = .next (s.sendArrives p vol n i len bs)) ∧
    (∀ s p wr i key off bs l s1, takesPacket s p → p.kind = .write wr i key off bs → (p.peer, wr, i) ∉ s.net.donePk → s.keyCheck p.peer key off bs.length true = some l → s.netWrite l bs = .ok s1 →
      exec (.packetReceive p) s = .next (State.sendOut { s1 with net := { s1.net with donePk := s1.net.donePk ++ [(p.peer, wr, i)] } } (.ack p.peer (.request wr) i))) ∧
    (∀ s p wr i key off bs, takesPacket s p → p.kind = .write wr i key off bs → (p.peer, wr, i) ∈ s.net.donePk → exec (.packetReceive p) s = .next (s.sendOut (.ack p.peer (.request wr) i))) ∧
    (∀ s p wr i key off bs, takesPacket s p → p.kind = .write wr i key off bs → (p.peer, wr, i) ∉ s.net.donePk → s.keyCheck p.peer key off bs.length true = none → exec (.packetReceive p) s = .next (s.sendOut (.refuse p.peer (.request wr) i))) ∧
    (∀ s p wr i key off n l bs, takesPacket s p → p.kind = .readReq wr i key off n → s.keyCheck p.peer key off n false = some l → s.netRead l n = .ok bs →
      exec (.packetReceive p) s = .next ((s.devFill l n).sendOut (.packet p.peer ((s.devFill l n).peer p.peer).port wr i (.readData wr i bs)))) ∧
    (∀ s w i, s.net.wrs.find? (fun x => x.id == w.id && x.peer == w.peer && x.started && x.kind.outward) = some w → i < w.packets → i ∉ w.got → w.got.length + 1 < w.packets →
      exec (.ackReceive w.peer (.request w.id) [i]) s = .next (s.putWr { w with got := w.got ++ [i], placed := w.placed + w.size i })) ∧
    (∀ s w i, s.net.wrs.find? (fun x => x.id == w.id && x.peer == w.peer && x.started && x.kind.outward) = some w → i < w.packets → i ∉ w.got → w.got.length + 1 = w.packets →
      exec (.ackReceive w.peer (.request w.id) [i]) s = .next ((s.putWr { w with got := w.got ++ [i], placed := w.placed + w.size i }).doneWr { w with got := w.got ++ [i], placed := w.placed + w.size i })) ∧
    (∀ s w i, s.net.wrs.find? (fun x => x.id == w.id && x.started && x.kind != .nrecv) = some w → s.packetPeer w.id i = some w.peer → i < w.packets → i ∉ w.got →
      exec (.remotekeyRefusal ⟨w.peer, .request w.id⟩ i) s = .next (s.failWr w 0x82 (i * w.pk) 0)) ∧
    (∀ s wr i n o, s.triesOf wr i = some n → n < 64 → s.sentPacket wr i = some o → exec (.retransmitTimeout wr i) s = .next ((s.addTry wr i).sendOut o)) ∧
    (∀ s w i n, s.net.wrs.find? (fun x => x.id == w.id && x.started && x.kind != .nrecv) = some w → s.triesOf w.id i = some n → 64 ≤ n → exec (.retransmitTimeout w.id i) s = .next (s.peerLost w (i * w.pk))) ∧
    (∀ s w i vol n, s.net.wrs.find? (fun x => x.kind == .nsend && x.iss.vol == vol && x.peer == w.peer && x.msg == n) = some w →
      exec (.ackReceive w.peer (.message vol n) [i]) s = exec (.ackReceive w.peer (.request w.id) [i]) s ∧ exec (.remotekeyRefusal ⟨w.peer, .message vol n⟩ i) s = exec (.remotekeyRefusal ⟨w.peer, .request w.id⟩ i) s) ∧
    (∀ s p wr i bs, takesPacket s p → p.kind = .readData wr i bs → (p.peer, wr, i) ∈ s.net.doneRd → exec (.packetReceive p) s = .next (s.sendOut (.ack p.peer (.reply wr) i))) ∧
    (∀ s p wr i bs s1, takesPacket s p → p.kind = .readData wr i bs → (p.peer, wr, i) ∉ s.net.doneRd → s.dataTaken p.peer wr i bs = some s1 →
      exec (.packetReceive p) s = .next (State.sendOut { s1 with net := { s1.net with doneRd := s1.net.doneRd ++ [(p.peer, wr, i)] } } (.ack p.peer (.reply wr) i))) ∧
    (∀ (s s1 : State) w i bs, s.net.wrs.find? (fun x => x.id == w.id && x.peer == w.peer && x.kind == .nread && x.started) = some w → i < w.packets → i ∉ w.got → bs.length = w.size i →
      s.netWrite (w.iss.at_ (w.dw 1) (i * w.pk)) bs = .ok s1 → s.dataTaken w.peer w.id i bs = some (s1.placedWr w i bs.length w.bytes)) ∧
    (∀ s p wr i bs, takesPacket s p → p.kind = .readData wr i bs → (p.peer, wr, i) ∉ s.net.doneRd → s.dataTaken p.peer wr i bs = none → exec (.packetReceive p) s = .next s) ∧
    (∀ (s : State) p, s.isReady .net 0 = true → s.isFenced .net 0 = false → s.isReady .port p.port = true → s.isFenced .port p.port = false → p.kind = .other →
      exec (.packetReceive p) s = .next { s with net := { s.net with stats := addTo s.net.stats p.port 1 } }) ∧
    (∀ (s : State) p e vol n i len bs w v, e = s.peer p.peer → s.net.gotPk.contains (e.vol, p.peer, n, i) = false → s.net.doneMsg.contains (e.vol, p.peer, n) = false → s.volume e.vol = some v →
      s.net.wrs.find? (fun w => w.kind == .nrecv && w.iss.vol == e.vol && w.peer == p.peer && w.msg == n) = some w → i ∉ w.got → w.started = true → (w.bytes ≤ i * w.pk ∨ bs = []) →
      s.sendArrives p vol n i len bs = State.placedWr { s.sendOut (.ack p.peer (.message vol n) i) with net := { (s.sendOut (.ack p.peer (.message vol n) i)).net with gotPk := (s.sendOut (.ack p.peer (.message vol n) i)).net.gotPk ++ [(e.vol, p.peer, n, i)] } } w i 0 len) ∧
    (∀ (s s1 : State) p e vol n i len bs w v, e = s.peer p.peer → s.net.gotPk.contains (e.vol, p.peer, n, i) = false → s.net.doneMsg.contains (e.vol, p.peer, n) = false → s.volume e.vol = some v →
      s.net.wrs.find? (fun w => w.kind == .nrecv && w.iss.vol == e.vol && w.peer == p.peer && w.msg == n) = some w → i ∉ w.got → w.started = true → i * w.pk < w.bytes → bs ≠ [] →
      s.netWrite (w.iss.at_ (w.dw 1) (i * w.pk)) (bs.take (w.bytes - i * w.pk)) = .ok s1 →
      s.sendArrives p vol n i len bs = State.placedWr { s1.sendOut (.ack p.peer (.message vol n) i) with net := { (s1.sendOut (.ack p.peer (.message vol n) i)).net with gotPk := (s1.sendOut (.ack p.peer (.message vol n) i)).net.gotPk ++ [(e.vol, p.peer, n, i)] } } w i (bs.take (w.bytes - i * w.pk)).length len) ∧
    (∀ (s : State) p vol n i len bs, (s.net.gotPk.contains ((s.peer p.peer).vol, p.peer, n, i) = true ∨ s.net.doneMsg.contains ((s.peer p.peer).vol, p.peer, n) = true) →
      s.sendArrives p vol n i len bs = s.sendOut (.ack p.peer (.message vol n) i)) ∧
    (∀ (s s1 : State) w, w.kind = .nrecv → s.wrRelease w = (s1, none) → w.bytes < w.len.getD 0 →
      s.doneWr w = (State.netErrata { s1 with net := { s1.net with doneMsg := s1.net.doneMsg ++ [(w.iss.vol, w.peer, w.msg)] } } w 0x83 (w.bytes / w.pk * w.pk) 0).dropWr w 3 w.placed) ∧
    (∀ (s s1 : State) w, w.kind = .nrecv → s.wrRelease w = (s1, none) → w.len.getD 0 ≤ w.bytes →
      s.doneWr w = State.dropWr { s1 with net := { s1.net with doneMsg := s1.net.doneMsg ++ [(w.iss.vol, w.peer, w.msg)] } } w 0 w.placed)

/-- The curator: service calls, page requests, firmware and invalidation (R247, R248, R250, R408, R409, R410, R411). A
service call whose block is read is answered: the version, a strand resumed, a strand ended or 2, the counts, and a
page call waits for its page; waiting page requests are sent to the host; a cluster whose switch ends with a
supervisor program that verifies is under the new version; an invalidation drops the entries it names from every
translation cache; an uncorrectable error fences its function. That a page request names its page by bits 47:12 of the
VA is the model’s reading (assumption 35). -/
def Obligations.CuratorWork : Prop :=
    (∀ s core slot x s1 ws, svcTaken s core slot 0 x s1 ws → x.rd = none → ws.getD 0 0 = 0 → exec (.svcVersion core slot) s = .next (s1.svcAnswer (clusterOf core) x 0 [(s1.cluster (clusterOf core)).ver.setWidth 64])) ∧
    (∀ s core slot x s1 ws, svcTaken s core slot 0 x s1 ws → ws.getD 0 0 ≠ 0 → exec (.svcVersion core slot) s = .next (s1.svcAnswer (clusterOf core) x 2 [])) ∧
    (∀ s core slot x s1 ws pa, svcTaken s core slot 1 x s1 ws → (ws.getD 0 0).getLsbD 63 = false → (ws.getD 0 0).getLsbD 61 = false → fld (ws.getD 0 0) 60 48 = 0 → s1.ownFaulted x.vol (fld (ws.getD 0 0) 47 0) = some pa →
      exec (.svcResume core slot) s = .next ((s1.resumeSlip x.vol pa ((ws.getD 0 0).getLsbD 62)).svcAnswer (clusterOf core) x 0 [])) ∧
    (∀ s core slot x s1 ws pa, svcTaken s core slot 2 x s1 ws → fld (ws.getD 0 0) 63 48 = 0 → s1.ownFaulted x.vol (fld (ws.getD 0 0) 47 0) = some pa →
      exec (.svcKill core slot) s = .next ((s1.endSlip x.vol pa).svcAnswer (clusterOf core) x 0 [])) ∧
    (∀ s core slot x s1 ws, svcTaken s core slot 2 x s1 ws → fld (ws.getD 0 0) 63 48 = 0 → s1.ownFaulted x.vol (fld (ws.getD 0 0) 47 0) = none → exec (.svcKill core slot) s = .next (s1.svcAnswer (clusterOf core) x 2 [])) ∧
    (∀ s core slot x s1 ws s2, svcTaken s core slot 3 x s1 ws → fld (ws.getD 0 0) 63 48 = 0 →
      s1.joinPage (clusterOf core) x.vol (fld (ws.getD 0 0) 47 12 * 4096) core slot (((s1.strand core slot).map Strand.gidx).getD 0) { core := core, lane := 0, res := none, svc := some x.id } = some s2 →
      exec (.svcPage core slot) s = .next (s2.setCluster (clusterOf core) { s2.cluster (clusterOf core) with svcs := mapIf (·.id == x.id) (fun y => { y with taken := true, waits := true }) (s2.cluster (clusterOf core)).svcs })) ∧
    (∀ s core slot x s1 ws, svcTaken s core slot 4 x s1 ws → ws.getD 0 0 = 0 → ∃ map, exec (.svcCounts core slot) s = .next (s1.svcAnswer (clusterOf core) x 0 [ofN (s1.core core).corrected, map]) ∧
      (map.getLsbD 0 = s1.isFenced .sfu (clusterOf core)) ∧ (∀ i < 8, map.getLsbD (1 + i) = s1.isFenced .core (8 * clusterOf core + i)) ∧ (map.getLsbD 9 = s1.isFenced .copy (clusterOf core)) ∧ (map.getLsbD 10 = s1.isFenced .sel (clusterOf core)) ∧ (map.getLsbD 11 = s1.isFenced .red (clusterOf core)) ∧
      (map.getLsbD 12 = s1.isFenced .bind (clusterOf core)) ∧ (map.getLsbD 13 = s1.isFenced .slice (clusterOf core)) ∧ ∀ i, 14 ≤ i → map.getLsbD i = false) ∧
    (∀ (s : State) k, exec (.pageRequestForward k) s = .next { s.setCluster k { s.cluster k with pages := (s.cluster k).pages.map fun p => { p with forwarded := true } } with net := { s.net with out := s.net.out ++ ((s.cluster k).pages.filter fun p => !p.forwarded).map fun p => .page k p.id p.vol p.page } }) ∧
    (∀ s k v, (s.cluster k).switch = some v → s.isFenced .curator k = false → s.clusterFenced k = false → ∃ t, exec (.curatorSwitchEnd k) s = .next t ∧
      (verifyImage (Config.supervisorOf v) (Config.supervisorSig v) = true → (t.cluster k).ver = v ∧ (t.cluster k).switch = none ∧ t.root.m = (s.measure .curator 2 (sha3 (Config.supervisorOf v))).root.m) ∧
      (verifyImage (Config.supervisorOf v) (Config.supervisorSig v) = false → t = State.failed (s.setCluster k { s.cluster k with switch := none }) { kind := .curator, index := k } 2)) ∧
    (∀ (s : State) x, s.tlbis.find? (·.id == x.id) = some x → x.done = false → ∃ t, exec (.tlbiTakesEffect x.id) s = .next t ∧ t.mem = s.mem ∧ t.strands = s.strands ∧ t.devTlb = s.devTlb.filter (fun e => !x.hits e) ∧
      ∀ k < Config.clusters, (t.cluster k).tlb = (s.cluster k).tlb.filter (fun e => !x.hits e) ∧ (t.cluster k).epoch = (s.cluster k).epoch + 1) ∧
    (∀ s f fl, s.root.fenced.contains f = true → exec (.uncorrectableError f fl) s = .next s) ∧
    (∀ s f fl, s.root.fenced.contains f = false → exec (.uncorrectableError f fl) s = .next (s.fence f fl)) ∧
    (∀ (s : State) k, s.root.fenced.contains { kind := .slice, index := k } = false → exec (.uncorrectableError { kind := .slice, index := k } none) s = .next (State.fenceWaiters { s with root := { s.root with fenced := s.root.fenced ++ [{ kind := .slice, index := k }] } }).fencePorts.checkUpdate.extendMicro) ∧
    (∀ (s : State) k, s.root.fenced.contains { kind := .core, index := k } = false → exec (.uncorrectableError { kind := .core, index := k } none) s = .next (State.fenceCore { s with root := { s.root with fenced := s.root.fenced ++ [{ kind := .core, index := k }] } } k).fenceWaiters.fencePorts.checkUpdate.extendMicro)

/-- Power-on, self-tests and reports (R415, R416, R417, R418, R419, R422). Power-on starts the root’s self-test from the
state of reset; the self-test ends passed, with measurement register 0 extended by the root’s verified image, or in
the safe state, and is reported; a function that reports READY with its images verified and measured is ready, one
that reports FAILED or whose image does not verify is failed, one fenced before it reported is failed, and one that
may not report changes nothing; a thermal shutdown restarts the module. That a root whose own image fails is in the
safe state (assumption 71), and that an image is measured once and microcode in the order of its kinds (assumption
69), are the model’s readings, and so is what a function reports that an error has fenced before (assumption 98). -/
def Obligations.PowerOnAndReports : Prop :=
    (∀ s, exec .powerOn s = .next { s.restart with root := { st := .testing, ver := Config.bootVersion } }) ∧
    (∀ s, exec .thermalShutdown s = .next (s.restart.push .powerOn)) ∧
    (∀ s : State, s.restart.strands = [] ∧ s.restart.mem = [] ∧ s.restart.circ = State.reset.circ ∧ s.restart.cores = State.reset.cores ∧ s.restart.clusters = State.reset.clusters ∧ s.restart.flights = [] ∧ s.restart.root = State.reset.root) ∧
    (∀ s diag, s.root.st = .testing → ∃ t, exec (.rootSelfTestEnd true diag) s = .next t ∧ t.mem = s.mem ∧
      (verifyImage Config.rootImage Config.rootSig = true → t.root.st = .passed ∧ t.root.log = s.root.log ++ [reportWord rootFunc 0 0] ∧ t.root.ready = [rootFunc] ∧
      t.root.m = setAt s.root.m 0 (sha3 (s.root.m.getD 0 [] ++ sha3 Config.rootImage))) ∧
      (verifyImage Config.rootImage Config.rootSig = false → t.root.st = .safe ∧ t.root.log = s.root.log ++ [reportWord rootFunc 1 2] ∧ t.root.ready = [] ∧ t.root.m = s.root.m)) ∧
    (∀ (s : State) (diag : BitVec 32), s.root.st = .testing → ∃ t, exec (.rootSelfTestEnd false diag) s = .next t ∧ t.root.st = .safe ∧ t.root.log = s.root.log ++ [reportWord rootFunc 2 diag.toNat] ∧ t.root.m = s.root.m ∧ t.root.ready = []) ∧
    (∀ (s : State) c (diag : BitVec 32), s.root.st = .safe → s.root.again = [c] → exec (.rootSelfTestEnd true diag) s = .next (State.replyLate (State.report { s with root := { s.root with again := [], tests := s.root.tests ++ [reportWord rootFunc 0 0] } } rootFunc 0 0) c 0)) ∧
    (∀ s f diag, s.mayReport f = true → s.failsWithCluster f = false → f ∉ s.root.fenced → imageRegs f.kind = [] → exec (.functionReport f true diag []) s = .next ((s.report f 0 0).ready f)) ∧
    (∀ (s : State) f (diag : BitVec 32), s.mayReport f = true → s.failsWithCluster f = false → exec (.functionReport f false diag []) s = .next (s.failed f diag.toNat)) ∧
    (∀ (s : State) f k diag imgs, s.mayReport f = true → f.kind ≠ .curator → f.kind ≠ .slice → clusterOfFunc f = some k → s.clusterFenced k = true → (imgs.map (·.1)).isPrefixOf (imageRegs f.kind) = true → exec (.functionReport f true diag imgs) s = .next (s.failed f 1)) ∧
    (∀ (s : State) k f diag a x b y s1 s2, f = { kind := .curator, index := k } → s.mayReport f = true → f ∉ s.root.fenced → s1 = s.measure .curator 1 (sha3 a) → s2 = (s1.measure .curator 2 (sha3 b)).installSup k b →
      exec (.functionReport f true diag [(1, a, x), (2, b, y)]) s = .next (if verifyImage a x = true then (if verifyImage b y = true then (s2.report f 0 0).ready f else s1.failed f 2) else s.failed f 2)) ∧
    (∀ (s : State) f diag a x s1, imageRegs f.kind = [3] → s.mayReport f = true → s.failsWithCluster f = false → f ∉ s.root.fenced → s1 = s.measure f.kind 3 (sha3 a) →
      exec (.functionReport f true diag [(3, a, x)]) s = .next (if verifyImage a x = true then (s1.report f 0 0).ready f else s.failed f 2)) ∧
    (∀ s f diag imgs, s.mayReport f = false → exec (.functionReport f true diag imgs) s = .next s) ∧
    (∀ (s : State) f diag imgs, imgs.map (·.1) ≠ imageRegs f.kind → s.failsWithCluster f = false → f ∉ s.root.fenced → (∀ s1, s.loadImages f.kind imgs ≠ (s1, false)) →
      exec (.functionReport f true diag imgs) s = .next s) ∧
    (∀ (s : State) f, f.kind ≠ .core ∧ f.kind ≠ .curator ∧ f.kind ≠ .slice → (s.ready f).root.ready = s.root.ready ++ [f] ∧ (s.ready f).root.fenced = s.root.fenced ∧ (s.ready f).root.log = s.root.log) ∧
    (∀ (s : State) p d, p ∈ microKinds → s.root.micro = [] →
      (microKinds.idxOf p ≠ s.root.microN → (∀ q ∈ microKinds, s.kindGone q = false) → (s.measure p 3 d).root.m = s.root.m) ∧
      (microKinds.idxOf p = s.root.microN → (s.measure p 3 d).root.m = setAt s.root.m 3 (sha3 (s.root.m.getD 3 [] ++ d)))) ∧
    (∀ (s : State) p i d, i ≠ 3 → ((i, d) ∈ s.root.measured → (s.measure p i d).root.m = s.root.m) ∧ ((i, d) ∉ s.root.measured → (s.measure p i d).root.m = setAt s.root.m i (sha3 (s.root.m.getD i [] ++ d)))) ∧
    (∀ (s : State) f diag imgs ready, s.mayReport f = true → s.failsWithCluster f = false → f ∈ s.root.fenced → (imgs.map (·.1)).isPrefixOf (imageRegs f.kind) = true →
      exec (.functionReport f ready diag imgs) s = .next (s.failed f diag.toNat))

/-- Twiyn RPC commands (R394, R353, R363, R410, R418, R420, R421, R425). A call that is executed has its command’s effect
and is answered: code is published, tables and entries are written or refused whole, bytes are read and written with F
:= 1, launches and pre-emptions answer as the instructions do, page requests are settled, with their entries written
or, if one is bad, none, queries, identity keys, readings and quotes are given, firmware is refused or taken as its
signature goes, an unknown command is answered 1 and a command in the safe state 3. The model’s choices and readings
in these clauses: when a call is executed (assumption 50), the layouts of replies, the quote’s count and the answers
to a repeated self-test (51), what a map, a host write and a page answer refuse (52), the version that a quote reports
(68), the byte count of a reply’s header (76) and the readings of each cluster (87). -/
def Obligations.HostCommands : Prop :=
    (∀ s c words, s.hears c → volumeId c.vol = true → words ≠ [] → words.length ≤ 2 ^ 24 → (s.heard c).placeCode c.vol words = none → exec (.loadCode c words) s = .next ((s.heard c).reply c 5)) ∧
    (∀ s c words s1 i g a, s.hears c → volumeId c.vol = true → words ≠ [] → words.length ≤ 2 ^ 24 → (s.heard c).placeCode c.vol words = some (s1, i, g, a) →
      exec (.loadCode c words) s = .next ((s1.publish c.vol i g a words.length 0 0xFFFF).reply c 0 [ofN (g * 2 ^ 48 + i * 2 ^ 32 + words.length)])) ∧
    (∀ s c args, s.hears c → (s.heard c).mapOk c.vol args = true → exec (.map c args) s = .next (((s.heard c).mapDo c.vol args).reply c 0)) ∧
    (∀ s c args, s.hears c → (s.heard c).mapOk c.vol args = false → exec (.map c args) s = .next ((s.heard c).reply c 2)) ∧
    (∀ s c es lo len, s.hears c → volumeId c.vol = true → es.all (s.heard c).entryOk = true → vaFree lo len = true →
      ∃ t x, exec (.unmap c es lo len) s = .next t ∧ t.mem = ((s.heard c).writeEntries es).mem ∧ t.tlbis = s.tlbis ++ [x] ∧ x.vol = c.vol ∧ x.lo = lo ∧ x.hi = lo + len ∧ x.done = false ∧ x.host = some c ∧ t.net.out = s.net.out) ∧
    (∀ s c a n ps, s.hears c → (s.heard c).hostPlaces c.vol a n = some ps → exec (.hostRead c a n) s = .next ((s.heard c).replyBytes c (ps.map fun p => s.mem.get p.1))) ∧
    (∀ s c a n, s.hears c → (s.heard c).hostPlaces c.vol a n = none → exec (.hostRead c a n) s = .next ((s.heard c).reply c 2)) ∧
    (∀ s c pa b, s.hears c → isStack pa = true → s.keyFenced pa = false → (s.heard c).inArena pa = false → s.mem.wf = true → ∃ t, exec (.hostWrite c (.pa pa) [b]) s = .next t ∧ ((∀ f ∈ s.flights, f.joined = none) → t.mem.get pa = b ∧ t.full pa = true)) ∧
    (∀ s c a bs, s.hears c → (s.heard c).hostPlaces c.vol a bs.length = none → exec (.hostWrite c a bs) s = .next ((s.heard c).reply c 2)) ∧
    (∀ s c rec_, s.hears c → rec_.length = 32 → volumeId c.vol = true → s.isFenced .circ 0 = false → s.isReady .circ 0 = true →
      exec (.hostLaunch c rec_ none) s = .next (((s.heard c).grantLaunch rec_ none c.vol (some c.vol) none).2.reply c 0 [((s.heard c).grantLaunch rec_ none c.vol (some c.vol) none).1])) ∧
    (∀ s c core, s.hears c → exec (.hostPreempt c core false) s = .next (((s.heard c).preemptAsked core none).2.reply c 0 [ofN ((s.heard c).preemptAsked core none).1])) ∧
    (∀ s c core, s.hears c → exec (.hostPreempt c core true) s = .next (((s.heard c).startResume core none).2.reply c 0 [ofN ((s.heard c).startResume core none).1])) ∧
    (∀ s c page p r, s.hears c → (s.heard c).pageRequests c.vol page = p :: r → exec (.answerPageRequest c page .refused) s = .next (((s.heard c).settleAll (p :: r) 1).reply c 0)) ∧
    (∀ (s : State) c page ans, s.hears c → (s.heard c).pageRequests c.vol page = [] →
      exec (.answerPageRequest c page ans) s = .next ((State.pageErrata { s.heard c with root := { (s.heard c).root with late := s.root.late + 1 } } c.vol 0 0 0 page 0x92).reply c 0)) ∧
    (∀ s c item ws, s.hears c → item ≠ .identity → (s.heard c).answer item = some ws → exec (.query c item) s = .next ((s.heard c).reply c 0 ws)) ∧
    (∀ s c item, s.hears c → item ≠ .identity → (s.heard c).answer item = none → exec (.query c item) s = .next ((s.heard c).reply c 2)) ∧
    (∀ s c, s.hears c → exec (.repeatSelfTest c) s = .next ((s.heard c).reply c 2)) ∧
    (∀ (s : State) c, s.root.st = .safe → c.mgmt = true → s.callBusy c = false → c.argsOk = true → exec (.repeatSelfTest c) s = .next { s.heard c with root := { (s.heard c).root with again := (s.heard c).root.again ++ [c] } }) ∧
    (∀ s c, s.hears c → exec (.identityKey c) s = .next ((s.heard c).replyBytes c identityKey)) ∧
    (∀ s c, s.hears c → exec (.deviceIdentifier c) s = .next ((s.heard c).replyBytes c Config.deviceId.toList)) ∧
    (∀ s c up, s.hears c → up = (List.range Config.clusters).filter s.curatorUp → ∃ t ws, exec (.temperaturePower c) s = .next t ∧ ws.length = 3 * up.length ∧ (∀ j < up.length, ws.getD (3 * j) 0 = ofN (up.getD j 0)) ∧
      t.net.out = s.net.out ++ [.reply c.session (replyHead c (8 * (3 * up.length)) 0) ws] ∧ t.mem = s.mem ∧ t.strands = s.strands) ∧
    (∀ s c image sig v, s.hears c → s.root.update = none → (verifyImage image sig = false ∧ exec (.firmwareUpdate c image sig v) s = .next ((s.heard c).reply c 4)) ∨
      (verifyImage image sig = true ∧ ∃ t, exec (.firmwareUpdate c image sig v) s = .next t ∧ t.root.m = (s.measure .curator 1 (sha3 image)).root.m ∧
      ((t.root.update = none ∧ t.root.ver = v) ∨ (t.root.update = some c ∧ t.root.next = some v ∧ t.root.ver = s.root.ver)))) ∧
    (∀ (s : State) c (nonce : List Byte), s.hears c → nonce.length = 32 → ∃ body, body = nonce ++ s.root.m.flatten ++ leBytes 4 s.root.ver.toNat ++ leBytes 4 (s.root.quotes + 1) ∧
      exec (.attestationQuote c nonce) s = .next (State.replyBytes { s.heard c with root := { (s.heard c).root with quotes := s.root.quotes + 1 } } c (body ++ deviceSign (sha3 body)))) ∧
    (∀ s c n, s.hears c → exec (.unknownCommand c n) s = .next ((s.heard c).reply c 1)) ∧
    (∀ (s : State) c st ws, (s.reply c st ws).net.out = s.net.out ++ [.reply c.session (rpcHead c.command c.cid c.vol (8 * ws.length) st) ws]) ∧
    (∀ s c image sig v d, s.root.st = .passed → s.root.update = some d → c.mgmt = true → s.callBusy c = false → c.argsOk = true → exec (.firmwareUpdate c image sig v) s = .next (s.heard c)) ∧
    (∀ (s : State) c w, s.root.st = .safe → c.mgmt = true → s.callBusy c = false → exec (.loadCode c w) s = .next ((s.heard c).reply c 3)) ∧
    (∀ s c pa b, s.hears c → isStack pa = true → s.keyFenced pa = false → (s.heard c).inArena pa = true → exec (.hostWrite c (.pa pa) [b]) s = .next ((s.heard c).reply c 2)) ∧
    (∀ (s s1 : State) c page es p r, s.hears c → (s.heard c).pageRequests c.vol page = p :: r → s1 = (s.heard c).writeEntries es →
      es.all (s.heard c).entryOk = true → es.all (s1.entryGood c.vol) = true → (∀ e ∈ es, (s.heard c).entryFenced e.entry = false) → (s.heard c).arenaKept s1 = true →
      s1.walk c.vol page ≠ .fail 3 → s1.walk c.vol page ≠ .fenced → exec (.answerPageRequest c page (.mapped es)) s = .next ((s1.settleAll (p :: r) 0).reply c 0)) ∧
    (∀ (s s1 : State) c page es p r, s.hears c → (s.heard c).pageRequests c.vol page = p :: r → s1 = (s.heard c).writeEntries es →
      (es.all (s.heard c).entryOk = false ∨ es.all (s1.entryGood c.vol) = false ∨ (∃ e ∈ es, (s.heard c).entryFenced e.entry = true) ∨ (s.heard c).arenaKept s1 = false ∨
      s1.walk c.vol page = .fail 3 ∨ s1.walk c.vol page = .fenced) →
      exec (.answerPageRequest c page (.mapped es)) s = .next ((((s.heard c).pageErrata c.vol p.2.core p.2.slot p.2.gidx page 0x91).settleAll (p :: r) 2).reply c 0))

/-- Opcodes reserved to slot 63 (R37). From any slot but 63 the words of `resume`, `emr`, `emw`, `kill`, `pmt`, `tlbi` and
`tlbsync` are illegal encodings; in slot 63 the word of `stop` is one. -/
def Obligations.PrivilegedOpcodes : Prop :=
    (∀ c w, c.sup = false → (Raw.ofWord w).op.toNat ∈ [0x01A, 0x01B, 0x01C, 0x01D, 0x01E, 0x0E3, 0x0E4] → decode c w = none) ∧
    (∀ c w, c.sup = true → (Raw.ofWord w).op.toNat = 0x00B → decode c w = none) ∧
    (∀ c h a w, c.sup = false → encode (.resume h a) = some w → decode c w = none) ∧
    (∀ c h d a rs w, c.sup = false → encode (.emr h d a rs) = some w → decode c w = none) ∧
    (∀ c h d a rs w, c.sup = false → encode (.emw h d a rs) = some w → decode c w = none) ∧
    (∀ c h a w, c.sup = false → encode (.kill h a) = some w → decode c w = none) ∧
    (∀ c h d a w, c.sup = false → encode (.pmt h d a) = some w → decode c w = none) ∧
    (∀ c h a b w, c.sup = false → encode (.tlbi h a b) = some w → decode c w = none) ∧
    (∀ c h w, c.sup = false → encode (.tlbsync h) = some w → decode c w = none) ∧
    (∀ c h w, c.sup = true → encode (.stop h) = some w → decode c w = none) ∧
    (∀ (s : State) core slot, (s.decCtx core slot).sup = (slot == 63))

/-- Well-formed segment descriptors (R229). A descriptor is well formed when its reserved bits are 0 and its type is 0 to
5, base + limit of a buffer type does not exceed the buffer’s size and X is 0, base + limit of type 1 does not exceed
2^48, and F and A of type 4 are 0; a type-0 descriptor is then well formed and names nothing; the descriptor of the
rule’s example has the two doublewords given there. -/
def Obligations.WellFormedDescriptors : Prop :=
    (∀ d, descWf d = true ↔ (bitsN d.toNat 127 112 = 0 ∧ bitsN d.toNat 54 48 = 0 ∧ descType d ≤ 5) ∧
      (2 ≤ descType d → descBase d + descLimit d ≤ bufSize (descType d) ∧ hasRights (descRights d) rX = false) ∧
      (descType d = 1 → descBase d + descLimit d ≤ 2 ^ 48) ∧ (descType d = 4 → hasRights (descRights d) rF = false ∧ hasRights (descRights d) rA = false)) ∧
    (bufSize 2 = 256 * 1024 ∧ bufSize 3 = 128 * 1024 ∧ bufSize 4 = 384 * 1024 ∧ bufSize 5 = 4 * 1024 * 1024) ∧
    (∀ d off size need align, descType d = 0 → bitsN d.toNat 127 112 = 0 → bitsN d.toNat 54 48 = 0 → descWf d = true ∧ segCheck d off size need align = .error 0x01) ∧
    (descLow (mkDesc 1 (rR + rW) 0x0080C2840000 0x10000) = 0x21800080C2840000 ∧ descHigh (mkDesc 1 (rR + rW) 0x0080C2840000 0x10000) = 0x0000000000010000 ∧ descWf (mkDesc 1 (rR + rW) 0x0080C2840000 0x10000) = true)

/-- Predicated-off instructions (R31, R107, R150). A word with PR = 0 and PN = 1 is an illegal encoding; an instruction
executes when predicate PR, inverted if PN is 1, is true; when it is false the instruction does nothing but pass: the
pc advances and the round counts, with no register, flag, port, memory or engine touched; with a switch marker, or
resumed at a switch point, it still parks for what is outstanding and lands what is held. A predicate register whose
own parity is lost is the case of R107 and is kept apart by `predBad`; a follower of a collation group takes its
leader’s predicate at a control transfer, and a member predicated off at a spanning instruction still gives its part
(R150), which is the model’s reading (assumption 61), as is the number 128 of a lost predicate word (assumption 24). -/
def Obligations.PredicateFalse : Prop :=
    (∀ c w, (Raw.ofWord w).pr = 0 → (Raw.ofWord w).pn = true → decode c w = none) ∧
    (∀ (s : State) f (t : Strand), t.group = 0 → (s.predTrue f t = true ↔ t.pred.getLsbD f.h.pr ≠ f.h.pn)) ∧
    (∀ i s core slot t, i.raw.isSome = true → s.clk.cur = some (core, slot) → s.strand core slot = some t → (formOf i).h.sw = false → t.atSwitch = false → s.predTrue (formOf i) t = false → t.predBad = false →
      Ctx.skipFault { s := s, core := core, slot := slot, t := t, word := (formOf i).word } (formOf i) = none → exec i s = .next (Ctx.done (Ctx.skip { s := s, core := core, slot := slot, t := t, word := (formOf i).word } (formOf i)))) ∧
    (∀ i s core slot t, i.raw.isSome = true → s.clk.cur = some (core, slot) → s.strand core slot = some t → ((formOf i).h.sw = true ∨ t.atSwitch = true) → s.predTrue (formOf i) t = false → t.outstanding ≠ [] →
      exec i s = .next (s.setStrand core slot { t with run := .parked .results, atSwitch := true })) ∧
    (∀ i s core slot t, i.raw.isSome = true → s.clk.cur = some (core, slot) → s.strand core slot = some t → ((formOf i).h.sw = true ∨ t.atSwitch = true) → s.predTrue (formOf i) t = false → t.outstanding = [] → t.faulted = none → s.pushShort t = none →
      (s.land core slot t).1.predTrue (formOf i) (s.land core slot t).2 = false → (s.land core slot t).2.predBad = false →
      Ctx.skipFault { s := (s.land core slot t).1, core := core, slot := slot, t := { (s.land core slot t).2 with atSwitch := false }, word := (formOf i).word } (formOf i) = none → exec i s = .next (Ctx.done (Ctx.skip { s := (s.land core slot t).1, core := core, slot := slot, t := { (s.land core slot t).2 with atSwitch := false }, word := (formOf i).word } (formOf i)))) ∧
    (∀ f (s : State) core slot t, s.clk.cur = some (core, slot) → s.strand core slot = some t → s.switches f t = false → s.predTrue f t = true → f.outside t.size = false → f.pop = none → f.push = none → f.lost t = none →
      (∀ n ∈ t.failing, n ∉ f.regs) → f.rel = false → enters f s = some { s := s, core := core, slot := slot, t := t, word := f.word }) ∧
    (∀ (c : Ctx) f, f.span = none ∨ c.t.group = 0 → c.skip f = c ∧ c.skipFault f = none) ∧
    (∀ (c : Ctx), c.t.colEnd = none → c.done = c.s.setStrand c.core c.slot { c.t.issued with pc := nextPc c.t.pc, lead := none } ∧ c.t.issued.regs = c.t.regs ∧ c.t.issued.pred = c.t.pred ∧ c.t.issued.fflg = c.t.fflg ∧
      c.t.sameButResult { c.t.issued with pc := nextPc c.t.pc } ∧ c.t.issued.cnt = (c.t.cnt + 1) % 2 ^ 48) ∧
    (∀ i s core slot t, i.raw.isSome = true → s.clk.cur = some (core, slot) → s.strand core slot = some t → (formOf i).h.sw = false → t.atSwitch = false → s.predTrue (formOf i) t = false → t.predBad = true → (formOf i).h.pr ≠ 0 →
      exec i s = .next (s.faultAtIssue core slot t { cls := 5, code := 1, arg := 128 } (formOf i).word)) ∧
    (∀ i s core slot t x e, i.raw.isSome = true → s.clk.cur = some (core, slot) → s.strand core slot = some t → (formOf i).h.sw = false → t.atSwitch = false → s.predTrue (formOf i) t = false → t.predBad = false →
      Ctx.skipFault { s := s, core := core, slot := slot, t := t, word := (formOf i).word } (formOf i) = some e → x = s.settle core t (formOf i).regs →
      exec i s = .next (x.1.faultAtIssue core slot x.2 e (formOf i).word))

/-- Where an instruction word executes (R30, R31, R72, R73, R165, R167). An instruction whose predicate is true, whose
registers lie in the window and are not lost, and which is no switch point executes at once in its strand’s state; so
does a switch point of a strand with no operation; a read port with a word gives its pop as a pending result, a write
port needs a credit; a register outside the window is WINDOW. Entering an instruction changes no memory, no full/empty
bit, no strand but for the granules paired with its own, no access and no unit. -/
def Obligations.InstructionsEnter : Prop :=
    (∀ f (s : State) core slot t, s.clk.cur = some (core, slot) → s.strand core slot = some t → s.switches f t = false → s.predTrue f t = true → f.outside t.size = false → f.pop = none → f.push = none → f.lost t = none →
      (∀ n ∈ t.failing, n ∉ f.regs) → f.rel = false → enters f s = some { s := s, core := core, slot := slot, t := t, word := f.word }) ∧
    (∀ f (s : State) core slot t, s.clk.cur = some (core, slot) → s.strand core slot = some t → t.ops = [] → s.predTrue f t = true → f.outside t.size = false → f.pop = none → f.push = none → f.lost t = none →
      (∀ n ∈ t.failing, n ∉ f.regs) → (f.rel = false ∨ s.farStores t.uid = false) → enters f s = some { s := s, core := core, slot := slot, t := { t with atSwitch := false }, word := f.word }) ∧
    (∀ f (s : State) core slot t p v s1, s.clk.cur = some (core, slot) → s.strand core slot = some t → s.switches f t = false → s.predTrue f t = true → f.outside t.size = false → f.pop = some p → f.push = none → f.lost t = none →
      (∀ n ∈ t.failing, n ∉ f.regs) → f.rel = false → s.portBad t slot p = false → s.portFenced core slot t p false = false → s.popPort core slot t p = some (v, s1) →
      enters f s = some (Ctx.take { s := s, core := core, slot := slot, t := t, word := f.word } false v s1)) ∧
    (∀ f (s : State) core slot t p, s.clk.cur = some (core, slot) → s.strand core slot = some t → s.switches f t = false → s.predTrue f t = true → f.outside t.size = false → f.pop = none → f.push = some p → f.lost t = none →
      (∀ n ∈ t.failing, n ∉ f.regs) → f.rel = false → s.portBad t slot p = false → s.portFenced core slot t p true = false → s.credits (s.portQ t slot p) ≠ 0 →
      enters f s = some { s := s, core := core, slot := slot, t := t, word := f.word }) ∧
    (∀ i s core slot t x, i.raw.isSome = true → (∀ h m, i ≠ .trel h m) → (∀ h m, i ≠ .tzero h m) → s.clk.cur = some (core, slot) → s.strand core slot = some t → s.switches (formOf i) t = false → s.predTrue (formOf i) t = true →
      (formOf i).outside t.size = true → x = s.settle core t (formOf i).regs → exec i s = .next (x.1.faultAtIssue core slot x.2 { cls := 3, code := 0x10 } (formOf i).word)) ∧
    (∀ f s c, enters f s = some c → s.clk.cur = some (c.core, c.slot) ∧ c.s.mem = s.mem ∧ c.s.empty = s.empty ∧
      c.s.strands.map (fun e => (e.1, { e.2 with dups := [], noDup := [] })) = s.strands.map (fun e => (e.1, { e.2 with dups := [], noDup := [] })) ∧ c.s.flights = s.flights ∧ c.s.clusters = s.clusters ∧ c.s.net = s.net ∧ c.s.chips = s.chips ∧
      c.s.tlbis = s.tlbis ∧ c.s.root = s.root ∧ c.s.clk.frame = s.clk.frame)

/-- What register-only instructions leave alone (R28, R30, R109, R112, R129). The instructions of `destG` change at most
their general destination, those of `destV` the eight registers of their vector destination, those of `destP` their
predicate destination; each may raise flags and clears none; every other register, predicate, segment register and
special register of the strand, every other strand, every byte of memory and everything else of the module is
unchanged. A destination z changes no register, a write of p0 no predicate, a write port only its queue; an
instruction that pops a port holds its result and changes no register yet. Each completes. `Strand.sameButResult`
holds of every field of the strand but its general registers, raised flags, pc, issue counts and pending results; a
member of a collation group that is ending leaves the group once it has issued the group’s last word (R152), which is
what `State.after` adds. -/
def Obligations.RegisterFrames : Prop :=
    (∀ i (n : Fin 128) s c, destG i = some (.g n) → enters (formOf i) s = some c → c.popOp = none → ∃ u, exec i s = .next (c.s.after c.core c.slot u) ∧ c.t.sameButResult u ∧ (∀ m, m ≠ n.val → u.g m = c.t.g m) ∧ u.ops.map (fun o => { o with sup := 0 }) = c.t.ops.map (fun o => { o with sup := 0 }) ∧ u.pc = nextPc c.t.pc ∧ u.cnt = (c.t.cnt + 1) % 2 ^ 48 ∧ (∀ k, c.t.fflg.getLsbD k = true → u.fflg.getLsbD k = true)) ∧
    (∀ i s c, destG i = some .z → enters (formOf i) s = some c → c.popOp = none → ∃ u, exec i s = .next (c.s.after c.core c.slot u) ∧ c.t.sameButResult u ∧ u.regs = c.t.regs ∧ u.ops = c.t.ops ∧ u.pc = nextPc c.t.pc ∧ u.cnt = (c.t.cnt + 1) % 2 ^ 48 ∧ (∀ k, c.t.fflg.getLsbD k = true → u.fflg.getLsbD k = true)) ∧
    (∀ i d s c, destV i = some d → enters (formOf i) s = some c → c.popOp = none → ∃ u, exec i s = .next (c.s.after c.core c.slot u) ∧ c.t.sameButResult u ∧ (∀ m, (m < 8 * d.val ∨ 8 * d.val + 8 ≤ m) → u.g m = c.t.g m) ∧ u.ops.map (fun o => { o with sup := 0 }) = c.t.ops.map (fun o => { o with sup := 0 }) ∧ u.pc = nextPc c.t.pc ∧ u.cnt = (c.t.cnt + 1) % 2 ^ 48 ∧ (∀ k, c.t.fflg.getLsbD k = true → u.fflg.getLsbD k = true)) ∧
    (∀ i d s c, destP i = some d → enters (formOf i) s = some c → c.popOp = none → ∃ u, exec i s = .next (c.s.after c.core c.slot u) ∧ c.t.sameButResult { u with pred := c.t.pred } ∧
      u.regs = c.t.regs ∧ (∀ k, k ≠ d.val → u.pred.getLsbD k = c.t.pred.getLsbD k) ∧ (d = 0 → u.pred = c.t.pred) ∧ u.ops.map (fun o => { o with sup := 0 }) = c.t.ops.map (fun o => { o with sup := 0 }) ∧ u.pc = nextPc c.t.pc ∧ u.cnt = (c.t.cnt + 1) % 2 ^ 48 ∧ (∀ k, c.t.fflg.getLsbD k = true → u.fflg.getLsbD k = true)) ∧
    (∀ i d s c, destG i = some d → (∀ n, d ≠ .g n) → d ≠ .z → enters (formOf i) s = some c → c.popOp = none → ∃ v u, exec i s = .next ((c.s.pushWord c.core c.slot (c.s.portQ c.t c.slot d) v).after c.core c.slot u) ∧ c.t.sameButResult u ∧
      u.regs = c.t.regs ∧ u.ops = c.t.ops ∧ u.pc = nextPc c.t.pc ∧ u.cnt = (c.t.cnt + 1) % 2 ^ 48 ∧ (∀ k, c.t.fflg.getLsbD k = true → u.fflg.getLsbD k = true)) ∧
    (∀ i s c id, (destG i).isSome ∨ (destV i).isSome ∨ (destP i).isSome → enters (formOf i) s = some c → c.popOp = some id → ∃ u, exec i s = .next (c.s.after c.core c.slot u) ∧ c.t.sameButResult u ∧
      u.regs = c.t.regs ∧ u.fflg = c.t.fflg ∧ (∀ o ∈ c.t.ops, o.id ≠ id → o ∈ u.ops) ∧ u.pc = nextPc c.t.pc ∧ u.cnt = (c.t.cnt + 1) % 2 ^ 48) ∧
    (∀ (s : State) core slot u, u.colEnd = none → s.after core slot u = s.setStrand core slot { u with lead := none } ∧ (s.after core slot u).strand core slot = some { u with lead := none } ∧ (s.after core slot u).elsewhere core slot = s.elsewhere core slot) ∧
    (∀ (s : State) core slot u n, u.group ≠ 0 → u.colEnd = some n → (s.after core slot u).strand core slot = some (if u.colN < n then { u with lead := none } else u.alone) ∧ (s.after core slot u).mem = s.mem ∧ (s.after core slot u).empty = s.empty ∧
      ∀ core' slot', (core', slot') ≠ (core, slot) → ((s.after core slot u).strand core' slot').map (fun x => { x with lead := none, gword := none }) = (s.strand core' slot').map (fun x => { x with lead := none, gword := none })) ∧
    (∀ (s : State) core slot, (s.elsewhere core slot).mem = s.mem ∧ (s.elsewhere core slot).empty = s.empty ∧ (s.elsewhere core slot).cores = s.cores ∧ ∀ core' slot', (core', slot') ≠ (core, slot) → (s.elsewhere core slot).strand core' slot' = s.strand core' slot') ∧
    (∀ (s : State) core slot q v, (s.pushWord core slot q v).mem = s.mem ∧ (s.pushWord core slot q v).empty = s.empty ∧ (s.pushWord core slot q v).strands = s.strands ∧ (s.pushWord core slot q v).cores = s.cores ∧ (s.pushWord core slot q v).clusters = s.clusters)

/-- Taking a fault (R19, R76, R241, R397, R399, R400, R402). A fault record has the layout of the record rule, and that of
its example; a halt leaves the strand halted in its slot with its pc and registers, the record in the halt block, and
one message with src 8 and tag 1; a task fault saves the strand FAULTED with its pc at the instruction and its class
and code in the slip, and takes it out of its slot; a page fault starts the upcall in the same slot with the state the
rule gives; a volume without a fault handler has a message sent to slot 63 of its route core. That a fault of slot 63
halts it in its slot is the model’s choice (assumption 14), and that a fault which has returned is taken before one
found at issue is its reading (assumption 10). -/
def Obligations.FaultEntry : Prop :=
    (faultRecord 0x00400100_0A00 { cls := 3, code := 0x13 } 0x00400000_0238 0x01B0030304800000 117 9 4 2 = [0x0000004001000A00, 0x6013004000000238, 0, 0x01B0030304800000, 0, 0x75, 0x0009040000000002, 0]) ∧
    (∀ slip f pc w cnt core slot gidx, f.cls < 8 → f.code < 2 ^ 13 → f.access < 16 → f.size < 16 → core < 2 ^ 11 → slot < 64 → gidx < 2 ^ 24 →
      fld ((faultRecord slip f pc w cnt core slot gidx).getD 1 0) 63 61 = f.cls ∧ fld ((faultRecord slip f pc w cnt core slot gidx).getD 1 0) 60 48 = f.code ∧ fld ((faultRecord slip f pc w cnt core slot gidx).getD 1 0) 47 0 = pc % 2 ^ 48 ∧
      fld ((faultRecord slip f pc w cnt core slot gidx).getD 4 0) 15 12 = f.size ∧ fld ((faultRecord slip f pc w cnt core slot gidx).getD 4 0) 11 8 = f.access ∧ fld ((faultRecord slip f pc w cnt core slot gidx).getD 5 0) 47 0 = cnt % 2 ^ 48 ∧
      fld ((faultRecord slip f pc w cnt core slot gidx).getD 6 0) 58 48 = core ∧ fld ((faultRecord slip f pc w cnt core slot gidx).getD 6 0) 45 40 = slot ∧ fld ((faultRecord slip f pc w cnt core slot gidx).getD 6 0) 23 0 = gidx) ∧
    (∀ (s : State) core slot t f pc w, t.ops = [] → (s.haltNow core slot t f pc w).strand core slot = some { t.alone with run := .halted, prog := 0 } ∧ (s.haltNow core slot t f pc w).mem = s.mem ∧
      aget ((s.haltNow core slot t f pc w).core core).halts slot = some (faultRecord 0 f pc w t.cnt core slot t.gidx) ∧
      ∃ m, (s.haltNow core slot t f pc w).fab.sup = s.fab.sup ++ [m] ∧ m.dst = s.routeOf t core slot ∧ m.word = ofN (1 * 2 ^ 48 + 8 * 2 ^ 44 + (slot * 2 ^ 38 + core * 2 ^ 27) % 2 ^ 44)) ∧
    (∀ (s : State) core slot t pc st cls code a, s.mem.wf = true → t.sound → t.prio < 8 → t.wgr < 16 → t.home < 2 ^ 11 → st < 8 → cls < 8 → code < 2 ^ 13 → t.holdp < 2 ^ 48 →
      (s.saveStrand core slot t pc st cls code a).1.slipState (t.slip - Config.areaVA) = st ∧ fld ((s.saveStrand core slot t pc st cls code a).1.slipDw (t.slip - Config.areaVA) 0) 47 0 = pc % 2 ^ 48 ∧
      (s.saveStrand core slot t pc st cls code a).1.slipFault (t.slip - Config.areaVA) = (cls, code) ∧ (s.saveStrand core slot t pc st cls code a).1.strand core slot = none ∧
      ∀ core' slot', (core', slot') ≠ (core, slot) → (s.saveStrand core slot t pc st cls code a).1.strand core' slot' = s.strand core' slot') ∧
    (∀ (s : State) core slot t f pc w, slot ≠ 63 → t.faulter = none → t.sound → s.faultNow core slot t f pc w =
      State.pushNew (((((s.dropFailed core t.uid).endCollation t).saveStrand core slot t t.pc 3 f.cls f.code { vol := t.vol, pa := t.slip - Config.areaVA, left := t.run.due, redo := s.redoOf core t }).1).handlerTask t.vol t.prio t.home t.gidx core (t.slip - Config.areaVA) t.sregs f.cls
      (faultRecord t.slip f pc w t.cnt core slot t.gidx)) .placement) ∧
    (∀ (s : State) core slot t f pc w v i e, slot ≠ 63 → t.faulter = none → t.sound → s.volume t.vol = some v → s.resolveVA t.vol v.upv = some (i, e) →
      ∃ u, (s.pageFault core slot t f pc w).strand core slot = some u ∧ u.free = true ∧ u.lane = 255 ∧ u.role = 0 ∧ u.prio = t.prio ∧ u.vol = t.vol ∧ u.home = t.home ∧ u.wgr = t.wgr ∧ u.pc = v.upv ∧ u.gran = t.gran ∧ u.faulter = some t.slip ∧ u.sregs = codeDesc e :: t.sregs.drop 1 ∧
      u.g 0 = ofN t.slip ∧ u.g 1 = ofN f.arg ∧ u.g 2 = ofN (f.code + f.access * 2 ^ 8 + f.size * 2 ^ 12) ∧ u.g 3 = ofN pc ∧ ∀ n, 4 ≤ n → u.g n = 0) ∧
    (∀ (s : State) core slot t f pc w, (∀ v, s.volume t.vol = some v → s.resolveVA t.vol v.upv = none) → s.pageFault core slot t f pc w = s.faultNow core slot t f pc w) ∧
    (∀ (s : State) vol prio home gidx core pa sregs cls rec_ v, s.volume vol = some v → s.resolveVA vol v.fhv = none → s.handlerTask vol prio home gidx core pa sregs cls rec_ = s.supMsg (some (v.route core)) core 8 cls ((Config.areaVA + pa) / 16)) ∧
    (∀ (s : State) vol prio home gidx core pa sregs cls rec_ v, s.volume vol = some v → pa ∈ v.handlers → s.handlerTask vol prio home gidx core pa sregs cls rec_ = s.supMsg (some (v.route core)) core 8 cls ((Config.areaVA + pa) / 16)) ∧
    (∀ (s : State) core slot t f w, t.faulted = none → t.outstanding = [] → f.cls ≠ 2 → s.faultAtIssue core slot t f w = s.faultNow core slot t f t.pc w) ∧
    (∀ (s : State) core slot t f w, t.faulted = none → t.outstanding = [] → f.cls = 2 → s.faultAtIssue core slot t f w = s.pageFault core slot t f t.pc w) ∧
    (∀ (s : State) core slot t f w, t.faulted = none → t.outstanding ≠ [] → s.faultAtIssue core slot t f w = (s.endCollation t).setStrand core slot { t.alone with run := .faulting f w }) ∧
    (∀ (s : State) core slot t f w o g, t.faulted = some o → o.fault = some g → t.outstanding = [] → s.faultAtIssue core slot t f w = s.faultAtSwitch core slot t o g) ∧
    (∀ (s : State) core slot t f pc w, slot = 63 ∨ t.faulter.isSome = true → s.faultNow core slot t f pc w = (s.endCollation t).haltNow core slot t f pc w) ∧
    (∀ (s : State) core slot t f w o g, t.faulted = some o → o.fault = some g → t.outstanding ≠ [] → s.faultAtIssue core slot t f w = s.setStrand core slot { t with run := .parked .results, atSwitch := true })

/-- Segment checks, sync words and the bank’s operations (R184, R185, R191, R192, R198, R199, R202, R203, R204, R231). A
segment check fails with TYPE, RIGHTS, ALIGN or LIMIT in that order and gives base plus offset otherwise; arrivals and
arming change a sync word as the rules give, the worked case among them; at its bank an atomic writes its new value
and gives the old, `ldf`, `lde`, `stf`, `stfe` and `clrf` wait for, set and clear F as their rules say, and a `swwait`
waits while the generation is its argument. -/
def Obligations.ChecksAndBanks : Prop :=
    (∀ d off size need align, descType d = 0 → segCheck d off size need align = .error 0x01) ∧
    (∀ d off size need align, descType d ≠ 0 → hasRights (descRights d) need = false → segCheck d off size need align = .error 0x02) ∧
    (∀ d off size need align, descType d ≠ 0 → hasRights (descRights d) need = true → off % align ≠ 0 → segCheck d off size need align = .error 0x03) ∧
    (∀ d off size need align, descType d ≠ 0 → hasRights (descRights d) need = true → off % align = 0 → (2 ^ 48 ≤ off ∨ descLimit d < off + size) → segCheck d off size need align = .error 0x04) ∧
    (∀ d off size need align, descType d ≠ 0 → hasRights (descRights d) need = true → off % align = 0 → off < 2 ^ 48 → off + size ≤ descLimit d → segCheck d off size need align = .ok (descBase d + off)) ∧
    (syncArrive 0x0010000000000007 3000 = (0x001000000BB80007, 0, false) ∧ syncArrive 0x001000000BB80007 2000 = (0x0010000003880008, 1, false) ∧ syncArm 0x0010000003880008 1000 = (0x0003E80003880008, 0, 8) ∧ syncArrive 0x0003E80003880008 96 = (0x0003E80000000009, 1, false)) ∧
    (∀ w n, w < 2 ^ 64 → n < 2 ^ 24 → bitsN w 63 40 ≠ 0 → bitsN (syncArrive w n).1 63 40 = bitsN w 63 40 ∧ bitsN (syncArrive w n).1 39 16 = (bitsN w 39 16 + n) % bitsN w 63 40 ∧
      (syncArrive w n).1 % 2 ^ 16 = (w + (bitsN w 39 16 + n) / bitsN w 63 40) % 2 ^ 16 ∧ (syncArrive w n).2.1 = (bitsN w 39 16 + n) / bitsN w 63 40 ∧ (syncArrive w n).2.2 = false) ∧
    (∀ w n, w < 2 ^ 64 → n < 2 ^ 24 → bitsN w 63 40 = 0 → bitsN (syncArrive w n).1 63 40 = 0 ∧ bitsN (syncArrive w n).1 39 16 = min (bitsN w 39 16 + n) (2 ^ 24 - 1) ∧ (syncArrive w n).1 % 2 ^ 16 = w % 2 ^ 16 ∧
      (syncArrive w n).2.1 = 0 ∧ ((syncArrive w n).2.2 = true ↔ 2 ^ 24 - 1 < bitsN w 39 16 + n)) ∧
    (∀ n old b c, n = 4 ∨ n = 8 → old < 2 ^ (8 * n) → atomicNew .cas n old b c = (if old = b % 2 ^ (8 * n) then some (c % 2 ^ (8 * n)) else none, 0) ∧ atomicNew (.amo .add) n old b c = (some ((old + b) % 2 ^ (8 * n)), 0) ∧
      atomicNew (.amo .swap) n old b c = (some (b % 2 ^ (8 * n)), 0) ∧ atomicNew (.amo .minu) n old b c = (some (min old (b % 2 ^ (8 * n))), 0) ∧ atomicNew (.amo .maxu) n old b c = (some (max old (b % 2 ^ (8 * n))), 0)) ∧
    (∀ s f p k v fl, atBank s f p k → (f.kind = .cas ∨ ∃ op, f.kind = .amo op) → p.kpage = none → s.mem.wf = true → atomicNew f.kind p.n (s.rdN k p.n) f.b.toNat f.c.toNat = (some v, fl) →
      ∃ t, exec (.bankTransaction f.id) s = .next t ∧ t.rdN k p.n = v % 256 ^ p.n ∧ t.empty = s.empty ∧ ∀ a, a < k ∨ k + p.n ≤ a → t.mem.get a = s.mem.get a) ∧
    (∀ s f p k, atBank s f p k → f.kind = .lde → s.full k = true → (∀ x ∈ s.flights, x.joined = none) → ∃ t, exec (.bankTransaction f.id) s = .next t ∧ t.mem = s.mem ∧ t.full k = false ∧ ∀ a, a / 8 ≠ k / 8 → t.full a = s.full a) ∧
    (∀ s f p k, atBank s f p k → f.kind = .clrf → (∀ x ∈ s.flights, x.joined = none) → ∃ t, exec (.bankTransaction f.id) s = .next t ∧ t.mem = s.mem ∧ t.full k = false ∧ ∀ a, a / 8 ≠ k / 8 → t.full a = s.full a) ∧
    (∀ s f p k, atBank s f p k → (f.kind = .stf ∨ (f.kind = .stfe ∧ s.full k = false)) → p.kpage = none → unfiltered s f → s.mem.wf = true → (∀ x ∈ s.flights, x.joined = none) →
      ∃ t, exec (.bankTransaction f.id) s = .next t ∧ t.mem.getBytes k p.n = leBytes p.n p.data.toNat ∧ t.full k = true ∧ (∀ a, a / 8 ≠ k / 8 → t.full a = s.full a) ∧ ∀ a, a < k ∨ k + p.n ≤ a → t.mem.get a = s.mem.get a) ∧
    (∀ s f p k, atBank s f p k → f.kind = .stfe → s.full k = true → f.bound = false → 0 < s.poolFree (ownerCluster k) → exec (.bankTransaction f.id) s = .next (s.fresh.2.setFlight { f with joined := some s.fresh.1 })) ∧
    (∀ s f p k, atBank s f p k → f.kind = .swwait → s.rdN k 2 = f.b.toNat % 2 ^ 16 → f.bound = false → 0 < s.poolFree (ownerCluster k) → exec (.bankTransaction f.id) s = .next (s.fresh.2.setFlight { f with joined := some s.fresh.1 }))

/-- Ports, messages and frames (R69, R91, R162, R163, R165, R166). A message sent in frame q becomes available at frame q
+ h + 1; a write to a port spends one credit and sends the word to the queue’s core; a read port gives its oldest
word, takes it from the queue and sends the credit back; a new frame is one later and begins with slot 0; turns rise
through the frame, and only a ready strand takes one. -/
def Obligations.PortsAndFrames : Prop :=
    (∀ (s : State) core slot dst k, (s.sendMsg core slot dst k).fab.msgs = s.fab.msgs ++ [{ id := s.clk.nextId, due := s.clk.frame + hops core dst + 1, dst := dst, core := core, slot := slot, kind := k }] ∧ (s.sendMsg core slot dst k).mem = s.mem ∧ (s.sendMsg core slot dst k).strands = s.strands) ∧
    (∀ (s : State) core slot q v g, s.gathering q.vol q.gidx = some g → 0 < s.credits q → (s.pushWord core slot q v).credits q = s.credits q - 1 ∧
      ∃ m, (s.pushWord core slot q v).fab.msgs = s.fab.msgs ++ [m] ∧ m.dst = s.queueCore q ∧ m.kind = .word q v ∧ m.due = s.clk.frame + hops core m.dst + 1) ∧
    (∀ (s : State) core slot t w r, (s.core core).words = w :: r → s.portTakes t slot .qup w = true → s.popPort core slot t .qup = some (w.val, (s.setCore core { s.core core with words := r }).sendMsg core slot (s.feederCore w.q) (.credit w.q))) ∧
    (∀ (s : State) core slot t, (∀ w ∈ (s.core core).words, s.portTakes t slot .qup w = false) → s.popPort core slot t .qup = none) ∧
    (∀ (s : State) core slot t m r, (s.core core).inbox = m :: r → inboxTakes t slot m = true → s.popPort core slot t .ib = some (m.word, (s.setCore core { s.core core with inbox := r }).kickInbox core)) ∧
    (∀ (c : Ctx) v fl, c.popOp = none → c.put .qdn v fl = { c.flags fl with s := c.s.pushWord c.core c.slot (c.s.portQ c.t c.slot .qdn) v } ∧ c.put .z v fl = c.flags fl) ∧
    (∀ s : State, s.nextFrame.clk.frame = s.clk.frame + 1 ∧ s.nextFrame.clk.pos = 0 ∧ s.nextFrame.clk.took = [] ∧ s.nextFrame.mem = s.mem ∧ s.nextFrame.strands = s.strands) ∧
    (∀ (s : State) core slot, s.nextTurn = some (core, slot) → s.clk.pos ≤ slot ∧ (slot = s.clk.pos → core ∉ s.clk.took) ∧ (s.atTurn core slot).clk.pos = slot ∧ core ∈ (s.atTurn core slot).clk.took ∧ ∃ e ∈ s.strands, e.1 = (core, slot) ∧ s.canTurn core slot e.2 = true ∧ e.2.run = .ready)

/-- A step runs the decoded instruction (R39, R69, R70). When a turn comes to a strand whose word is in its core’s
instruction cache, the step is `exec` of the instruction that the word decodes to in that slot, at the state whose
turn it is; a word that does not decode is the illegal encoding; without the word the strand’s fetch is asked for; an
event on the list is performed. The order of the moves and an empty list of them (assumption 1), the order of the
turns (assumption 2) and the move that counts a corrected error (assumption 74) are the model’s choices; when a
follower has its leader’s decision, which its turn records, is its reading (assumption 73). -/
def Obligations.StepRunsTheDecodedInstruction : Prop :=
    (∀ s core slot t w i, s.clk.timed = [] → s.clk.agenda = [] → s.clk.due = [] → s.nextTurn = some (core, slot) → s.strand core slot = some t → s.cached core t = some w → decode (s.decCtx core slot) w = some i → step s = exec i (s.takeTurn core slot w)) ∧
    (∀ s core slot t w i r, s.clk.timed = [] → s.clk.agenda = .turn :: r → State.nextTurn { s with clk := { s.clk with agenda := r } } = some (core, slot) → s.strand core slot = some t → State.cached { s with clk := { s.clk with agenda := r } } core t = some w →
      decode (s.decCtx core slot) w = some i → step s = exec i (State.takeTurn { s with clk := { s.clk with agenda := r } } core slot w)) ∧
    (∀ s core slot t w, s.clk.timed = [] → s.clk.agenda = [] → s.clk.due = [] → s.nextTurn = some (core, slot) → s.strand core slot = some t → s.cached core t = some w → decode (s.decCtx core slot) w = none → step s = exec (.illegalEncoding w) (s.takeTurn core slot w)) ∧
    (∀ s core slot t, s.clk.timed = [] → s.clk.agenda = [] → s.clk.due = [] → s.nextTurn = some (core, slot) → s.strand core slot = some t → s.cached core t = none → step s = .next ((s.atTurn core slot).pushNew (.fetchFill core slot))) ∧
    (∀ s, s.clk.timed = [] → s.clk.agenda = [] → s.clk.due = [] → s.nextTurn = none → step s = .next s.nextFrame) ∧
    (∀ s i r, s.clk.timed = i :: r → isWord i = false → State.defer { s with clk := { s.clk with timed := r } } i = none → step s = exec i { s with clk := { s.clk with timed := r } }) ∧
    (∀ s i r, s.clk.timed = [] → s.clk.agenda = [] → s.clk.due = i :: r → isWord i = false → State.defer { s with clk := { s.clk with due := r } } i = none → step s = exec i { s with clk := { s.clk with due := r } }) ∧
    (∀ s i r s1, s.clk.timed = [] → s.clk.agenda = .event i :: r → isWord i = false → s1 = State.takeEvent { s with clk := { s.clk with agenda := r } } i → s1.defer i = none → step s = exec i s1) ∧
    (∀ s f r, s.clk.timed = [] → s.clk.agenda = .corrected f :: r → step s = .next (State.corrects { s with clk := { s.clk with agenda := r } } f)) ∧
    (∀ (s : State) core slot w t, s.strand core slot = some t → (s.takeTurn core slot w).clk.cur = some (core, slot) ∧ (s.takeTurn core slot w).strand core slot = some { t with ir := w, lead := if t.group ≠ 0 ∧ t.colI ≠ 0 then s.decides core slot t else t.lead } ∧ (s.takeTurn core slot w).mem = s.mem ∧ (s.takeTurn core slot w).elsewhere core slot = (s.atTurn core slot).elsewhere core slot)

/-- Words of the worked encodings (R23, R24, R25, R31, R35, R38, R272). The words that the encoding rules work out decode
to the instructions they name: a relaxed word store, a backward branch with an early operand, a negated-predicate
float add, a vector and a tile instruction; the words the rules call illegal do not decode. -/
def Obligations.DecodedWords : Prop :=
    (decode { sup := false, pair := .none } 0x0000000000000000 = some (.nop { sw := false, emA := false, emB := false, emC := false, pr := 0, pn := false })) ∧
    (decode { sup := false, pair := .none } 0x8610020780A00008 = some (.st { sw := true, emA := false, emB := false, emC := false, pr := 0, pn := false } { sz := .w, ord := .pln, rx := true, seg := 2, disp := 8 } (.g 7) .z)) ∧
    (decode { sup := false, pair := .none } 0x2018000405FFFFFD = some (.bne { sw := false, emA := false, emB := true, emC := false, pr := 0, pn := false } (.g 4) (.g 5) 0xFFFFFD)) ∧
    (decode { sup := false, pair := .none } 0x0321D00102030000 = some (.fadd { sw := false, emA := false, emB := false, emC := false, pr := 3, pn := true } .f32 .rtz (.g 1) (.g 2) (.g 3))) ∧
    (decode { sup := false, pair := .none } 0x0418020102030400 = some (.vfma { sw := false, emA := false, emB := false, emC := false, pr := 0, pn := false } { fmt := .bf16, mode := 0 } 1 2 (.v 3) 4)) ∧
    (decode { sup := false, pair := .none } 0x07A8040304050000 = some (.tld { sw := false, emA := false, emB := false, emC := false, pr := 0, pn := false } .e4m3 3 (.g 4) (.g 5))) ∧
    (decode { sup := false, pair := .none } 0x0780000102000003 = some (.tcfg { sw := false, emA := false, emB := false, emC := false, pr := 0, pn := false } (.g 1) (.g 2) 3)) ∧
    (decode { sup := false, pair := .none } 0x0000000000000001 = none ∧ decode { sup := false, pair := .none } 0x0000400000000000 = none ∧ decode { sup := false, pair := .none } 0x0610060780200008 = none ∧ decode { sup := false, pair := .none } 0x86100A0780A00008 = none)

/-- Decoding an encoded instruction gives it back (R23, R24, R34, R38, R39). Every well-formed instruction word that its
slot allows has an encoding, and that word decodes in the slot to the instruction, with every operand at every value
the encoding admits. -/
def Obligations.EncodeDecode : Prop :=
    (∀ c i, i.wf = true → i.allowedIn c = true → ∃ w, encode i = some w ∧ decode c w = some i) ∧
    (∀ c w i, decode c w = some i → i.wf = true ∧ i.allowedIn c = true)

/-- The machine at reset (R415, R416). At reset no function has reported and none is fenced, no strand, volume or
gathering exists, memory lists nothing and is canonical, every word is full, and the first step is power-on, after
which the root of trust tests itself. That a byte of memory which nothing has written reads 0 is the model’s choice
(assumption 4). -/
def Obligations.ResetState : Prop :=
    (State.reset.root.ready = [] ∧ State.reset.root.fenced = [] ∧ State.reset.root.st = .off ∧ State.reset.strands = [] ∧ State.reset.circ.volumes = [] ∧ State.reset.circ.gatherings = [] ∧ State.reset.mem.wf = true ∧ State.reset.mem = [] ∧ State.reset.empty = []) ∧
    (∃ t, step State.reset = .next t ∧ t.root.st = .testing ∧ t.root.ver = Config.bootVersion ∧ t.root.ready = [] ∧ t.root.m = State.reset.root.m ∧ t.strands = [] ∧ t.mem = [])

/-- Every step keeps memory canonical (R178, R184). If memory is canonical and a step goes on, memory is canonical after
it: addresses rise strictly and no listed byte is the value that an unlisted one reads as. The canonical form is the
model’s own (assumption 4); no rule of the spec speaks of it. -/
def Obligations.MemoryStaysCanonical : Prop :=
    (∀ s t, step s = .next t → s.mem.wf = true → t.mem.wf = true)

/-- The verdicts on a release sequence with a plain store (R227). Of the program whose C stores 3 to cnt while D reads 3
from that store and x as 0: a final cnt of 1 or 2 is allowed, a final cnt of 3 or 4 is forbidden; D may read 42; and
with C’s store relaxed every final cnt is allowed. -/
def Obligations.ReleaseSequenceVerdicts : Prop :=
    (outcomeAllowed (releaseSequenceRun true 6 0) [3]) ∧
    (outcomeAllowed (releaseSequenceRun true 3 0) [5]) ∧
    (∀ b, ¬ outcomeAllowed (releaseSequenceRun true b 0) [6]) ∧
    (¬ outcomeAllowed (releaseSequenceRun true 6 0) [5]) ∧
    (outcomeAllowed (releaseSequenceRun true 6 2) []) ∧
    (outcomeAllowed (releaseSequenceRun false 6 0) [3] ∧ outcomeAllowed (releaseSequenceRun false 3 0) [5] ∧ outcomeAllowed (releaseSequenceRun false 3 0) [6] ∧ outcomeAllowed (releaseSequenceRun false 6 0) [5])
end

