-- ==== Sys2Proof/Laws/Encoding.lean ====
section
/-! SUPPORT. What a word built from fields answers for each field: the layouts of R24, the header of R23, and the codes of
R33 to R35. -/

namespace Sys2Proof


theorem bit_append {n m : Nat} (x : BitVec n) (y : BitVec m) (i : Nat) :
  (x ++ y).getLsbD i = if i < m then y.getLsbD i else x.getLsbD (i - m) := BitVec.getLsbD_append

theorem bit_ofBool (b : Bool) (i : Nat) : (BitVec.ofBool b).getLsbD i = (decide (i = 0) && b) := by
  cases b <;> simp [BitVec.ofBool]

theorem Raw.ofWord_toWord (r : Raw) : Raw.ofWord r.toWord = r := by
  obtain ⟨sw, a, b, c, op, pr, pn, fn, lo⟩ := r
  have h : ∀ i, (Raw.toWord ⟨sw, a, b, c, op, pr, pn, fn, lo⟩).getLsbD i = @BitVec.getLsbD (1+1+1+1+9+4+1+6+40) (BitVec.ofBool sw ++ BitVec.ofBool a ++ BitVec.ofBool b ++ BitVec.ofBool c ++
    op ++ pr ++ BitVec.ofBool pn ++ fn ++ lo) i := fun _ => rfl
  simp only [bit_append, bit_ofBool] at h
  simp only [Raw.ofWord, Raw.mk.injEq]
  refine ⟨?_, ?_, ?_, ?_, ?_, ?_, ?_, ?_, ?_⟩
  · rw [h]; simp
  · rw [h]; simp
  · rw [h]; simp
  · rw [h]; simp
  · apply BitVec.eq_of_getLsbD_eq; intro i hi
    rw [BitVec.getLsbD_extractLsb', h]
    simp only [hi, decide_true, Bool.true_and]
    rw [if_neg (by omega), if_neg (by omega), if_neg (by omega), if_neg (by omega), if_pos (by omega)]
    congr 1; omega
  · apply BitVec.eq_of_getLsbD_eq; intro i hi
    rw [BitVec.getLsbD_extractLsb', h]
    simp only [hi, decide_true, Bool.true_and]
    rw [if_neg (by omega), if_neg (by omega), if_neg (by omega), if_pos (by omega)]
    congr 1; omega
  · rw [h]; simp
  · apply BitVec.eq_of_getLsbD_eq; intro i hi
    rw [BitVec.getLsbD_extractLsb', h]
    simp only [hi, decide_true, Bool.true_and]
    rw [if_neg (by omega), if_pos (by omega)]
    congr 1; omega
  · apply BitVec.eq_of_getLsbD_eq; intro i hi
    rw [BitVec.getLsbD_extractLsb', h]
    simp only [hi, decide_true, Bool.true_and]
    rw [if_pos (by omega)]
    congr 1; omega

theorem GOp.ofByte_byte (g : GOp) : GOp.ofByte g.byte = some g := by
  cases g with
  | g n => 
    have h2 : (BitVec.ofNat 8 n.val).toNat = n.val := by simp [BitVec.toNat_ofNat]; omega
    simp [GOp.byte, GOp.ofByte, h2, n.isLt]
  | _ => rfl

theorem finOf_n8 (n : Fin 16) : finOf 16 (n8 n).toNat = some n := by
  have h2 : (BitVec.ofNat 8 n.val).toNat = n.val := by simp [BitVec.toNat_ofNat]; omega
  simp [n8, finOf, h2, n.isLt]

theorem fields_R (d a b c x : Byte) (lo : BitVec 40) (hlo : lo = (d ++ a ++ b ++ c ++ x : BitVec 40)) : lo.extractLsb' 32 8 = d ∧ lo.extractLsb' 24 8 = a ∧ lo.extractLsb' 16 8 = b ∧ lo.extractLsb' 8 8 = c ∧ lo.extractLsb' 0 8 = x := by
  have h : ∀ i, lo.getLsbD i = @BitVec.getLsbD (8+8+8+8+8) (d ++ a ++ b ++ c ++ x) i := fun _ => by rw [hlo]
  simp only [bit_append, bit_ofBool] at h
  refine ⟨?_, ?_, ?_, ?_, ?_⟩
  · apply BitVec.eq_of_getLsbD_eq; intro i hi
    rw [BitVec.getLsbD_extractLsb', h]
    simp only [hi, decide_true, Bool.true_and]
    repeat' split
    all_goals first | omega | (congr 1; omega)
  · apply BitVec.eq_of_getLsbD_eq; intro i hi
    rw [BitVec.getLsbD_extractLsb', h]
    simp only [hi, decide_true, Bool.true_and]
    repeat' split
    all_goals first | omega | (congr 1; omega)
  · apply BitVec.eq_of_getLsbD_eq; intro i hi
    rw [BitVec.getLsbD_extractLsb', h]
    simp only [hi, decide_true, Bool.true_and]
    repeat' split
    all_goals first | omega | (congr 1; omega)
  · apply BitVec.eq_of_getLsbD_eq; intro i hi
    rw [BitVec.getLsbD_extractLsb', h]
    simp only [hi, decide_true, Bool.true_and]
    repeat' split
    all_goals first | omega | (congr 1; omega)
  · apply BitVec.eq_of_getLsbD_eq; intro i hi
    rw [BitVec.getLsbD_extractLsb', h]
    simp only [hi, decide_true, Bool.true_and]
    repeat' split
    all_goals first | omega | (congr 1; omega)

theorem fields_I (d a : Byte) (x : BitVec 24) (lo : BitVec 40) (hlo : lo = (d ++ a ++ x : BitVec 40)) : lo.extractLsb' 32 8 = d ∧ lo.extractLsb' 24 8 = a ∧ lo.extractLsb' 0 24 = x := by
  have h : ∀ i, lo.getLsbD i = @BitVec.getLsbD (8+8+24) (d ++ a ++ x) i := fun _ => by rw [hlo]
  simp only [bit_append, bit_ofBool] at h
  refine ⟨?_, ?_, ?_⟩
  · apply BitVec.eq_of_getLsbD_eq; intro i hi
    rw [BitVec.getLsbD_extractLsb', h]
    simp only [hi, decide_true, Bool.true_and]
    repeat' split
    all_goals first | omega | (congr 1; omega)
  · apply BitVec.eq_of_getLsbD_eq; intro i hi
    rw [BitVec.getLsbD_extractLsb', h]
    simp only [hi, decide_true, Bool.true_and]
    repeat' split
    all_goals first | omega | (congr 1; omega)
  · apply BitVec.eq_of_getLsbD_eq; intro i hi
    rw [BitVec.getLsbD_extractLsb', h]
    simp only [hi, decide_true, Bool.true_and]
    repeat' split
    all_goals first | omega | (congr 1; omega)

theorem fields_E (d a b : Byte) (x : BitVec 16) (lo : BitVec 40) (hlo : lo = (d ++ a ++ b ++ x : BitVec 40)) : lo.extractLsb' 32 8 = d ∧ lo.extractLsb' 24 8 = a ∧ lo.extractLsb' 16 8 = b ∧ lo.extractLsb' 0 16 = x := by
  have h : ∀ i, lo.getLsbD i = @BitVec.getLsbD (8+8+8+16) (d ++ a ++ b ++ x) i := fun _ => by rw [hlo]
  simp only [bit_append, bit_ofBool] at h
  refine ⟨?_, ?_, ?_, ?_⟩
  · apply BitVec.eq_of_getLsbD_eq; intro i hi
    rw [BitVec.getLsbD_extractLsb', h]
    simp only [hi, decide_true, Bool.true_and]
    repeat' split
    all_goals first | omega | (congr 1; omega)
  · apply BitVec.eq_of_getLsbD_eq; intro i hi
    rw [BitVec.getLsbD_extractLsb', h]
    simp only [hi, decide_true, Bool.true_and]
    repeat' split
    all_goals first | omega | (congr 1; omega)
  · apply BitVec.eq_of_getLsbD_eq; intro i hi
    rw [BitVec.getLsbD_extractLsb', h]
    simp only [hi, decide_true, Bool.true_and]
    repeat' split
    all_goals first | omega | (congr 1; omega)
  · apply BitVec.eq_of_getLsbD_eq; intro i hi
    rw [BitVec.getLsbD_extractLsb', h]
    simp only [hi, decide_true, Bool.true_and]
    repeat' split
    all_goals first | omega | (congr 1; omega)

theorem fields_W (d : Byte) (x : BitVec 32) (lo : BitVec 40) (hlo : lo = (d ++ x : BitVec 40)) : lo.extractLsb' 32 8 = d ∧ lo.extractLsb' 0 32 = x := by
  have h : ∀ i, lo.getLsbD i = @BitVec.getLsbD (8+32) (d ++ x) i := fun _ => by rw [hlo]
  simp only [bit_append, bit_ofBool] at h
  refine ⟨?_, ?_⟩
  · apply BitVec.eq_of_getLsbD_eq; intro i hi
    rw [BitVec.getLsbD_extractLsb', h]
    simp only [hi, decide_true, Bool.true_and]
    repeat' split
    all_goals first | omega | (congr 1; omega)
  · apply BitVec.eq_of_getLsbD_eq; intro i hi
    rw [BitVec.getLsbD_extractLsb', h]
    simp only [hi, decide_true, Bool.true_and]
    repeat' split
    all_goals first | omega | (congr 1; omega)

theorem fields_M (d a : Byte) (rx : Bool) (s : BitVec 3) (x : BitVec 20) (lo : BitVec 40) (hlo : lo = (d ++ a ++ BitVec.ofBool rx ++ s ++ x : BitVec 40)) : lo.extractLsb' 32 8 = d ∧ lo.extractLsb' 24 8 = a ∧ lo.getLsbD 23 = rx ∧ lo.extractLsb' 20 3 = s ∧ lo.extractLsb' 0 20 = x := by
  have h : ∀ i, lo.getLsbD i = @BitVec.getLsbD (8+8+1+3+20) (d ++ a ++ BitVec.ofBool rx ++ s ++ x) i := fun _ => by rw [hlo]
  simp only [bit_append, bit_ofBool] at h
  refine ⟨?_, ?_, ?_, ?_, ?_⟩
  · apply BitVec.eq_of_getLsbD_eq; intro i hi
    rw [BitVec.getLsbD_extractLsb', h]
    simp only [hi, decide_true, Bool.true_and]
    repeat' split
    all_goals first | omega | (congr 1; omega)
  · apply BitVec.eq_of_getLsbD_eq; intro i hi
    rw [BitVec.getLsbD_extractLsb', h]
    simp only [hi, decide_true, Bool.true_and]
    repeat' split
    all_goals first | omega | (congr 1; omega)
  · rw [h]; simp
  · apply BitVec.eq_of_getLsbD_eq; intro i hi
    rw [BitVec.getLsbD_extractLsb', h]
    simp only [hi, decide_true, Bool.true_and]
    repeat' split
    all_goals first | omega | (congr 1; omega)
  · apply BitVec.eq_of_getLsbD_eq; intro i hi
    rw [BitVec.getLsbD_extractLsb', h]
    simp only [hi, decide_true, Bool.true_and]
    repeat' split
    all_goals first | omega | (congr 1; omega)

theorem rawOf_hdr (h : Hdr) (op fn lo) : (rawOf h op fn lo).hdr = h := by
  obtain ⟨sw, a, b, c, pr, pn⟩ := h
  simp only [Raw.hdr, rawOf]
  congr 1
  ext; simp [BitVec.toNat_ofNat]

@[simp] theorem rawR_b4 (h op fn d a b c x) : (rawR h op fn d a b c x).b4 = d := (fields_R d a b c x _ rfl).1
@[simp] theorem rawR_b3 (h op fn d a b c x) : (rawR h op fn d a b c x).b3 = a := (fields_R d a b c x _ rfl).2.1
@[simp] theorem rawR_b2 (h op fn d a b c x) : (rawR h op fn d a b c x).b2 = b := (fields_R d a b c x _ rfl).2.2.1
@[simp] theorem rawR_b1 (h op fn d a b c x) : (rawR h op fn d a b c x).b1 = c := (fields_R d a b c x _ rfl).2.2.2.1
@[simp] theorem rawR_x (h op fn d a b c x) : (rawR h op fn d a b c x).x = x := (fields_R d a b c x _ rfl).2.2.2.2
@[simp] theorem rawR_op (h op fn d a b c x) : (rawR h op fn d a b c x).op = op := rfl
@[simp] theorem rawR_fn (h op fn d a b c x) : (rawR h op fn d a b c x).fn = fn := rfl
@[simp] theorem rawR_hdr (h op fn d a b c x) : (rawR h op fn d a b c x).hdr = h := rawOf_hdr ..
@[simp] theorem rawI_b4 (h op fn d a x) : (rawI h op fn d a x).b4 = d := (fields_I d a x _ rfl).1
@[simp] theorem rawI_b3 (h op fn d a x) : (rawI h op fn d a x).b3 = a := (fields_I d a x _ rfl).2.1
@[simp] theorem rawI_imm24 (h op fn d a x) : (rawI h op fn d a x).imm24 = x := (fields_I d a x _ rfl).2.2
@[simp] theorem rawI_op (h op fn d a x) : (rawI h op fn d a x).op = op := rfl
@[simp] theorem rawI_fn (h op fn d a x) : (rawI h op fn d a x).fn = fn := rfl
@[simp] theorem rawI_hdr (h op fn d a x) : (rawI h op fn d a x).hdr = h := rawOf_hdr ..
@[simp] theorem rawB_b4 (h op d a x) : (rawB h op d a x).b4 = d := (fields_I d a x _ rfl).1
@[simp] theorem rawB_b3 (h op d a x) : (rawB h op d a x).b3 = a := (fields_I d a x _ rfl).2.1
@[simp] theorem rawB_imm24 (h op d a x) : (rawB h op d a x).imm24 = x := (fields_I d a x _ rfl).2.2
@[simp] theorem rawB_op (h op d a x) : (rawB h op d a x).op = op := rfl
@[simp] theorem rawB_hdr (h op d a x) : (rawB h op d a x).hdr = h := rawOf_hdr ..
@[simp] theorem rawE_b4 (h op fn d a b x) : (rawE h op fn d a b x).b4 = d := (fields_E d a b x _ rfl).1
@[simp] theorem rawE_b3 (h op fn d a b x) : (rawE h op fn d a b x).b3 = a := (fields_E d a b x _ rfl).2.1
@[simp] theorem rawE_b2 (h op fn d a b x) : (rawE h op fn d a b x).b2 = b := (fields_E d a b x _ rfl).2.2.1
@[simp] theorem rawE_imm16 (h op fn d a b x) : (rawE h op fn d a b x).imm16 = x := (fields_E d a b x _ rfl).2.2.2
@[simp] theorem rawE_op (h op fn d a b x) : (rawE h op fn d a b x).op = op := rfl
@[simp] theorem rawE_fn (h op fn d a b x) : (rawE h op fn d a b x).fn = fn := rfl
@[simp] theorem rawE_hdr (h op fn d a b x) : (rawE h op fn d a b x).hdr = h := rawOf_hdr ..
@[simp] theorem rawW_b4 (h op d x) : (rawW h op d x).b4 = d := (fields_W d x _ rfl).1
@[simp] theorem rawW_imm32 (h op d x) : (rawW h op d x).imm32 = x := (fields_W d x _ rfl).2
@[simp] theorem rawW_op (h op d x) : (rawW h op d x).op = op := rfl
@[simp] theorem rawW_hdr (h op d x) : (rawW h op d x).hdr = h := rawOf_hdr ..
@[simp] theorem rawM_b4 (h op fn d a rx s x) : (rawM h op fn d a rx s x).b4 = d := (fields_M d a rx s x _ rfl).1
@[simp] theorem rawM_b3 (h op fn d a rx s x) : (rawM h op fn d a rx s x).b3 = a := (fields_M d a rx s x _ rfl).2.1
@[simp] theorem rawM_rx (h op fn d a rx s x) : (rawM h op fn d a rx s x).rx = rx := (fields_M d a rx s x _ rfl).2.2.1
@[simp] theorem rawM_seg (h op fn d a rx s x) : (rawM h op fn d a rx s x).seg = s := (fields_M d a rx s x _ rfl).2.2.2.1
@[simp] theorem rawM_disp20 (h op fn d a rx s x) : (rawM h op fn d a rx s x).disp20 = x := (fields_M d a rx s x _ rfl).2.2.2.2
@[simp] theorem rawM_op (h op fn d a rx s x) : (rawM h op fn d a rx s x).op = op := rfl
@[simp] theorem rawM_fn (h op fn d a rx s x) : (rawM h op fn d a rx s x).fn = fn := rfl
@[simp] theorem rawM_hdr (h op fn d a rx s x) : (rawM h op fn d a rx s x).hdr = h := rawOf_hdr ..



theorem decode_of_build (c : DecCtx) (i : Instr) (r : Raw) (hr : i.raw = some r) (hw : i.wf = true) (ha : i.allowedIn c = true)
   (hb : r.build = some i) : ∃ w, encode i = some w ∧ decode c w = some i := by
  refine ⟨r.toWord, by simp [encode, hr], ?_⟩
  simp only [Instr.wf, hr] at hw
  simp only [Instr.allowedIn, hr, Bool.and_eq_true] at ha
  simp [decode, Raw.ofWord_toWord, hw, ha, hb]

theorem size_fn (z : Size) : Size.ofCode (fnSz (fnOf z.code)) = z := by cases z <;> rfl
theorem ovf_fn (o : Ovf) (z : Size) : Ovf.ofCode (fnMid (fnOf (4 * o.code) ||| fnOf z.code)) = some o := by cases o <;> cases z <;> rfl
theorem ovf_size_fn (o : Ovf) (z : Size) : Size.ofCode (fnSz (fnOf (4 * o.code) ||| fnOf z.code)) = z := by cases o <;> cases z <;> rfl
theorem cc_fn (o : Cc) (z : Size) : Cc.ofCode ((fnOf (8 * o.code) ||| fnOf z.code).extractLsb' 3 3).toNat = some o := by cases o <;> cases z <;> rfl
theorem cc_size_fn (o : Cc) (z : Size) : Size.ofCode (fnSz (fnOf (8 * o.code) ||| fnOf z.code)) = z := by cases o <;> cases z <;> rfl


theorem fmt_fn (f : Fmt) : Fmt.ofCode (fnFmt (fnOf f.code)) = some f := by cases f <;> rfl
theorem fmt_round_fn (f : Fmt) (rm : Rm) : Fmt.ofCode (fnFmt (fnOf f.code ||| fnOf (16 * rm.code))) = some f := by cases f <;> cases rm <;> rfl
theorem round_fn (f : Fmt) (rm : Rm) : Rm.ofCode (fnHi (fnOf f.code ||| fnOf (16 * rm.code))) = rm := by cases f <;> cases rm <;> rfl
theorem fmt_cc_fn (f : Fmt) (cc : FCc) : Fmt.ofCode (fnFmt (fnOf (16 * cc.code) ||| fnOf f.code)) = some f := by cases f <;> cases cc <;> rfl
theorem cc_fmt_fn (f : Fmt) (cc : FCc) : FCc.ofCode (fnHi (fnOf (16 * cc.code) ||| fnOf f.code)) = cc := by cases f <;> cases cc <;> rfl
theorem fmt_flag_fn (f : Fmt) (b : Bool) : Fmt.ofCode (fnFmt (fnOf (if b then 32 else 0) ||| fnOf f.code)) = some f := by cases f <;> cases b <;> rfl
theorem flag_fmt_fn (f : Fmt) (b : Bool) : (fnOf (if b then 32 else 0) ||| fnOf f.code).getLsbD 5 = b := by cases f <;> cases b <;> rfl
theorem cv_fields (c : CvF) (r : Raw) (hf : r.fn = cvFn c) (hx : r.x = cvX c) : r.cv = some c := by
  obtain ⟨sat, df, sf, rm⟩ := c
  have h : ∀ (sat : Bool) (df sf : Fmt) (rm : Rm), Fmt.ofCode (fnFmt (cvFn ⟨sat, df, sf, rm⟩)) = some df ∧
      Fmt.ofCode ((cvX ⟨sat, df, sf, rm⟩).toNat % 16) = some sf ∧ (cvFn ⟨sat, df, sf, rm⟩).getLsbD 4 = sat ∧
      Rm.ofCode ((cvX ⟨sat, df, sf, rm⟩).toNat / 16) = rm := by
    intro sat df sf rm; cases sat <;> cases df <;> cases sf <;> cases rm <;> decide
  obtain ⟨h1, h2, h3, h4⟩ := h sat df sf rm
  simp only [Raw.cv, Raw.fmtF, hf, hx, h1, h2, h3, h4]
theorem vf_fields (c : VfF) (r : Raw) (hf : r.fn = vfFn c) : r.vf = some c := by
  obtain ⟨f, mode⟩ := c
  have : ∀ f : Fmt, ∀ mode : BitVec 2, Fmt.ofCode (fnFmt (vfFn ⟨f, mode⟩)) = some f ∧ (vfFn ⟨f, mode⟩).extractLsb' 4 2 = mode := by
    intro f mode; cases f <;> (revert mode; decide)
  simp [Raw.vf, Raw.fmtF, hf, this f mode]
theorem seg_field (n : Fin 8) : (n3 n).toFin = n := by revert n; decide
theorem mem_fields (m : MemF) (r : Raw) (hf : r.fn = memFn m) (h1 : r.rx = m.rx) (h2 : r.seg = n3 m.seg) (h3 : r.disp20 = m.disp) : r.memF = some m := by
  obtain ⟨sz, ord, rx, seg, disp⟩ := m
  have : ∀ sz ord, MOrd.ofCode (fnMid (memFn ⟨sz, ord, rx, seg, disp⟩)) = some ord ∧ Size.ofCode (fnSz (memFn ⟨sz, ord, rx, seg, disp⟩)) = sz := by
    intro sz ord; simp only [memFn]; cases sz <;> cases ord <;> decide
  simp at h1 h2 h3
  simp [Raw.memF, Raw.sz, Raw.segF, hf, this sz ord, h1, h2, h3, seg_field]
theorem fold_fields (m : FolF) (r : Raw) (hf : r.fn = fnOf m.fmt.code) (h1 : r.rx = m.rx) (h2 : r.seg = n3 m.seg) (h3 : r.disp20 = m.disp) : r.folF = some m := by
  obtain ⟨f, rx, seg, disp⟩ := m
  simp at h1 h2 h3
  simp [Raw.folF, Raw.fmtF, Raw.segF, hf, fmt_fn, h1, h2, h3, seg_field]
theorem atomic_fields (n : Nat) (hn : n < 16) (m : AtF) (r : Raw) (hf : r.fn = (fnOf (4 * n) ||| fnOf m.sz.code)) (hx : r.x = atX m) : r.atF = some m ∧ r.atOp = n := by
  obtain ⟨sz, rx, ord, seg⟩ := m
  refine ⟨?_, ?_⟩
  · have h1 : Size.ofCode (fnSz (fnOf (4 * n) ||| fnOf sz.code)) = sz := (show ∀ k : Fin 16, Size.ofCode (fnSz (fnOf (4 * k.val) ||| fnOf sz.code)) = sz by cases sz <;> decide) ⟨n, hn⟩
    have h2 : ∀ rx ord seg, MOrd.ofCode ((atX ⟨sz, rx, ord, seg⟩).toNat / 8 % 4) = some ord ∧ (atX ⟨sz, rx, ord, seg⟩).getLsbD 7 = rx ∧ (atX ⟨sz, rx, ord, seg⟩).toNat % 8 = seg.val := by
      intro rx ord seg
      have : ∀ seg : Fin 8, ∀ sz, MOrd.ofCode ((atX ⟨sz, rx, ord, seg⟩).toNat / 8 % 4) = some ord ∧ (atX ⟨sz, rx, ord, seg⟩).getLsbD 7 = rx ∧ (atX ⟨sz, rx, ord, seg⟩).toNat % 8 = seg.val := by
        intro seg sz; cases sz <;> (revert seg; cases rx <;> cases ord <;> decide)
      exact this seg sz
    obtain ⟨a1, a2, a3⟩ := h2 rx ord seg
    simp only [Raw.atF, Raw.sz, hf, hx, h1, a1, a2, a3, Option.map_some]
  · rw [Raw.atOp, hf]; exact (show ∀ k : Fin 16, ((fnOf (4 * k.val) ||| fnOf sz.code).extractLsb' 2 4).toNat = k.val by cases sz <;> decide) ⟨n, hn⟩
theorem vg_fields (b : VG) (r : Raw) (h1 : r.b2 = b.byte) (h2 : r.x.getLsbD 7 = b.bc) : r.vgB = some b := by
  cases b with
  | v n => simp only [Raw.vgB, VG.ofByte, h1, h2, VG.bc, VG.byte]; have := finOf_n8 n; simp only [n8] at this; rw [if_neg (by simp), this]; rfl
  | g n => simp [Raw.vgB, VG.ofByte, h1, h2, VG.bc, VG.byte, GOp.ofByte_byte]
theorem bcX_bit (b : VG) : (bcX b).getLsbD 7 = b.bc := by
  simp only [bcX]; generalize b.bc = q; cases q <;> decide
theorem cc_bcX_bit (cc : VCc) (b : VG) : (xOf cc.code ||| bcX b).getLsbD 7 = b.bc := by
  simp only [bcX]; generalize b.bc = q; cases cc <;> cases q <;> decide
theorem cc_bcX_code (cc : VCc) (b : VG) : VCc.ofCode ((xOf cc.code ||| bcX b).toNat % 8) = some cc := by
  simp only [bcX]; generalize b.bc = q; cases cc <;> cases q <;> decide
theorem index_x (i : BitVec 6) : (xOf i.toNat).extractLsb' 0 6 = i := by
  apply BitVec.eq_of_toNat_eq; simp [xOf]; omega
theorem red_x (o : RedOp) : RedOp.ofCode ((xOf o.code).toNat % 4) = some o := by cases o <;> rfl
theorem fence_fn (k : FenceKind) (sc : FenceScope) : FenceKind.ofCode (fnMid (fnOf (4 * k.code) ||| fnOf sc.code)) = some k ∧ FenceScope.ofCode (fnSz (fnOf (4 * k.code) ||| fnOf sc.code)) = some sc := by cases k <;> cases sc <;> exact ⟨rfl, rfl⟩
theorem finOf8_n8 (n : Fin 8) : finOf 8 (n8 n).toNat = some n := by revert n; decide
theorem finOf4_x (n : Fin 4) : finOf 4 (xOf n.val).toNat = some n := by revert n; decide
theorem finOf4_nat (n : Fin 4) : finOf 4 (n.val % 256) = some n := by revert n; decide
theorem finOf16_x (n : Fin 16) : finOf 16 ((xOf n.val).toNat % 16) = some n := by revert n; decide
theorem tile_x (e : Bool) (n : Fin 16) : (xOf (if e then 16 else 0) ||| xOf n.val).getLsbD 4 = e ∧ finOf 16 ((xOf (if e then 16 else 0) ||| xOf n.val).toNat % 16) = some n := by revert e n; decide
theorem note_imm (n : Bool) : (noteImm n == 1) = n := by cases n <;> rfl
theorem flag_x (n : Bool) : (xOf (if n then 1 else 0)).getLsbD 0 = n := by cases n <;> rfl


theorem rawR_vg (h op fn d a c) (b : VG) : (rawR h op fn d a b.byte c (bcX b)).vgB = some b := vg_fields _ _ (rawR_b2 ..) (by rw [rawR_x]; exact bcX_bit _)
theorem rawR_cc_vg (h op fn d a c) (cc : VCc) (b : VG) : (rawR h op fn d a b.byte c (xOf cc.code ||| bcX b)).vgB = some b := vg_fields _ _ (rawR_b2 ..) (by rw [rawR_x]; exact cc_bcX_bit _ _)
theorem rawR_vf (h op d a b c x) (f : VfF) : (rawR h op (vfFn f) d a b c x).vf = some f := vf_fields _ _ (rawR_fn ..)
theorem rawR_cv (h op d a b c) (f : CvF) : (rawR h op (cvFn f) d a b c (cvX f)).cv = some f := cv_fields _ _ (rawR_fn ..) (rawR_x ..)
theorem rawM_mem (h op d a) (m : MemF) : (rawM h op (memFn m) d a m.rx (n3 m.seg) m.disp).memF = some m := mem_fields _ _ (rawM_fn ..) (rawM_rx ..) (rawM_seg ..) (rawM_disp20 ..)
theorem rawM_fold (h op d a) (m : FolF) : (rawM h op (fnOf m.fmt.code) d a m.rx (n3 m.seg) m.disp).folF = some m := fold_fields _ _ (rawM_fn ..) (rawM_rx ..) (rawM_seg ..) (rawM_disp20 ..)
theorem rawR_amo (h op d a b c) (o : AmoOp) (m : AtF) : (rawR h op (fnOf (4 * o.code) ||| fnOf m.sz.code) d a b c (atX m)).atF = some m ∧ (rawR h op (fnOf (4 * o.code) ||| fnOf m.sz.code) d a b c (atX m)).atOp = o.code := atomic_fields _ (by cases o <;> decide) _ _ (rawR_fn ..) (rawR_x ..)
theorem rawR_amof (h op d a b c) (o : AmofOp) (m : AtF) : (rawR h op (fnOf (4 * o.code) ||| fnOf m.sz.code) d a b c (atX m)).atF = some m ∧ (rawR h op (fnOf (4 * o.code) ||| fnOf m.sz.code) d a b c (atX m)).atOp = o.code := atomic_fields _ (by cases o <;> decide) _ _ (rawR_fn ..) (rawR_x ..)
theorem rawR_cas (h op d a b c) (m : AtF) : (rawR h op (fnOf m.sz.code) d a b c (atX m)).atF = some m := (atomic_fields 0 (by decide) m _ (by rw [rawR_fn]; cases m.sz <;> rfl) (rawR_x ..)).1
theorem amo_code (o : AmoOp) : AmoOp.ofCode o.code = some o := by cases o <;> rfl
theorem amof_code (o : AmofOp) : AmofOp.ofCode o.code = some o := by cases o <;> rfl

end Sys2Proof
end

