-- ==== Sys2Proof/Laws/State.lean ====
section
/-! SUPPORT. State as plain data: what each update of the state leaves alone, field by field, and reads after writes. -/

namespace Sys2Proof.Machine

open Sys2Proof

@[simp] theorem State.wrN_empty (s : State) (key n v : Nat) : (s.wrN key n v).empty = s.empty := rfl
@[simp] theorem State.wrN_strands (s : State) (key n v : Nat) : (s.wrN key n v).strands = s.strands := rfl
@[simp] theorem State.wrN_flights (s : State) (key n v : Nat) : (s.wrN key n v).flights = s.flights := rfl
@[simp] theorem State.wrN_cores (s : State) (key n v : Nat) : (s.wrN key n v).cores = s.cores := rfl
@[simp] theorem State.wrN_clusters (s : State) (key n v : Nat) : (s.wrN key n v).clusters = s.clusters := rfl
@[simp] theorem State.wrN_circ (s : State) (key n v : Nat) : (s.wrN key n v).circ = s.circ := rfl
@[simp] theorem State.wrN_fab (s : State) (key n v : Nat) : (s.wrN key n v).fab = s.fab := rfl
@[simp] theorem State.wrN_net (s : State) (key n v : Nat) : (s.wrN key n v).net = s.net := rfl
@[simp] theorem State.wrN_chips (s : State) (key n v : Nat) : (s.wrN key n v).chips = s.chips := rfl
@[simp] theorem State.wrN_devTlb (s : State) (key n v : Nat) : (s.wrN key n v).devTlb = s.devTlb := rfl
@[simp] theorem State.wrN_devEpoch (s : State) (key n v : Nat) : (s.wrN key n v).devEpoch = s.devEpoch := rfl
@[simp] theorem State.wrN_tlbis (s : State) (key n v : Nat) : (s.wrN key n v).tlbis = s.tlbis := rfl
@[simp] theorem State.wrN_root (s : State) (key n v : Nat) : (s.wrN key n v).root = s.root := rfl
@[simp] theorem State.wrN_clk (s : State) (key n v : Nat) : (s.wrN key n v).clk = s.clk := rfl

@[simp] theorem State.wrBytes_empty (s : State) (key : Nat) (bs : List Byte) : (s.wrBytes key bs).empty = s.empty := rfl
@[simp] theorem State.wrBytes_strands (s : State) (key : Nat) (bs : List Byte) : (s.wrBytes key bs).strands = s.strands := rfl
@[simp] theorem State.wrBytes_flights (s : State) (key : Nat) (bs : List Byte) : (s.wrBytes key bs).flights = s.flights := rfl
@[simp] theorem State.wrBytes_cores (s : State) (key : Nat) (bs : List Byte) : (s.wrBytes key bs).cores = s.cores := rfl
@[simp] theorem State.wrBytes_clusters (s : State) (key : Nat) (bs : List Byte) : (s.wrBytes key bs).clusters = s.clusters := rfl
@[simp] theorem State.wrBytes_circ (s : State) (key : Nat) (bs : List Byte) : (s.wrBytes key bs).circ = s.circ := rfl
@[simp] theorem State.wrBytes_fab (s : State) (key : Nat) (bs : List Byte) : (s.wrBytes key bs).fab = s.fab := rfl
@[simp] theorem State.wrBytes_net (s : State) (key : Nat) (bs : List Byte) : (s.wrBytes key bs).net = s.net := rfl
@[simp] theorem State.wrBytes_chips (s : State) (key : Nat) (bs : List Byte) : (s.wrBytes key bs).chips = s.chips := rfl
@[simp] theorem State.wrBytes_devTlb (s : State) (key : Nat) (bs : List Byte) : (s.wrBytes key bs).devTlb = s.devTlb := rfl
@[simp] theorem State.wrBytes_devEpoch (s : State) (key : Nat) (bs : List Byte) : (s.wrBytes key bs).devEpoch = s.devEpoch := rfl
@[simp] theorem State.wrBytes_tlbis (s : State) (key : Nat) (bs : List Byte) : (s.wrBytes key bs).tlbis = s.tlbis := rfl
@[simp] theorem State.wrBytes_root (s : State) (key : Nat) (bs : List Byte) : (s.wrBytes key bs).root = s.root := rfl
@[simp] theorem State.wrBytes_clk (s : State) (key : Nat) (bs : List Byte) : (s.wrBytes key bs).clk = s.clk := rfl

@[simp] theorem State.setFull_mem (s : State) (key : Nat) (f : Bool) : (s.setFull key f).mem = s.mem := rfl
@[simp] theorem State.setFull_strands (s : State) (key : Nat) (f : Bool) : (s.setFull key f).strands = s.strands := rfl
@[simp] theorem State.setFull_flights (s : State) (key : Nat) (f : Bool) : (s.setFull key f).flights = s.flights := rfl
@[simp] theorem State.setFull_cores (s : State) (key : Nat) (f : Bool) : (s.setFull key f).cores = s.cores := rfl
@[simp] theorem State.setFull_clusters (s : State) (key : Nat) (f : Bool) : (s.setFull key f).clusters = s.clusters := rfl
@[simp] theorem State.setFull_circ (s : State) (key : Nat) (f : Bool) : (s.setFull key f).circ = s.circ := rfl
@[simp] theorem State.setFull_fab (s : State) (key : Nat) (f : Bool) : (s.setFull key f).fab = s.fab := rfl
@[simp] theorem State.setFull_net (s : State) (key : Nat) (f : Bool) : (s.setFull key f).net = s.net := rfl
@[simp] theorem State.setFull_chips (s : State) (key : Nat) (f : Bool) : (s.setFull key f).chips = s.chips := rfl
@[simp] theorem State.setFull_devTlb (s : State) (key : Nat) (f : Bool) : (s.setFull key f).devTlb = s.devTlb := rfl
@[simp] theorem State.setFull_devEpoch (s : State) (key : Nat) (f : Bool) : (s.setFull key f).devEpoch = s.devEpoch := rfl
@[simp] theorem State.setFull_tlbis (s : State) (key : Nat) (f : Bool) : (s.setFull key f).tlbis = s.tlbis := rfl
@[simp] theorem State.setFull_root (s : State) (key : Nat) (f : Bool) : (s.setFull key f).root = s.root := rfl
@[simp] theorem State.setFull_clk (s : State) (key : Nat) (f : Bool) : (s.setFull key f).clk = s.clk := rfl

@[simp] theorem State.fillRange_mem (s : State) (key n : Nat) : (s.fillRange key n).mem = s.mem := rfl
@[simp] theorem State.fillRange_strands (s : State) (key n : Nat) : (s.fillRange key n).strands = s.strands := rfl
@[simp] theorem State.fillRange_flights (s : State) (key n : Nat) : (s.fillRange key n).flights = s.flights := rfl
@[simp] theorem State.fillRange_cores (s : State) (key n : Nat) : (s.fillRange key n).cores = s.cores := rfl
@[simp] theorem State.fillRange_clusters (s : State) (key n : Nat) : (s.fillRange key n).clusters = s.clusters := rfl
@[simp] theorem State.fillRange_circ (s : State) (key n : Nat) : (s.fillRange key n).circ = s.circ := rfl
@[simp] theorem State.fillRange_fab (s : State) (key n : Nat) : (s.fillRange key n).fab = s.fab := rfl
@[simp] theorem State.fillRange_net (s : State) (key n : Nat) : (s.fillRange key n).net = s.net := rfl
@[simp] theorem State.fillRange_chips (s : State) (key n : Nat) : (s.fillRange key n).chips = s.chips := rfl
@[simp] theorem State.fillRange_devTlb (s : State) (key n : Nat) : (s.fillRange key n).devTlb = s.devTlb := rfl
@[simp] theorem State.fillRange_devEpoch (s : State) (key n : Nat) : (s.fillRange key n).devEpoch = s.devEpoch := rfl
@[simp] theorem State.fillRange_tlbis (s : State) (key n : Nat) : (s.fillRange key n).tlbis = s.tlbis := rfl
@[simp] theorem State.fillRange_root (s : State) (key n : Nat) : (s.fillRange key n).root = s.root := rfl
@[simp] theorem State.fillRange_clk (s : State) (key n : Nat) : (s.fillRange key n).clk = s.clk := rfl

@[simp] theorem State.zeroRange_strands (s : State) (key n : Nat) : (s.zeroRange key n).strands = s.strands := rfl
@[simp] theorem State.zeroRange_flights (s : State) (key n : Nat) : (s.zeroRange key n).flights = s.flights := rfl
@[simp] theorem State.zeroRange_cores (s : State) (key n : Nat) : (s.zeroRange key n).cores = s.cores := rfl
@[simp] theorem State.zeroRange_clusters (s : State) (key n : Nat) : (s.zeroRange key n).clusters = s.clusters := rfl
@[simp] theorem State.zeroRange_circ (s : State) (key n : Nat) : (s.zeroRange key n).circ = s.circ := rfl
@[simp] theorem State.zeroRange_fab (s : State) (key n : Nat) : (s.zeroRange key n).fab = s.fab := rfl
@[simp] theorem State.zeroRange_net (s : State) (key n : Nat) : (s.zeroRange key n).net = s.net := rfl
@[simp] theorem State.zeroRange_chips (s : State) (key n : Nat) : (s.zeroRange key n).chips = s.chips := rfl
@[simp] theorem State.zeroRange_devTlb (s : State) (key n : Nat) : (s.zeroRange key n).devTlb = s.devTlb := rfl
@[simp] theorem State.zeroRange_devEpoch (s : State) (key n : Nat) : (s.zeroRange key n).devEpoch = s.devEpoch := rfl
@[simp] theorem State.zeroRange_tlbis (s : State) (key n : Nat) : (s.zeroRange key n).tlbis = s.tlbis := rfl
@[simp] theorem State.zeroRange_root (s : State) (key n : Nat) : (s.zeroRange key n).root = s.root := rfl
@[simp] theorem State.zeroRange_clk (s : State) (key n : Nat) : (s.zeroRange key n).clk = s.clk := rfl

@[simp] theorem State.setCore_mem (s : State) (k : Nat) (c : Core) : (s.setCore k c).mem = s.mem := rfl
@[simp] theorem State.setCore_empty (s : State) (k : Nat) (c : Core) : (s.setCore k c).empty = s.empty := rfl
@[simp] theorem State.setCore_strands (s : State) (k : Nat) (c : Core) : (s.setCore k c).strands = s.strands := rfl
@[simp] theorem State.setCore_flights (s : State) (k : Nat) (c : Core) : (s.setCore k c).flights = s.flights := rfl
@[simp] theorem State.setCore_clusters (s : State) (k : Nat) (c : Core) : (s.setCore k c).clusters = s.clusters := rfl
@[simp] theorem State.setCore_circ (s : State) (k : Nat) (c : Core) : (s.setCore k c).circ = s.circ := rfl
@[simp] theorem State.setCore_fab (s : State) (k : Nat) (c : Core) : (s.setCore k c).fab = s.fab := rfl
@[simp] theorem State.setCore_net (s : State) (k : Nat) (c : Core) : (s.setCore k c).net = s.net := rfl
@[simp] theorem State.setCore_chips (s : State) (k : Nat) (c : Core) : (s.setCore k c).chips = s.chips := rfl
@[simp] theorem State.setCore_devTlb (s : State) (k : Nat) (c : Core) : (s.setCore k c).devTlb = s.devTlb := rfl
@[simp] theorem State.setCore_devEpoch (s : State) (k : Nat) (c : Core) : (s.setCore k c).devEpoch = s.devEpoch := rfl
@[simp] theorem State.setCore_tlbis (s : State) (k : Nat) (c : Core) : (s.setCore k c).tlbis = s.tlbis := rfl
@[simp] theorem State.setCore_root (s : State) (k : Nat) (c : Core) : (s.setCore k c).root = s.root := rfl
@[simp] theorem State.setCore_clk (s : State) (k : Nat) (c : Core) : (s.setCore k c).clk = s.clk := rfl

@[simp] theorem State.setCluster_mem (s : State) (k : Nat) (c : Cluster) : (s.setCluster k c).mem = s.mem := rfl
@[simp] theorem State.setCluster_empty (s : State) (k : Nat) (c : Cluster) : (s.setCluster k c).empty = s.empty := rfl
@[simp] theorem State.setCluster_strands (s : State) (k : Nat) (c : Cluster) : (s.setCluster k c).strands = s.strands := rfl
@[simp] theorem State.setCluster_flights (s : State) (k : Nat) (c : Cluster) : (s.setCluster k c).flights = s.flights := rfl
@[simp] theorem State.setCluster_cores (s : State) (k : Nat) (c : Cluster) : (s.setCluster k c).cores = s.cores := rfl
@[simp] theorem State.setCluster_circ (s : State) (k : Nat) (c : Cluster) : (s.setCluster k c).circ = s.circ := rfl
@[simp] theorem State.setCluster_fab (s : State) (k : Nat) (c : Cluster) : (s.setCluster k c).fab = s.fab := rfl
@[simp] theorem State.setCluster_net (s : State) (k : Nat) (c : Cluster) : (s.setCluster k c).net = s.net := rfl
@[simp] theorem State.setCluster_chips (s : State) (k : Nat) (c : Cluster) : (s.setCluster k c).chips = s.chips := rfl
@[simp] theorem State.setCluster_devTlb (s : State) (k : Nat) (c : Cluster) : (s.setCluster k c).devTlb = s.devTlb := rfl
@[simp] theorem State.setCluster_devEpoch (s : State) (k : Nat) (c : Cluster) : (s.setCluster k c).devEpoch = s.devEpoch := rfl
@[simp] theorem State.setCluster_tlbis (s : State) (k : Nat) (c : Cluster) : (s.setCluster k c).tlbis = s.tlbis := rfl
@[simp] theorem State.setCluster_root (s : State) (k : Nat) (c : Cluster) : (s.setCluster k c).root = s.root := rfl
@[simp] theorem State.setCluster_clk (s : State) (k : Nat) (c : Cluster) : (s.setCluster k c).clk = s.clk := rfl

@[simp] theorem State.setStrand_mem (s : State) (core slot : Nat) (t : Strand) : (s.setStrand core slot t).mem = s.mem := rfl
@[simp] theorem State.setStrand_empty (s : State) (core slot : Nat) (t : Strand) : (s.setStrand core slot t).empty = s.empty := rfl
@[simp] theorem State.setStrand_flights (s : State) (core slot : Nat) (t : Strand) : (s.setStrand core slot t).flights = s.flights := rfl
@[simp] theorem State.setStrand_cores (s : State) (core slot : Nat) (t : Strand) : (s.setStrand core slot t).cores = s.cores := rfl
@[simp] theorem State.setStrand_clusters (s : State) (core slot : Nat) (t : Strand) : (s.setStrand core slot t).clusters = s.clusters := rfl
@[simp] theorem State.setStrand_circ (s : State) (core slot : Nat) (t : Strand) : (s.setStrand core slot t).circ = s.circ := rfl
@[simp] theorem State.setStrand_fab (s : State) (core slot : Nat) (t : Strand) : (s.setStrand core slot t).fab = s.fab := rfl
@[simp] theorem State.setStrand_net (s : State) (core slot : Nat) (t : Strand) : (s.setStrand core slot t).net = s.net := rfl
@[simp] theorem State.setStrand_chips (s : State) (core slot : Nat) (t : Strand) : (s.setStrand core slot t).chips = s.chips := rfl
@[simp] theorem State.setStrand_devTlb (s : State) (core slot : Nat) (t : Strand) : (s.setStrand core slot t).devTlb = s.devTlb := rfl
@[simp] theorem State.setStrand_devEpoch (s : State) (core slot : Nat) (t : Strand) : (s.setStrand core slot t).devEpoch = s.devEpoch := rfl
@[simp] theorem State.setStrand_tlbis (s : State) (core slot : Nat) (t : Strand) : (s.setStrand core slot t).tlbis = s.tlbis := rfl
@[simp] theorem State.setStrand_root (s : State) (core slot : Nat) (t : Strand) : (s.setStrand core slot t).root = s.root := rfl
@[simp] theorem State.setStrand_clk (s : State) (core slot : Nat) (t : Strand) : (s.setStrand core slot t).clk = s.clk := rfl

@[simp] theorem State.dropStrand_mem (s : State) (core slot : Nat) : (s.dropStrand core slot).mem = s.mem := rfl
@[simp] theorem State.dropStrand_empty (s : State) (core slot : Nat) : (s.dropStrand core slot).empty = s.empty := rfl
@[simp] theorem State.dropStrand_flights (s : State) (core slot : Nat) : (s.dropStrand core slot).flights = s.flights := rfl
@[simp] theorem State.dropStrand_cores (s : State) (core slot : Nat) : (s.dropStrand core slot).cores = s.cores := rfl
@[simp] theorem State.dropStrand_clusters (s : State) (core slot : Nat) : (s.dropStrand core slot).clusters = s.clusters := rfl
@[simp] theorem State.dropStrand_circ (s : State) (core slot : Nat) : (s.dropStrand core slot).circ = s.circ := rfl
@[simp] theorem State.dropStrand_fab (s : State) (core slot : Nat) : (s.dropStrand core slot).fab = s.fab := rfl
@[simp] theorem State.dropStrand_net (s : State) (core slot : Nat) : (s.dropStrand core slot).net = s.net := rfl
@[simp] theorem State.dropStrand_chips (s : State) (core slot : Nat) : (s.dropStrand core slot).chips = s.chips := rfl
@[simp] theorem State.dropStrand_devTlb (s : State) (core slot : Nat) : (s.dropStrand core slot).devTlb = s.devTlb := rfl
@[simp] theorem State.dropStrand_devEpoch (s : State) (core slot : Nat) : (s.dropStrand core slot).devEpoch = s.devEpoch := rfl
@[simp] theorem State.dropStrand_tlbis (s : State) (core slot : Nat) : (s.dropStrand core slot).tlbis = s.tlbis := rfl
@[simp] theorem State.dropStrand_root (s : State) (core slot : Nat) : (s.dropStrand core slot).root = s.root := rfl
@[simp] theorem State.dropStrand_clk (s : State) (core slot : Nat) : (s.dropStrand core slot).clk = s.clk := rfl

@[simp] theorem State.setVolume_mem (s : State) (v : Volume) : (s.setVolume v).mem = s.mem := rfl
@[simp] theorem State.setVolume_empty (s : State) (v : Volume) : (s.setVolume v).empty = s.empty := rfl
@[simp] theorem State.setVolume_strands (s : State) (v : Volume) : (s.setVolume v).strands = s.strands := rfl
@[simp] theorem State.setVolume_flights (s : State) (v : Volume) : (s.setVolume v).flights = s.flights := rfl
@[simp] theorem State.setVolume_cores (s : State) (v : Volume) : (s.setVolume v).cores = s.cores := rfl
@[simp] theorem State.setVolume_clusters (s : State) (v : Volume) : (s.setVolume v).clusters = s.clusters := rfl
@[simp] theorem State.setVolume_fab (s : State) (v : Volume) : (s.setVolume v).fab = s.fab := rfl
@[simp] theorem State.setVolume_net (s : State) (v : Volume) : (s.setVolume v).net = s.net := rfl
@[simp] theorem State.setVolume_chips (s : State) (v : Volume) : (s.setVolume v).chips = s.chips := rfl
@[simp] theorem State.setVolume_devTlb (s : State) (v : Volume) : (s.setVolume v).devTlb = s.devTlb := rfl
@[simp] theorem State.setVolume_devEpoch (s : State) (v : Volume) : (s.setVolume v).devEpoch = s.devEpoch := rfl
@[simp] theorem State.setVolume_tlbis (s : State) (v : Volume) : (s.setVolume v).tlbis = s.tlbis := rfl
@[simp] theorem State.setVolume_root (s : State) (v : Volume) : (s.setVolume v).root = s.root := rfl
@[simp] theorem State.setVolume_clk (s : State) (v : Volume) : (s.setVolume v).clk = s.clk := rfl

@[simp] theorem State.setGathering_mem (s : State) (g : Gathering) : (s.setGathering g).mem = s.mem := rfl
@[simp] theorem State.setGathering_empty (s : State) (g : Gathering) : (s.setGathering g).empty = s.empty := rfl
@[simp] theorem State.setGathering_strands (s : State) (g : Gathering) : (s.setGathering g).strands = s.strands := rfl
@[simp] theorem State.setGathering_flights (s : State) (g : Gathering) : (s.setGathering g).flights = s.flights := rfl
@[simp] theorem State.setGathering_cores (s : State) (g : Gathering) : (s.setGathering g).cores = s.cores := rfl
@[simp] theorem State.setGathering_clusters (s : State) (g : Gathering) : (s.setGathering g).clusters = s.clusters := rfl
@[simp] theorem State.setGathering_fab (s : State) (g : Gathering) : (s.setGathering g).fab = s.fab := rfl
@[simp] theorem State.setGathering_net (s : State) (g : Gathering) : (s.setGathering g).net = s.net := rfl
@[simp] theorem State.setGathering_chips (s : State) (g : Gathering) : (s.setGathering g).chips = s.chips := rfl
@[simp] theorem State.setGathering_devTlb (s : State) (g : Gathering) : (s.setGathering g).devTlb = s.devTlb := rfl
@[simp] theorem State.setGathering_devEpoch (s : State) (g : Gathering) : (s.setGathering g).devEpoch = s.devEpoch := rfl
@[simp] theorem State.setGathering_tlbis (s : State) (g : Gathering) : (s.setGathering g).tlbis = s.tlbis := rfl
@[simp] theorem State.setGathering_root (s : State) (g : Gathering) : (s.setGathering g).root = s.root := rfl
@[simp] theorem State.setGathering_clk (s : State) (g : Gathering) : (s.setGathering g).clk = s.clk := rfl

@[simp] theorem State.setSpace_mem (s : State) (p : Space) : (s.setSpace p).mem = s.mem := rfl
@[simp] theorem State.setSpace_empty (s : State) (p : Space) : (s.setSpace p).empty = s.empty := rfl
@[simp] theorem State.setSpace_strands (s : State) (p : Space) : (s.setSpace p).strands = s.strands := rfl
@[simp] theorem State.setSpace_flights (s : State) (p : Space) : (s.setSpace p).flights = s.flights := rfl
@[simp] theorem State.setSpace_cores (s : State) (p : Space) : (s.setSpace p).cores = s.cores := rfl
@[simp] theorem State.setSpace_clusters (s : State) (p : Space) : (s.setSpace p).clusters = s.clusters := rfl
@[simp] theorem State.setSpace_fab (s : State) (p : Space) : (s.setSpace p).fab = s.fab := rfl
@[simp] theorem State.setSpace_net (s : State) (p : Space) : (s.setSpace p).net = s.net := rfl
@[simp] theorem State.setSpace_chips (s : State) (p : Space) : (s.setSpace p).chips = s.chips := rfl
@[simp] theorem State.setSpace_devTlb (s : State) (p : Space) : (s.setSpace p).devTlb = s.devTlb := rfl
@[simp] theorem State.setSpace_devEpoch (s : State) (p : Space) : (s.setSpace p).devEpoch = s.devEpoch := rfl
@[simp] theorem State.setSpace_tlbis (s : State) (p : Space) : (s.setSpace p).tlbis = s.tlbis := rfl
@[simp] theorem State.setSpace_root (s : State) (p : Space) : (s.setSpace p).root = s.root := rfl
@[simp] theorem State.setSpace_clk (s : State) (p : Space) : (s.setSpace p).clk = s.clk := rfl

@[simp] theorem State.push_mem (s : State) (i : Instr) : (s.push i).mem = s.mem := rfl
@[simp] theorem State.push_empty (s : State) (i : Instr) : (s.push i).empty = s.empty := rfl
@[simp] theorem State.push_strands (s : State) (i : Instr) : (s.push i).strands = s.strands := rfl
@[simp] theorem State.push_flights (s : State) (i : Instr) : (s.push i).flights = s.flights := rfl
@[simp] theorem State.push_cores (s : State) (i : Instr) : (s.push i).cores = s.cores := rfl
@[simp] theorem State.push_clusters (s : State) (i : Instr) : (s.push i).clusters = s.clusters := rfl
@[simp] theorem State.push_circ (s : State) (i : Instr) : (s.push i).circ = s.circ := rfl
@[simp] theorem State.push_fab (s : State) (i : Instr) : (s.push i).fab = s.fab := rfl
@[simp] theorem State.push_net (s : State) (i : Instr) : (s.push i).net = s.net := rfl
@[simp] theorem State.push_chips (s : State) (i : Instr) : (s.push i).chips = s.chips := rfl
@[simp] theorem State.push_devTlb (s : State) (i : Instr) : (s.push i).devTlb = s.devTlb := rfl
@[simp] theorem State.push_devEpoch (s : State) (i : Instr) : (s.push i).devEpoch = s.devEpoch := rfl
@[simp] theorem State.push_tlbis (s : State) (i : Instr) : (s.push i).tlbis = s.tlbis := rfl
@[simp] theorem State.push_root (s : State) (i : Instr) : (s.push i).root = s.root := rfl

@[simp] theorem State.setFlight_mem (s : State) (f : Flight) : (s.setFlight f).mem = s.mem := rfl
@[simp] theorem State.setFlight_empty (s : State) (f : Flight) : (s.setFlight f).empty = s.empty := rfl
@[simp] theorem State.setFlight_strands (s : State) (f : Flight) : (s.setFlight f).strands = s.strands := rfl
@[simp] theorem State.setFlight_cores (s : State) (f : Flight) : (s.setFlight f).cores = s.cores := rfl
@[simp] theorem State.setFlight_clusters (s : State) (f : Flight) : (s.setFlight f).clusters = s.clusters := rfl
@[simp] theorem State.setFlight_circ (s : State) (f : Flight) : (s.setFlight f).circ = s.circ := rfl
@[simp] theorem State.setFlight_fab (s : State) (f : Flight) : (s.setFlight f).fab = s.fab := rfl
@[simp] theorem State.setFlight_net (s : State) (f : Flight) : (s.setFlight f).net = s.net := rfl
@[simp] theorem State.setFlight_chips (s : State) (f : Flight) : (s.setFlight f).chips = s.chips := rfl
@[simp] theorem State.setFlight_devTlb (s : State) (f : Flight) : (s.setFlight f).devTlb = s.devTlb := rfl
@[simp] theorem State.setFlight_devEpoch (s : State) (f : Flight) : (s.setFlight f).devEpoch = s.devEpoch := rfl
@[simp] theorem State.setFlight_tlbis (s : State) (f : Flight) : (s.setFlight f).tlbis = s.tlbis := rfl
@[simp] theorem State.setFlight_root (s : State) (f : Flight) : (s.setFlight f).root = s.root := rfl
@[simp] theorem State.setFlight_clk (s : State) (f : Flight) : (s.setFlight f).clk = s.clk := rfl

@[simp] theorem State.dropFlight_mem (s : State) (id : Nat) : (s.dropFlight id).mem = s.mem := rfl
@[simp] theorem State.dropFlight_empty (s : State) (id : Nat) : (s.dropFlight id).empty = s.empty := rfl
@[simp] theorem State.dropFlight_strands (s : State) (id : Nat) : (s.dropFlight id).strands = s.strands := rfl
@[simp] theorem State.dropFlight_cores (s : State) (id : Nat) : (s.dropFlight id).cores = s.cores := rfl
@[simp] theorem State.dropFlight_clusters (s : State) (id : Nat) : (s.dropFlight id).clusters = s.clusters := rfl
@[simp] theorem State.dropFlight_circ (s : State) (id : Nat) : (s.dropFlight id).circ = s.circ := rfl
@[simp] theorem State.dropFlight_fab (s : State) (id : Nat) : (s.dropFlight id).fab = s.fab := rfl
@[simp] theorem State.dropFlight_net (s : State) (id : Nat) : (s.dropFlight id).net = s.net := rfl
@[simp] theorem State.dropFlight_chips (s : State) (id : Nat) : (s.dropFlight id).chips = s.chips := rfl
@[simp] theorem State.dropFlight_devTlb (s : State) (id : Nat) : (s.dropFlight id).devTlb = s.devTlb := rfl
@[simp] theorem State.dropFlight_devEpoch (s : State) (id : Nat) : (s.dropFlight id).devEpoch = s.devEpoch := rfl
@[simp] theorem State.dropFlight_tlbis (s : State) (id : Nat) : (s.dropFlight id).tlbis = s.tlbis := rfl
@[simp] theorem State.dropFlight_root (s : State) (id : Nat) : (s.dropFlight id).root = s.root := rfl
@[simp] theorem State.dropFlight_clk (s : State) (id : Nat) : (s.dropFlight id).clk = s.clk := rfl

@[simp] theorem State.sendHost_mem (s : State) (o : OutMsg) : (s.sendHost o).mem = s.mem := rfl
@[simp] theorem State.sendHost_empty (s : State) (o : OutMsg) : (s.sendHost o).empty = s.empty := rfl
@[simp] theorem State.sendHost_strands (s : State) (o : OutMsg) : (s.sendHost o).strands = s.strands := rfl
@[simp] theorem State.sendHost_flights (s : State) (o : OutMsg) : (s.sendHost o).flights = s.flights := rfl
@[simp] theorem State.sendHost_cores (s : State) (o : OutMsg) : (s.sendHost o).cores = s.cores := rfl
@[simp] theorem State.sendHost_clusters (s : State) (o : OutMsg) : (s.sendHost o).clusters = s.clusters := rfl
@[simp] theorem State.sendHost_circ (s : State) (o : OutMsg) : (s.sendHost o).circ = s.circ := rfl
@[simp] theorem State.sendHost_fab (s : State) (o : OutMsg) : (s.sendHost o).fab = s.fab := rfl
@[simp] theorem State.sendHost_chips (s : State) (o : OutMsg) : (s.sendHost o).chips = s.chips := rfl
@[simp] theorem State.sendHost_devTlb (s : State) (o : OutMsg) : (s.sendHost o).devTlb = s.devTlb := rfl
@[simp] theorem State.sendHost_devEpoch (s : State) (o : OutMsg) : (s.sendHost o).devEpoch = s.devEpoch := rfl
@[simp] theorem State.sendHost_tlbis (s : State) (o : OutMsg) : (s.sendHost o).tlbis = s.tlbis := rfl
@[simp] theorem State.sendHost_root (s : State) (o : OutMsg) : (s.sendHost o).root = s.root := rfl
@[simp] theorem State.sendHost_clk (s : State) (o : OutMsg) : (s.sendHost o).clk = s.clk := rfl

@[simp] theorem State.atTurn_mem (s : State) (core slot : Nat) : (s.atTurn core slot).mem = s.mem := rfl
@[simp] theorem State.atTurn_empty (s : State) (core slot : Nat) : (s.atTurn core slot).empty = s.empty := rfl
@[simp] theorem State.atTurn_strands (s : State) (core slot : Nat) : (s.atTurn core slot).strands = s.strands := rfl
@[simp] theorem State.atTurn_flights (s : State) (core slot : Nat) : (s.atTurn core slot).flights = s.flights := rfl
@[simp] theorem State.atTurn_cores (s : State) (core slot : Nat) : (s.atTurn core slot).cores = s.cores := rfl
@[simp] theorem State.atTurn_clusters (s : State) (core slot : Nat) : (s.atTurn core slot).clusters = s.clusters := rfl
@[simp] theorem State.atTurn_circ (s : State) (core slot : Nat) : (s.atTurn core slot).circ = s.circ := rfl
@[simp] theorem State.atTurn_fab (s : State) (core slot : Nat) : (s.atTurn core slot).fab = s.fab := rfl
@[simp] theorem State.atTurn_net (s : State) (core slot : Nat) : (s.atTurn core slot).net = s.net := rfl
@[simp] theorem State.atTurn_chips (s : State) (core slot : Nat) : (s.atTurn core slot).chips = s.chips := rfl
@[simp] theorem State.atTurn_devTlb (s : State) (core slot : Nat) : (s.atTurn core slot).devTlb = s.devTlb := rfl
@[simp] theorem State.atTurn_devEpoch (s : State) (core slot : Nat) : (s.atTurn core slot).devEpoch = s.devEpoch := rfl
@[simp] theorem State.atTurn_tlbis (s : State) (core slot : Nat) : (s.atTurn core slot).tlbis = s.tlbis := rfl
@[simp] theorem State.atTurn_root (s : State) (core slot : Nat) : (s.atTurn core slot).root = s.root := rfl

@[simp] theorem State.fresh_mem (s : State) : s.fresh.2.mem = s.mem := rfl
@[simp] theorem State.fresh_empty (s : State) : s.fresh.2.empty = s.empty := rfl
@[simp] theorem State.fresh_strands (s : State) : s.fresh.2.strands = s.strands := rfl
@[simp] theorem State.fresh_flights (s : State) : s.fresh.2.flights = s.flights := rfl
@[simp] theorem State.fresh_cores (s : State) : s.fresh.2.cores = s.cores := rfl
@[simp] theorem State.fresh_clusters (s : State) : s.fresh.2.clusters = s.clusters := rfl
@[simp] theorem State.fresh_circ (s : State) : s.fresh.2.circ = s.circ := rfl
@[simp] theorem State.fresh_fab (s : State) : s.fresh.2.fab = s.fab := rfl
@[simp] theorem State.fresh_net (s : State) : s.fresh.2.net = s.net := rfl
@[simp] theorem State.fresh_chips (s : State) : s.fresh.2.chips = s.chips := rfl
@[simp] theorem State.fresh_devTlb (s : State) : s.fresh.2.devTlb = s.devTlb := rfl
@[simp] theorem State.fresh_devEpoch (s : State) : s.fresh.2.devEpoch = s.devEpoch := rfl
@[simp] theorem State.fresh_tlbis (s : State) : s.fresh.2.tlbis = s.tlbis := rfl
@[simp] theorem State.fresh_root (s : State) : s.fresh.2.root = s.root := rfl

@[simp] theorem State.drawBool_mem (s : State) : s.drawBool.2.mem = s.mem := rfl
@[simp] theorem State.drawBool_empty (s : State) : s.drawBool.2.empty = s.empty := rfl
@[simp] theorem State.drawBool_strands (s : State) : s.drawBool.2.strands = s.strands := rfl
@[simp] theorem State.drawBool_flights (s : State) : s.drawBool.2.flights = s.flights := rfl
@[simp] theorem State.drawBool_cores (s : State) : s.drawBool.2.cores = s.cores := rfl
@[simp] theorem State.drawBool_clusters (s : State) : s.drawBool.2.clusters = s.clusters := rfl
@[simp] theorem State.drawBool_circ (s : State) : s.drawBool.2.circ = s.circ := rfl
@[simp] theorem State.drawBool_fab (s : State) : s.drawBool.2.fab = s.fab := rfl
@[simp] theorem State.drawBool_net (s : State) : s.drawBool.2.net = s.net := rfl
@[simp] theorem State.drawBool_chips (s : State) : s.drawBool.2.chips = s.chips := rfl
@[simp] theorem State.drawBool_devTlb (s : State) : s.drawBool.2.devTlb = s.devTlb := rfl
@[simp] theorem State.drawBool_devEpoch (s : State) : s.drawBool.2.devEpoch = s.devEpoch := rfl
@[simp] theorem State.drawBool_tlbis (s : State) : s.drawBool.2.tlbis = s.tlbis := rfl
@[simp] theorem State.drawBool_root (s : State) : s.drawBool.2.root = s.root := rfl

@[simp] theorem State.drawWord_mem (s : State) : s.drawWord.2.mem = s.mem := rfl
@[simp] theorem State.drawWord_empty (s : State) : s.drawWord.2.empty = s.empty := rfl
@[simp] theorem State.drawWord_strands (s : State) : s.drawWord.2.strands = s.strands := rfl
@[simp] theorem State.drawWord_flights (s : State) : s.drawWord.2.flights = s.flights := rfl
@[simp] theorem State.drawWord_cores (s : State) : s.drawWord.2.cores = s.cores := rfl
@[simp] theorem State.drawWord_clusters (s : State) : s.drawWord.2.clusters = s.clusters := rfl
@[simp] theorem State.drawWord_circ (s : State) : s.drawWord.2.circ = s.circ := rfl
@[simp] theorem State.drawWord_fab (s : State) : s.drawWord.2.fab = s.fab := rfl
@[simp] theorem State.drawWord_net (s : State) : s.drawWord.2.net = s.net := rfl
@[simp] theorem State.drawWord_chips (s : State) : s.drawWord.2.chips = s.chips := rfl
@[simp] theorem State.drawWord_devTlb (s : State) : s.drawWord.2.devTlb = s.devTlb := rfl
@[simp] theorem State.drawWord_devEpoch (s : State) : s.drawWord.2.devEpoch = s.devEpoch := rfl
@[simp] theorem State.drawWord_tlbis (s : State) : s.drawWord.2.tlbis = s.tlbis := rfl
@[simp] theorem State.drawWord_root (s : State) : s.drawWord.2.root = s.root := rfl

@[simp] theorem State.pushNew_mem (s : State) (i : Instr) : (s.pushNew i).mem = s.mem := by unfold State.pushNew; split <;> rfl
@[simp] theorem State.pushNew_empty (s : State) (i : Instr) : (s.pushNew i).empty = s.empty := by unfold State.pushNew; split <;> rfl
@[simp] theorem State.pushNew_strands (s : State) (i : Instr) : (s.pushNew i).strands = s.strands := by unfold State.pushNew; split <;> rfl
@[simp] theorem State.pushNew_flights (s : State) (i : Instr) : (s.pushNew i).flights = s.flights := by unfold State.pushNew; split <;> rfl
@[simp] theorem State.pushNew_cores (s : State) (i : Instr) : (s.pushNew i).cores = s.cores := by unfold State.pushNew; split <;> rfl
@[simp] theorem State.pushNew_clusters (s : State) (i : Instr) : (s.pushNew i).clusters = s.clusters := by unfold State.pushNew; split <;> rfl
@[simp] theorem State.pushNew_circ (s : State) (i : Instr) : (s.pushNew i).circ = s.circ := by unfold State.pushNew; split <;> rfl
@[simp] theorem State.pushNew_fab (s : State) (i : Instr) : (s.pushNew i).fab = s.fab := by unfold State.pushNew; split <;> rfl
@[simp] theorem State.pushNew_net (s : State) (i : Instr) : (s.pushNew i).net = s.net := by unfold State.pushNew; split <;> rfl
@[simp] theorem State.pushNew_chips (s : State) (i : Instr) : (s.pushNew i).chips = s.chips := by unfold State.pushNew; split <;> rfl
@[simp] theorem State.pushNew_devTlb (s : State) (i : Instr) : (s.pushNew i).devTlb = s.devTlb := by unfold State.pushNew; split <;> rfl
@[simp] theorem State.pushNew_devEpoch (s : State) (i : Instr) : (s.pushNew i).devEpoch = s.devEpoch := by unfold State.pushNew; split <;> rfl
@[simp] theorem State.pushNew_tlbis (s : State) (i : Instr) : (s.pushNew i).tlbis = s.tlbis := by unfold State.pushNew; split <;> rfl
@[simp] theorem State.pushNew_root (s : State) (i : Instr) : (s.pushNew i).root = s.root := by unfold State.pushNew; split <;> rfl

@[simp] theorem State.mapUid_mem (s : State) (uid : Nat) (f : Strand → Strand) : (s.mapUid uid f).mem = s.mem := rfl
@[simp] theorem State.mapUid_empty (s : State) (uid : Nat) (f : Strand → Strand) : (s.mapUid uid f).empty = s.empty := rfl
@[simp] theorem State.mapUid_flights (s : State) (uid : Nat) (f : Strand → Strand) : (s.mapUid uid f).flights = s.flights := rfl
@[simp] theorem State.mapUid_cores (s : State) (uid : Nat) (f : Strand → Strand) : (s.mapUid uid f).cores = s.cores := rfl
@[simp] theorem State.mapUid_clusters (s : State) (uid : Nat) (f : Strand → Strand) : (s.mapUid uid f).clusters = s.clusters := rfl
@[simp] theorem State.mapUid_circ (s : State) (uid : Nat) (f : Strand → Strand) : (s.mapUid uid f).circ = s.circ := rfl
@[simp] theorem State.mapUid_fab (s : State) (uid : Nat) (f : Strand → Strand) : (s.mapUid uid f).fab = s.fab := rfl
@[simp] theorem State.mapUid_net (s : State) (uid : Nat) (f : Strand → Strand) : (s.mapUid uid f).net = s.net := rfl
@[simp] theorem State.mapUid_chips (s : State) (uid : Nat) (f : Strand → Strand) : (s.mapUid uid f).chips = s.chips := rfl
@[simp] theorem State.mapUid_devTlb (s : State) (uid : Nat) (f : Strand → Strand) : (s.mapUid uid f).devTlb = s.devTlb := rfl
@[simp] theorem State.mapUid_devEpoch (s : State) (uid : Nat) (f : Strand → Strand) : (s.mapUid uid f).devEpoch = s.devEpoch := rfl
@[simp] theorem State.mapUid_tlbis (s : State) (uid : Nat) (f : Strand → Strand) : (s.mapUid uid f).tlbis = s.tlbis := rfl
@[simp] theorem State.mapUid_root (s : State) (uid : Nat) (f : Strand → Strand) : (s.mapUid uid f).root = s.root := rfl
@[simp] theorem State.mapUid_clk (s : State) (uid : Nat) (f : Strand → Strand) : (s.mapUid uid f).clk = s.clk := rfl

@[simp] theorem State.sendMsg_mem (s : State) (core slot dst : Nat) (k : MsgKind) : (s.sendMsg core slot dst k).mem = s.mem := rfl
@[simp] theorem State.sendMsg_empty (s : State) (core slot dst : Nat) (k : MsgKind) : (s.sendMsg core slot dst k).empty = s.empty := rfl
@[simp] theorem State.sendMsg_strands (s : State) (core slot dst : Nat) (k : MsgKind) : (s.sendMsg core slot dst k).strands = s.strands := rfl
@[simp] theorem State.sendMsg_flights (s : State) (core slot dst : Nat) (k : MsgKind) : (s.sendMsg core slot dst k).flights = s.flights := rfl
@[simp] theorem State.sendMsg_cores (s : State) (core slot dst : Nat) (k : MsgKind) : (s.sendMsg core slot dst k).cores = s.cores := rfl
@[simp] theorem State.sendMsg_clusters (s : State) (core slot dst : Nat) (k : MsgKind) : (s.sendMsg core slot dst k).clusters = s.clusters := rfl
@[simp] theorem State.sendMsg_circ (s : State) (core slot dst : Nat) (k : MsgKind) : (s.sendMsg core slot dst k).circ = s.circ := rfl
@[simp] theorem State.sendMsg_net (s : State) (core slot dst : Nat) (k : MsgKind) : (s.sendMsg core slot dst k).net = s.net := rfl
@[simp] theorem State.sendMsg_chips (s : State) (core slot dst : Nat) (k : MsgKind) : (s.sendMsg core slot dst k).chips = s.chips := rfl
@[simp] theorem State.sendMsg_devTlb (s : State) (core slot dst : Nat) (k : MsgKind) : (s.sendMsg core slot dst k).devTlb = s.devTlb := rfl
@[simp] theorem State.sendMsg_devEpoch (s : State) (core slot dst : Nat) (k : MsgKind) : (s.sendMsg core slot dst k).devEpoch = s.devEpoch := rfl
@[simp] theorem State.sendMsg_tlbis (s : State) (core slot dst : Nat) (k : MsgKind) : (s.sendMsg core slot dst k).tlbis = s.tlbis := rfl
@[simp] theorem State.sendMsg_root (s : State) (core slot dst : Nat) (k : MsgKind) : (s.sendMsg core slot dst k).root = s.root := rfl

@[simp] theorem State.sendAt_mem (s : State) (due core slot dst : Nat) (k : MsgKind) : (s.sendAt due core slot dst k).mem = s.mem := rfl
@[simp] theorem State.sendAt_empty (s : State) (due core slot dst : Nat) (k : MsgKind) : (s.sendAt due core slot dst k).empty = s.empty := rfl
@[simp] theorem State.sendAt_strands (s : State) (due core slot dst : Nat) (k : MsgKind) : (s.sendAt due core slot dst k).strands = s.strands := rfl
@[simp] theorem State.sendAt_flights (s : State) (due core slot dst : Nat) (k : MsgKind) : (s.sendAt due core slot dst k).flights = s.flights := rfl
@[simp] theorem State.sendAt_cores (s : State) (due core slot dst : Nat) (k : MsgKind) : (s.sendAt due core slot dst k).cores = s.cores := rfl
@[simp] theorem State.sendAt_clusters (s : State) (due core slot dst : Nat) (k : MsgKind) : (s.sendAt due core slot dst k).clusters = s.clusters := rfl
@[simp] theorem State.sendAt_circ (s : State) (due core slot dst : Nat) (k : MsgKind) : (s.sendAt due core slot dst k).circ = s.circ := rfl
@[simp] theorem State.sendAt_net (s : State) (due core slot dst : Nat) (k : MsgKind) : (s.sendAt due core slot dst k).net = s.net := rfl
@[simp] theorem State.sendAt_chips (s : State) (due core slot dst : Nat) (k : MsgKind) : (s.sendAt due core slot dst k).chips = s.chips := rfl
@[simp] theorem State.sendAt_devTlb (s : State) (due core slot dst : Nat) (k : MsgKind) : (s.sendAt due core slot dst k).devTlb = s.devTlb := rfl
@[simp] theorem State.sendAt_devEpoch (s : State) (due core slot dst : Nat) (k : MsgKind) : (s.sendAt due core slot dst k).devEpoch = s.devEpoch := rfl
@[simp] theorem State.sendAt_tlbis (s : State) (due core slot dst : Nat) (k : MsgKind) : (s.sendAt due core slot dst k).tlbis = s.tlbis := rfl
@[simp] theorem State.sendAt_root (s : State) (due core slot dst : Nat) (k : MsgKind) : (s.sendAt due core slot dst k).root = s.root := rfl

@[simp] theorem State.supMsg_mem (s : State) (dst : Option Nat) (core src tag payload : Nat) : (s.supMsg dst core src tag payload).mem = s.mem := rfl
@[simp] theorem State.supMsg_empty (s : State) (dst : Option Nat) (core src tag payload : Nat) : (s.supMsg dst core src tag payload).empty = s.empty := rfl
@[simp] theorem State.supMsg_strands (s : State) (dst : Option Nat) (core src tag payload : Nat) : (s.supMsg dst core src tag payload).strands = s.strands := rfl
@[simp] theorem State.supMsg_flights (s : State) (dst : Option Nat) (core src tag payload : Nat) : (s.supMsg dst core src tag payload).flights = s.flights := rfl
@[simp] theorem State.supMsg_cores (s : State) (dst : Option Nat) (core src tag payload : Nat) : (s.supMsg dst core src tag payload).cores = s.cores := rfl
@[simp] theorem State.supMsg_clusters (s : State) (dst : Option Nat) (core src tag payload : Nat) : (s.supMsg dst core src tag payload).clusters = s.clusters := rfl
@[simp] theorem State.supMsg_circ (s : State) (dst : Option Nat) (core src tag payload : Nat) : (s.supMsg dst core src tag payload).circ = s.circ := rfl
@[simp] theorem State.supMsg_net (s : State) (dst : Option Nat) (core src tag payload : Nat) : (s.supMsg dst core src tag payload).net = s.net := rfl
@[simp] theorem State.supMsg_chips (s : State) (dst : Option Nat) (core src tag payload : Nat) : (s.supMsg dst core src tag payload).chips = s.chips := rfl
@[simp] theorem State.supMsg_devTlb (s : State) (dst : Option Nat) (core src tag payload : Nat) : (s.supMsg dst core src tag payload).devTlb = s.devTlb := rfl
@[simp] theorem State.supMsg_devEpoch (s : State) (dst : Option Nat) (core src tag payload : Nat) : (s.supMsg dst core src tag payload).devEpoch = s.devEpoch := rfl
@[simp] theorem State.supMsg_tlbis (s : State) (dst : Option Nat) (core src tag payload : Nat) : (s.supMsg dst core src tag payload).tlbis = s.tlbis := rfl
@[simp] theorem State.supMsg_root (s : State) (dst : Option Nat) (core src tag payload : Nat) : (s.supMsg dst core src tag payload).root = s.root := rfl

@[simp] theorem State.cacheFill_mem (s : State) (k : Nat) (l : Loc) (n : Nat) : (s.cacheFill k l n).mem = s.mem := rfl
@[simp] theorem State.cacheFill_empty (s : State) (k : Nat) (l : Loc) (n : Nat) : (s.cacheFill k l n).empty = s.empty := rfl
@[simp] theorem State.cacheFill_strands (s : State) (k : Nat) (l : Loc) (n : Nat) : (s.cacheFill k l n).strands = s.strands := rfl
@[simp] theorem State.cacheFill_flights (s : State) (k : Nat) (l : Loc) (n : Nat) : (s.cacheFill k l n).flights = s.flights := rfl
@[simp] theorem State.cacheFill_cores (s : State) (k : Nat) (l : Loc) (n : Nat) : (s.cacheFill k l n).cores = s.cores := rfl
@[simp] theorem State.cacheFill_circ (s : State) (k : Nat) (l : Loc) (n : Nat) : (s.cacheFill k l n).circ = s.circ := rfl
@[simp] theorem State.cacheFill_fab (s : State) (k : Nat) (l : Loc) (n : Nat) : (s.cacheFill k l n).fab = s.fab := rfl
@[simp] theorem State.cacheFill_net (s : State) (k : Nat) (l : Loc) (n : Nat) : (s.cacheFill k l n).net = s.net := rfl
@[simp] theorem State.cacheFill_chips (s : State) (k : Nat) (l : Loc) (n : Nat) : (s.cacheFill k l n).chips = s.chips := rfl
@[simp] theorem State.cacheFill_devTlb (s : State) (k : Nat) (l : Loc) (n : Nat) : (s.cacheFill k l n).devTlb = s.devTlb := rfl
@[simp] theorem State.cacheFill_devEpoch (s : State) (k : Nat) (l : Loc) (n : Nat) : (s.cacheFill k l n).devEpoch = s.devEpoch := rfl
@[simp] theorem State.cacheFill_tlbis (s : State) (k : Nat) (l : Loc) (n : Nat) : (s.cacheFill k l n).tlbis = s.tlbis := rfl
@[simp] theorem State.cacheFill_root (s : State) (k : Nat) (l : Loc) (n : Nat) : (s.cacheFill k l n).root = s.root := rfl
@[simp] theorem State.cacheFill_clk (s : State) (k : Nat) (l : Loc) (n : Nat) : (s.cacheFill k l n).clk = s.clk := rfl

@[simp] theorem State.devFill_mem (s : State) (l : Loc) (n : Nat) : (s.devFill l n).mem = s.mem := rfl
@[simp] theorem State.devFill_empty (s : State) (l : Loc) (n : Nat) : (s.devFill l n).empty = s.empty := rfl
@[simp] theorem State.devFill_strands (s : State) (l : Loc) (n : Nat) : (s.devFill l n).strands = s.strands := rfl
@[simp] theorem State.devFill_flights (s : State) (l : Loc) (n : Nat) : (s.devFill l n).flights = s.flights := rfl
@[simp] theorem State.devFill_cores (s : State) (l : Loc) (n : Nat) : (s.devFill l n).cores = s.cores := rfl
@[simp] theorem State.devFill_clusters (s : State) (l : Loc) (n : Nat) : (s.devFill l n).clusters = s.clusters := rfl
@[simp] theorem State.devFill_circ (s : State) (l : Loc) (n : Nat) : (s.devFill l n).circ = s.circ := rfl
@[simp] theorem State.devFill_fab (s : State) (l : Loc) (n : Nat) : (s.devFill l n).fab = s.fab := rfl
@[simp] theorem State.devFill_net (s : State) (l : Loc) (n : Nat) : (s.devFill l n).net = s.net := rfl
@[simp] theorem State.devFill_chips (s : State) (l : Loc) (n : Nat) : (s.devFill l n).chips = s.chips := rfl
@[simp] theorem State.devFill_devEpoch (s : State) (l : Loc) (n : Nat) : (s.devFill l n).devEpoch = s.devEpoch := rfl
@[simp] theorem State.devFill_tlbis (s : State) (l : Loc) (n : Nat) : (s.devFill l n).tlbis = s.tlbis := rfl
@[simp] theorem State.devFill_root (s : State) (l : Loc) (n : Nat) : (s.devFill l n).root = s.root := rfl
@[simp] theorem State.devFill_clk (s : State) (l : Loc) (n : Nat) : (s.devFill l n).clk = s.clk := rfl

@[simp] theorem State.putSel_mem (s : State) (k : Nat) (o : SelOp) : (s.putSel k o).mem = s.mem := rfl
@[simp] theorem State.putSel_empty (s : State) (k : Nat) (o : SelOp) : (s.putSel k o).empty = s.empty := rfl
@[simp] theorem State.putSel_strands (s : State) (k : Nat) (o : SelOp) : (s.putSel k o).strands = s.strands := rfl
@[simp] theorem State.putSel_flights (s : State) (k : Nat) (o : SelOp) : (s.putSel k o).flights = s.flights := rfl
@[simp] theorem State.putSel_cores (s : State) (k : Nat) (o : SelOp) : (s.putSel k o).cores = s.cores := rfl
@[simp] theorem State.putSel_circ (s : State) (k : Nat) (o : SelOp) : (s.putSel k o).circ = s.circ := rfl
@[simp] theorem State.putSel_fab (s : State) (k : Nat) (o : SelOp) : (s.putSel k o).fab = s.fab := rfl
@[simp] theorem State.putSel_net (s : State) (k : Nat) (o : SelOp) : (s.putSel k o).net = s.net := rfl
@[simp] theorem State.putSel_chips (s : State) (k : Nat) (o : SelOp) : (s.putSel k o).chips = s.chips := rfl
@[simp] theorem State.putSel_devTlb (s : State) (k : Nat) (o : SelOp) : (s.putSel k o).devTlb = s.devTlb := rfl
@[simp] theorem State.putSel_devEpoch (s : State) (k : Nat) (o : SelOp) : (s.putSel k o).devEpoch = s.devEpoch := rfl
@[simp] theorem State.putSel_tlbis (s : State) (k : Nat) (o : SelOp) : (s.putSel k o).tlbis = s.tlbis := rfl
@[simp] theorem State.putSel_root (s : State) (k : Nat) (o : SelOp) : (s.putSel k o).root = s.root := rfl
@[simp] theorem State.putSel_clk (s : State) (k : Nat) (o : SelOp) : (s.putSel k o).clk = s.clk := rfl

@[simp] theorem State.putBag_mem (s : State) (k : Nat) (o : BagOp) : (s.putBag k o).mem = s.mem := rfl
@[simp] theorem State.putBag_empty (s : State) (k : Nat) (o : BagOp) : (s.putBag k o).empty = s.empty := rfl
@[simp] theorem State.putBag_strands (s : State) (k : Nat) (o : BagOp) : (s.putBag k o).strands = s.strands := rfl
@[simp] theorem State.putBag_flights (s : State) (k : Nat) (o : BagOp) : (s.putBag k o).flights = s.flights := rfl
@[simp] theorem State.putBag_cores (s : State) (k : Nat) (o : BagOp) : (s.putBag k o).cores = s.cores := rfl
@[simp] theorem State.putBag_circ (s : State) (k : Nat) (o : BagOp) : (s.putBag k o).circ = s.circ := rfl
@[simp] theorem State.putBag_fab (s : State) (k : Nat) (o : BagOp) : (s.putBag k o).fab = s.fab := rfl
@[simp] theorem State.putBag_net (s : State) (k : Nat) (o : BagOp) : (s.putBag k o).net = s.net := rfl
@[simp] theorem State.putBag_chips (s : State) (k : Nat) (o : BagOp) : (s.putBag k o).chips = s.chips := rfl
@[simp] theorem State.putBag_devTlb (s : State) (k : Nat) (o : BagOp) : (s.putBag k o).devTlb = s.devTlb := rfl
@[simp] theorem State.putBag_devEpoch (s : State) (k : Nat) (o : BagOp) : (s.putBag k o).devEpoch = s.devEpoch := rfl
@[simp] theorem State.putBag_tlbis (s : State) (k : Nat) (o : BagOp) : (s.putBag k o).tlbis = s.tlbis := rfl
@[simp] theorem State.putBag_root (s : State) (k : Nat) (o : BagOp) : (s.putBag k o).root = s.root := rfl
@[simp] theorem State.putBag_clk (s : State) (k : Nat) (o : BagOp) : (s.putBag k o).clk = s.clk := rfl

@[simp] theorem State.putWr_mem (s : State) (w : WorkReq) : (s.putWr w).mem = s.mem := rfl
@[simp] theorem State.putWr_empty (s : State) (w : WorkReq) : (s.putWr w).empty = s.empty := rfl
@[simp] theorem State.putWr_strands (s : State) (w : WorkReq) : (s.putWr w).strands = s.strands := rfl
@[simp] theorem State.putWr_flights (s : State) (w : WorkReq) : (s.putWr w).flights = s.flights := rfl
@[simp] theorem State.putWr_cores (s : State) (w : WorkReq) : (s.putWr w).cores = s.cores := rfl
@[simp] theorem State.putWr_clusters (s : State) (w : WorkReq) : (s.putWr w).clusters = s.clusters := rfl
@[simp] theorem State.putWr_circ (s : State) (w : WorkReq) : (s.putWr w).circ = s.circ := rfl
@[simp] theorem State.putWr_fab (s : State) (w : WorkReq) : (s.putWr w).fab = s.fab := rfl
@[simp] theorem State.putWr_chips (s : State) (w : WorkReq) : (s.putWr w).chips = s.chips := rfl
@[simp] theorem State.putWr_devTlb (s : State) (w : WorkReq) : (s.putWr w).devTlb = s.devTlb := rfl
@[simp] theorem State.putWr_devEpoch (s : State) (w : WorkReq) : (s.putWr w).devEpoch = s.devEpoch := rfl
@[simp] theorem State.putWr_tlbis (s : State) (w : WorkReq) : (s.putWr w).tlbis = s.tlbis := rfl
@[simp] theorem State.putWr_root (s : State) (w : WorkReq) : (s.putWr w).root = s.root := rfl
@[simp] theorem State.putWr_clk (s : State) (w : WorkReq) : (s.putWr w).clk = s.clk := rfl

@[simp] theorem State.sendOut_mem (s : State) (o : OutMsg) : (s.sendOut o).mem = s.mem := rfl
@[simp] theorem State.sendOut_empty (s : State) (o : OutMsg) : (s.sendOut o).empty = s.empty := rfl
@[simp] theorem State.sendOut_strands (s : State) (o : OutMsg) : (s.sendOut o).strands = s.strands := rfl
@[simp] theorem State.sendOut_flights (s : State) (o : OutMsg) : (s.sendOut o).flights = s.flights := rfl
@[simp] theorem State.sendOut_cores (s : State) (o : OutMsg) : (s.sendOut o).cores = s.cores := rfl
@[simp] theorem State.sendOut_clusters (s : State) (o : OutMsg) : (s.sendOut o).clusters = s.clusters := rfl
@[simp] theorem State.sendOut_circ (s : State) (o : OutMsg) : (s.sendOut o).circ = s.circ := rfl
@[simp] theorem State.sendOut_fab (s : State) (o : OutMsg) : (s.sendOut o).fab = s.fab := rfl
@[simp] theorem State.sendOut_chips (s : State) (o : OutMsg) : (s.sendOut o).chips = s.chips := rfl
@[simp] theorem State.sendOut_devTlb (s : State) (o : OutMsg) : (s.sendOut o).devTlb = s.devTlb := rfl
@[simp] theorem State.sendOut_devEpoch (s : State) (o : OutMsg) : (s.sendOut o).devEpoch = s.devEpoch := rfl
@[simp] theorem State.sendOut_tlbis (s : State) (o : OutMsg) : (s.sendOut o).tlbis = s.tlbis := rfl
@[simp] theorem State.sendOut_root (s : State) (o : OutMsg) : (s.sendOut o).root = s.root := rfl
@[simp] theorem State.sendOut_clk (s : State) (o : OutMsg) : (s.sendOut o).clk = s.clk := rfl

@[simp] theorem State.tookReq_mem (s : State) (k id : Nat) : (s.tookReq k id).mem = s.mem := rfl
@[simp] theorem State.tookReq_empty (s : State) (k id : Nat) : (s.tookReq k id).empty = s.empty := rfl
@[simp] theorem State.tookReq_strands (s : State) (k id : Nat) : (s.tookReq k id).strands = s.strands := rfl
@[simp] theorem State.tookReq_flights (s : State) (k id : Nat) : (s.tookReq k id).flights = s.flights := rfl
@[simp] theorem State.tookReq_cores (s : State) (k id : Nat) : (s.tookReq k id).cores = s.cores := rfl
@[simp] theorem State.tookReq_circ (s : State) (k id : Nat) : (s.tookReq k id).circ = s.circ := rfl
@[simp] theorem State.tookReq_fab (s : State) (k id : Nat) : (s.tookReq k id).fab = s.fab := rfl
@[simp] theorem State.tookReq_net (s : State) (k id : Nat) : (s.tookReq k id).net = s.net := rfl
@[simp] theorem State.tookReq_chips (s : State) (k id : Nat) : (s.tookReq k id).chips = s.chips := rfl
@[simp] theorem State.tookReq_devTlb (s : State) (k id : Nat) : (s.tookReq k id).devTlb = s.devTlb := rfl
@[simp] theorem State.tookReq_devEpoch (s : State) (k id : Nat) : (s.tookReq k id).devEpoch = s.devEpoch := rfl
@[simp] theorem State.tookReq_tlbis (s : State) (k id : Nat) : (s.tookReq k id).tlbis = s.tlbis := rfl
@[simp] theorem State.tookReq_root (s : State) (k id : Nat) : (s.tookReq k id).root = s.root := rfl
@[simp] theorem State.tookReq_clk (s : State) (k id : Nat) : (s.tookReq k id).clk = s.clk := rfl

@[simp] theorem State.tookNet_mem (s : State) (id : Nat) : (s.tookNet id).mem = s.mem := rfl
@[simp] theorem State.tookNet_empty (s : State) (id : Nat) : (s.tookNet id).empty = s.empty := rfl
@[simp] theorem State.tookNet_strands (s : State) (id : Nat) : (s.tookNet id).strands = s.strands := rfl
@[simp] theorem State.tookNet_flights (s : State) (id : Nat) : (s.tookNet id).flights = s.flights := rfl
@[simp] theorem State.tookNet_cores (s : State) (id : Nat) : (s.tookNet id).cores = s.cores := rfl
@[simp] theorem State.tookNet_clusters (s : State) (id : Nat) : (s.tookNet id).clusters = s.clusters := rfl
@[simp] theorem State.tookNet_circ (s : State) (id : Nat) : (s.tookNet id).circ = s.circ := rfl
@[simp] theorem State.tookNet_fab (s : State) (id : Nat) : (s.tookNet id).fab = s.fab := rfl
@[simp] theorem State.tookNet_chips (s : State) (id : Nat) : (s.tookNet id).chips = s.chips := rfl
@[simp] theorem State.tookNet_devTlb (s : State) (id : Nat) : (s.tookNet id).devTlb = s.devTlb := rfl
@[simp] theorem State.tookNet_devEpoch (s : State) (id : Nat) : (s.tookNet id).devEpoch = s.devEpoch := rfl
@[simp] theorem State.tookNet_tlbis (s : State) (id : Nat) : (s.tookNet id).tlbis = s.tlbis := rfl
@[simp] theorem State.tookNet_root (s : State) (id : Nat) : (s.tookNet id).root = s.root := rfl
@[simp] theorem State.tookNet_clk (s : State) (id : Nat) : (s.tookNet id).clk = s.clk := rfl

/-! ## Keyed lists: a read after a write -/

@[simp] theorem aget_aput_self {α β : Type} [DecidableEq α] (l : List (α × β)) (a : α) (b : β) : aget (aput l a b) a = some b := by
  induction l with
  | nil => simp [aput, aget]
  | cons e r ih => unfold aput; split <;> simp_all [aget]

theorem aget_aput_ne {α β : Type} [DecidableEq α] (l : List (α × β)) {a a' : α} (b : β) (h : a' ≠ a) : aget (aput l a b) a' = aget l a' := by
  induction l with
  | nil => simp [aput, aget, Ne.symm h]
  | cons e r ih =>
    unfold aput; split
    · rename_i hk; subst hk; simp [aget, Ne.symm h]
    · simp only [aget, ih]

/-- Adding a key and taking it away again leaves the rest. -/
@[simp] theorem adel_aput {α β : Type} [DecidableEq α] (l : List (α × β)) (a : α) (b : β) : adel (aput l a b) a = adel l a := by
  induction l with
  | nil => simp [aput, adel]
  | cons x r ih =>
    obtain ⟨k, v⟩ := x
    simp only [adel] at ih
    by_cases h : k = a
    · simp [aput, adel, h]
    · simp [aput, adel, h, ih]

/-- Taking a key away leaves what every other key names. -/
theorem aget_adel_ne {α β : Type} [DecidableEq α] (l : List (α × β)) {a a' : α} (h : a' ≠ a) : aget (adel l a) a' = aget l a' := by
  induction l with
  | nil => rfl
  | cons x r ih =>
    obtain ⟨k, v⟩ := x
    simp only [adel] at ih
    by_cases hk : k = a
    · subst hk
      simp [adel, aget, ih, Ne.symm h]
    · by_cases hk' : k = a'
      · subst hk'
        rw [show adel ((k, v) :: r) a = (k, v) :: adel r a by simp [adel, hk]]
        simp [aget]
      · simp [adel, aget, hk, hk', ih]

@[simp] theorem State.strand_setStrand (s : State) (core slot : Nat) (t : Strand) : (s.setStrand core slot t).strand core slot = some t := by
  simp [State.strand, State.setStrand]

theorem State.strand_setStrand_ne (s : State) {core slot core' slot' : Nat} (t : Strand) (h : (core', slot') ≠ (core, slot)) :
    (s.setStrand core slot t).strand core' slot' = s.strand core' slot' := aget_aput_ne _ _ h

@[simp] theorem State.core_setCore (s : State) (k : Nat) (c : Core) : (s.setCore k c).core k = c := by simp [State.core, State.setCore]

theorem State.core_setCore_ne (s : State) {k k' : Nat} (c : Core) (h : k' ≠ k) : (s.setCore k c).core k' = s.core k' := by
  simp [State.core, State.setCore, aget_aput_ne _ _ h]

@[simp] theorem State.cluster_setCluster (s : State) (k : Nat) (c : Cluster) : (s.setCluster k c).cluster k = c := by
  simp [State.cluster, State.setCluster]

theorem State.cluster_setCluster_ne (s : State) {k k' : Nat} (c : Cluster) (h : k' ≠ k) : (s.setCluster k c).cluster k' = s.cluster k' := by
  simp [State.cluster, State.setCluster, aget_aput_ne _ _ h]

/-! ## Registers of a strand -/

@[simp] theorem setAt_length {α : Type} (l : List α) (i : Nat) (v : α) : (setAt l i v).length = l.length := by
  induction l generalizing i with
  | nil => rfl
  | cons x r ih => cases i <;> simp [setAt, ih]

theorem setAt_getD_self {α : Type} (l : List α) (i : Nat) (v d : α) (h : i < l.length) : (setAt l i v).getD i d = v := by
  induction l generalizing i with
  | nil => simp at h
  | cons x r ih => cases i with
    | zero => simp [setAt]
    | succ i => simpa [setAt] using ih i (by simpa using h)

theorem setAt_getD_ne {α : Type} (l : List α) (i j : Nat) (v d : α) (h : j ≠ i) : (setAt l i v).getD j d = l.getD j d := by
  induction l generalizing i j with
  | nil => rfl
  | cons x r ih => cases i with
    | zero => cases j with
      | zero => exact absurd rfl h
      | succ j => simp [setAt]
    | succ i => cases j with
      | zero => simp [setAt]
      | succ j => simpa [setAt] using ih i j (by omega)

@[simp] theorem Strand.unpaired_pc (t : Strand) (gs : List Nat) : (t.unpaired gs).pc = t.pc := rfl
@[simp] theorem Strand.unpaired_run (t : Strand) (gs : List Nat) : (t.unpaired gs).run = t.run := rfl
@[simp] theorem Strand.unpaired_ops (t : Strand) (gs : List Nat) : (t.unpaired gs).ops = t.ops := rfl
@[simp] theorem Strand.unpaired_regs (t : Strand) (gs : List Nat) : (t.unpaired gs).regs = t.regs := rfl
@[simp] theorem Strand.unpaired_bad (t : Strand) (gs : List Nat) : (t.unpaired gs).bad = t.bad := rfl
@[simp] theorem Strand.unpaired_pred (t : Strand) (gs : List Nat) : (t.unpaired gs).pred = t.pred := rfl
@[simp] theorem Strand.unpaired_predBad (t : Strand) (gs : List Nat) : (t.unpaired gs).predBad = t.predBad := rfl
@[simp] theorem Strand.unpaired_sregBad (t : Strand) (gs : List Nat) : (t.unpaired gs).sregBad = t.sregBad := rfl
@[simp] theorem Strand.unpaired_sregs (t : Strand) (gs : List Nat) : (t.unpaired gs).sregs = t.sregs := rfl
@[simp] theorem Strand.unpaired_gran (t : Strand) (gs : List Nat) : (t.unpaired gs).gran = t.gran := rfl
@[simp] theorem Strand.unpaired_dups (t : Strand) (gs : List Nat) : (t.unpaired gs).dups = t.dups := rfl
@[simp] theorem Strand.unpaired_cnt (t : Strand) (gs : List Nat) : (t.unpaired gs).cnt = t.cnt := rfl
@[simp] theorem Strand.unpaired_fflg (t : Strand) (gs : List Nat) : (t.unpaired gs).fflg = t.fflg := rfl
@[simp] theorem Strand.unpaired_slip (t : Strand) (gs : List Nat) : (t.unpaired gs).slip = t.slip := rfl

end Sys2Proof.Machine
end

