-- ==== Sys2Proof/Laws/Frames.lean ====
section
/-! SUPPORT. What the shared operations over strands touch: each leaves every other field of the state as it was. -/

namespace Sys2Proof.Machine

open Sys2Proof

theorem State.pushNew_eq (s : State) (i : Instr) : ∃ k, s.pushNew i = { s with clk := k } := by
  unfold State.pushNew; split
  · exact ⟨s.clk, rfl⟩
  · exact ⟨_, rfl⟩

theorem State.wakeSpans_eq (s : State) (group : Nat) : ∃ k, s.wakeSpans group = { s with clk := k } := by
  unfold State.wakeSpans
  generalize (s.circ.spans.filter (·.group == group)).flatMap (·.parts) = ps
  induction ps generalizing s with
  | nil => exact ⟨s.clk, rfl⟩
  | cons p r ih =>
    simp only [List.foldl_cons]
    split
    · exact ih (s.push _)
    · exact ih s

theorem State.endCollation_eq (s : State) (t : Strand) : ∃ es k, s.endCollation t = { s with strands := es, clk := k } := by
  unfold State.endCollation; split
  · exact ⟨s.strands, s.clk, rfl⟩
  · obtain ⟨k, h⟩ := State.wakeSpans_eq _ t.group
    exact ⟨_, k, h⟩

theorem State.after_eq (s : State) (core slot : Nat) (t : Strand) : ∃ es k, s.after core slot t = { s with strands := es, clk := k } := by
  unfold State.after; split
  · exact ⟨_, s.clk, rfl⟩
  · split
    · exact ⟨_, s.clk, rfl⟩
    · obtain ⟨k, h⟩ := State.wakeSpans_eq _ t.group
      exact ⟨_, k, h⟩

@[simp] theorem State.after_none {s : State} {core slot : Nat} {t : Strand} (h : t.colEnd = none) :
    s.after core slot t = s.setStrand core slot { t with lead := none } := by
  unfold State.after; simp only [h]

theorem settleGran_eq (core : Nat) (s : State) (t : Strand) (g : Nat) :
    ∃ es k ds ns, settleGran core (s, t) g = ({ s with strands := es, clk := k }, { t with dups := ds, noDup := ns }) := by
  unfold settleGran
  split
  rename_i keep s1 h
  obtain ⟨k, rfl⟩ : ∃ k, s1 = { s with clk := k } := ⟨_, (congrArg Prod.snd h).symm⟩
  split
  · exact ⟨s.strands, k, _, _, rfl⟩
  · split
    · exact ⟨s.strands, k, t.dups, t.noDup, rfl⟩
    · split
      · exact ⟨s.strands, k, t.dups, _, rfl⟩
      · exact ⟨_, k, _, t.noDup, rfl⟩

/-- Settling the pairings of a window changes nothing but pairings, and draws free values (R106). -/
theorem State.settle_eq (s : State) (core : Nat) (t : Strand) (regs : List Nat) :
    ∃ es k ds ns, s.settle core t regs = ({ s with strands := es, clk := k }, { t with dups := ds, noDup := ns }) := by
  unfold State.settle
  generalize ((t.failing.filter regs.contains).map (· / 8)).eraseDups = gs
  induction gs generalizing s t with
  | nil => exact ⟨s.strands, s.clk, t.dups, t.noDup, rfl⟩
  | cons g r ih =>
    obtain ⟨es, k, ds, ns, h⟩ := settleGran_eq core s t g
    simp only [List.foldl_cons, h]
    exact ih { s with strands := es, clk := k } { t with dups := ds, noDup := ns }

/-- With no failing register among those named, nothing is settled. -/
theorem State.settle_sound {s : State} {core : Nat} {t : Strand} {regs : List Nat} (h : ∀ n ∈ t.failing, n ∉ regs) :
    s.settle core t regs = (s, t) := by
  have : t.failing.filter regs.contains = [] := by
    simp only [List.filter_eq_nil_iff, List.contains_eq_mem, decide_eq_true_eq]
    exact h
  simp [State.settle, this]

theorem State.pushWord_eq (s : State) (core slot : Nat) (q : QId) (v : Word) :
    ∃ c f k, s.pushWord core slot q v = { s with circ := c, fab := f, clk := k } := by
  unfold State.pushWord State.spend; split
  · exact ⟨s.circ, _, _, rfl⟩
  · exact ⟨_, _, _, rfl⟩

theorem landOp_eq (core slot : Nat) (s : State) (t : Strand) (o : Op) :
    ∃ c f k, (landOp core slot (s, t) o).1 = { s with circ := c, fab := f, clk := k } := by
  unfold landOp
  split
  all_goals first
    | exact ⟨s.circ, s.fab, s.clk, rfl⟩
    | exact State.pushWord_eq _ _ _ _ _

/-- Landing writes no memory and no unit: it sends held port words, and changes the strand (R73, R74). -/
theorem State.land_eq (s : State) (core slot : Nat) (t : Strand) :
    ∃ c f k, (s.land core slot t).1 = { s with circ := c, fab := f, clk := k } := by
  unfold State.land
  simp only
  generalize s.landing t.ops = os
  induction os generalizing s t with
  | nil => exact ⟨s.circ, s.fab, s.clk, rfl⟩
  | cons o r ih =>
    obtain ⟨c, f, k, h⟩ := landOp_eq core slot s t o
    obtain ⟨c', f', k', h'⟩ := ih (landOp core slot (s, t) o).1 (landOp core slot (s, t) o).2
    exact ⟨c', f', k', h'.trans (by rw [h])⟩

end Sys2Proof.Machine
end

