-- ==== Sys2Proof/Laws/Issue.lean ====
section
/-! SUPPORT. What the shared issue of an instruction word does. -/

namespace Sys2Proof.Machine

open Sys2Proof

/-- Where an instruction executes, issue answers what its body's end gives. -/
theorem issue_of_enters {f : Form} {s : State} {c : Ctx} (body : Ctx → Out) (h : enters f s = some c) :
    ∃ s0 t0 c0, (c0.core = c.core ∧ c0.slot = c.slot ∧ c0.t.pc = c.t.pc ∧ (f.pop = none → c0 = c)) ∧
      issue f s body = .next (finish s0 t0 c0 (body c)) := by
  have key : ∀ (c0 : Ctx) (landed : Bool) (s0 : State) (t0 : Strand), executesIn f c0 landed = some c →
      ∃ s1 t1 c1, (c1.core = c.core ∧ c1.slot = c.slot ∧ c1.t.pc = c.t.pc ∧ (f.pop = none → c1 = c)) ∧
        execute f s0 t0 c0 landed body = finish s1 t1 c1 (body c) := by
    intro c0 landed s0 t0 h
    unfold executesIn at h
    unfold execute
    split at h
    · cases h
    · rename_i hp
      split at h
      · cases h
      · rename_i hc
        have hp' : c0.s.predTrue f c0.t = true := by simpa using hp
        have hc' : (c0.settle f).checks f = none := by simpa using hc
        simp only [hp', hc', if_true]
        generalize (c0.settle f).repair f = c1 at h ⊢
        unfold operandsReady at h
        split at h
        · cases h
        · rename_i hr
          rw [if_neg hr]
          split at h
          · rename_i p hpush
            try rw [hpush]
            try simp only
            split at h
            · cases h
            · rename_i hq
              rw [if_neg hq]
              cases h
              exact ⟨_, _, _, ⟨rfl, rfl, rfl, fun _ => rfl⟩, rfl⟩
          · rename_i hpush
            try rw [hpush]
            try simp only
            split at h
            · rename_i hpop
              try rw [hpop]
              cases h
              exact ⟨_, _, _, ⟨rfl, rfl, rfl, fun _ => rfl⟩, rfl⟩
            · rename_i p hpop
              try rw [hpop]
              try simp only
              cases hq : c1.s.popPort c1.core c1.slot c1.t p with
              | none => rw [hq] at h; cases h
              | some r =>
                rw [hq] at h
                cases h
                refine ⟨_, _, _, ⟨?_, ?_, ?_, fun e => by cases e⟩, rfl⟩ <;>
                  (unfold Ctx.take; split <;> rfl)
  unfold enters at h
  unfold issue
  split at h
  · cases h
  · rename_i core slot hcur
    try rw [hcur]
    try simp only
    split at h
    · cases h
    · rename_i t ht
      try rw [ht]
      simp only [issueAt]
      split at h
      · rename_i hsw
        rw [if_pos hsw]
        split at h
        · cases h
        · rename_i hn
          simp only [Bool.or_eq_true, not_or, Bool.not_eq_true, Bool.not_eq_false', Option.isSome_eq_false_iff,
            Option.isNone_iff_eq_none] at hn
          obtain ⟨⟨h1, h2⟩, h3⟩ := hn
          rw [if_neg (by simp [h1])]
          simp only [h2, h3]
          obtain ⟨a, b, d, p, e⟩ := key _ _ s t h
          exact ⟨a, b, d, p, by rw [e]⟩
      · rename_i hsw
        rw [if_neg hsw]
        obtain ⟨a, b, d, p, e⟩ := key _ _ s t h
        exact ⟨a, b, d, p, by rw [e]⟩

/-- Where an instruction executes, its next state is that of its body's end. -/
theorem issue_next {f : Form} {s : State} {c : Ctx} {body : Ctx → Out} {out : State} (h : enters f s = some c)
    (hb : ∀ s0 t0 c0, finish s0 t0 c0 (body c) = out) : issue f s body = .next out := by
  obtain ⟨_, _, _, _, e⟩ := issue_of_enters body h
  rw [e, hb]

/-- An instruction that executes and falls through. -/
theorem issue_go {f : Form} {s : State} {c c' : Ctx} {body : Ctx → Out} (h : enters f s = some c) (hb : body c = .go c') :
    issue f s body = .next c'.done := by
  obtain ⟨_, _, _, _, e⟩ := issue_of_enters body h
  rw [e, hb]; rfl

/-- An instruction that executes and transfers control. -/
theorem issue_jump {f : Form} {s : State} {c c' : Ctx} {pc : Nat} {body : Ctx → Out} (h : enters f s = some c)
    (hb : body c = .jump c' pc) : issue f s body = .next (c'.gone pc) := by
  obtain ⟨_, _, _, _, e⟩ := issue_of_enters body h
  rw [e, hb]; rfl

/-- `wait` with rounds to wait. -/
theorem issue_rest {f : Form} {s : State} {c c' : Ctx} {n : Nat} {body : Ctx → Out} (h : enters f s = some c)
    (hb : body c = .rest c' n) : issue f s body = .next (c'.rested n) := by
  obtain ⟨_, _, _, _, e⟩ := issue_of_enters body h
  rw [e, hb]; rfl

/-- A blocking instruction that issues. -/
theorem issue_block {f : Form} {s : State} {c c' : Ctx} {id : Nat} {body : Ctx → Out} (h : enters f s = some c)
    (hb : body c = .block c' id) : issue f s body = .next (c'.blocked id) := by
  obtain ⟨_, _, _, _, e⟩ := issue_of_enters body h
  rw [e, hb]; rfl

/-- An instruction that faults at issue: the context is that before any pop. -/
theorem issue_fault {f : Form} {s : State} {c : Ctx} {e : FaultInfo} {body : Ctx → Out} (h : enters f s = some c)
    (hb : body c = .fault e) : ∃ c0 : Ctx, c0.core = c.core ∧ c0.slot = c.slot ∧ c0.t.pc = c.t.pc ∧ (f.pop = none → c0 = c) ∧
      issue f s body = .next (c0.s.faultAtIssue c0.core c0.slot c0.t e c0.word) := by
  obtain ⟨_, _, c0, ⟨h1, h2, h3, h4⟩, e⟩ := issue_of_enters body h
  exact ⟨c0, h1, h2, h3, h4, by rw [e, hb]; rfl⟩

/-- An instruction that faults at issue after effects that stay, unless a fault of an earlier access goes first. -/
theorem issue_faultAfter {f : Form} {s : State} {c c' : Ctx} {e : FaultInfo} {body : Ctx → Out} (h : enters f s = some c)
    (hb : body c = .faultAfter c' e) : ∃ c0 : Ctx, c0.core = c.core ∧ c0.slot = c.slot ∧ c0.t.pc = c.t.pc ∧ (f.pop = none → c0 = c) ∧
      issue f s body = .next (if c0.t.faulted.isSome then c0.s.faultAtIssue c0.core c0.slot c0.t e c0.word
        else c'.s.faultAtIssue c'.core c'.slot c'.t e c'.word) := by
  obtain ⟨_, _, c0, ⟨h1, h2, h3, h4⟩, e⟩ := issue_of_enters body h
  exact ⟨c0, h1, h2, h3, h4, by rw [e, hb]; rfl⟩

/-- An instruction that has set its strand's state itself. -/
theorem issue_left {f : Form} {s : State} {c : Ctx} {s' : State} {body : Ctx → Out} (h : enters f s = some c)
    (hb : body c = .left s') : issue f s body = .next s' := by
  obtain ⟨_, _, _, _, e⟩ := issue_of_enters body h
  rw [e, hb]; rfl

/-- Where an instruction that pops no word executes and parks, its strand parks at it; at a switch point, what is held has landed
(R73, R92). -/
theorem issue_park {f : Form} {s : State} {c : Ctx} {core slot : Nat} {t : Strand} {body : Ctx → Out} {p : Park}
    (hcur : s.clk.cur = some (core, slot)) (hs : s.strand core slot = some t) (hpop : f.pop = none)
    (h : enters f s = some c) (hb : body c = .park p) :
    issue f s body = .next ((s.landsAt f core slot t).1.setStrand core slot
      { (s.landsAt f core slot t).2 with run := .parked p, atSwitch := s.switches f t }) := by
  have key : ∀ (s0 : State) (t0 : Strand) (c0 : Ctx) (landed : Bool), c0.core = core → c0.slot = slot → executesIn f c0 landed = some c →
      execute f s0 t0 c0 landed body = c0.s.setStrand core slot { c0.t with run := .parked p, atSwitch := landed } := by
    intro s0 t0 c0 landed hk hl h
    unfold executesIn at h
    unfold execute
    split at h
    · cases h
    · rename_i hp
      split at h
      · cases h
      · rename_i hc
        have hp' : c0.s.predTrue f c0.t = true := by simpa using hp
        have hc' : (c0.settle f).checks f = none := by simpa using hc
        simp only [hp', hc', if_true]
        have hk' : ((c0.settle f).repair f).core = core := by dsimp only [Ctx.repair, Ctx.settle]; split <;> exact hk
        have hl' : ((c0.settle f).repair f).slot = slot := by dsimp only [Ctx.repair, Ctx.settle]; split <;> exact hl
        generalize (c0.settle f).repair f = c1 at h hk' hl' ⊢
        unfold operandsReady at h
        split at h
        · cases h
        · rename_i hr
          rw [if_neg hr]
          split at h
          · rename_i q hpush
            try rw [hpush]
            try simp only
            split at h
            · cases h
            · rename_i hq
              rw [if_neg hq]
              cases h
              simp only [hb, finish, hk', hl']
          · rename_i hpush
            try rw [hpush]
            simp only [hpop] at h ⊢
            cases h
            simp only [hb, finish, hk', hl']
  unfold enters at h
  unfold issue
  simp only [hcur, hs, issueAt, State.landsAt] at h ⊢
  split at h
  · rename_i hsw
    rw [if_pos hsw]
    split at h
    · cases h
    · rename_i hn
      simp only [Bool.or_eq_true, not_or, Bool.not_eq_true, Bool.not_eq_false', Option.isSome_eq_false_iff,
        Option.isNone_iff_eq_none] at hn
      obtain ⟨⟨h1, h2⟩, h3⟩ := hn
      rw [if_neg (by simp [h1])]
      simp only [h2, h3, hsw, if_true]
      rw [key _ _ _ _ rfl rfl h]
  · rename_i hsw
    rw [if_neg hsw, key _ _ _ _ rfl rfl h]
    simp only [hsw]
    rfl

end Sys2Proof.Machine
end

