-- ==== Sys2Proof/Laws/Memory.lean ====
section
/-! SUPPORT. Memory as a canonical list: every operation keeps the form, and a read after a write (R178, R184, R233). -/

namespace Sys2Proof.Machine

open Sys2Proof

/-- The canonical form in one sentence: no listed byte is 0, and addresses rise strictly. -/
theorem Memory.wf_cons (c : Host.Cell) (r : Memory) :
    Memory.wf (c :: r) = true ↔ c.2 ≠ 0 ∧ (∀ d ∈ r.head?, c.1 < d.1) ∧ Memory.wf r = true := by
  cases r with
  | nil => simp [Memory.wf]
  | cons d r => simp [Memory.wf, and_assoc]

/-- In a canonical list every later address is greater. -/
theorem Memory.wf_lt {c : Host.Cell} {r : Memory} (h : Memory.wf (c :: r) = true) : ∀ d ∈ r, c.1 < d.1 := by
  induction r generalizing c with
  | nil => simp
  | cons e r ih =>
    obtain ⟨_, h2, h3⟩ := (Memory.wf_cons _ _).1 h
    have he : c.1 < e.1 := h2 e (by simp)
    intro d hd
    rcases List.mem_cons.1 hd with rfl | hd
    · exact he
    · exact Nat.lt_trans he (ih h3 d hd)

theorem Memory.wf_of_lt {c : Host.Cell} {r : Memory} (hc : c.2 ≠ 0) (h : ∀ d ∈ r, c.1 < d.1) (hr : Memory.wf r = true) : Memory.wf (c :: r) = true := by
  refine (Memory.wf_cons _ _).2 ⟨hc, fun d hd => h d (List.mem_of_mem_head? hd), hr⟩

/-- An address below every listed one reads 0. -/
theorem Memory.get_below {m : Memory} {a : Nat} (h : ∀ d ∈ m, a < d.1) : m.get a = 0 := by
  induction m with
  | nil => rfl
  | cons c r ih =>
    unfold Memory.get
    rw [if_neg (by have := h c (by simp); omega)]
    exact ih fun d hd => h d (by simp [hd])

theorem Memory.set_mem {m : Memory} {a : Nat} {b : Byte} {d : Host.Cell} (h : d ∈ m.set a b) : d ∈ m ∨ d = (a, b) := by
  induction m with
  | nil => unfold Memory.set at h; split at h <;> simp_all
  | cons c r ih =>
    unfold Memory.set at h
    split at h
    · split at h
      · exact .inl h
      · rcases List.mem_cons.1 h with h | h
        · exact .inr h
        · exact .inl h
    · split at h
      · split at h
        · exact .inl (by simp [h])
        · rcases List.mem_cons.1 h with h | h
          · exact .inr h
          · exact .inl (by simp [h])
      · rcases List.mem_cons.1 h with rfl | h
        · simp
        · rcases ih h with h | h <;> simp [h]

/-- Writing a byte keeps the canonical form. -/
theorem Memory.set_wf {m : Memory} (h : m.wf = true) (a : Nat) (b : Byte) : (m.set a b).wf = true := by
  induction m with
  | nil => unfold Memory.set; split <;> simp_all [Memory.wf]
  | cons c r ih =>
    obtain ⟨h1, _, h3⟩ := (Memory.wf_cons _ _).1 h
    have hl := Memory.wf_lt h
    unfold Memory.set
    split
    · rename_i hlt
      split
      · exact h
      · rename_i hb
        refine Memory.wf_of_lt hb (fun d hd => ?_) h
        rcases List.mem_cons.1 hd with rfl | hd
        · exact hlt
        · exact Nat.lt_trans hlt (hl d hd)
    · split
      · rename_i _ he
        split
        · exact h3
        · rename_i hb
          exact Memory.wf_of_lt hb (fun d hd => he ▸ hl d hd) h3
      · rename_i h4 h5
        refine Memory.wf_of_lt h1 (fun d hd => ?_) (ih h3)
        rcases Memory.set_mem hd with hd | rfl
        · exact hl d hd
        · show c.1 < a
          omega

/-- Removing cells keeps the canonical form. -/
theorem Memory.filter_wf {m : Memory} (h : m.wf = true) (p : Host.Cell → Bool) : Memory.wf (m.filter p) = true := by
  induction m with
  | nil => rfl
  | cons c r ih =>
    obtain ⟨h1, _, h3⟩ := (Memory.wf_cons _ _).1 h
    have hl := Memory.wf_lt h
    rw [List.filter_cons]
    split
    · exact Memory.wf_of_lt h1 (fun d hd => hl d (List.mem_filter.1 hd).1) (ih h3)
    · exact ih h3

theorem Memory.setBytes_wf {m : Memory} (h : m.wf = true) (a : Nat) (bs : List Byte) : (m.setBytes a bs).wf = true := by
  induction bs generalizing m a with
  | nil => exact h
  | cons b r ih => exact ih (Memory.set_wf h a b) (a + 1)

/-- A byte read after it is written. -/
theorem Memory.get_set_self {m : Memory} (h : m.wf = true) (a : Nat) (b : Byte) : (m.set a b).get a = b := by
  induction m with
  | nil => unfold Memory.set; split <;> simp_all [Memory.get]
  | cons c r ih =>
    obtain ⟨_, _, h3⟩ := (Memory.wf_cons _ _).1 h
    have hl := Memory.wf_lt h
    unfold Memory.set
    split
    · rename_i hlt
      split
      · rename_i hb
        rw [hb]
        refine Memory.get_below fun d hd => ?_
        rcases List.mem_cons.1 hd with rfl | hd
        · exact hlt
        · exact Nat.lt_trans hlt (hl d hd)
      · simp [Memory.get]
    · split
      · rename_i _ he
        split
        · rename_i hb
          rw [hb]
          exact Memory.get_below fun d hd => he ▸ hl d hd
        · simp [Memory.get]
      · rename_i _ h5
        unfold Memory.get
        rw [if_neg (Ne.symm h5)]
        exact ih h3

/-- A write leaves every other byte alone. -/
theorem Memory.get_set_ne (m : Memory) {a a' : Nat} (b : Byte) (hne : a' ≠ a) : (m.set a b).get a' = m.get a' := by
  induction m with
  | nil => unfold Memory.set; split <;> simp [Memory.get, Ne.symm hne]
  | cons c r ih =>
    unfold Memory.set
    split
    · split <;> simp [Memory.get, Ne.symm hne]
    · split
      · rename_i _ he
        split <;> simp [Memory.get, ← he, Ne.symm hne]
      · simp only [Memory.get, ih]

/-- Bytes outside a write read as before. -/
theorem Memory.get_setBytes_out (m : Memory) (a : Nat) (bs : List Byte) {x : Nat} (hx : x < a ∨ a + bs.length ≤ x) : (m.setBytes a bs).get x = m.get x := by
  induction bs generalizing m a with
  | nil => rfl
  | cons b r ih =>
    simp only [List.length_cons] at hx
    unfold Memory.setBytes
    rw [ih _ _ (by omega), Memory.get_set_ne _ _ (by omega)]

/-- The bytes of a write read as written. -/
theorem Memory.get_setBytes_in {m : Memory} (h : m.wf = true) (a : Nat) (bs : List Byte) (i : Nat) (hi : i < bs.length) :
    (m.setBytes a bs).get (a + i) = bs.getD i 0 := by
  induction bs generalizing m a i with
  | nil => simp at hi
  | cons b r ih =>
    unfold Memory.setBytes
    cases i with
    | zero => rw [Memory.get_setBytes_out _ _ _ (by omega), Nat.add_zero, Memory.get_set_self h]; simp
    | succ i =>
      have := ih (Memory.set_wf h a b) (a + 1) i (by simpa using hi)
      rw [show a + (i + 1) = a + 1 + i by omega, this]
      simp

theorem leBytes_length (n v : Nat) : (leBytes n v).length = n := by
  induction n generalizing v with
  | zero => rfl
  | succ n ih => simp [leBytes, ih]

theorem leNat_leBytes (n v : Nat) : leNat (leBytes n v) = v % 256 ^ n := by
  induction n generalizing v with
  | zero => simp [leBytes, leNat, Nat.mod_one]
  | succ n ih =>
    have h8 : (BitVec.ofNat 8 v).toNat = v % 256 := by simp [BitVec.toNat_ofNat]
    rw [leBytes, leNat, ih, h8, Nat.pow_succ, Nat.mul_comm (256 ^ n) 256, Nat.mod_mul]

/-- A local write of n bytes and a read of them. -/
theorem State.rdN_wrN {s : State} (h : s.mem.wf = true) (key n v : Nat) : (s.wrN key n v).rdN key n = v % 256 ^ n := by
  have : (s.mem.setBytes key (leBytes n v)).getBytes key n = leBytes n v := by
    apply List.ext_getElem
    · simp [Memory.getBytes, leBytes_length]
    · intro i h1 h2
      have hi : i < n := by simpa [Memory.getBytes] using h1
      simp only [Memory.getBytes, List.getElem_map, List.getElem_range]
      rw [Memory.get_setBytes_in h _ _ _ (by rw [leBytes_length]; exact hi), List.getD_eq_getElem?_getD, List.getElem?_eq_getElem h2, Option.getD_some]
  unfold State.rdN State.wrN
  rw [this, leNat_leBytes]

/-- A local write leaves every other byte alone. -/
theorem State.wrN_out (s : State) (key n v : Nat) {x : Nat} (hx : x < key ∨ key + n ≤ x) : (s.wrN key n v).mem.get x = s.mem.get x :=
  Memory.get_setBytes_out _ _ _ (by rw [leBytes_length]; exact hx)

theorem State.wrN_wf {s : State} (h : s.mem.wf = true) (key n v : Nat) : (s.wrN key n v).mem.wf = true := Memory.setBytes_wf h _ _

theorem State.wrBytes_wf {s : State} (h : s.mem.wf = true) (key : Nat) (bs : List Byte) : (s.wrBytes key bs).mem.wf = true := Memory.setBytes_wf h _ _

theorem State.zeroRange_wf {s : State} (h : s.mem.wf = true) (key n : Nat) : (s.zeroRange key n).mem.wf = true := Memory.filter_wf h _

theorem State.wrEither_wf {s : State} (h : s.mem.wf = true) (key : Nat) (bs : List Byte) : (s.wrEither key bs).mem.wf = true := by
  induction bs generalizing s key with
  | nil => exact h
  | cons b r ih =>
    unfold State.wrEither
    refine ih ?_ _
    simp only
    split
    · exact Memory.set_wf h _ _
    · exact h

theorem mergeMem_wf {m : Memory} (h : m.wf = true) (bs : Memory) : (mergeMem m bs).wf = true := by
  unfold mergeMem
  induction bs generalizing m with
  | nil => exact h
  | cons c r ih => exact ih (Memory.set_wf h _ _)

end Sys2Proof.Machine
end

