-- ==== Sys2Proof/Laws/PerInstr.lean ====
section
/-! SUPPORT. What holds of every instruction as syntax, one lemma per constructor. -/

namespace Sys2Proof.Laws.Mapped

/-- The word of an instruction carries an opcode that the opcode map lists (R36). -/
def Statement (i : Instr) : Prop := ∀ r, i.raw = some r → (opInfo r.op.toNat).isSome = true

theorem of_opcode (i : Instr) (r : Raw) (op : BitVec 9) (hr : i.raw = some r) (ho : r.op = op)
    (h : (opInfo op.toNat).isSome = true) : Statement i := by
  intro r' hr'
  rw [hr] at hr'
  cases hr'
  rw [ho]
  exact h

theorem nop (h : Hdr) : Statement (.nop h) := of_opcode _ _ 0x000 rfl rfl (by decide)
theorem br (h : Hdr) (disp : BitVec 24) : Statement (.br h disp) := of_opcode _ _ 0x001 rfl rfl (by decide)
theorem beq (h : Hdr) (a : GOp) (b : GOp) (disp : BitVec 24) : Statement (.beq h a b disp) := of_opcode _ _ 0x002 rfl rfl (by decide)
theorem bne (h : Hdr) (a : GOp) (b : GOp) (disp : BitVec 24) : Statement (.bne h a b disp) := of_opcode _ _ 0x003 rfl rfl (by decide)
theorem blt (h : Hdr) (a : GOp) (b : GOp) (disp : BitVec 24) : Statement (.blt h a b disp) := of_opcode _ _ 0x004 rfl rfl (by decide)
theorem bge (h : Hdr) (a : GOp) (b : GOp) (disp : BitVec 24) : Statement (.bge h a b disp) := of_opcode _ _ 0x005 rfl rfl (by decide)
theorem bltu (h : Hdr) (a : GOp) (b : GOp) (disp : BitVec 24) : Statement (.bltu h a b disp) := of_opcode _ _ 0x006 rfl rfl (by decide)
theorem bgeu (h : Hdr) (a : GOp) (b : GOp) (disp : BitVec 24) : Statement (.bgeu h a b disp) := of_opcode _ _ 0x007 rfl rfl (by decide)
theorem call (h : Hdr) (a : GOp) (disp : BitVec 24) : Statement (.call h a disp) := of_opcode _ _ 0x008 rfl rfl (by decide)
theorem jr (h : Hdr) (d : GOp) (a : GOp) : Statement (.jr h d a) := of_opcode _ _ 0x009 rfl rfl (by decide)
theorem loop (h : Hdr) (a : GOp) (disp : BitVec 24) : Statement (.loop h a disp) := of_opcode _ _ 0x00A rfl rfl (by decide)
theorem stop (h : Hdr) : Statement (.stop h) := of_opcode _ _ 0x00B rfl rfl (by decide)
theorem retire (h : Hdr) (a : GOp) (b : GOp) : Statement (.retire h a b) := of_opcode _ _ 0x00C rfl rfl (by decide)
theorem yield (h : Hdr) : Statement (.yield h) := of_opcode _ _ 0x00D rfl rfl (by decide)
theorem bara (h : Hdr) (n : BitVec 24) : Statement (.bara h n) := of_opcode _ _ 0x00E rfl rfl (by decide)
theorem barw (h : Hdr) (n : BitVec 24) : Statement (.barw h n) := of_opcode _ _ 0x00F rfl rfl (by decide)
theorem collate (h : Hdr) (n : BitVec 24) : Statement (.collate h n) := of_opcode _ _ 0x010 rfl rfl (by decide)
theorem disband (h : Hdr) : Statement (.disband h) := of_opcode _ _ 0x011 rfl rfl (by decide)
theorem wait (h : Hdr) (a : GOp) (imm : BitVec 24) : Statement (.wait h a imm) := of_opcode _ _ 0x012 rfl rfl (by decide)
theorem svc (h : Hdr) (d : GOp) (a : GOp) (b : GOp) (n : BitVec 16) : Statement (.svc h d a b n) := of_opcode _ _ 0x018 rfl rfl (by decide)
theorem trap (h : Hdr) (code : BitVec 24) : Statement (.trap h code) := of_opcode _ _ 0x019 rfl rfl (by decide)
theorem resume (h : Hdr) (a : GOp) : Statement (.resume h a) := of_opcode _ _ 0x01A rfl rfl (by decide)
theorem emr (h : Hdr) (d : GOp) (a : GOp) (rs : BitVec 24) : Statement (.emr h d a rs) := of_opcode _ _ 0x01B rfl rfl (by decide)
theorem emw (h : Hdr) (d : GOp) (a : GOp) (rs : BitVec 24) : Statement (.emw h d a rs) := of_opcode _ _ 0x01C rfl rfl (by decide)
theorem kill (h : Hdr) (a : GOp) : Statement (.kill h a) := of_opcode _ _ 0x01D rfl rfl (by decide)
theorem pmt (h : Hdr) (d : GOp) (a : GOp) : Statement (.pmt h d a) := of_opcode _ _ 0x01E rfl rfl (by decide)
theorem launch (h : Hdr) (d : GOp) (a : GOp) (b : GOp) : Statement (.launch h d a b) := of_opcode _ _ 0x01F rfl rfl (by decide)
theorem add (h : Hdr) (o : Ovf) (z : Size) (d : GOp) (a : GOp) (b : GOp) : Statement (.add h o z d a b) := of_opcode _ _ 0x030 rfl rfl (by decide)
theorem addi (h : Hdr) (o : Ovf) (z : Size) (d : GOp) (a : GOp) (imm : BitVec 24) : Statement (.addi h o z d a imm) := of_opcode _ _ 0x031 rfl rfl (by decide)
theorem sub (h : Hdr) (o : Ovf) (z : Size) (d : GOp) (a : GOp) (b : GOp) : Statement (.sub h o z d a b) := of_opcode _ _ 0x032 rfl rfl (by decide)
theorem mul (h : Hdr) (o : Ovf) (z : Size) (d : GOp) (a : GOp) (b : GOp) : Statement (.mul h o z d a b) := of_opcode _ _ 0x033 rfl rfl (by decide)
theorem mulh (h : Hdr) (z : Size) (d : GOp) (a : GOp) (b : GOp) : Statement (.mulh h z d a b) := of_opcode _ _ 0x034 rfl rfl (by decide)
theorem mulhu (h : Hdr) (z : Size) (d : GOp) (a : GOp) (b : GOp) : Statement (.mulhu h z d a b) := of_opcode _ _ 0x035 rfl rfl (by decide)
theorem div (h : Hdr) (z : Size) (d : GOp) (a : GOp) (b : GOp) : Statement (.div h z d a b) := of_opcode _ _ 0x036 rfl rfl (by decide)
theorem divu (h : Hdr) (z : Size) (d : GOp) (a : GOp) (b : GOp) : Statement (.divu h z d a b) := of_opcode _ _ 0x037 rfl rfl (by decide)
theorem rem (h : Hdr) (z : Size) (d : GOp) (a : GOp) (b : GOp) : Statement (.rem h z d a b) := of_opcode _ _ 0x038 rfl rfl (by decide)
theorem remu (h : Hdr) (z : Size) (d : GOp) (a : GOp) (b : GOp) : Statement (.remu h z d a b) := of_opcode _ _ 0x039 rfl rfl (by decide)
theorem neg (h : Hdr) (o : Ovf) (z : Size) (d : GOp) (a : GOp) : Statement (.neg h o z d a) := of_opcode _ _ 0x03A rfl rfl (by decide)
theorem abs (h : Hdr) (o : Ovf) (z : Size) (d : GOp) (a : GOp) : Statement (.abs h o z d a) := of_opcode _ _ 0x03B rfl rfl (by decide)
theorem min (h : Hdr) (z : Size) (d : GOp) (a : GOp) (b : GOp) : Statement (.min h z d a b) := of_opcode _ _ 0x03C rfl rfl (by decide)
theorem max (h : Hdr) (z : Size) (d : GOp) (a : GOp) (b : GOp) : Statement (.max h z d a b) := of_opcode _ _ 0x03D rfl rfl (by decide)
theorem minu (h : Hdr) (z : Size) (d : GOp) (a : GOp) (b : GOp) : Statement (.minu h z d a b) := of_opcode _ _ 0x03E rfl rfl (by decide)
theorem maxu (h : Hdr) (z : Size) (d : GOp) (a : GOp) (b : GOp) : Statement (.maxu h z d a b) := of_opcode _ _ 0x03F rfl rfl (by decide)
theorem and (h : Hdr) (z : Size) (d : GOp) (a : GOp) (b : GOp) : Statement (.and h z d a b) := of_opcode _ _ 0x040 rfl rfl (by decide)
theorem andi (h : Hdr) (z : Size) (d : GOp) (a : GOp) (imm : BitVec 24) : Statement (.andi h z d a imm) := of_opcode _ _ 0x041 rfl rfl (by decide)
theorem or (h : Hdr) (z : Size) (d : GOp) (a : GOp) (b : GOp) : Statement (.or h z d a b) := of_opcode _ _ 0x042 rfl rfl (by decide)
theorem ori (h : Hdr) (z : Size) (d : GOp) (a : GOp) (imm : BitVec 24) : Statement (.ori h z d a imm) := of_opcode _ _ 0x043 rfl rfl (by decide)
theorem xor (h : Hdr) (z : Size) (d : GOp) (a : GOp) (b : GOp) : Statement (.xor h z d a b) := of_opcode _ _ 0x044 rfl rfl (by decide)
theorem xori (h : Hdr) (z : Size) (d : GOp) (a : GOp) (imm : BitVec 24) : Statement (.xori h z d a imm) := of_opcode _ _ 0x045 rfl rfl (by decide)
theorem andn (h : Hdr) (z : Size) (d : GOp) (a : GOp) (b : GOp) : Statement (.andn h z d a b) := of_opcode _ _ 0x046 rfl rfl (by decide)
theorem shl (h : Hdr) (z : Size) (d : GOp) (a : GOp) (b : GOp) : Statement (.shl h z d a b) := of_opcode _ _ 0x047 rfl rfl (by decide)
theorem shr (h : Hdr) (z : Size) (d : GOp) (a : GOp) (b : GOp) : Statement (.shr h z d a b) := of_opcode _ _ 0x048 rfl rfl (by decide)
theorem sar (h : Hdr) (z : Size) (d : GOp) (a : GOp) (b : GOp) : Statement (.sar h z d a b) := of_opcode _ _ 0x049 rfl rfl (by decide)
theorem rol (h : Hdr) (z : Size) (d : GOp) (a : GOp) (b : GOp) : Statement (.rol h z d a b) := of_opcode _ _ 0x04A rfl rfl (by decide)
theorem shli (h : Hdr) (z : Size) (d : GOp) (a : GOp) (imm : BitVec 24) : Statement (.shli h z d a imm) := of_opcode _ _ 0x04B rfl rfl (by decide)
theorem shri (h : Hdr) (z : Size) (d : GOp) (a : GOp) (imm : BitVec 24) : Statement (.shri h z d a imm) := of_opcode _ _ 0x04C rfl rfl (by decide)
theorem sari (h : Hdr) (z : Size) (d : GOp) (a : GOp) (imm : BitVec 24) : Statement (.sari h z d a imm) := of_opcode _ _ 0x04D rfl rfl (by decide)
theorem clz (h : Hdr) (z : Size) (d : GOp) (a : GOp) : Statement (.clz h z d a) := of_opcode _ _ 0x04E rfl rfl (by decide)
theorem ctz (h : Hdr) (z : Size) (d : GOp) (a : GOp) : Statement (.ctz h z d a) := of_opcode _ _ 0x04F rfl rfl (by decide)
theorem popc (h : Hdr) (z : Size) (d : GOp) (a : GOp) : Statement (.popc h z d a) := of_opcode _ _ 0x050 rfl rfl (by decide)
theorem bfx (h : Hdr) (d : GOp) (a : GOp) (imm : BitVec 24) : Statement (.bfx h d a imm) := of_opcode _ _ 0x051 rfl rfl (by decide)
theorem bfi (h : Hdr) (d : GOp) (a : GOp) (imm : BitVec 24) : Statement (.bfi h d a imm) := of_opcode _ _ 0x052 rfl rfl (by decide)
theorem sext (h : Hdr) (z : Size) (d : GOp) (a : GOp) : Statement (.sext h z d a) := of_opcode _ _ 0x053 rfl rfl (by decide)
theorem zext (h : Hdr) (z : Size) (d : GOp) (a : GOp) : Statement (.zext h z d a) := of_opcode _ _ 0x054 rfl rfl (by decide)
theorem mov (h : Hdr) (z : Size) (d : GOp) (a : GOp) : Statement (.mov h z d a) := of_opcode _ _ 0x055 rfl rfl (by decide)
theorem movi (h : Hdr) (d : GOp) (imm : BitVec 32) : Statement (.movi h d imm) := of_opcode _ _ 0x056 rfl rfl (by decide)
theorem movhi (h : Hdr) (d : GOp) (imm : BitVec 32) : Statement (.movhi h d imm) := of_opcode _ _ 0x057 rfl rfl (by decide)
theorem lea (h : Hdr) (d : GOp) (a : GOp) (seg : Fin 8) (disp : BitVec 20) : Statement (.lea h d a seg disp) := of_opcode _ _ 0x058 rfl rfl (by decide)
theorem sel (h : Hdr) (d : GOp) (a : GOp) (b : GOp) (k : Fin 16) : Statement (.sel h d a b k) := of_opcode _ _ 0x059 rfl rfl (by decide)
theorem cmp (h : Hdr) (cc : Cc) (z : Size) (d : Fin 16) (a : GOp) (b : GOp) : Statement (.cmp h cc z d a b) := of_opcode _ _ 0x05A rfl rfl (by decide)
theorem cmpi (h : Hdr) (cc : Cc) (z : Size) (d : Fin 16) (a : GOp) (imm : BitVec 24) : Statement (.cmpi h cc z d a imm) := of_opcode _ _ 0x05B rfl rfl (by decide)
theorem pand (h : Hdr) (d : Fin 16) (a : Fin 16) (b : Fin 16) : Statement (.pand h d a b) := of_opcode _ _ 0x05C rfl rfl (by decide)
theorem por (h : Hdr) (d : Fin 16) (a : Fin 16) (b : Fin 16) : Statement (.por h d a b) := of_opcode _ _ 0x05D rfl rfl (by decide)
theorem pxor (h : Hdr) (d : Fin 16) (a : Fin 16) (b : Fin 16) : Statement (.pxor h d a b) := of_opcode _ _ 0x05E rfl rfl (by decide)
theorem pandn (h : Hdr) (d : Fin 16) (a : Fin 16) (b : Fin 16) : Statement (.pandn h d a b) := of_opcode _ _ 0x05F rfl rfl (by decide)
theorem mfp (h : Hdr) (d : GOp) : Statement (.mfp h d) := of_opcode _ _ 0x060 rfl rfl (by decide)
theorem mtp (h : Hdr) (a : GOp) : Statement (.mtp h a) := of_opcode _ _ 0x061 rfl rfl (by decide)
theorem mfs (h : Hdr) (d : GOp) (n : BitVec 24) : Statement (.mfs h d n) := of_opcode _ _ 0x062 rfl rfl (by decide)
theorem mts (h : Hdr) (a : GOp) (n : BitVec 24) : Statement (.mts h a n) := of_opcode _ _ 0x063 rfl rfl (by decide)
theorem fadd (h : Hdr) (f : Fmt) (rm : Rm) (d : GOp) (a : GOp) (b : GOp) : Statement (.fadd h f rm d a b) := of_opcode _ _ 0x064 rfl rfl (by decide)
theorem fsub (h : Hdr) (f : Fmt) (rm : Rm) (d : GOp) (a : GOp) (b : GOp) : Statement (.fsub h f rm d a b) := of_opcode _ _ 0x065 rfl rfl (by decide)
theorem fmul (h : Hdr) (f : Fmt) (rm : Rm) (d : GOp) (a : GOp) (b : GOp) : Statement (.fmul h f rm d a b) := of_opcode _ _ 0x066 rfl rfl (by decide)
theorem ffma (h : Hdr) (f : Fmt) (rm : Rm) (d : GOp) (a : GOp) (b : GOp) (c : GOp) : Statement (.ffma h f rm d a b c) := of_opcode _ _ 0x067 rfl rfl (by decide)
theorem fmin (h : Hdr) (f : Fmt) (rm : Rm) (d : GOp) (a : GOp) (b : GOp) : Statement (.fmin h f rm d a b) := of_opcode _ _ 0x068 rfl rfl (by decide)
theorem fmax (h : Hdr) (f : Fmt) (rm : Rm) (d : GOp) (a : GOp) (b : GOp) : Statement (.fmax h f rm d a b) := of_opcode _ _ 0x069 rfl rfl (by decide)
theorem fcmp (h : Hdr) (cc : FCc) (f : Fmt) (d : Fin 16) (a : GOp) (b : GOp) : Statement (.fcmp h cc f d a b) := of_opcode _ _ 0x06A rfl rfl (by decide)
theorem fcvt (h : Hdr) (cv : CvF) (d : GOp) (a : GOp) : Statement (.fcvt h cv d a) := of_opcode _ _ 0x06B rfl rfl (by decide)
theorem vadd (h : Hdr) (f : VfF) (d : Fin 16) (a : Fin 16) (b : VG) : Statement (.vadd h f d a b) := of_opcode _ _ 0x080 rfl rfl (by decide)
theorem vsub (h : Hdr) (f : VfF) (d : Fin 16) (a : Fin 16) (b : VG) : Statement (.vsub h f d a b) := of_opcode _ _ 0x081 rfl rfl (by decide)
theorem vmul (h : Hdr) (f : VfF) (d : Fin 16) (a : Fin 16) (b : VG) : Statement (.vmul h f d a b) := of_opcode _ _ 0x082 rfl rfl (by decide)
theorem vfma (h : Hdr) (f : VfF) (d : Fin 16) (a : Fin 16) (b : VG) (c : Fin 16) : Statement (.vfma h f d a b c) := of_opcode _ _ 0x083 rfl rfl (by decide)
theorem vmin (h : Hdr) (f : VfF) (d : Fin 16) (a : Fin 16) (b : VG) : Statement (.vmin h f d a b) := of_opcode _ _ 0x084 rfl rfl (by decide)
theorem vmax (h : Hdr) (f : VfF) (d : Fin 16) (a : Fin 16) (b : VG) : Statement (.vmax h f d a b) := of_opcode _ _ 0x085 rfl rfl (by decide)
theorem vabs (h : Hdr) (f : VfF) (d : Fin 16) (a : Fin 16) : Statement (.vabs h f d a) := of_opcode _ _ 0x086 rfl rfl (by decide)
theorem vneg (h : Hdr) (f : VfF) (d : Fin 16) (a : Fin 16) : Statement (.vneg h f d a) := of_opcode _ _ 0x087 rfl rfl (by decide)
theorem vand (h : Hdr) (d : Fin 16) (a : Fin 16) (b : VG) : Statement (.vand h d a b) := of_opcode _ _ 0x088 rfl rfl (by decide)
theorem vor (h : Hdr) (d : Fin 16) (a : Fin 16) (b : VG) : Statement (.vor h d a b) := of_opcode _ _ 0x089 rfl rfl (by decide)
theorem vxor (h : Hdr) (d : Fin 16) (a : Fin 16) (b : VG) : Statement (.vxor h d a b) := of_opcode _ _ 0x08A rfl rfl (by decide)
theorem vshl (h : Hdr) (f : Fmt) (d : Fin 16) (a : Fin 16) (b : VG) : Statement (.vshl h f d a b) := of_opcode _ _ 0x08B rfl rfl (by decide)
theorem vshr (h : Hdr) (f : Fmt) (d : Fin 16) (a : Fin 16) (b : VG) : Statement (.vshr h f d a b) := of_opcode _ _ 0x08C rfl rfl (by decide)
theorem vsar (h : Hdr) (f : Fmt) (d : Fin 16) (a : Fin 16) (b : VG) : Statement (.vsar h f d a b) := of_opcode _ _ 0x08D rfl rfl (by decide)
theorem vcmp (h : Hdr) (cc : VCc) (f : Fmt) (d : GOp) (a : Fin 16) (b : VG) : Statement (.vcmp h cc f d a b) := of_opcode _ _ 0x08E rfl rfl (by decide)
theorem vsel (h : Hdr) (f : Fmt) (d : Fin 16) (a : Fin 16) (b : Fin 16) (c : GOp) : Statement (.vsel h f d a b c) := of_opcode _ _ 0x08F rfl rfl (by decide)
theorem vbc (h : Hdr) (f : Fmt) (d : Fin 16) (a : GOp) : Statement (.vbc h f d a) := of_opcode _ _ 0x090 rfl rfl (by decide)
theorem vget (h : Hdr) (f : Fmt) (d : GOp) (a : Fin 16) (idx : BitVec 6) : Statement (.vget h f d a idx) := of_opcode _ _ 0x091 rfl rfl (by decide)
theorem vput (h : Hdr) (f : Fmt) (d : Fin 16) (a : GOp) (idx : BitVec 6) : Statement (.vput h f d a idx) := of_opcode _ _ 0x092 rfl rfl (by decide)
theorem vperm (h : Hdr) (f : Fmt) (d : Fin 16) (a : Fin 16) (b : Fin 16) : Statement (.vperm h f d a b) := of_opcode _ _ 0x093 rfl rfl (by decide)
theorem vred (h : Hdr) (op : RedOp) (f : VfF) (d : GOp) (a : Fin 16) : Statement (.vred h op f d a) := of_opcode _ _ 0x094 rfl rfl (by decide)
theorem vdot (h : Hdr) (f : VfF) (d : GOp) (a : Fin 16) (b : Fin 16) : Statement (.vdot h f d a b) := of_opcode _ _ 0x095 rfl rfl (by decide)
theorem vcvt (h : Hdr) (cv : CvF) (d : Fin 16) (a : Fin 16) : Statement (.vcvt h cv d a) := of_opcode _ _ 0x096 rfl rfl (by decide)
theorem vqnt (h : Hdr) (fine : Bool) (df : Fmt) (d : Fin 16) (a : Fin 16) (b : GOp) : Statement (.vqnt h fine df d a b) := of_opcode _ _ 0x097 rfl rfl (by decide)
theorem vdeq (h : Hdr) (sf : Fmt) (d : Fin 16) (a : Fin 16) (b : GOp) : Statement (.vdeq h sf d a b) := of_opcode _ _ 0x098 rfl rfl (by decide)
theorem amxrd (h : Hdr) (d : GOp) : Statement (.amxrd h d) := of_opcode _ _ 0x099 rfl rfl (by decide)
theorem amxsw (h : Hdr) (d : GOp) (a : GOp) : Statement (.amxsw h d a) := of_opcode _ _ 0x09A rfl rfl (by decide)
theorem vld (h : Hdr) (m : MemF) (d : Fin 16) (a : GOp) : Statement (.vld h m d a) := of_opcode _ _ 0x09B rfl rfl (by decide)
theorem vst (h : Hdr) (m : MemF) (d : Fin 16) (a : GOp) : Statement (.vst h m d a) := of_opcode _ _ 0x09C rfl rfl (by decide)
theorem vldf (h : Hdr) (m : FolF) (d : Fin 16) (a : GOp) : Statement (.vldf h m d a) := of_opcode _ _ 0x09D rfl rfl (by decide)
theorem vstf (h : Hdr) (m : FolF) (d : Fin 16) (a : GOp) : Statement (.vstf h m d a) := of_opcode _ _ 0x09E rfl rfl (by decide)
theorem vldx (h : Hdr) (m : MemF) (d : Fin 16) (a : Fin 16) : Statement (.vldx h m d a) := of_opcode _ _ 0x09F rfl rfl (by decide)
theorem vstx (h : Hdr) (m : MemF) (d : Fin 16) (a : Fin 16) : Statement (.vstx h m d a) := of_opcode _ _ 0x0A0 rfl rfl (by decide)
theorem sfn (h : Hdr) (f : Fmt) (d : GOp) (a : GOp) (b : GOp) (fn : BitVec 16) : Statement (.sfn h f d a b fn) := of_opcode _ _ 0x0A1 rfl rfl (by decide)
theorem ld (h : Hdr) (m : MemF) (d : GOp) (a : GOp) : Statement (.ld h m d a) := of_opcode _ _ 0x0C0 rfl rfl (by decide)
theorem lds (h : Hdr) (m : MemF) (d : GOp) (a : GOp) : Statement (.lds h m d a) := of_opcode _ _ 0x0C1 rfl rfl (by decide)
theorem st (h : Hdr) (m : MemF) (d : GOp) (a : GOp) : Statement (.st h m d a) := of_opcode _ _ 0x0C2 rfl rfl (by decide)
theorem ldf (h : Hdr) (m : MemF) (d : GOp) (a : GOp) : Statement (.ldf h m d a) := of_opcode _ _ 0x0C3 rfl rfl (by decide)
theorem lde (h : Hdr) (m : MemF) (d : GOp) (a : GOp) : Statement (.lde h m d a) := of_opcode _ _ 0x0C4 rfl rfl (by decide)
theorem stf (h : Hdr) (m : MemF) (d : GOp) (a : GOp) : Statement (.stf h m d a) := of_opcode _ _ 0x0C5 rfl rfl (by decide)
theorem stfe (h : Hdr) (m : MemF) (d : GOp) (a : GOp) : Statement (.stfe h m d a) := of_opcode _ _ 0x0C6 rfl rfl (by decide)
theorem clrf (h : Hdr) (m : MemF) (a : GOp) : Statement (.clrf h m a) := of_opcode _ _ 0x0C7 rfl rfl (by decide)
theorem amo (h : Hdr) (op : AmoOp) (m : AtF) (d : GOp) (a : GOp) (b : GOp) : Statement (.amo h op m d a b) := of_opcode _ _ 0x0C8 rfl rfl (by decide)
theorem cas (h : Hdr) (m : AtF) (d : GOp) (a : GOp) (b : GOp) (c : GOp) : Statement (.cas h m d a b c) := of_opcode _ _ 0x0C9 rfl rfl (by decide)
theorem amof (h : Hdr) (op : AmofOp) (m : AtF) (d : GOp) (a : GOp) (b : GOp) : Statement (.amof h op m d a b) := of_opcode _ _ 0x0CA rfl rfl (by decide)
theorem fence (h : Hdr) (k : FenceKind) (sc : FenceScope) : Statement (.fence h k sc) := of_opcode _ _ 0x0CB rfl rfl (by decide)
theorem cfence (h : Hdr) : Statement (.cfence h) := of_opcode _ _ 0x0CC rfl rfl (by decide)
theorem swarm (h : Hdr) (d : GOp) (a : GOp) (b : GOp) : Statement (.swarm h d a b) := of_opcode _ _ 0x0CD rfl rfl (by decide)
theorem swadd (h : Hdr) (a : GOp) (b : GOp) : Statement (.swadd h a b) := of_opcode _ _ 0x0CE rfl rfl (by decide)
theorem swwait (h : Hdr) (a : GOp) (b : GOp) : Statement (.swwait h a b) := of_opcode _ _ 0x0CF rfl rfl (by decide)
theorem swrd (h : Hdr) (d : GOp) (a : GOp) : Statement (.swrd h d a) := of_opcode _ _ 0x0D0 rfl rfl (by decide)
theorem segld (h : Hdr) (d : Fin 8) (a : GOp) : Statement (.segld h d a) := of_opcode _ _ 0x0E0 rfl rfl (by decide)
theorem segst (h : Hdr) (a : GOp) (b : Fin 8) : Statement (.segst h a b) := of_opcode _ _ 0x0E1 rfl rfl (by decide)
theorem segrd (h : Hdr) (hi : Bool) (d : GOp) (a : Fin 8) : Statement (.segrd h hi d a) := of_opcode _ _ 0x0E2 rfl rfl (by decide)
theorem tlbi (h : Hdr) (a : GOp) (b : GOp) : Statement (.tlbi h a b) := of_opcode _ _ 0x0E3 rfl rfl (by decide)
theorem tlbsync (h : Hdr) : Statement (.tlbsync h) := of_opcode _ _ 0x0E4 rfl rfl (by decide)
theorem upret (h : Hdr) (a : GOp) : Statement (.upret h a) := of_opcode _ _ 0x0E5 rfl rfl (by decide)
theorem pgrq (h : Hdr) (d : GOp) (a : GOp) (b : GOp) : Statement (.pgrq h d a b) := of_opcode _ _ 0x0E6 rfl rfl (by decide)
theorem tcfg (h : Hdr) (d : GOp) (a : GOp) (mask : BitVec 16) : Statement (.tcfg h d a mask) := of_opcode _ _ 0x0F0 rfl rfl (by decide)
theorem trel (h : Hdr) (mask : BitVec 24) : Statement (.trel h mask) := of_opcode _ _ 0x0F1 rfl rfl (by decide)
theorem tzero (h : Hdr) (mask : BitVec 24) : Statement (.tzero h mask) := of_opcode _ _ 0x0F2 rfl rfl (by decide)
theorem tenq (h : Hdr) (d : GOp) (a : GOp) (b : GOp) : Statement (.tenq h d a b) := of_opcode _ _ 0x0F3 rfl rfl (by decide)
theorem tst (h : Hdr) (f : Fmt) (rm : Rm) (t : Fin 16) (a : GOp) (b : GOp) : Statement (.tst h f rm t a b) := of_opcode _ _ 0x0F4 rfl rfl (by decide)
theorem tld (h : Hdr) (f : Fmt) (t : Fin 16) (a : GOp) (b : GOp) : Statement (.tld h f t a b) := of_opcode _ _ 0x0F5 rfl rfl (by decide)
theorem tget (h : Hdr) (err : Bool) (t : Fin 16) (d : GOp) (a : GOp) : Statement (.tget h err t d a) := of_opcode _ _ 0x0F6 rfl rfl (by decide)
theorem tset (h : Hdr) (err : Bool) (t : Fin 16) (a : GOp) (b : GOp) : Statement (.tset h err t a b) := of_opcode _ _ 0x0F7 rfl rfl (by decide)
theorem msset (h : Hdr) (m : Fin 4) (a : GOp) (b : GOp) : Statement (.msset h m a b) := of_opcode _ _ 0x0F8 rfl rfl (by decide)
theorem msrd (h : Hdr) (m : Fin 4) (d : GOp) : Statement (.msrd h m d) := of_opcode _ _ 0x0F9 rfl rfl (by decide)
theorem twait (h : Hdr) (mask : BitVec 24) : Statement (.twait h mask) := of_opcode _ _ 0x0FA rfl rfl (by decide)
theorem mmar (h : Hdr) (f : Fmt) (t : Fin 16) (a : Fin 16) (b : Fin 16) : Statement (.mmar h f t a b) := of_opcode _ _ 0x0FB rfl rfl (by decide)
theorem cpy (h : Hdr) (d : GOp) (a : GOp) (b : GOp) : Statement (.cpy h d a b) := of_opcode _ _ 0x110 rfl rfl (by decide)
theorem cpyRp (h : Hdr) (d : GOp) (a : GOp) (b : GOp) : Statement (.cpyRp h d a b) := of_opcode _ _ 0x110 rfl rfl (by decide)
theorem gath (h : Hdr) (d : GOp) (a : GOp) (b : GOp) : Statement (.gath h d a b) := of_opcode _ _ 0x111 rfl rfl (by decide)
theorem scat (h : Hdr) (d : GOp) (a : GOp) (b : GOp) : Statement (.scat h d a b) := of_opcode _ _ 0x112 rfl rfl (by decide)
theorem cmpct (h : Hdr) (d : GOp) (a : GOp) (b : GOp) : Statement (.cmpct h d a b) := of_opcode _ _ 0x113 rfl rfl (by decide)
theorem dpat (h : Hdr) (a : GOp) (b : GOp) : Statement (.dpat h a b) := of_opcode _ _ 0x114 rfl rfl (by decide)
theorem dcpy (h : Hdr) (d : GOp) (a : GOp) (b : GOp) : Statement (.dcpy h d a b) := of_opcode _ _ 0x115 rfl rfl (by decide)
theorem cqry (h : Hdr) (d : GOp) (a : GOp) (q : BitVec 16) : Statement (.cqry h d a q) := of_opcode _ _ 0x116 rfl rfl (by decide)
theorem ksel (h : Hdr) (note : Bool) (d : GOp) (a : GOp) (b : GOp) : Statement (.ksel h note d a b) := of_opcode _ _ 0x120 rfl rfl (by decide)
theorem kgath (h : Hdr) (note : Bool) (d : GOp) (a : GOp) (b : GOp) : Statement (.kgath h note d a b) := of_opcode _ _ 0x121 rfl rfl (by decide)
theorem kabs (h : Hdr) (d : GOp) (a : GOp) : Statement (.kabs h d a) := of_opcode _ _ 0x122 rfl rfl (by decide)
theorem emb (h : Hdr) (note : Bool) (d : GOp) (a : GOp) (b : GOp) : Statement (.emb h note d a b) := of_opcode _ _ 0x123 rfl rfl (by decide)
theorem spec (h : Hdr) (d : GOp) (a : GOp) (b : GOp) (tag : BitVec 16) : Statement (.spec h d a b tag) := of_opcode _ _ 0x130 rfl rfl (by decide)
theorem aref (h : Hdr) (a : GOp) : Statement (.aref h a) := of_opcode _ _ 0x131 rfl rfl (by decide)
theorem arel (h : Hdr) (a : GOp) : Statement (.arel h a) := of_opcode _ _ 0x132 rfl rfl (by decide)
theorem acall (h : Hdr) (d : GOp) (a : GOp) : Statement (.acall h d a) := of_opcode _ _ 0x133 rfl rfl (by decide)
theorem ainf (h : Hdr) (item : Fin 4) (d : GOp) (a : GOp) : Statement (.ainf h item d a) := of_opcode _ _ 0x134 rfl rfl (by decide)
theorem hold (h : Hdr) (d : GOp) (a : GOp) (imm : BitVec 24) : Statement (.hold h d a imm) := of_opcode _ _ 0x140 rfl rfl (by decide)
theorem dech (h : Hdr) (a : GOp) (imm : BitVec 24) : Statement (.dech h a imm) := of_opcode _ _ 0x141 rfl rfl (by decide)
theorem pushr (h : Hdr) (d : GOp) (a : GOp) : Statement (.pushr h d a) := of_opcode _ _ 0x142 rfl rfl (by decide)
theorem popr (h : Hdr) (d : GOp) : Statement (.popr h d) := of_opcode _ _ 0x143 rfl rfl (by decide)
theorem splitr (h : Hdr) (d : GOp) : Statement (.splitr h d) := of_opcode _ _ 0x144 rfl rfl (by decide)
theorem stealr (h : Hdr) (d : GOp) (a : GOp) : Statement (.stealr h d a) := of_opcode _ _ 0x145 rfl rfl (by decide)
theorem post (h : Hdr) (d : GOp) (a : GOp) (b : GOp) (tag : BitVec 16) : Statement (.post h d a b tag) := of_opcode _ _ 0x146 rfl rfl (by decide)
theorem spawn (h : Hdr) (d : GOp) (a : GOp) (b : GOp) (imm : BitVec 16) : Statement (.spawn h d a b imm) := of_opcode _ _ 0x147 rfl rfl (by decide)
theorem nsend (h : Hdr) (note : Bool) (d : GOp) (a : GOp) : Statement (.nsend h note d a) := of_opcode _ _ 0x150 rfl rfl (by decide)
theorem nread (h : Hdr) (note : Bool) (d : GOp) (a : GOp) : Statement (.nread h note d a) := of_opcode _ _ 0x151 rfl rfl (by decide)
theorem nwrite (h : Hdr) (note : Bool) (d : GOp) (a : GOp) : Statement (.nwrite h note d a) := of_opcode _ _ 0x152 rfl rfl (by decide)
theorem nrecv (h : Hdr) (note : Bool) (d : GOp) (a : GOp) : Statement (.nrecv h note d a) := of_opcode _ _ 0x153 rfl rfl (by decide)
theorem nqry (h : Hdr) (d : GOp) (a : GOp) (item : BitVec 16) : Statement (.nqry h d a item) := of_opcode _ _ 0x154 rfl rfl (by decide)
theorem illegalEncoding (w : Word) : Statement (.illegalEncoding w) := by rintro r ⟨⟩
theorem resultReturn (core : Nat) (slot : Nat) (op : Nat) : Statement (.resultReturn core slot op) := by rintro r ⟨⟩
theorem strandWake (core : Nat) (slot : Nat) : Statement (.strandWake core slot) := by rintro r ⟨⟩
theorem waitExpiry (core : Nat) (slot : Nat) : Statement (.waitExpiry core slot) := by rintro r ⟨⟩
theorem idleSlotSearch (core : Nat) (slot : Nat) : Statement (.idleSlotSearch core slot) := by rintro r ⟨⟩
theorem fetchFill (core : Nat) (slot : Nat) : Statement (.fetchFill core slot) := by rintro r ⟨⟩
theorem portWordArrive (msg : Nat) : Statement (.portWordArrive msg) := by rintro r ⟨⟩
theorem creditReturn (msg : Nat) : Statement (.creditReturn msg) := by rintro r ⟨⟩
theorem postArrive (msg : Nat) : Statement (.postArrive msg) := by rintro r ⟨⟩
theorem engineMessageDeliver (id : Nat) : Statement (.engineMessageDeliver id) := by rintro r ⟨⟩
theorem faultMessageDeliver (id : Nat) : Statement (.faultMessageDeliver id) := by rintro r ⟨⟩
theorem bankTransaction (flight : Nat) : Statement (.bankTransaction flight) := by rintro r ⟨⟩
theorem overflowRetry (flight : Nat) : Statement (.overflowRetry flight) := by rintro r ⟨⟩
theorem translationWalk (flight : Nat) : Statement (.translationWalk flight) := by rintro r ⟨⟩
theorem barrierArrival (msg : Nat) : Statement (.barrierArrival msg) := by rintro r ⟨⟩
theorem holdDecrement (msg : Nat) : Statement (.holdDecrement msg) := by rintro r ⟨⟩
theorem stealPerform (msg : Nat) : Statement (.stealPerform msg) := by rintro r ⟨⟩
theorem preemptRequest (msg : Nat) : Statement (.preemptRequest msg) := by rintro r ⟨⟩
theorem preemptSave (core : Nat) : Statement (.preemptSave core) := by rintro r ⟨⟩
theorem resumeRequest (msg : Nat) : Statement (.resumeRequest msg) := by rintro r ⟨⟩
theorem coreResume (core : Nat) : Statement (.coreResume core) := by rintro r ⟨⟩
theorem launchAccept (req : Nat) : Statement (.launchAccept req) := by rintro r ⟨⟩
theorem placement : Statement .placement := by rintro r ⟨⟩
theorem gatheringRetire (vol : Nat) (gidx : Nat) : Statement (.gatheringRetire vol gidx) := by rintro r ⟨⟩
theorem copyAccept (cluster : Nat) (req : Nat) : Statement (.copyAccept cluster req) := by rintro r ⟨⟩
theorem copyChunk (cluster : Nat) (op : Nat) : Statement (.copyChunk cluster op) := by rintro r ⟨⟩
theorem copyComplete (cluster : Nat) (op : Nat) : Statement (.copyComplete cluster op) := by rintro r ⟨⟩
theorem binderyEnqueue (cluster : Nat) (req : Nat) : Statement (.binderyEnqueue cluster req) := by rintro r ⟨⟩
theorem taskStart (cluster : Nat) : Statement (.taskStart cluster) := by rintro r ⟨⟩
theorem taskPartComplete (cluster : Nat) (task : Nat) (part : Nat) : Statement (.taskPartComplete cluster task part) := by rintro r ⟨⟩
theorem selectionAccept (cluster : Nat) (req : Nat) : Statement (.selectionAccept cluster req) := by rintro r ⟨⟩
theorem selectRun (cluster : Nat) (op : Nat) : Statement (.selectRun cluster op) := by rintro r ⟨⟩
theorem gatherEntry (cluster : Nat) (op : Nat) : Statement (.gatherEntry cluster op) := by rintro r ⟨⟩
theorem embAccept (cluster : Nat) (req : Nat) : Statement (.embAccept cluster req) := by rintro r ⟨⟩
theorem chipPartial (cluster : Nat) (op : Nat) (bag : Nat) (chip : Nat) : Statement (.chipPartial cluster op bag chip) := by rintro r ⟨⟩
theorem bagWrite (cluster : Nat) (op : Nat) : Statement (.bagWrite cluster op) := by rintro r ⟨⟩
theorem specAccept (cluster : Nat) (req : Nat) : Statement (.specAccept cluster req) := by rintro r ⟨⟩
theorem specRun (cluster : Nat) (op : Nat) : Statement (.specRun cluster op) := by rintro r ⟨⟩
theorem netAccept (req : Nat) : Statement (.netAccept req) := by rintro r ⟨⟩
theorem packetReceive (p : Packet) : Statement (.packetReceive p) := by rintro r ⟨⟩
theorem ackReceive (peer : Nat) (name : PacketName) (packets : List Nat) : Statement (.ackReceive peer name packets) := by rintro r ⟨⟩
theorem retransmitTimeout (wr : Nat) (packet : Nat) : Statement (.retransmitTimeout wr packet) := by rintro r ⟨⟩
theorem pageRequestForward (cluster : Nat) : Statement (.pageRequestForward cluster) := by rintro r ⟨⟩
theorem svcVersion (core : Nat) (slot : Nat) : Statement (.svcVersion core slot) := by rintro r ⟨⟩
theorem svcResume (core : Nat) (slot : Nat) : Statement (.svcResume core slot) := by rintro r ⟨⟩
theorem svcKill (core : Nat) (slot : Nat) : Statement (.svcKill core slot) := by rintro r ⟨⟩
theorem svcPage (core : Nat) (slot : Nat) : Statement (.svcPage core slot) := by rintro r ⟨⟩
theorem svcCounts (core : Nat) (slot : Nat) : Statement (.svcCounts core slot) := by rintro r ⟨⟩
theorem curatorSwitchEnd (cluster : Nat) : Statement (.curatorSwitchEnd cluster) := by rintro r ⟨⟩
theorem tlbiTakesEffect (id : Nat) : Statement (.tlbiTakesEffect id) := by rintro r ⟨⟩
theorem remotekeyRefusal (refused : Refused) (packet : Nat) : Statement (.remotekeyRefusal refused packet) := by rintro r ⟨⟩
theorem uncorrectableError (f : Func) (flight : Option Nat) : Statement (.uncorrectableError f flight) := by rintro r ⟨⟩
theorem powerOn : Statement .powerOn := by rintro r ⟨⟩
theorem rootSelfTestEnd (pass : Bool) (diag : BitVec 32) : Statement (.rootSelfTestEnd pass diag) := by rintro r ⟨⟩
theorem functionReport (f : Func) (ready : Bool) (diag : BitVec 32) (images : List (Nat × List Byte × List Byte)) : Statement (.functionReport f ready diag images) := by rintro r ⟨⟩
theorem thermalShutdown : Statement .thermalShutdown := by rintro r ⟨⟩
theorem loadCode (c : Call) (words : List Word) : Statement (.loadCode c words) := by rintro r ⟨⟩
theorem map (c : Call) (args : MapArgs) : Statement (.map c args) := by rintro r ⟨⟩
theorem unmap (c : Call) (entries : List TableWrite) (lo : Nat) (len : Nat) : Statement (.unmap c entries lo len) := by rintro r ⟨⟩
theorem hostRead (c : Call) (a : HostAddr) (n : Nat) : Statement (.hostRead c a n) := by rintro r ⟨⟩
theorem hostWrite (c : Call) (a : HostAddr) (bytes : List Byte) : Statement (.hostWrite c a bytes) := by rintro r ⟨⟩
theorem hostLaunch (c : Call) (record : List Word) (sync : Option Nat) : Statement (.hostLaunch c record sync) := by rintro r ⟨⟩
theorem hostPreempt (c : Call) (core : Nat) (resume : Bool) : Statement (.hostPreempt c core resume) := by rintro r ⟨⟩
theorem answerPageRequest (c : Call) (page : Nat) (ans : PageAnswer) : Statement (.answerPageRequest c page ans) := by rintro r ⟨⟩
theorem query (c : Call) (item : QueryItem) : Statement (.query c item) := by rintro r ⟨⟩
theorem repeatSelfTest (c : Call) : Statement (.repeatSelfTest c) := by rintro r ⟨⟩
theorem identityKey (c : Call) : Statement (.identityKey c) := by rintro r ⟨⟩
theorem deviceIdentifier (c : Call) : Statement (.deviceIdentifier c) := by rintro r ⟨⟩
theorem temperaturePower (c : Call) : Statement (.temperaturePower c) := by rintro r ⟨⟩
theorem firmwareUpdate (c : Call) (image : List Byte) (sig : List Byte) (version : BitVec 32) : Statement (.firmwareUpdate c image sig version) := by rintro r ⟨⟩
theorem attestationQuote (c : Call) (nonce : List Byte) : Statement (.attestationQuote c nonce) := by rintro r ⟨⟩
theorem unknownCommand (c : Call) (command : Nat) : Statement (.unknownCommand c command) := by rintro r ⟨⟩

end Sys2Proof.Laws.Mapped
end

