-- ==== Sys2Proof/Laws/Registers.lean ====
section
/-! SUPPORT. Every instruction word goes through the shared issue under its own form; what a register-only instruction does. -/

namespace Sys2Proof.Machine

open Sys2Proof

/-- Every instruction word is issued under its form; `trel` and `tzero` so unless a pending task makes them switch points. -/
theorem exec_issue (i : Instr) (h : i.raw.isSome = true) (h1 : ∀ g m, i ≠ .trel g m) (h2 : ∀ g m, i ≠ .tzero g m) :
    ∃ body, ∀ s, exec i s = issue (formOf i) s body := by
  cases i <;> first
    | exact ⟨_, fun _ => rfl⟩
    | exact absurd rfl (h1 _ _)
    | exact absurd rfl (h2 _ _)
    | simp [Instr.raw] at h

/-- `trel` and `tzero` of a strand whose predicate is false are issued under their form. -/
theorem releasing_off (i : Instr) (h : Hdr) (mask : BitVec 24) (need : Bool) (act : Core → Nat → Core) {s : State} {core slot : Nat} {t : Strand}
    (hc : s.clk.cur = some (core, slot)) (ht : s.strand core slot = some t) (hp : s.predTrue { h := h, word := wordOf i } t = false) :
    ∃ body, releasing i h mask need act s = issue { h := h, word := wordOf i } s body := by
  simp only [releasing, hc, ht, Option.bind_some, Option.map_some, hp, Bool.false_and, Option.getD_some, Bool.false_eq_true, if_false]
  exact ⟨_, rfl⟩

/-- A register-only instruction with a general destination writes one value and raises some flags. -/
theorem destG_body {i : Instr} {d : GOp} (h : destG i = some d) :
    ∃ g : Ctx → Word × FlagWord, ∀ s, exec i s = issue (formOf i) s fun c => .go (c.put d (g c).1 (g c).2) := by
  cases i <;> cases h <;> exact ⟨fun c => (_, _), fun _ => rfl⟩

theorem destV_body {i : Instr} {d : Fin 16} (h : destV i = some d) :
    ∃ g : Ctx → Vec × FlagWord, ∀ s, exec i s = issue (formOf i) s fun c => .go (c.putV d (g c).1 (g c).2) := by
  cases i <;> cases h <;> exact ⟨fun c => (_, _), fun _ => rfl⟩

theorem destP_body {i : Instr} {d : Fin 16} (h : destP i = some d) :
    ∃ g : Ctx → Bool × FlagWord, ∀ s, exec i s = issue (formOf i) s fun c => .go (c.putP d (g c).1 (g c).2) := by
  cases i <;> cases h <;> exact ⟨fun c => (_, _), fun _ => rfl⟩

/-- Storing the strand in a slot changes nothing elsewhere. -/
@[simp] theorem elsewhere_setStrand (s : State) (core slot : Nat) (t : Strand) :
    (s.setStrand core slot t).elsewhere core slot = s.elsewhere core slot := by
  simp [State.elsewhere, State.setStrand]

end Sys2Proof.Machine
end

