-- ==== Sys2Proof/Laws/Units.lean ====
section
/-! SUPPORT. What the operations that many steps share do where they act: a call of the host, a service call, a message. -/

namespace Sys2Proof.Machine

open Sys2Proof

/-- An executed call has its command's effect on the state that has heard it. -/
theorem call_hears {s : State} {c : Call} (h : s.hears c) (b : Bool) (f : State → State) : s.call c b f = f (s.heard c) := by
  obtain ⟨h1, h2, h3, h4⟩ := h
  unfold State.call
  rcases h2 with h2 | h2 <;> simp [h1, h2, h3, h4]

/-- In the safe state a call that is not answered there is answered SAFE. -/
theorem call_safe {s : State} {c : Call} (h1 : s.root.st = .safe) (h2 : c.mgmt = true) (h3 : s.callBusy c = false) (f : State → State) :
    s.call c false f = (s.heard c).reply c 3 := by
  unfold State.call
  simp [h1, h2, h3]

/-- Hearing a call changes the root of trust only. -/
theorem heard_eq (s : State) (c : Call) : ∃ m l, s.heard c = { s with root := { s.root with mgmt := m, known := l } } := ⟨_, _, rfl⟩

/-- A service call that the curator takes is performed on its argument words. -/
theorem svcTake_taken {s : State} {core slot n : Nat} {x : SvcCall} {s1 : State} {ws : List Word} (h : svcTaken s core slot n x s1 ws)
    (act : State → SvcCall → List Word → State) : s.svcTake core slot n act = act s1 x ws := by
  obtain ⟨h1, h2, h3, h4, h5, h6⟩ := h
  unfold State.svcTake
  simp only [h1]
  simp [h2, h3, h4, h5, h6]

/-- Granules that are taken change what a core holds for a reservation, and nothing else. -/
theorem closeGran_eq (s : State) (core : Nat) (gran : List Nat) : ∃ cs, s.closeGran core gran = { s with cores := cs } := by
  unfold State.closeGran
  split
  · exact ⟨_, rfl⟩
  · exact ⟨s.cores, rfl⟩

/-- Reserving a cluster changes what its cores hold for it, and nothing else. -/
theorem closeCluster_eq (s : State) (k : Nat) : ∃ cs, s.closeCluster k = { s with cores := cs } := by
  unfold State.closeCluster
  induction (List.range 8).map (8 * k + ·) generalizing s with
  | nil => exact ⟨s.cores, rfl⟩
  | cons i is ih =>
    obtain ⟨cs, h⟩ := ih (s.setCore i { s.core i with closed := {
      slots := (List.range 63).filter fun n => !(s.freeSlots i).contains n,
      gran := ((List.range 252).map (· + 4)).filter fun n => !(s.freeGran i).contains n,
      w := s.regions i false, a := s.regions i true } })
    exact ⟨cs, h⟩

/-- A pre-emption request on its way into an inbox changes the messages and the clock. -/
theorem preemptMsg_eq (s : State) (core from_ : Nat) : ∃ f k, s.preemptMsg core from_ = { s with fab := f, clk := k } := by
  unfold State.preemptMsg
  split
  · exact ⟨s.fab, s.clk, rfl⟩
  · exact ⟨_, _, rfl⟩

end Sys2Proof.Machine
end

