-- ==== Sys2Proof/Tests/Slice0.lean ====
section
/-! SUPPORT. Tests. Words and values come from the spec's worked encodings and examples, or are worked out by hand from its rules. -/

namespace Sys2Proof.Test

open Sys2Proof Sys2Proof.Machine

set_option Elab.async false

/-! ## Small states -/

def hd : Hdr := { sw := false, emA := false, emB := false, emC := false, pr := 0, pn := false }

def memF (disp : BitVec 20) : MemF := { sz := .d, ord := .pln, rx := false, seg := 2, disp := disp }
def folF : FolF := { fmt := .f32, rx := false, seg := 2, disp := 64 }
def atF : AtF := { sz := .d, rx := false, ord := .pln, seg := 2 }
def cvF : CvF := { sat := false, df := .bf16, sf := .f32, rm := .rne }
def vf32 : VfF := { fmt := .f32, mode := 0 }

/-- A segment pointer (R26). -/
def ptr (n off : Nat) : Word := ofN (n * 2 ^ 61 + off)

/-- Segments: s0 code, s1 and s2 memory, s3 to s6 the W, A and C buffers and the room. -/
def segs : List Desc :=
  [mkDesc 1 (rR + rX) 0 (2 ^ 48 - 1), mkDesc 1 (rR + rW + rF + rA + rE) 0 (2 ^ 48 - 1), mkDesc 1 (rR + rW + rF + rA + rE) 0 (2 ^ 48 - 1),
   mkDesc 2 (rR + rW + rE) 0 0x40000, mkDesc 3 (rR + rW + rE) 0 0x20000, mkDesc 4 (rR + rW + rE) 0 0x60000, mkDesc 5 (rR + rW + rE) 0 0x400000, 0]

/-- The strand of a slot: g1 an offset, g2 a number, g4 and g6 pointers. -/
def strandOf (slot : Nat) : Strand :=
  let t := placedStrand 1 slot
  { (((t.putG 1 0x1000).putG 2 5).putG 4 (ptr 2 0x2000)).putG 6 (ptr 6 0x40) with sregs := segs }

/-- The turn of slot `slot` of core 0, whose strand is `f` of the usual one, in `g` of a state with one gathering. -/
def st (f : Strand → Strand) (g : State → State) (slot : Nat) : State :=
  State.atTurn ((g (State.reset.placeWord 0)).setStrand 0 slot (f (strandOf slot))) 0 slot

def st0 : State := st id id 0
def st63 : State := st id id 63
def stT (f : Strand → Strand) : State := st f id 0
def stG (n : Nat) (v : Word) : State := stT (Strand.putG · n v)
def stS (g : State → State) : State := st id g 0

def withGathering (g : Gathering) (s : State) : State := { s with circ := { s.circ with gatherings := [g] } }
def withShape (w : Nat) (s : State) : State := withGathering { placedGathering with shape := ofN w, cores := [0, 1] } s
def withVolume (v : Volume) (s : State) : State := { s with circ := { s.circ with volumes := [v] } }
def withEntry (i : Nat) (e : Entry) (s : State) : State := { s with circ := { s.circ with spaces := [{ id := 1, table := [(i, e)] }] } }
def withCore (f : Core → Core) (s : State) : State := s.setCore 0 (f (s.core 0))
def withCluster (f : Cluster → Cluster) (s : State) : State := s.setCluster 0 (f (s.cluster 0))
/-- Leaf of a page for everything but execution at this address, in the cluster's translation cache for the page at VA 0. -/
def withLeaf (e : Nat) (s : State) : State :=
  withCluster (fun c => { c with tlb := [{ vol := 1, page := 0, bits := 23, leaf := ofN (2 ^ 63 + 2 ^ 62 + e) }] }) s
/-- The same leaf in the device translation cache. -/
def withDevLeaf (e : Nat) (s : State) : State := { s with devTlb := [{ vol := 1, page := 0, bits := 23, leaf := ofN (2 ^ 63 + 2 ^ 62 + e) }] }
def rwLeaf : Nat := 2 ^ 59 + 2 ^ 58
def farLeaf : Nat := 2 ^ 61 + rwLeaf
/-- An accession of 16 words at VA 0x8000, generation 1. -/
def entry1 : Entry := { gen := 1, state := 1, base := 0x8000, refs := 1, exec := 1, size := 16 }
def handle1 : Word := ofN (2 ^ 48 + 5 * 2 ^ 32 + 16)
def code1 : Word := ofN (2 ^ 48 + 8 * 2 ^ 44 + 5 * 2 ^ 32 + 9)
def tile1 : Tile := { conf := true, vol := 1, gidx := 0, lane := 0 }
def withTile (x : Tile) (s : State) : State := withCore (fun c => { c with tiles := setAt c.tiles 1 x }) s
/-- A saved slip of volume 1 in the strand area at 0, with these doublewords. -/
def withSlip (ws : List Nat) (s : State) : State := { s with circ := { s.circ with areas := [(1, 0)] }, mem := s.mem.setBytes 0 (ws.flatMap (leBytes 8)) }
def gives {ε α : Type} [DecidableEq α] (x : Except ε α) (v : α) : Bool := match x with | .ok a => decide (a = v) | .error _ => false
def fails {ε α : Type} [DecidableEq ε] (x : Except ε α) (v : ε) : Bool := match x with | .ok _ => false | .error a => decide (a = v)
def haltedStrand : Strand := { strandOf 1 with uid := 7, lane := 1, run := .halted }
def areaVA : Word := ofN Config.areaVA

def B : State := State.reset.placeWord 0
def opDone : Op := { id := 7, pc := 0, word := 0, seq := 0, dest := .none, stage := .done }
def q0 : QId := { vol := 1, gidx := 0, role := 0, lane := 0, src := .role 0 }
/-- A page table that maps the first 2^30 addresses to the stacks. -/
def withTable (s : State) : State :=
  { s with mem := (s.mem.setBytes 0x10000 (leBytes 8 (2 ^ 63 + 0x20000))).setBytes 0x20000 (leBytes 8 (2 ^ 63 + 2 ^ 62 + 2 ^ 57 + rwLeaf)),
           circ := { s.circ with spaces := [{ id := 1, root := some 0x10000 }] } }
def msgOf (k : MsgKind) : Msg := { id := 7, due := 0, dst := 0, core := 0, slot := 0, kind := k }
def withMsg (k : MsgKind) (s : State) : State := { s with fab := { s.fab with msgs := [msgOf k] } }
def hold3 : Hold := { idx := 3, vol := 1, count := 5 }
def part1 : Part := { loc := .va 1 0x1000, n := 8, data := 5, key := some 0x1000 }
def flightOf (k : AccKind) : Flight :=
  { id := 7, uid := 1, core := 0, slot := 0, vol := 1, gidx := 0, lane := 0, bound := true, kind := k, parts := [part1] }
def withFlight (f : Flight) (s : State) : State := { s with flights := [f] }
def iss1 : Issuer := { uid := 1, core := 0, slot := 0, vol := 1, gidx := 0, lane := 0, free := false, sregs := segs }
def reqOf (k : ReqKind) : Req := { id := 7, iss := iss1, kind := k, a := ptr 2 0x2000 }
def withReady (fs : List Func) (s : State) : State := { s with root := { s.root with ready := fs } }
def withFenced (fs : List Func) (s : State) : State := { s with root := { s.root with fenced := fs } }
def inMsg0 : InMsg := { vol := 0, lane := 63, src := 0, from_ := 0, frame := 0, word := 0 }

def gatherings1 (g : Gathering) (s : State) : State := withGathering g (withReady [{ kind := .circ, index := 0 }] s)
/-- A record of doublewords at VA 0x2000 of volume 1. -/
def withRecord (ws : List Word) (s : State) : State := withLeaf rwLeaf { s with mem := s.mem.setBytes 0x2000 (ws.flatMap fun w => leBytes 8 w.toNat) }
/-- A request of this kind, which names the record at VA 0x2000, waits in cluster 0, whose unit is ready or fenced. -/
def withReq (k : ReqKind) (unit : FuncKind) (up : Bool) (s : State) : State :=
  let f : List Func := [{ kind := unit, index := 0 }]
  withCluster (fun c => { c with reqs := [reqOf k] }) { s with root := { s.root with ready := if up then f else [], fenced := if up then [] else f } }

/-- The table of `withTable`, with an accession at index 5. -/
def goodSpace (s : State) : State :=
  { withTable s with circ := { s.circ with spaces := [{ id := 1, root := some 0x10000, table := [(5, entry1)] }] } }
def goodRecord : List Word := ((placedRecord.set 0 code1).set 4 0x3000).set 8 0x4000
def goodVolume : Volume := { id := 1, space := 1, rec_ := goodRecord }
def endedG : Gathering := { placedGathering with members := placedGathering.members.map fun m => { m with st := .retired } }

def copy1 : CopyOp := { id := 7, iss := iss1, kind := .cpy, ptr := ptr 2 0x2000, errPtr := ptr 2 0x2000, dws := [ptr 2 0x4000, ptr 2 0x6000, 0, 8, 0, 0, 0, 0], sync := none, started := true }
def copyRec : List Word := copy1.dws
def withCopy (o : CopyOp) (s : State) : State := withCluster (fun c => { c with copies := [o] }) s

def withR (r : Req) (unit : FuncKind) (s : State) : State :=
  withCluster (fun c => { c with reqs := [r] }) { s with root := { s.root with ready := [{ kind := unit, index := 0 }] } }
def tenq1 : Req := { reqOf .tenq with imm := 1 }
def zeroTask : List Word := [0, 0, 0, 0, ofN (2 * 2 ^ 61 + 2 ^ 49), 0, 0, 0]
def storeTask : List Word := [1, 0, 0, 0, ofN (3 * 2 ^ 61 + 2 ^ 49), 0, 0, 0]
def task1 (dws : List Word) : Task := { id := 9, req := 7, iss := iss1, addr := 0, dws := dws, cores := [0], parts := [.waiting] }
def startedTask (dws : List Word) : Task := { task1 dws with parts := [.started], met := true }
def withTask (t : Task) (s : State) : State := withCluster (fun c => { c with tasks := [t] }) s

def kselRec : List Word := [ptr 4 0, ptr 6 0, ptr 6 0x1000, 0, 0, 0, 0, 0]
def sel1 (k : ReqKind) : SelOp := { id := 9, iss := iss1, kind := k, ptr := ptr 2 0x2000, dws := kselRec, sync := none, note := false }
def gathOp (m : Nat) : SelOp := { sel1 .kgath with dws := [ptr 6 0, 0, 0, 0, 0, 0, ofN (m * 2 ^ 39), 0], hdr := some 0 }
def withSel (o : SelOp) (s : State) : State := withCluster (fun c => { c with sels := [o] }) s
def bagRec : List Word := [ptr 2 0x4000, ptr 2 0x5000, ptr 2 0x6000, 0, ptr 2 0x7000, 0, ofN (64 * 2 ^ 32 + 64), 0]
/-- A record in the annex, at VA 0x2000, and the request that names it; every chip ready. -/
def withBagReq (rec_ : List Word) (s : State) : State :=
  let s1 := withDevLeaf (rwLeaf + Config.annexBase) (withLeaf (rwLeaf + Config.annexBase) { s with mem := s.mem.setBytes (Config.annexBase + 0x2000) (rec_.flatMap fun w => leBytes 8 w.toNat) })
  withCluster (fun c => { c with reqs := [reqOf .emb] }) (withReady ({ kind := .annexif, index := 0 } :: (List.range 8).map fun i => { kind := .chip, index := i }) s1)
def bag1 : BagOp := { id := 9, iss := iss1, ptr := ptr 2 0x2000, dws := bagRec, sync := none, note := false, offs := [0, 0], started := true }
def withBag (o : BagOp) (s : State) : State := withCluster (fun c => { c with bags := [o] }) s

def kgathRec : List Word := [ptr 6 0, ptr 6 0x1000, ofN (64 * 2 ^ 32), 0, ofN (64 * 2 ^ 32), ofN (2 ^ 36), ofN (2 ^ 39), 0]
def gathOk : SelOp := { sel1 .kgath with dws := kgathRec, hdr := some 1 }
/-- A key page at VA 0 and a value page at VA 0x800000, and the reading room's words that name their first slots. -/
def gathState : State :=
  let page (va : Nat) : TlbEntry := { vol := 1, page := va, bits := 23, leaf := ofN (2 ^ 63 + 2 ^ 62 + 2 ^ 60 + rwLeaf + va) }
  let s := withCluster (fun c => { c with tlb := [page 0, page 0x800000], sels := [gathOk] }) B
  let s1 := ((s.engWrite 0 (iss1.at_ (ptr 6 0x10) 0) 8 64).1.engWrite 0 (iss1.at_ (ptr 6 0x1008) 0) 8 (ptr 2 0x800040).toNat).1
  { s1 with mem := (s1.mem.setBytes 0 (leBytes 8 0x200)).setBytes 0x800000 (leBytes 8 0x10200) }

theorem allSome_iff {α : Type} (l : List (Option α)) : (∀ x ∈ l, x ≠ none) ↔ l.all (fun x => x.isSome) = true := by
  simp [Option.isSome_iff_ne_none]

def specRec : List Word := [ofN (2 ^ 43 + 2 ^ 26), 0, 0, 0, 0, 0, 0, 0]
def specReq (a : Word) : Req := { reqOf .spec with a := a, b := some (ptr 2 0x2000) }
def spec1 : SpecOp := { id := 9, iss := iss1, ptr := ptr 2 0x2000, tag := 0, dws := specRec, early := [], src := 5 }
def withSpec (o : SpecOp) (s : State) : State := withCluster (fun c => { c with specs := [o] }) s
/-- The accession of `goodSpace`, whose first word is `stop`. -/
def stopCode (s : State) : State := let s1 := goodSpace s; { s1 with mem := s1.mem.setBytes 0x8000 (leBytes 8 (wordOf (.stop hd)).toNat) }

def peer1 : Peer := { valid := true, vol := 1, depth := 4, port := 0 }
def netUp : List Func := [{ kind := .net, index := 0 }, { kind := .port, index := 0 }]
def withPeer (p : Peer) (s : State) : State := let s1 := withReady netUp s; { s1 with net := { s1.net with peers := [(0, p)] } }
def netRec : List Word := [ofN (2 ^ 60), ptr 2 0x4000, 8, 0, 0, 0, 0, 0]
/-- A send request in the network engine, whose record of these doublewords lies at VA 0x2000. -/
def netS (rec_ : List Word) (p : Peer) : State :=
  let s := withPeer p (withTable B)
  { s with mem := s.mem.setBytes 0x2000 (rec_.flatMap fun w => leBytes 8 w.toNat), net := { s.net with reqs := [reqOf .nsend] } }
/-- The engine without the request. -/
def netQ (s : State) : State := { s with net := { s.net with reqs := s.net.reqs.filter (·.id != 7) } }
def key1 : KeyWrite := { key := 9, vol := 1, base := 0x1000, length := 64, r := true, w := true, peer := 0 }
def netK (done : List (Nat × Nat × Nat)) : State := let s := withPeer peer1 (withTable B); { s with net := { s.net with keys := [key1], donePk := done } }
def pkt (k : PacketKind) : Packet := { peer := 0, port := 0, kind := k }
def wr1 (got : List Nat) (tries : Nat) : WorkReq :=
  { id := 9, iss := iss1, kind := .nsend, ptr := ptr 2 0x2000, dws := [ofN (2 ^ 60), ptr 2 0x4000, 512, 0, 0, 0, 0, 0], note := false, peer := 0, pay := 0, started := true, got := got, tries := [(1, tries)] }
def withWr (w : WorkReq) (s : State) : State := { s with net := { s.net with wrs := [w], out := [.packet 0 0 9 1 .other] } }

def svc1 (n : Nat) : SvcCall := { id := 9, uid := 1, core := 0, slot := 0, vol := 1, n := n, arg := 0x2000, res := none }
def svcS (n w : Nat) (s : State) : State :=
  withCluster (fun c => { c with svcs := [svc1 n] }) (withReady [{ kind := .curator, index := 0 }] (withRecord [ofN w, 0, 0, 0, 0, 0, 0, 0] s))
def faultedSlip (s : State) : State := withSlip [3 * 2 ^ 48 + 15 * 2 ^ 55, 0, 2 ^ 48, 0, 3 * 2 ^ 61] s

def rootIn (st : RootSt) (s : State) : State := { s with root := { s.root with st := st } }
def call1 : Call := { command := 1, cid := 0, vol := 1, args := 0, session := 1, mgmt := true, port := 0, argsOk := true }

/-- The usual state with the root's self-test passed, in `g` of it. -/
def hostS (g : State → State) : State := g (rootIn .passed B)
def mapArgs0 : MapArgs := { root := none, arena := none, entries := [], peers := [], keys := [], vaRange := none }
def codeSpace (s : State) : State :=
  { withTable s with circ := { s.circ with spaces := [{ id := 1, root := some 0x10000, arena := some (0x40000, 0x1000) }] } }

def off : Hdr := { hd with pr := 1 }
def sw : Hdr := { hd with pr := 1, sw := true }
def addW (h : Hdr) : Instr := .add h .wrap .d (.g 3) (.g 1) (.g 2)
/-- The strand whose turn it is. -/
def cur (s : State) (p : Nat → Nat → Strand → Bool) : Bool := match s.clk.cur with
  | some (core, slot) => (s.strand core slot).any (p core slot)
  | none => false

/-- The strand's queue below holds a word. -/
def withWord (s : State) : State := withCore (fun c => { c with words := [{ q := q0, val := 7, frame := 0 }] }) s

def upVol : Volume := { placedVolume with rec_ := placedRecord.set 5 0x8008 }
def codeB : State := withVolume upVol (withEntry 5 entry1 B)

/-- The usual state with this agenda and due list, the word at the pc. -/
def stepS (w : Word) (agenda : List Move) (due : List Instr) : State :=
  let s := State.reset.placeWord w
  { s with clk := { s.clk with agenda := agenda, due := due } }
/-- The strand whose turn is next, with its word. -/
def turn (s : State) (p : Nat → Nat → Strand → Bool) : Bool := match s.nextTurn with
  | some (core, slot) => (s.strand core slot).any (p core slot)
  | none => false

/-- A walk of volume 1 for VA 0x1000, at the table of `withTable` with this many levels left. -/
def walk1 (fuel table : Nat) : WalkRun := { id := 9, vol := 1, va := 0x1000, fuel := fuel, table := table, for_ := [] }
def withWalk (x : WalkRun) (s : State) : State := withCluster (fun c => { c with walks := [x] }) s
def leaf1 : Leaf := { entry := ofN (2 ^ 63 + 2 ^ 62 + 2 ^ 57 + rwLeaf), bits := 30 }

/-- `stopCode` with an arena, to which residual code is written. -/
def arenaCode (s : State) : State := let s1 := stopCode s; { s1 with circ := { s1.circ with spaces := s1.circ.spaces.map fun p => { p with arena := some (0x40000, 0x1000) } } }
def takenSpec : SpecOp := { spec1 with taken := some (6, 1, 0x40000, 0) }

/-- A read request of this device's own, to peer 0. -/
def rd1 : WorkReq := { wr1 [] 0 with kind := .nread }
def netR (done : List (Nat × Nat × Nat)) (ws : List WorkReq) : State :=
  let s := withPeer peer1 (withTable B); { s with net := { s.net with wrs := ws, doneRd := done } }

/-- A `retire` whose successor has a header of these doublewords and whose bequest block has these; core 0 holds the tile. -/
def retS (hdr blk : List Nat) (x : Tile) : State :=
  st (Strand.putG · 1 (ofN (2 ^ 48 + 8 * 2 ^ 44 + 5 * 2 ^ 32 + 8)))
    (fun s => withTile x (withEntry 5 entry1 (withLeaf (rwLeaf + 2 ^ 57)
      { s with mem := (s.mem.setBytes 0x8000 (hdr.flatMap (leBytes 8))).setBytes 0x2000 (blk.flatMap (leBytes 8)) }))) 0
/-- The premises that the faults of `retire` share, and one more on the gathering and the two blocks. -/
def retAt (s : State) (p : Ctx → Gathering → List Word → List Word → Bool) : Bool :=
  (enters (formOf (.retire hd (.g 1) (.g 4))) s).any fun c => (c.s.gathering c.t.vol c.t.gidx).any fun g =>
    !c.t.free && c.slot != 63 && c.s.codePoint c.t.vol (c.g (.g 1)) == some (5, 8) && !g.retires &&
    gives (c.placePtr (c.g (.g 4)) 64 rR 64) (.va 1 0x2000) &&
    (match c.s.readWords (clusterOf c.core) (.va c.t.vol (((c.s.spaceOf c.t.vol).entry 5).base + 8 * (8 - 8))) .fetch 8, c.s.readWords 0 (.va 1 0x2000) .read 8 with
      | .ok hdr, .ok blk => p c g hdr blk
      | _, _ => false)

/-- A receive of 768 bytes as message 4 of the peer, of which these packets are in. -/
def rcv1 (got : List Nat) : WorkReq :=
  { wr1 got 0 with kind := .nrecv, msg := 4, len := some 1024, placed := 768, dws := [ofN (2 ^ 60), ptr 2 0x4000, 768, 0, 0, 0, 0, 0] }
def netV (w : WorkReq) (gp : List (Nat × Nat × Nat × Nat)) : State :=
  let s := withPeer peer1 (withTable B); { s with net := { s.net with wrs := [w], gotPk := gp } }
/-- A packet of message 4 is taken by the receive for the first time. -/
def firstIn (s : State) (w : WorkReq) (i : Nat) : Bool :=
  !s.net.gotPk.contains (1, 0, 4, i) && !s.net.doneMsg.contains (1, 0, 4) && (s.peer 0).vol == 1 && (s.volume 1).isSome &&
  s.net.wrs.find? (fun w => w.kind == .nrecv && w.iss.vol == 1 && w.peer == 0 && w.msg == 4) == some w && !w.got.contains i && w.started

/-- A member of a group, every granule of its core its own, the first element of v1 lost; and a spanning word of its that p1 turns off. -/
def lostS : State := stT fun t => { t with group := 3, bad := [17], gran := (List.range 252).map (· + 4) }
def lostT : Strand := (lostS.strand 0 0).getD (strandOf 0)
def vpermW : Instr := .vperm off .f32 3 1 2

/-- A member of a group that has issued `vperm` and holds the other's part too; `n` is the word at which it stands. -/
def spanOf : Span := { group := 3, n := 0, instr := .vperm hd .f32 3 1 2, parts := [{ idx := 1, uid := 9, op := none, a := 2, b := 0 }, { idx := 0, uid := 1, op := some 7, a := 1, b := 0 }] }
def spanS (n : Nat) : State :=
  let s := stT fun t => { t with group := 3, colN := n, ops := [{ opDone with stage := .sent }] }
  { s with circ := { s.circ with spans := [spanOf] } }
def spanAt (n : Nat) : Bool := let s := spanS n
  ((s.core 0).tileOps.find? (fun z => z.id == 7 && !z.failed)).isNone && (s.strand 0 0).any (fun t => (t.ops.find? (·.id == 7)).any (fun o => o.stage == .sent) && t.run == .ready) &&
  (s.circ.spans.findSome? (fun z => (z.parts.find? (·.op == some 7)).map fun q => (z, q))).isSome

/-! ## Hypotheses are met -/

/-- States and operands that meet the hypotheses of `IntegerArithmeticResults`. -/
theorem test_meets_IntegerArithmeticResults : (((enters (formOf (.add hd .wrap .d (GOp.g 3) (GOp.g 1) (GOp.g 2))) st0).isSome) &&
    ((enters (formOf (.addi hd .wrap .d (GOp.g 3) (GOp.g 1) (0 : BitVec 24))) st0).isSome) &&
    ((enters (formOf (.sub hd .wrap .d (GOp.g 3) (GOp.g 1) (GOp.g 2))) st0).isSome) &&
    ((enters (formOf (.mul hd .wrap .d (GOp.g 3) (GOp.g 1) (GOp.g 2))) st0).isSome) &&
    ((enters (formOf (.neg hd .wrap .d (GOp.g 3) (GOp.g 1))) st0).isSome) &&
    ((enters (formOf (.abs hd .wrap .d (GOp.g 3) (GOp.g 1))) st0).isSome) &&
    ((enters (formOf (.mulh hd .d (GOp.g 3) (GOp.g 1) (GOp.g 2))) st0).isSome) &&
    ((enters (formOf (.mulhu hd .d (GOp.g 3) (GOp.g 1) (GOp.g 2))) st0).isSome) &&
    ((enters (formOf (.min hd .d (GOp.g 3) (GOp.g 1) (GOp.g 2))) st0).isSome) &&
    ((enters (formOf (.max hd .d (GOp.g 3) (GOp.g 1) (GOp.g 2))) st0).isSome) &&
    ((enters (formOf (.minu hd .d (GOp.g 3) (GOp.g 1) (GOp.g 2))) st0).isSome) &&
    ((enters (formOf (.maxu hd .d (GOp.g 3) (GOp.g 1) (GOp.g 2))) st0).isSome)) = true := by decide +kernel

/-- States and operands that meet the hypotheses of `SaturatingDelivery`. -/
theorem test_meets_SaturatingDelivery : ((decide ((0:Nat) < 8 ∧ -(2 ^ 7 : Int) ≤ -128 ∧ (-128 : Int) < 2 ^ 7)) &&
    (decide ((0:Nat) < 8 ∧ (-129 : Int) < -(2 ^ 7))) &&
    (decide ((0:Nat) < 8 ∧ (2 ^ 7 : Int) ≤ 128)) &&
    (decide ((0:Int) ≤ 255 ∧ (255 : Int) < 2 ^ 8)) &&
    (decide ((-1 : Int) < 0)) &&
    (decide ((2 ^ 8 : Int) ≤ 256))) = true := by decide +kernel

/-- States and operands that meet the hypotheses of `IntegerDivision`. -/
theorem test_meets_IntegerDivision : (((enters (formOf (.div hd .d (GOp.g 3) (GOp.g 1) (GOp.g 2))) st0).any fun c => decide ((c.g (GOp.g 2)).toNat % 2 ^ szN .d ≠ 0)) &&
    ((enters (formOf (.divu hd .d (GOp.g 3) (GOp.g 1) (GOp.g 2))) st0).any fun c => decide ((c.g (GOp.g 2)).toNat % 2 ^ szN .d ≠ 0)) &&
    ((enters (formOf (.rem hd .d (GOp.g 3) (GOp.g 1) (GOp.g 2))) st0).any fun c => decide ((c.g (GOp.g 2)).toNat % 2 ^ szN .d ≠ 0)) &&
    ((enters (formOf (.remu hd .d (GOp.g 3) (GOp.g 1) (GOp.g 2))) st0).any fun c => decide ((c.g (GOp.g 2)).toNat % 2 ^ szN .d ≠ 0)) &&
    ((enters (formOf (.div hd .d (GOp.g 3) (GOp.g 1) (GOp.g 2))) (stG 2 0)).any fun c => decide ((c.g (GOp.g 2)).toNat % 2 ^ szN .d = 0)) &&
    ((enters (formOf (.divu hd .d (GOp.g 3) (GOp.g 1) (GOp.g 2))) (stG 2 0)).any fun c => decide ((c.g (GOp.g 2)).toNat % 2 ^ szN .d = 0)) &&
    ((enters (formOf (.rem hd .d (GOp.g 3) (GOp.g 1) (GOp.g 2))) (stG 2 0)).any fun c => decide ((c.g (GOp.g 2)).toNat % 2 ^ szN .d = 0)) &&
    ((enters (formOf (.remu hd .d (GOp.g 3) (GOp.g 1) (GOp.g 2))) (stG 2 0)).any fun c => decide ((c.g (GOp.g 2)).toNat % 2 ^ szN .d = 0))) = true := by decide +kernel

/-- States and operands that meet the hypotheses of `IntegerBitResults`. -/
theorem test_meets_IntegerBitResults_1 : (((enters (formOf (.and hd .d (GOp.g 3) (GOp.g 1) (GOp.g 2))) st0).isSome) &&
    ((enters (formOf (.or hd .d (GOp.g 3) (GOp.g 1) (GOp.g 2))) st0).isSome) &&
    ((enters (formOf (.xor hd .d (GOp.g 3) (GOp.g 1) (GOp.g 2))) st0).isSome) &&
    ((enters (formOf (.andn hd .d (GOp.g 3) (GOp.g 1) (GOp.g 2))) st0).isSome) &&
    ((enters (formOf (.andi hd .d (GOp.g 3) (GOp.g 1) (0 : BitVec 24))) st0).isSome) &&
    ((enters (formOf (.ori hd .d (GOp.g 3) (GOp.g 1) (0 : BitVec 24))) st0).isSome) &&
    ((enters (formOf (.xori hd .d (GOp.g 3) (GOp.g 1) (0 : BitVec 24))) st0).isSome) &&
    ((enters (formOf (.shl hd .d (GOp.g 3) (GOp.g 1) (GOp.g 2))) st0).isSome) &&
    ((enters (formOf (.shr hd .d (GOp.g 3) (GOp.g 1) (GOp.g 2))) st0).isSome) &&
    ((enters (formOf (.sar hd .d (GOp.g 3) (GOp.g 1) (GOp.g 2))) st0).isSome) &&
    ((enters (formOf (.rol hd .d (GOp.g 3) (GOp.g 1) (GOp.g 2))) st0).isSome) &&
    ((enters (formOf (.shli hd .d (GOp.g 3) (GOp.g 1) (0 : BitVec 24))) st0).isSome) &&
    ((enters (formOf (.shri hd .d (GOp.g 3) (GOp.g 1) (0 : BitVec 24))) st0).isSome) &&
    ((enters (formOf (.sari hd .d (GOp.g 3) (GOp.g 1) (0 : BitVec 24))) st0).isSome) &&
    ((enters (formOf (.clz hd .d (GOp.g 3) (GOp.g 1))) st0).isSome) &&
    ((enters (formOf (.ctz hd .d (GOp.g 3) (GOp.g 1))) st0).isSome)) = true := by decide +kernel

/-- States and operands that meet the hypotheses of `IntegerBitResults`. -/
theorem test_meets_IntegerBitResults_2 : (((enters (formOf (.popc hd .d (GOp.g 3) (GOp.g 1))) st0).isSome) &&
    ((enters (formOf (.bfx hd (GOp.g 3) (GOp.g 1) (0 : BitVec 24))) st0).isSome) &&
    ((enters (formOf (.sext hd .d (GOp.g 3) (GOp.g 1))) st0).isSome) &&
    ((enters (formOf (.zext hd .d (GOp.g 3) (GOp.g 1))) st0).isSome) &&
    ((enters (formOf (.mov hd .d (GOp.g 3) (GOp.g 1))) st0).isSome)) = true := by decide +kernel

/-- States and operands that meet the hypotheses of `MovesAndInserts`. -/
theorem test_meets_MovesAndInserts : (((enters (formOf (.movi hd (GOp.g 3) (1 : BitVec 32))) st0).isSome) &&
    ((enters (formOf (.movhi hd (GOp.g 3) (1 : BitVec 32))) st0).isSome) &&
    ((enters (formOf (.bfi hd (.g 3) (.g 1) 0x308)) st0).isSome) &&
    ((enters (formOf (.lea hd (GOp.g 3) (GOp.g 1) 1 (8 : BitVec 20))) st0).isSome) &&
    ((enters (formOf (.sel hd (GOp.g 3) (GOp.g 1) (GOp.g 2) (1 : Fin 16))) (stT fun t => { t with pred := 3 })).any fun c => decide (c.t.pred.getLsbD (1 : Fin 16) = true)) &&
    ((enters (formOf (.sel hd (GOp.g 3) (GOp.g 1) (GOp.g 2) (1 : Fin 16))) st0).any fun c => decide (c.t.pred.getLsbD (1 : Fin 16) = false))) = true := by decide +kernel

/-- States and operands that meet the hypotheses of `PredicateResults`. -/
theorem test_meets_PredicateResults : (((enters (formOf (.cmp hd .eq .d (3 : Fin 16) (GOp.g 1) (GOp.g 2))) st0).isSome) &&
    ((enters (formOf (.cmpi hd .eq .d (3 : Fin 16) (GOp.g 1) (0 : BitVec 24))) st0).isSome) &&
    ((enters (formOf (.fcmp hd .eq .f32 (3 : Fin 16) (GOp.g 1) (GOp.g 2))) st0).isSome) &&
    ((enters (formOf (.pand hd (3 : Fin 16) (1 : Fin 16) (2 : Fin 16))) st0).isSome) &&
    ((enters (formOf (.por hd (3 : Fin 16) (1 : Fin 16) (2 : Fin 16))) st0).isSome) &&
    ((enters (formOf (.pxor hd (3 : Fin 16) (1 : Fin 16) (2 : Fin 16))) st0).isSome) &&
    ((enters (formOf (.pandn hd (3 : Fin 16) (1 : Fin 16) (2 : Fin 16))) st0).isSome) &&
    ((enters (formOf (.mfp hd (GOp.g 3))) st0).isSome) &&
    ((enters (formOf (.mtp hd (GOp.g 1))) st0).isSome) &&
    (decide (0 < 15 ∧ 15 < 16))) = true := by decide +kernel

/-- States and operands that meet the hypotheses of `SpecialRegisters`. -/
theorem test_meets_SpecialRegisters : (((enters (formOf (.mfs hd (GOp.g 3) (0 : BitVec 24))) st0).isSome) &&
    ((enters (formOf (.mts hd (GOp.g 1) (0 : BitVec 24))) st0).isSome) &&
    (decide (15 ≠ 9)) &&
    (decide (15 ≠ 12)) &&
    (decide (15 ≠ 13)) &&
    (decide (15 ≠ 14)) &&
    (decide (15 ≠ 9 ∧ 15 ≠ 12 ∧ 15 ≠ 13 ∧ 15 ≠ 14)) &&
    (decide (13 ≠ 9)) &&
    ((B.gathering 1 0).isSome) &&
    ((B.volume 1).isSome)) = true := by decide +kernel

/-- States and operands that meet the hypotheses of `ScalarFloatResults`. -/
theorem test_meets_ScalarFloatResults : (((enters (formOf (.fadd hd .f32 .rne (GOp.g 3) (GOp.g 1) (GOp.g 2))) st0).isSome) &&
    ((enters (formOf (.fsub hd .f32 .rne (GOp.g 3) (GOp.g 1) (GOp.g 2))) st0).isSome) &&
    ((enters (formOf (.fmul hd .f32 .rne (GOp.g 3) (GOp.g 1) (GOp.g 2))) st0).isSome) &&
    ((enters (formOf (.ffma hd .f32 .rne (GOp.g 3) (GOp.g 1) (GOp.g 2) (GOp.g 5))) st0).isSome) &&
    ((enters (formOf (.fmin hd .f32 .rne (GOp.g 3) (GOp.g 1) (GOp.g 2))) st0).isSome) &&
    ((enters (formOf (.fmax hd .f32 .rne (GOp.g 3) (GOp.g 1) (GOp.g 2))) st0).isSome) &&
    ((enters (formOf (.fcvt hd cvF (GOp.g 3) (GOp.g 1))) st0).isSome)) = true := by decide +kernel

/-- States and operands that meet the hypotheses of `VectorElementwise`. -/
theorem test_meets_VectorElementwise : (((enters (formOf (.vadd hd vf32 (3 : Fin 16) (1 : Fin 16) (.v 2))) st0).isSome) &&
    ((enters (formOf (.vsub hd vf32 (3 : Fin 16) (1 : Fin 16) (.v 2))) st0).isSome) &&
    ((enters (formOf (.vmul hd vf32 (3 : Fin 16) (1 : Fin 16) (.v 2))) st0).isSome) &&
    ((enters (formOf (.vfma hd vf32 (3 : Fin 16) (1 : Fin 16) (.v 2) (4 : Fin 16))) st0).isSome) &&
    ((enters (formOf (.vmin hd vf32 (3 : Fin 16) (1 : Fin 16) (.v 2))) st0).isSome) &&
    ((enters (formOf (.vmax hd vf32 (3 : Fin 16) (1 : Fin 16) (.v 2))) st0).isSome) &&
    ((enters (formOf (.vabs hd vf32 (3 : Fin 16) (1 : Fin 16))) st0).isSome) &&
    ((enters (formOf (.vneg hd vf32 (3 : Fin 16) (1 : Fin 16))) st0).isSome) &&
    ((enters (formOf (.vand hd (3 : Fin 16) (1 : Fin 16) (.v 2))) st0).isSome) &&
    ((enters (formOf (.vor hd (3 : Fin 16) (1 : Fin 16) (.v 2))) st0).isSome) &&
    ((enters (formOf (.vxor hd (3 : Fin 16) (1 : Fin 16) (.v 2))) st0).isSome) &&
    ((enters (formOf (.vshl hd .f32 (3 : Fin 16) (1 : Fin 16) (.v 2))) st0).isSome) &&
    ((enters (formOf (.vshr hd .f32 (3 : Fin 16) (1 : Fin 16) (.v 2))) st0).isSome) &&
    ((enters (formOf (.vsar hd .f32 (3 : Fin 16) (1 : Fin 16) (.v 2))) st0).isSome)) = true := by decide +kernel

/-- States and operands that meet the hypotheses of `VectorMoves`. -/
theorem test_meets_VectorMoves_1 : (((enters (formOf (.vcmp hd .eq .f32 (GOp.g 3) (1 : Fin 16) (.v 2))) st0).isSome) &&
    ((enters (formOf (.vsel hd .f32 (3 : Fin 16) (1 : Fin 16) (2 : Fin 16) (GOp.g 5))) st0).isSome) &&
    ((enters (formOf (.vbc hd .f32 (3 : Fin 16) (GOp.g 1))) st0).isSome) &&
    ((enters (formOf (.vget hd .f32 (GOp.g 3) (1 : Fin 16) (0 : BitVec 6))) st0).isSome) &&
    ((enters (formOf (.vput hd .f32 (3 : Fin 16) (GOp.g 1) (0 : BitVec 6))) st0).isSome) &&
    ((enters (formOf (.vperm hd .f32 (3 : Fin 16) (1 : Fin 16) (2 : Fin 16))) st0).any fun c => decide (c.t.group = 0)) &&
    ((enters (formOf (.vred hd .add vf32 (GOp.g 3) (1 : Fin 16))) st0).any fun c => decide (c.t.group = 0)) &&
    ((enters (formOf (.vdot hd vf32 (GOp.g 3) (1 : Fin 16) (2 : Fin 16))) st0).any fun c => decide (c.t.group = 0)) &&
    ((enters (formOf (.vperm hd .f32 (3 : Fin 16) (1 : Fin 16) (2 : Fin 16))) (stT fun t => { t with group := 3 })).any fun c => decide (c.t.group ≠ 0)) &&
    ((enters (formOf (.vred hd .add vf32 (GOp.g 3) (1 : Fin 16))) (stT fun t => { t with group := 3 })).any fun c => decide (c.t.group ≠ 0)) &&
    ((enters (formOf (.vdot hd vf32 (GOp.g 3) (1 : Fin 16) (2 : Fin 16))) (stT fun t => { t with group := 3 })).any fun c => decide (c.t.group ≠ 0)) &&
    (spanAt 1 && (spanS 1).strands.all fun e => e.2.group != 3 || decide (0 < e.2.colN)) &&
    (spanAt 0 && (spanS 0).strands.any fun e => e.2.group == 3 && decide (e.2.colN ≤ 0)) &&
    (spanOf.instr == .vperm hd .f32 3 1 2) &&
    (({ spanOf with instr := .vred hd .add vf32 (.g 3) 1 } : Span).instr == .vred hd .add vf32 (.g 3) 1) &&
    (({ spanOf with instr := .vdot hd vf32 (.g 3) 1 2 } : Span).instr == .vdot hd vf32 (.g 3) 1 2)) = true := by decide +kernel

/-- States and operands that meet the hypotheses of `VectorMoves`. -/
theorem test_meets_VectorMoves_2 : (((sortParts spanOf.parts)[0]? == some { idx := 0, uid := 1, op := some 7, a := 1, b := 0 } && (sortParts spanOf.parts)[1]? == some { idx := 1, uid := 9, op := none, a := 2, b := 0 })) = true := by decide +kernel

/-- States and operands that meet the hypotheses of `VectorConversions`. -/
theorem test_meets_VectorConversions : (((enters (formOf (.vcvt hd cvF (3 : Fin 16) (1 : Fin 16))) st0).isSome) &&
    ((enters (formOf (.vqnt hd false .f32 (3 : Fin 16) (1 : Fin 16) (GOp.g 2))) st0).isSome) &&
    ((enters (formOf (.vdeq hd .f32 (3 : Fin 16) (1 : Fin 16) (GOp.g 2))) st0).isSome) &&
    ((enters (formOf (.amxrd hd (GOp.g 3))) st0).isSome) &&
    ((enters (formOf (.amxsw hd (GOp.g 3) (GOp.g 1))) st0).any fun c => decide (isNan (fpF32.value ((c.g (GOp.g 1)).toNat % 2 ^ 31)) = false)) &&
    ((enters (formOf (.amxsw hd (GOp.g 3) (GOp.g 1))) (stG 1 0x7FC00001)).any fun c => decide (isNan (fpF32.value ((c.g (GOp.g 1)).toNat % 2 ^ 31)) = true))) = true := by decide +kernel

/-- States and operands that meet the hypotheses of `BranchOutcomes`. -/
theorem test_meets_BranchOutcomes_1 : (((enters (formOf (.br hd (0 : BitVec 24))) st0).any fun c => decide (¬ follows (formOf (.br hd (0 : BitVec 24))) c.t ∧ c.targetOk (c.branchTo (0 : BitVec 24)))) &&
    ((enters (formOf (.beq hd (GOp.g 1) (GOp.g 2) (0 : BitVec 24))) (stG 1 5)).any fun c => decide (¬ follows (formOf (.beq hd (GOp.g 1) (GOp.g 2) (0 : BitVec 24))) c.t ∧ c.g (GOp.g 1) = c.g (GOp.g 2) ∧ c.targetOk (c.branchTo (0 : BitVec 24)))) &&
    ((enters (formOf (.beq hd (GOp.g 1) (GOp.g 2) (0 : BitVec 24))) st0).any fun c => decide (¬ follows (formOf (.beq hd (GOp.g 1) (GOp.g 2) (0 : BitVec 24))) c.t ∧ ¬ c.g (GOp.g 1) = c.g (GOp.g 2))) &&
    ((enters (formOf (.bne hd (GOp.g 1) (GOp.g 2) (0 : BitVec 24))) st0).any fun c => decide (¬ follows (formOf (.bne hd (GOp.g 1) (GOp.g 2) (0 : BitVec 24))) c.t ∧ c.g (GOp.g 1) ≠ c.g (GOp.g 2) ∧ c.targetOk (c.branchTo (0 : BitVec 24)))) &&
    ((enters (formOf (.bne hd (GOp.g 1) (GOp.g 2) (0 : BitVec 24))) (stG 1 5)).any fun c => decide (¬ follows (formOf (.bne hd (GOp.g 1) (GOp.g 2) (0 : BitVec 24))) c.t ∧ ¬ c.g (GOp.g 1) ≠ c.g (GOp.g 2))) &&
    ((enters (formOf (.blt hd (GOp.g 1) (GOp.g 2) (0 : BitVec 24))) (stG 1 0)).any fun c => decide (¬ follows (formOf (.blt hd (GOp.g 1) (GOp.g 2) (0 : BitVec 24))) c.t ∧ (c.g (GOp.g 1)).toInt < (c.g (GOp.g 2)).toInt ∧ c.targetOk (c.branchTo (0 : BitVec 24)))) &&
    ((enters (formOf (.blt hd (GOp.g 1) (GOp.g 2) (0 : BitVec 24))) st0).any fun c => decide (¬ follows (formOf (.blt hd (GOp.g 1) (GOp.g 2) (0 : BitVec 24))) c.t ∧ ¬ (c.g (GOp.g 1)).toInt < (c.g (GOp.g 2)).toInt)) &&
    ((enters (formOf (.bge hd (GOp.g 1) (GOp.g 2) (0 : BitVec 24))) (stG 1 5)).any fun c => decide (¬ follows (formOf (.bge hd (GOp.g 1) (GOp.g 2) (0 : BitVec 24))) c.t ∧ (c.g (GOp.g 2)).toInt ≤ (c.g (GOp.g 1)).toInt ∧ c.targetOk (c.branchTo (0 : BitVec 24)))) &&
    ((enters (formOf (.bge hd (GOp.g 1) (GOp.g 2) (0 : BitVec 24))) (stG 1 4)).any fun c => decide (¬ follows (formOf (.bge hd (GOp.g 1) (GOp.g 2) (0 : BitVec 24))) c.t ∧ ¬ (c.g (GOp.g 2)).toInt ≤ (c.g (GOp.g 1)).toInt)) &&
    ((enters (formOf (.bltu hd (GOp.g 1) (GOp.g 2) (0 : BitVec 24))) (stG 1 0)).any fun c => decide (¬ follows (formOf (.bltu hd (GOp.g 1) (GOp.g 2) (0 : BitVec 24))) c.t ∧ (c.g (GOp.g 1)).toNat < (c.g (GOp.g 2)).toNat ∧ c.targetOk (c.branchTo (0 : BitVec 24)))) &&
    ((enters (formOf (.bltu hd (GOp.g 1) (GOp.g 2) (0 : BitVec 24))) st0).any fun c => decide (¬ follows (formOf (.bltu hd (GOp.g 1) (GOp.g 2) (0 : BitVec 24))) c.t ∧ ¬ (c.g (GOp.g 1)).toNat < (c.g (GOp.g 2)).toNat)) &&
    ((enters (formOf (.bgeu hd (GOp.g 1) (GOp.g 2) (0 : BitVec 24))) (stG 1 5)).any fun c => decide (¬ follows (formOf (.bgeu hd (GOp.g 1) (GOp.g 2) (0 : BitVec 24))) c.t ∧ (c.g (GOp.g 2)).toNat ≤ (c.g (GOp.g 1)).toNat ∧ c.targetOk (c.branchTo (0 : BitVec 24)))) &&
    ((enters (formOf (.bgeu hd (GOp.g 1) (GOp.g 2) (0 : BitVec 24))) (stG 1 4)).any fun c => decide (¬ follows (formOf (.bgeu hd (GOp.g 1) (GOp.g 2) (0 : BitVec 24))) c.t ∧ ¬ (c.g (GOp.g 2)).toNat ≤ (c.g (GOp.g 1)).toNat)) &&
    ((enters (formOf (.br hd (1 : BitVec 24))) (stT fun t => { t.putG 1 0x1000 with sregs := setAt t.sregs 0 (mkDesc 1 (rR + rX) 0 8) })).any fun c => decide (¬ follows (formOf (.br hd (1 : BitVec 24))) c.t ∧ True ∧ c.targetOk (c.branchTo (1 : BitVec 24)) = false)) &&
    ((enters (formOf (.beq hd (GOp.g 1) (GOp.g 2) (1 : BitVec 24))) (stT fun t => { t.putG 1 5 with sregs := setAt t.sregs 0 (mkDesc 1 (rR + rX) 0 8) })).any fun c => decide (¬ follows (formOf (.beq hd (GOp.g 1) (GOp.g 2) (1 : BitVec 24))) c.t ∧ c.g (GOp.g 1) = c.g (GOp.g 2) ∧ c.targetOk (c.branchTo (1 : BitVec 24)) = false)) &&
    ((enters (formOf (.bne hd (GOp.g 1) (GOp.g 2) (1 : BitVec 24))) (stT fun t => { t.putG 1 0x1000 with sregs := setAt t.sregs 0 (mkDesc 1 (rR + rX) 0 8) })).any fun c => decide (¬ follows (formOf (.bne hd (GOp.g 1) (GOp.g 2) (1 : BitVec 24))) c.t ∧ c.g (GOp.g 1) ≠ c.g (GOp.g 2) ∧ c.targetOk (c.branchTo (1 : BitVec 24)) = false))) = true := by decide +kernel

/-- States and operands that meet the hypotheses of `BranchOutcomes`. -/
theorem test_meets_BranchOutcomes_2 : (((enters (formOf (.blt hd (GOp.g 1) (GOp.g 2) (1 : BitVec 24))) (stT fun t => { t.putG 1 4 with sregs := setAt t.sregs 0 (mkDesc 1 (rR + rX) 0 8) })).any fun c => decide (¬ follows (formOf (.blt hd (GOp.g 1) (GOp.g 2) (1 : BitVec 24))) c.t ∧ (c.g (GOp.g 1)).toInt < (c.g (GOp.g 2)).toInt ∧ c.targetOk (c.branchTo (1 : BitVec 24)) = false)) &&
    ((enters (formOf (.bge hd (GOp.g 1) (GOp.g 2) (1 : BitVec 24))) (stT fun t => { t.putG 1 0x1000 with sregs := setAt t.sregs 0 (mkDesc 1 (rR + rX) 0 8) })).any fun c => decide (¬ follows (formOf (.bge hd (GOp.g 1) (GOp.g 2) (1 : BitVec 24))) c.t ∧ (c.g (GOp.g 2)).toInt ≤ (c.g (GOp.g 1)).toInt ∧ c.targetOk (c.branchTo (1 : BitVec 24)) = false)) &&
    ((enters (formOf (.bltu hd (GOp.g 1) (GOp.g 2) (1 : BitVec 24))) (stT fun t => { t.putG 1 4 with sregs := setAt t.sregs 0 (mkDesc 1 (rR + rX) 0 8) })).any fun c => decide (¬ follows (formOf (.bltu hd (GOp.g 1) (GOp.g 2) (1 : BitVec 24))) c.t ∧ (c.g (GOp.g 1)).toNat < (c.g (GOp.g 2)).toNat ∧ c.targetOk (c.branchTo (1 : BitVec 24)) = false)) &&
    ((enters (formOf (.bgeu hd (GOp.g 1) (GOp.g 2) (1 : BitVec 24))) (stT fun t => { t.putG 1 0x1000 with sregs := setAt t.sregs 0 (mkDesc 1 (rR + rX) 0 8) })).any fun c => decide (¬ follows (formOf (.bgeu hd (GOp.g 1) (GOp.g 2) (1 : BitVec 24))) c.t ∧ (c.g (GOp.g 2)).toNat ≤ (c.g (GOp.g 1)).toNat ∧ c.targetOk (c.branchTo (1 : BitVec 24)) = false)) &&
    ((enters (formOf (.br hd (0 : BitVec 24))) (stT fun t => { t with group := 3, colI := 1, lead := some { pred := 1, pc := 0x40, w := 5 } })).any fun c => decide (follows (formOf (.br hd (0 : BitVec 24))) c.t = true)) &&
    ((enters (formOf (.beq hd (GOp.g 1) (GOp.g 2) (0 : BitVec 24))) (stT fun t => { t with group := 3, colI := 1, lead := some { pred := 1, pc := 0x40, w := 5 } })).any fun c => decide (follows (formOf (.beq hd (GOp.g 1) (GOp.g 2) (0 : BitVec 24))) c.t = true)) &&
    ((enters (formOf (.bne hd (GOp.g 1) (GOp.g 2) (0 : BitVec 24))) (stT fun t => { t with group := 3, colI := 1, lead := some { pred := 1, pc := 0x40, w := 5 } })).any fun c => decide (follows (formOf (.bne hd (GOp.g 1) (GOp.g 2) (0 : BitVec 24))) c.t = true)) &&
    ((enters (formOf (.blt hd (GOp.g 1) (GOp.g 2) (0 : BitVec 24))) (stT fun t => { t with group := 3, colI := 1, lead := some { pred := 1, pc := 0x40, w := 5 } })).any fun c => decide (follows (formOf (.blt hd (GOp.g 1) (GOp.g 2) (0 : BitVec 24))) c.t = true)) &&
    ((enters (formOf (.bge hd (GOp.g 1) (GOp.g 2) (0 : BitVec 24))) (stT fun t => { t with group := 3, colI := 1, lead := some { pred := 1, pc := 0x40, w := 5 } })).any fun c => decide (follows (formOf (.bge hd (GOp.g 1) (GOp.g 2) (0 : BitVec 24))) c.t = true)) &&
    ((enters (formOf (.bltu hd (GOp.g 1) (GOp.g 2) (0 : BitVec 24))) (stT fun t => { t with group := 3, colI := 1, lead := some { pred := 1, pc := 0x40, w := 5 } })).any fun c => decide (follows (formOf (.bltu hd (GOp.g 1) (GOp.g 2) (0 : BitVec 24))) c.t = true)) &&
    ((enters (formOf (.bgeu hd (GOp.g 1) (GOp.g 2) (0 : BitVec 24))) (stT fun t => { t with group := 3, colI := 1, lead := some { pred := 1, pc := 0x40, w := 5 } })).any fun c => decide (follows (formOf (.bgeu hd (GOp.g 1) (GOp.g 2) (0 : BitVec 24))) c.t = true)) &&
    ((enters (formOf (.br hd 0)) (stT fun t => { t with group := 3, colI := 1, lead := some { pred := 1, pc := 0x40, w := 5 } })).any fun c => c.s.leadOf c.t == some ({ pred := 1, pc := 0x40, w := 5 } : Decision)) &&
    ((enters (formOf (.br hd 0)) (stT fun t => { t with group := 3, colI := 1, lead := none })).any fun c => c.s.leadOf c.t == none)) = true := by decide +kernel

/-- States and operands that meet the hypotheses of `LinksAndLoops`. -/
theorem test_meets_LinksAndLoops_1 : (((enters (formOf (.nop hd)) st0).isSome) &&
    ((enters (formOf (.call hd (GOp.g 1) (0 : BitVec 24))) st0).any fun c => decide (¬ follows (formOf (.call hd (GOp.g 1) (0 : BitVec 24))) c.t ∧ (c.put (GOp.g 1) c.link).targetOk (c.branchTo (0 : BitVec 24)))) &&
    ((enters (formOf (.jr hd (GOp.g 3) (GOp.g 1))) st0).any fun c => decide (¬ follows (formOf (.jr hd (GOp.g 3) (GOp.g 1))) c.t ∧ (c.g (GOp.g 1)).toNat < 2 ^ 48 ∧ (c.put (GOp.g 3) c.link).targetOk (c.codeBase + (c.g (GOp.g 1)).toNat))) &&
    ((enters (formOf (.jr hd (GOp.g 3) (GOp.g 1))) (stG 1 0x1000000000000)).any fun c => decide (¬ follows (formOf (.jr hd (GOp.g 3) (GOp.g 1))) c.t ∧ 2 ^ 48 ≤ (c.g (GOp.g 1)).toNat)) &&
    ((enters (formOf (.loop hd (GOp.g 1) (0 : BitVec 24))) st0).any fun c => decide (¬ follows (formOf (.loop hd (GOp.g 1) (0 : BitVec 24))) c.t ∧ c.g (GOp.g 1) ≠ 1 ∧ (c.put (GOp.g 1) (c.g (GOp.g 1) - 1)).targetOk (c.branchTo (0 : BitVec 24)))) &&
    ((enters (formOf (.loop hd (GOp.g 1) (0 : BitVec 24))) (stG 1 1)).any fun c => decide (¬ follows (formOf (.loop hd (GOp.g 1) (0 : BitVec 24))) c.t ∧ c.g (GOp.g 1) = 1)) &&
    ((enters (formOf (.wait hd (GOp.g 1) (0 : BitVec 24))) (stG 1 (-1))).any fun c => decide (¬ follows (formOf (.wait hd (GOp.g 1) (0 : BitVec 24))) c.t ∧ (c.g (GOp.g 1) + sx64 (0 : BitVec 24)).toInt ≤ 0)) &&
    ((enters (formOf (.wait hd (GOp.g 1) (0 : BitVec 24))) st0).any fun c => decide (¬ follows (formOf (.wait hd (GOp.g 1) (0 : BitVec 24))) c.t ∧ 0 < (c.g (GOp.g 1) + sx64 (0 : BitVec 24)).toInt)) &&
    ((enters (formOf (.call hd (GOp.g 1) (1 : BitVec 24))) (stT fun t => { t.putG 1 0x1000 with sregs := setAt t.sregs 0 (mkDesc 1 (rR + rX) 0 8) })).any fun c => decide (¬ follows (formOf (.call hd (GOp.g 1) (1 : BitVec 24))) c.t ∧ (c.put (GOp.g 1) c.link).targetOk (c.branchTo (1 : BitVec 24)) = false)) &&
    ((enters (formOf (.jr hd (GOp.g 3) (GOp.g 1))) (stT fun t => { t.putG 1 8 with sregs := setAt t.sregs 0 (mkDesc 1 (rR + rX) 0 8) })).any fun c => decide (¬ follows (formOf (.jr hd (GOp.g 3) (GOp.g 1))) c.t ∧ (c.g (GOp.g 1)).toNat < 2 ^ 48 ∧ (c.put (GOp.g 3) c.link).targetOk (c.codeBase + (c.g (GOp.g 1)).toNat) = false)) &&
    ((enters (formOf (.loop hd (GOp.g 1) (1 : BitVec 24))) (stT fun t => { t.putG 1 2 with sregs := setAt t.sregs 0 (mkDesc 1 (rR + rX) 0 8) })).any fun c => decide (¬ follows (formOf (.loop hd (GOp.g 1) (1 : BitVec 24))) c.t ∧ c.g (GOp.g 1) ≠ 1 ∧ (c.put (GOp.g 1) (c.g (GOp.g 1) - 1)).targetOk (c.branchTo (1 : BitVec 24)) = false)) &&
    ((enters (formOf (.call hd (GOp.g 1) (0 : BitVec 24))) (stT fun t => { t with group := 3, colI := 1, lead := some { pred := 1, pc := 0x40, w := 5 } })).any fun c => decide (follows (formOf (.call hd (GOp.g 1) (0 : BitVec 24))) c.t = true)) &&
    ((enters (formOf (.jr hd (GOp.g 3) (GOp.g 1))) (stT fun t => { t with group := 3, colI := 1, lead := some { pred := 1, pc := 0x40, w := 5 } })).any fun c => decide (follows (formOf (.jr hd (GOp.g 3) (GOp.g 1))) c.t = true)) &&
    ((enters (formOf (.loop hd (GOp.g 1) (0 : BitVec 24))) (stT fun t => { t with group := 3, colI := 1, lead := some { pred := 1, pc := 0x40, w := 5 } })).any fun c => decide (follows (formOf (.loop hd (GOp.g 1) (0 : BitVec 24))) c.t = true)) &&
    ((enters (formOf (.wait hd (GOp.g 1) (0 : BitVec 24))) (stT fun t => { t with group := 3, colI := 1, lead := some { pred := 1, pc := 0x40, w := 0 } })).any fun c => decide (follows (formOf (.wait hd (GOp.g 1) (0 : BitVec 24))) c.t = true ∧ c.s.leadOf c.t = some ({ pred := 1, pc := 0x40, w := 0 } : Decision) ∧ ({ pred := 1, pc := 0x40, w := 0 } : Decision).w.toInt ≤ 0)) &&
    ((enters (formOf (.wait hd (GOp.g 1) (0 : BitVec 24))) (stT fun t => { t with group := 3, colI := 1, lead := some { pred := 1, pc := 0x40, w := 5 } })).any fun c => decide (follows (formOf (.wait hd (GOp.g 1) (0 : BitVec 24))) c.t = true ∧ c.s.leadOf c.t = some ({ pred := 1, pc := 0x40, w := 5 } : Decision) ∧ 0 < ({ pred := 1, pc := 0x40, w := 5 } : Decision).w.toInt))) = true := by decide +kernel

/-- States and operands that meet the hypotheses of `LinksAndLoops`. -/
theorem test_meets_LinksAndLoops_2 : (((enters (formOf (.wait hd (GOp.g 1) (0 : BitVec 24))) (stT fun t => { t with group := 3, colI := 1, lead := none })).any fun c => decide (follows (formOf (.wait hd (GOp.g 1) (0 : BitVec 24))) c.t = true ∧ c.s.leadOf c.t = none)) &&
    (let s := B.setStrand 0 1 { strandOf 1 with uid := 9, group := 3, colN := 1 }; let t : Strand := { strandOf 0 with group := 3, colI := 1 }; t.lead == none && (s.leaderOf t).any fun l => decide (t.colN < l.colN)) &&
    (({ strandOf 0 with lead := some { pred := 1, pc := 0x40, w := 5 } } : Strand).lead == some { pred := 1, pc := 0x40, w := 5 })) = true := by decide +kernel

/-- States and operands that meet the hypotheses of `EndsAndYields`. -/
theorem test_meets_EndsAndYields : (((enters (formOf (.stop hd)) st0).any fun c => decide (¬ follows (formOf (.stop hd)) c.t ∨ c.s.leadOf c.t ≠ none)) &&
    ((enters (formOf (.yield hd)) st0).any fun c => decide (c.slot = 63 ∨ c.s.inPair c.core c.slot = true ∨ c.t.faulter.isSome = true ∨ c.t.colEnd.isSome = true)) &&
    ((enters (formOf (.yield hd)) (stS (withShape 0))).any fun c => decide (c.slot ≠ 63 ∧ c.s.inPair c.core c.slot = false ∧ c.t.faulter = none ∧ c.t.colEnd = none ∧ c.t.bad = [] ∧ c.t.predBad = false ∧ c.t.sregBad = [])) &&
    ((enters (formOf (.collate hd (2 : BitVec 24))) (stS (withShape 0x2001))).any fun c => decide (c.t.free = false ∧ c.slot ≠ 63 ∧ c.t.group = 0 ∧ 2 * (c.t.role / 2) + 2 ≤ c.s.coreCount c.t ∧ (c.s.gathering c.t.vol c.t.gidx).any (fun g => shapeCol g.shape != 0 && decide (2 ≤ 2 ^ shapeCol g.shape)) ∧ c.s.clashes c.t 2 = [] ∧ (c.s.partners c.t 2).length + 1 ≠ 2)) &&
    ((enters (formOf (.collate hd (2 : BitVec 24))) (stS fun s => (withShape 0x2001 s).setStrand 1 0 { strandOf 0 with uid := 9, role := 1, run := .parked (.collate 2) })).any fun c => decide (c.t.free = false ∧ c.slot ≠ 63 ∧ c.t.group = 0 ∧ 2 * (c.t.role / 2) + 2 ≤ c.s.coreCount c.t ∧ (c.s.gathering c.t.vol c.t.gidx).any (fun g => shapeCol g.shape != 0 && decide (2 ≤ 2 ^ shapeCol g.shape)) ∧ c.s.clashes c.t 2 = [] ∧ (c.s.partners c.t 2).length + 1 = 2 ∧ ∀ e ∈ c.s.partners c.t 2, e.2.inCollate 2 = true)) &&
    ((enters (formOf (.collate hd (2 : BitVec 24))) (stT fun t => { t with free := true })).any fun c => decide (c.t.free = true ∨ c.slot = 63 ∨ c.t.group ≠ 0)) &&
    ((enters (formOf (.disband hd)) st0).isSome) &&
    ((enters (formOf (.stop hd)) (stT fun t => { t with group := 3, colI := 1 })).any fun c => decide (follows (formOf (.stop hd)) c.t = true ∧ c.s.leadOf c.t = none)) &&
    ((enters (formOf (.collate hd (2 : BitVec 24))) (stS fun s => (withShape 0x2001 s).setStrand 1 0 { strandOf 0 with uid := 9, role := 1, run := .parked (.collate 4) })).any fun c => decide (c.t.free = false ∧ c.slot ≠ 63 ∧ c.t.group = 0 ∧ 2 * (c.t.role / 2) + 2 ≤ c.s.coreCount c.t ∧ (c.s.gathering c.t.vol c.t.gidx).any (fun g => shapeCol g.shape != 0 && decide (2 ≤ 2 ^ shapeCol g.shape)) ∧ c.s.clashes c.t 2 ≠ []))) = true := by decide +kernel

/-- States and operands that meet the hypotheses of `BarrierInstructions`. -/
theorem test_meets_BarrierInstructions : (((enters (formOf (.bara hd (0 : BitVec 24))) (stS (withShape 0x800000000000))).any fun c => decide (c.barrierBad (0 : BitVec 24).toNat = none ∧ (c.s.barrierOf c.t (0 : BitVec 24).toNat).1 ≤ (c.s.barrierOf c.t (0 : BitVec 24).toNat).2)) &&
    ((enters (formOf (.barw hd (0 : BitVec 24))) (stS (withShape 0x800000000000))).any fun c => decide (c.barrierBad (0 : BitVec 24).toNat = none ∧ (c.s.barrierOf c.t (0 : BitVec 24).toNat).1 ≤ (c.s.barrierOf c.t (0 : BitVec 24).toNat).2)) &&
    ((enters (formOf (.bara hd (0 : BitVec 24))) (stS (withShape 0))).any fun c => decide ((c.s.gathering c.t.vol c.t.gidx).any (fun g => decide (shapeNbar g.shape ≤ 0)) = true)) &&
    ((enters (formOf (.barw hd (0 : BitVec 24))) (stS (withShape 0))).any fun c => decide ((c.s.gathering c.t.vol c.t.gidx).any (fun g => decide (shapeNbar g.shape ≤ 0)) = true)) &&
    ((enters (formOf (.bara hd (0 : BitVec 24))) (st (fun t => { t with free := true }) (withShape 0x800000000000) 0)).any fun c => decide (¬ ((c.s.gathering c.t.vol c.t.gidx).map fun g => shapeNbar g.shape).getD 0 ≤ 0 ∧ (c.t.free = true ∨ c.slot = 63))) &&
    ((enters (formOf (.barw hd (0 : BitVec 24))) (st (fun t => { t with free := true }) (withShape 0x800000000000) 0)).any fun c => decide (¬ ((c.s.gathering c.t.vol c.t.gidx).map fun g => shapeNbar g.shape).getD 0 ≤ 0 ∧ (c.t.free = true ∨ c.slot = 63))) &&
    (let s := (stS fun s => withGathering { placedGathering with shape := ofN 0x800000000000, members := placedGathering.members.map fun m => { m with arr := bumpAt m.arr 0 } } s); s.clk.cur == some (0, 0) && (s.strand 0 0).isSome && (enters (formOf (.bara hd 0)) s).any fun c => decide (c.barrierBad 0 = none ∧ (c.s.barrierOf c.t 0).2 < (c.s.barrierOf c.t 0).1))) = true := by decide +kernel

/-- States and operands that meet the hypotheses of `RetireOutcomes`. -/
theorem test_meets_RetireOutcomes : (((enters (formOf (.retire hd .z (.g 2))) st0).any fun c => (c.s.gathering c.t.vol c.t.gidx).any fun g => !c.t.free && c.slot != 63 && !g.retires) &&
    ((enters (formOf (.retire hd (.g 1) (.g 4))) (st (Strand.putG · 1 (ofN (2 ^ 48 + 8 * 2 ^ 44 + 5 * 2 ^ 32 + 8)))
      (fun s => withEntry 5 entry1 (withLeaf (rwLeaf + 2 ^ 57) { s with mem := (s.mem.setBytes 0x8000 (leBytes 8 placedGathering.shape.toNat)) })) 0)).any fun c =>
      (c.s.gathering c.t.vol c.t.gidx).any fun g => c.s.codePoint c.t.vol (c.g (.g 1)) == some (5, 8) && !g.retires &&
      (match c.s.readWords 0 (.va 1 0x8000) .fetch 8, c.placePtr (c.g (.g 4)) 64 rR 64, c.s.readWords 0 (.va 1 0x2000) .read 8 with
        | .ok hd, .ok l, .ok blk => l == .va 1 0x2000 && !shapeBad g hd c.t.wgr && blk.getD 0 0 == hd.getD 2 0 && (List.range 16).all (fun k => !(hd.getD 2 0).getLsbD (16 + k))
        | _, _, _ => false)) &&
    ((enters (formOf (.retire hd (GOp.g 1) (GOp.g 2))) st63).any fun c => decide (c.slot = 63)) &&
    ((enters (formOf (.retire hd .z (GOp.g 2))) (stS (withGathering { placedGathering with members := [{ role := 0, lane := 0, slot := 0, slip := 0 }, { role := 0, lane := 1, slot := 1, slip := 0, st := .retired }], retires := true, succ := some 7 }))).any fun c => decide ((c.s.gathering c.t.vol c.t.gidx).any fun g => g.retires && g.succ != none && !c.t.free && c.slot != 63)) &&
    ((enters (formOf (.retire hd (.g 1) (.g 4))) (st (Strand.putG · 1 (ofN (2 ^ 48 + 8 * 2 ^ 44 + 5 * 2 ^ 32 + 8)))
      (fun s => withEntry 5 entry1 (withGathering { placedGathering with members := [{ role := 0, lane := 0, slot := 0, slip := 0 }, { role := 0, lane := 1, slot := 1, slip := 0, st := .retired }], retires := true, succ := some 7 } s)) 0)).any fun c =>
      (c.s.gathering c.t.vol c.t.gidx).any fun g => !c.t.free && c.slot != 63 && c.s.codePoint c.t.vol (c.g (.g 1)) == some (5, 8) && g.retires && g.succ != some (c.g (.g 1))) &&
    ((enters (formOf (.retire hd (GOp.g 1) (GOp.g 2))) (st (Strand.putG · 1 (ofN (2 ^ 48 + 8 * 2 ^ 44 + 5 * 2 ^ 32 + 7))) (withEntry 5 entry1) 0)).any fun c => decide ((c.s.gathering c.t.vol c.t.gidx).isSome ∧ c.t.free = false ∧ c.slot ≠ 63 ∧ c.s.codePoint c.t.vol (c.g (.g 1)) = some (5, 7))) &&
    (retAt (retS [placedGathering.shape.toNat + 2 ^ 16] [] tile1) fun c g hdr _ => shapeBad g hdr c.t.wgr) &&
    (retAt (retS [placedGathering.shape.toNat, 0, 2] [1] tile1) fun c g hdr blk => !shapeBad g hdr c.t.wgr && blk.getD 0 0 != hdr.getD 2 0) &&
    (retAt (retS [placedGathering.shape.toNat, 0, 2 ^ 17] [2 ^ 17] { tile1 with rho := 1 }) fun c g hdr blk => !shapeBad g hdr c.t.wgr && blk.getD 0 0 == hdr.getD 2 0 && (List.range 16).any fun k => (hdr.getD 2 0).getLsbD (16 + k) && ((c.s.core c.core).tiles.getD k {}).conf && ((c.s.core c.core).tiles.getD k {}).ownedBy c.t && !tileEntryOk blk k ((c.s.core c.core).tiles.getD k {})) &&
    (retAt (withGathering { placedGathering with members := [{ role := 0, lane := 0, slot := 0, slip := 0 }] } (retS [placedGathering.shape.toNat, 0, 2 ^ 31] [2 ^ 31] tile1)) fun c g hdr blk => !shapeBad g hdr c.t.wgr && blk.getD 0 0 == hdr.getD 2 0 && (g.members.all fun m => m.role != c.t.role || m.lane == c.t.lane || m.st != .live) && (List.range 16).any fun k => (hdr.getD 2 0).getLsbD (16 + k) && !((c.s.core c.core).tiles.getD k {}).conf) &&
    ((enters (formOf (.retire hd .z (.g 2))) st0).any fun c => decide ((c.s.gathering c.t.vol c.t.gidx).any (fun g => !g.retires || g.succ.isNone) = true ∧ c.t.free = false ∧ c.slot ≠ 63 ∧ (match c.placePtr (c.g (.g 2)) 64 rR 64 with | .error _ => true | .ok _ => false) = true))) = true := by decide +kernel

/-- States and operands that meet the hypotheses of `LoadsAndStoresAreSent`. -/
theorem test_meets_LoadsAndStoresAreSent : (((enters (formOf (.ld hd (memF 8) (GOp.g 3) (GOp.g 1))) st0).any fun c => decide (gives (c.place (memF 8).seg.val (c.offM (GOp.g 1) (memF 8).disp) (szB (memF 8).sz) rR (szB (memF 8).sz)) (.va 1 0x1008) = true)) &&
    ((enters (formOf (.lds hd (memF 8) (GOp.g 3) (GOp.g 1))) st0).any fun c => decide (gives (c.place (memF 8).seg.val (c.offM (GOp.g 1) (memF 8).disp) (szB (memF 8).sz) rR (szB (memF 8).sz)) (.va 1 0x1008) = true)) &&
    ((enters (formOf (.st hd (memF 8) (GOp.g 3) (GOp.g 1))) st0).any fun c => decide (gives (c.place (memF 8).seg.val (c.offM (GOp.g 1) (memF 8).disp) (szB (memF 8).sz) rW (szB (memF 8).sz)) (.va 1 0x1008) = true)) &&
    ((enters (formOf (.ldf hd (memF 8) (GOp.g 3) (GOp.g 1))) st0).any fun c => decide (gives (c.place (memF 8).seg.val (c.offM (GOp.g 1) (memF 8).disp) 8 (rR + rF) 8) (.va 1 0x1008) = true)) &&
    ((enters (formOf (.lde hd (memF 8) (GOp.g 3) (GOp.g 1))) st0).any fun c => decide (gives (c.place (memF 8).seg.val (c.offM (GOp.g 1) (memF 8).disp) 8 (rR + rW + rF) 8) (.va 1 0x1008) = true)) &&
    ((enters (formOf (.stf hd (memF 8) (GOp.g 3) (GOp.g 1))) st0).any fun c => decide (gives (c.place (memF 8).seg.val (c.offM (GOp.g 1) (memF 8).disp) 8 (rW + rF) 8) (.va 1 0x1008) = true)) &&
    ((enters (formOf (.stfe hd (memF 8) (GOp.g 3) (GOp.g 1))) st0).any fun c => decide (gives (c.place (memF 8).seg.val (c.offM (GOp.g 1) (memF 8).disp) 8 (rW + rF) 8) (.va 1 0x1008) = true)) &&
    ((enters (formOf (.clrf hd (memF 8) (GOp.g 1))) st0).any fun c => decide (gives (c.place (memF 8).seg.val (c.offM (GOp.g 1) (memF 8).disp) 8 (rW + rF) 8) (.va 1 0x1008) = true)) &&
    ((enters (formOf (.ld hd (memF 8) (GOp.g 3) (GOp.g 1))) (stG 1 (-16))).any fun c => decide (fails (c.place (memF 8).seg.val (c.offM (GOp.g 1) (memF 8).disp) (szB (memF 8).sz) rR (szB (memF 8).sz)) { cls := 3, code := 0x04, arg := 0xFFFFFFFFFFFFFFF8, size := 3 } = true)) &&
    ((enters (formOf (.lds hd (memF 8) (GOp.g 3) (GOp.g 1))) (stG 1 (-16))).any fun c => decide (fails (c.place (memF 8).seg.val (c.offM (GOp.g 1) (memF 8).disp) (szB (memF 8).sz) rR (szB (memF 8).sz)) { cls := 3, code := 0x04, arg := 0xFFFFFFFFFFFFFFF8, size := 3 } = true)) &&
    ((enters (formOf (.st hd (memF 8) (GOp.g 3) (GOp.g 1))) (stG 1 (-16))).any fun c => decide (fails (c.place (memF 8).seg.val (c.offM (GOp.g 1) (memF 8).disp) (szB (memF 8).sz) rW (szB (memF 8).sz)) { cls := 3, code := 0x04, arg := 0xFFFFFFFFFFFFFFF8, size := 3 } = true)) &&
    ((enters (formOf (.ldf hd (memF 8) (GOp.g 3) (GOp.g 1))) (stG 1 (-16))).any fun c => decide (fails (c.place (memF 8).seg.val (c.offM (GOp.g 1) (memF 8).disp) 8 (rR + rF) 8) { cls := 3, code := 0x04, arg := 0xFFFFFFFFFFFFFFF8, size := 3 } = true)) &&
    ((enters (formOf (.lde hd (memF 8) (GOp.g 3) (GOp.g 1))) (stG 1 (-16))).any fun c => decide (fails (c.place (memF 8).seg.val (c.offM (GOp.g 1) (memF 8).disp) 8 (rR + rW + rF) 8) { cls := 3, code := 0x04, arg := 0xFFFFFFFFFFFFFFF8, size := 3 } = true)) &&
    ((enters (formOf (.stf hd (memF 8) (GOp.g 3) (GOp.g 1))) (stG 1 (-16))).any fun c => decide (fails (c.place (memF 8).seg.val (c.offM (GOp.g 1) (memF 8).disp) 8 (rW + rF) 8) { cls := 3, code := 0x04, arg := 0xFFFFFFFFFFFFFFF8, size := 3 } = true)) &&
    ((enters (formOf (.stfe hd (memF 8) (GOp.g 3) (GOp.g 1))) (stG 1 (-16))).any fun c => decide (fails (c.place (memF 8).seg.val (c.offM (GOp.g 1) (memF 8).disp) 8 (rW + rF) 8) { cls := 3, code := 0x04, arg := 0xFFFFFFFFFFFFFFF8, size := 3 } = true)) &&
    ((enters (formOf (.clrf hd (memF 8) (GOp.g 1))) (stG 1 (-16))).any fun c => decide (fails (c.place (memF 8).seg.val (c.offM (GOp.g 1) (memF 8).disp) 8 (rW + rF) 8) { cls := 3, code := 0x04, arg := 0xFFFFFFFFFFFFFFF8, size := 3 } = true))) = true := by decide +kernel

/-- States and operands that meet the hypotheses of `VectorMemoryIsSent`. -/
theorem test_meets_VectorMemoryIsSent : (((enters (formOf (.vld hd (memF 64) (3 : Fin 16) (GOp.g 1))) st0).any fun c => decide (gives (c.place (memF 64).seg.val (c.offM (GOp.g 1) (memF 64).disp) 64 rR 64) (.va 1 0x1040) = true)) &&
    ((enters (formOf (.vst hd (memF 64) (3 : Fin 16) (GOp.g 1))) st0).any fun c => decide (gives (c.place (memF 64).seg.val (c.offM (GOp.g 1) (memF 64).disp) 64 rW 64) (.va 1 0x1040) = true)) &&
    ((enters (formOf (.vldf hd folF (3 : Fin 16) (GOp.g 1))) st0).any fun c => decide (gives (c.place folF.seg.val (c.offM (GOp.g 1) folF.disp) 64 rR 64) (.va 1 0x1040) = true)) &&
    ((enters (formOf (.vstf hd folF (3 : Fin 16) (GOp.g 1))) st0).any fun c => decide (gives (c.place folF.seg.val (c.offM (GOp.g 1) folF.disp) 64 rW 64) (.va 1 0x1040) = true)) &&
    ((enters (formOf (.vldx hd (memF 8) (3 : Fin 16) (1 : Fin 16))) st0).any fun c => decide ((match c.places 2 8 rR ((List.range 8).map fun j => (ofN (wrapN 64 (sxNat 64 (elemN 64 (c.v 1).toNat j))) + sx64 (8 : BitVec 20)).toNat) with | .ok _ => true | .error _ => false) = true)) &&
    ((enters (formOf (.vstx hd (memF 8) (3 : Fin 16) (1 : Fin 16))) st0).any fun c => decide ((match c.places 2 8 rW ((List.range 8).map fun j => (ofN (wrapN 64 (sxNat 64 (elemN 64 (c.v 1).toNat j))) + sx64 (8 : BitVec 20)).toNat) with | .ok _ => true | .error _ => false) = true)) &&
    ((enters (formOf (.vld hd (memF 8) (3 : Fin 16) (GOp.g 1))) (stG 1 (-128))).any fun c => decide ((match c.place 2 (c.offM (.g 1) 8) 64 rR 64 with | .error _ => true | .ok _ => false) = true)) &&
    ((enters (formOf (.vst hd (memF 8) (3 : Fin 16) (GOp.g 1))) (stG 1 (-128))).any fun c => decide ((match c.place 2 (c.offM (.g 1) 8) 64 rW 64 with | .error _ => true | .ok _ => false) = true)) &&
    ((enters (formOf (.vldf hd folF (3 : Fin 16) (GOp.g 1))) (stG 1 (-128))).any fun c => decide ((match c.place 2 (c.offM (.g 1) 64) 64 rR 64 with | .error _ => true | .ok _ => false) = true)) &&
    ((enters (formOf (.vstf hd folF (3 : Fin 16) (GOp.g 1))) (stG 1 (-128))).any fun c => decide ((match c.place 2 (c.offM (.g 1) 64) 64 rW 64 with | .error _ => true | .ok _ => false) = true)) &&
    ((enters (formOf (.vldx hd (memF 8) (3 : Fin 16) (1 : Fin 16))) (stT fun t => { t with sregs := setAt t.sregs 2 0 })).any fun c => decide ((match c.places 2 8 rR ((List.range 8).map fun j => (ofN (wrapN 64 (sxNat 64 (elemN 64 (c.v 1).toNat j))) + sx64 (8 : BitVec 20)).toNat) with | .error _ => true | .ok _ => false) = true)) &&
    ((enters (formOf (.vstx hd (memF 8) (3 : Fin 16) (1 : Fin 16))) (stT fun t => { t with sregs := setAt t.sregs 2 0 })).any fun c => decide ((match c.places 2 8 rW ((List.range 8).map fun j => (ofN (wrapN 64 (sxNat 64 (elemN 64 (c.v 1).toNat j))) + sx64 (8 : BitVec 20)).toNat) with | .error _ => true | .ok _ => false) = true))) = true := by decide +kernel

/-- States and operands that meet the hypotheses of `AtomicsAreSent`. -/
theorem test_meets_AtomicsAreSent : (((enters (formOf (.amo hd .add atF (GOp.g 3) (GOp.g 1) (GOp.g 2))) st0).any fun c0 => decide (gives (c0.place atF.seg.val (c0.g (GOp.g 1)).toNat (szB atF.sz) (rR + rW + rA) (szB atF.sz)) (.va 1 0x1000) = true ∧ c0.remote (.va 1 0x1000) = false)) &&
    ((enters (formOf (.cas hd atF (GOp.g 3) (GOp.g 1) (GOp.g 2) (GOp.g 5))) st0).any fun c0 => decide (gives (c0.place atF.seg.val (c0.g (GOp.g 1)).toNat (szB atF.sz) (rR + rW + rA) (szB atF.sz)) (.va 1 0x1000) = true ∧ c0.remote (.va 1 0x1000) = false)) &&
    ((enters (formOf (.amof hd .add atF (GOp.g 3) (GOp.g 1) (GOp.g 2))) st0).any fun c0 => decide (gives (c0.place atF.seg.val (c0.g (GOp.g 1)).toNat (szB atF.sz) (rR + rW + rA) (szB atF.sz)) (.va 1 0x1000) = true ∧ c0.remote (.va 1 0x1000) = false)) &&
    ((enters (formOf (.amo hd .add atF (GOp.g 3) (GOp.g 1) (GOp.g 2))) (stS (withLeaf farLeaf))).any fun c0 => decide (gives (c0.place atF.seg.val (c0.g (GOp.g 1)).toNat (szB atF.sz) (rR + rW + rA) (szB atF.sz)) (.va 1 0x1000) = true ∧ c0.remote (.va 1 0x1000) = true)) &&
    ((enters (formOf (.cas hd atF (GOp.g 3) (GOp.g 1) (GOp.g 2) (GOp.g 5))) (stS (withLeaf farLeaf))).any fun c0 => decide (gives (c0.place atF.seg.val (c0.g (GOp.g 1)).toNat (szB atF.sz) (rR + rW + rA) (szB atF.sz)) (.va 1 0x1000) = true ∧ c0.remote (.va 1 0x1000) = true)) &&
    ((enters (formOf (.amof hd .add atF (GOp.g 3) (GOp.g 1) (GOp.g 2))) (stS (withLeaf farLeaf))).any fun c0 => decide (gives (c0.place atF.seg.val (c0.g (GOp.g 1)).toNat (szB atF.sz) (rR + rW + rA) (szB atF.sz)) (.va 1 0x1000) = true ∧ c0.remote (.va 1 0x1000) = true)) &&
    ((enters (formOf (.amo hd .add atF (GOp.g 3) (GOp.g 1) (GOp.g 2))) (stG 1 0x1001)).any fun c => decide ((match c.place 2 (c.g (.g 1)).toNat 8 (rR + rW + rA) 8 with | .error _ => true | .ok _ => false) = true)) &&
    ((enters (formOf (.cas hd atF (GOp.g 3) (GOp.g 1) (GOp.g 2) (GOp.g 5))) (stG 1 0x1001)).any fun c => decide ((match c.place 2 (c.g (.g 1)).toNat 8 (rR + rW + rA) 8 with | .error _ => true | .ok _ => false) = true)) &&
    ((enters (formOf (.amof hd .add atF (GOp.g 3) (GOp.g 1) (GOp.g 2))) (stG 1 0x1001)).any fun c => decide ((match c.place 2 (c.g (.g 1)).toNat 8 (rR + rW + rA) 8 with | .error _ => true | .ok _ => false) = true))) = true := by decide +kernel

/-- States and operands that meet the hypotheses of `SyncWordsAndSegmentsAreSent`. -/
theorem test_meets_SyncWordsAndSegmentsAreSent_1 : (((enters (formOf (.swarm hd (GOp.g 3) (.g 4) (GOp.g 2))) (stG 2 0x1000000)).any fun c => decide (gives (c.placePtr (c.g (.g 4)) 8 (rW + rF) 8) (.va 1 0x2000) = true ∧ (c.g (GOp.g 2) = 0 ∨ 2 ^ 24 ≤ (c.g (GOp.g 2)).toNat))) &&
    ((enters (formOf (.swarm hd (GOp.g 3) (.g 4) (GOp.g 2))) st0).any fun c => decide (gives (c.placePtr (c.g (.g 4)) 8 (rW + rF) 8) (.va 1 0x2000) = true ∧ c.g (GOp.g 2) ≠ 0 ∧ (c.g (GOp.g 2)).toNat < 2 ^ 24)) &&
    ((enters (formOf (.swadd hd (.g 4) (GOp.g 2))) st0).any fun c => decide (gives (c.placePtr (c.g (.g 4)) 8 (rW + rF) 8) (.va 1 0x2000) = true ∧ (c.g (GOp.g 2)).toNat < 2 ^ 24)) &&
    ((enters (formOf (.swadd hd (.g 4) (GOp.g 2))) (stG 2 0x1000000)).any fun c => decide (gives (c.placePtr (c.g (.g 4)) 8 (rW + rF) 8) (.va 1 0x2000) = true ∧ 2 ^ 24 ≤ (c.g (GOp.g 2)).toNat)) &&
    ((enters (formOf (.swwait hd (.g 4) (GOp.g 2))) st0).any fun c => decide (gives (c.placePtr (c.g (.g 4)) 8 (rR + rF) 8) (.va 1 0x2000) = true)) &&
    ((enters (formOf (.swrd hd (GOp.g 3) (.g 4))) st0).any fun c => decide (gives (c.placePtr (c.g (.g 4)) 8 (rR + rF) 8) (.va 1 0x2000) = true)) &&
    ((enters (formOf (.segld hd 1 (.g 4))) st0).any fun c => decide (gives (c.placePtr (c.g (.g 4)) 16 rR 16) (.va 1 0x2000) = true)) &&
    ((enters (formOf (.segst hd (.g 4) 1)) st0).any fun c => decide (gives (c.placePtr (c.g (.g 4)) 16 rW 16) (.va 1 0x2000) = true)) &&
    ((enters (formOf (.segrd hd false (GOp.g 3) 1)) st0).isSome) &&
    ((enters (formOf (.kabs hd (GOp.g 3) (.g 4))) st0).any fun c => decide (gives (c.placePtr (c.g (.g 4)) 1 (rR + rW) 1) (.va 1 0x2000) = true)) &&
    ((enters (formOf (.swarm hd (GOp.g 3) (GOp.g 1) (GOp.g 2))) (stG 1 (ptr 1 4))).any fun c => decide ((match c.placePtr (c.g (.g 1)) 8 (rW + rF) 8 with | .error _ => true | .ok _ => false) = true)) &&
    ((enters (formOf (.swadd hd (GOp.g 1) (GOp.g 2))) (stG 1 (ptr 1 4))).any fun c => decide ((match c.placePtr (c.g (.g 1)) 8 (rW + rF) 8 with | .error _ => true | .ok _ => false) = true)) &&
    ((enters (formOf (.swwait hd (GOp.g 1) (GOp.g 2))) (stG 1 (ptr 1 4))).any fun c => decide ((match c.placePtr (c.g (.g 1)) 8 (rR + rF) 8 with | .error _ => true | .ok _ => false) = true)) &&
    ((enters (formOf (.swrd hd (GOp.g 3) (GOp.g 1))) (stG 1 (ptr 1 4))).any fun c => decide ((match c.placePtr (c.g (.g 1)) 8 (rR + rF) 8 with | .error _ => true | .ok _ => false) = true)) &&
    ((enters (formOf (.segld hd 1 (GOp.g 1))) (stG 1 (ptr 1 8))).any fun c => decide ((match c.placePtr (c.g (.g 1)) 16 rR 16 with | .error _ => true | .ok _ => false) = true)) &&
    ((enters (formOf (.segst hd (GOp.g 1) 1)) (stG 1 (ptr 1 8))).any fun c => decide ((match c.placePtr (c.g (.g 1)) 16 rW 16 with | .error _ => true | .ok _ => false) = true))) = true := by decide +kernel

/-- States and operands that meet the hypotheses of `SyncWordsAndSegmentsAreSent`. -/
theorem test_meets_SyncWordsAndSegmentsAreSent_2 : (((enters (formOf (.kabs hd (GOp.g 3) (GOp.g 1))) st0).any fun c => decide ((match c.placePtr (c.g (.g 1)) 1 (rR + rW) 1 with | .error _ => true | .ok _ => false) = true))) = true := by decide +kernel

/-- States and operands that meet the hypotheses of `FencesAndInvalidation`. -/
theorem test_meets_FencesAndInvalidation : (((enters (formOf (.fence hd .full .core)) st0).isSome) &&
    ((enters (formOf (.cfence hd)) st0).isSome) &&
    ((enters (formOf (.tlbi hd (GOp.g 1) (GOp.g 2))) st63).isSome) &&
    ((enters (formOf (.tlbsync hd)) st63).any fun c => decide (c.s.tlbsyncDone c.t = true)) &&
    ((enters (formOf (.upret hd (GOp.g 1))) (st (fun t => ({ t with faulter := some 5 }).putG 1 areaVA) (withSlip [2 * 2 ^ 48, 0, 2 ^ 48, 0, 2 * 2 ^ 61]) 0)).any fun c => decide (c.s.slipAt c.t.vol (c.g (GOp.g 1)).toNat = some 0 ∧ c.s.slipVol 0 = c.t.vol ∧ c.s.slipState 0 = 2 ∧ (c.s.slipFault 0).1 = 2 ∧ c.t.faulter ≠ some (c.g (GOp.g 1)).toNat)) &&
    ((enters (formOf (.upret hd (GOp.g 1))) (st (fun t => ({ t with faulter := some Config.areaVA }).putG 1 areaVA) (withSlip [2 * 2 ^ 48, 0, 2 ^ 48, 0, 2 * 2 ^ 61]) 0)).any fun c => decide (c.s.slipAt c.t.vol (c.g (.g 1)).toNat = some 0 ∧ c.s.slipVol 0 = c.t.vol ∧ c.s.slipState 0 = 2 ∧ (c.s.slipFault 0).1 = 2 ∧ c.t.faulter = some (c.g (.g 1)).toNat ∧ ((c.s.setSlipFault 0 0 0).endStrand c.core c.slot c.t).slipOk 0 = true)) &&
    ((enters (formOf (.pgrq hd (.g 3) (.g 4) .z)) (stS (withCluster fun c => { c with pages := [{ id := 7, vol := 1, page := 0x2000, waiters := [] }] }))).any fun c => decide (gives (ptrParts (c.g (.g 4))) (2, 0x2000) ∧ descType (c.t.sreg 2) = 1 ∧ gives (segCheck (c.t.sreg 2) 0x2000 1 0 1) 0x2000 ∧ (c.s.cluster (clusterOf c.core)).pages.any (fun p => p.vol == c.t.vol && p.page == 0x2000) = true)) &&
    ((enters (formOf (.pgrq hd (.g 3) (.g 4) .z)) (stS (withCluster fun c => { c with pages := List.replicate 64 { id := 7, vol := 2, page := 0, waiters := [] } }))).any fun c => decide (gives (ptrParts (c.g (.g 4))) (2, 0x2000) ∧ descType (c.t.sreg 2) = 1 ∧ gives (segCheck (c.t.sreg 2) 0x2000 1 0 1) 0x2000 ∧ (c.s.cluster (clusterOf c.core)).pages.any (fun p => p.vol == c.t.vol && p.page == 0x2000) = false ∧ 64 ≤ (c.s.cluster 0).pages.length)) &&
    ((enters (formOf (.pgrq hd (.g 3) (.g 4) .z)) st0).any fun c => decide (gives (ptrParts (c.g (.g 4))) (2, 0x2000) ∧ descType (c.t.sreg 2) = 1 ∧ gives (segCheck (c.t.sreg 2) 0x2000 1 0 1) 0x2000 ∧ (c.s.cluster (clusterOf c.core)).pages.any (fun p => p.vol == c.t.vol && p.page == 0x2000) = false ∧ (c.s.cluster 0).pages.length < 64)) &&
    ((enters (formOf (.pgrq hd (.g 3) (.g 4) .z)) (stT fun t => { t with sregs := setAt t.sregs 2 0 })).any fun c => decide (gives (ptrParts (c.g (.g 4))) (2, 0x2000) ∧ descType (c.t.sreg 2) ≠ 1)) &&
    ((enters (formOf (.upret hd (GOp.g 1))) (st (fun t => ({ t with faulter := some Config.areaVA }).putG 1 areaVA) (withSlip [(2 * 2 ^ 48 + 2 ^ 62), 0, 2 ^ 48, 0, 2 * 2 ^ 61]) 0)).any fun c => decide (c.s.slipAt c.t.vol (c.g (.g 1)).toNat = some 0 ∧ c.s.slipVol 0 = c.t.vol ∧ c.s.slipState 0 = 2 ∧ (c.s.slipFault 0).1 = 2 ∧ c.t.faulter = some (c.g (.g 1)).toNat ∧ ((c.s.setSlipFault 0 0 0).endStrand c.core c.slot c.t).slipOk 0 = false)) &&
    ((enters (formOf (.upret hd (GOp.g 1))) (st (Strand.putG · 1 areaVA) (withSlip [3 * 2 ^ 48, 0, 2 ^ 48, 0, 2 * 2 ^ 61]) 0)).any fun c => decide ((c.s.slipAt c.t.vol (c.g (.g 1)).toNat).any (fun pa => decide (c.s.slipVol pa ≠ c.t.vol ∨ c.s.slipState pa ≠ 2 ∨ (c.s.slipFault pa).1 ≠ 2)) = true))) = true := by decide +kernel

/-- States and operands that meet the hypotheses of `SpecialFunctionResult`. -/
theorem test_meets_SpecialFunctionResult : (((enters (formOf (.sfn hd .f32 (GOp.g 3) (GOp.g 1) (GOp.g 2) (1 : BitVec 16))) (stS fun s => { s with root := { s.root with ready := [{ kind := .sfu, index := 0 }] } })).any fun c => decide (c.s.isFenced .sfu (clusterOf c.core) = false ∧ c.s.clusterFenced (clusterOf c.core) = false ∧ c.s.isReady .sfu (clusterOf c.core) = true)) &&
    ((enters (formOf (.sfn hd .f32 (GOp.g 3) (GOp.g 1) (GOp.g 2) (1 : BitVec 16))) (stS fun s => { s with root := { s.root with fenced := [{ kind := .sfu, index := 0 }] } })).any fun c => decide (c.s.isFenced .sfu (clusterOf c.core) = true ∨ c.s.clusterFenced (clusterOf c.core) = true)) &&
    ((enters (formOf (.sfn hd .f32 (GOp.g 3) (GOp.g 1) (GOp.g 2) (1 : BitVec 16))) st0).any fun c => decide (c.s.isFenced .sfu (clusterOf c.core) = false ∧ c.s.clusterFenced (clusterOf c.core) = false ∧ c.s.isReady .sfu (clusterOf c.core) = false))) = true := by decide +kernel

/-- States and operands that meet the hypotheses of `TileInstructions`. -/
theorem test_meets_TileInstructions_1 : (((enters (formOf (.tcfg hd (GOp.g 3) (.g 4) (0 : BitVec 16))) (stS (withLeaf rwLeaf))).any fun c => decide (gives (c.placePtr (c.g (.g 4)) 128 rR 64) (.va 1 0x2000) = true ∧ c.tileFault (0 : BitVec 16).toNat false = none ∧ c.s.tilePending c.core c.t.uid (0 : BitVec 16).toNat = false ∧ c.walk (.va 1 0x2000) 128 .read = none ∧ gives (c.s.readRec (clusterOf c.core) (.va 1 0x2000) 16) (List.replicate 16 0) = true ∧ (0 : BitVec 16) = 0)) &&
    ((enters (formOf (.tcfg hd (GOp.g 3) (.g 4) (1 : BitVec 16))) (stS fun s => withLeaf rwLeaf { s with mem := s.mem.setBytes 0x2000 (leBytes 8 (2 ^ 20)) })).any fun c => decide (gives (c.placePtr (c.g (.g 4)) 128 rR 64) (.va 1 0x2000) = true ∧ c.tileFault (1 : BitVec 16).toNat false = none ∧ c.s.tilePending c.core c.t.uid (1 : BitVec 16).toNat = false ∧ c.walk (.va 1 0x2000) 128 .read = none ∧ gives (c.s.readRec (clusterOf c.core) (.va 1 0x2000) 16) ((List.replicate 16 0).set 0 (ofN (2 ^ 20))) = true ∧ (1 : BitVec 16) ≠ 0 ∧ ((List.range 16).filter (bitN (1 : BitVec 16).toNat)).any (fun i => badTileEntry (((List.replicate 16 0).set 0 (ofN (2 ^ 20))).getD i 0)) = true)) &&
    ((enters (formOf (.tcfg hd (GOp.g 3) (.g 4) (3 : BitVec 16))) (stS (withLeaf rwLeaf))).any fun c => decide (gives (c.placePtr (c.g (.g 4)) 128 rR 64) (.va 1 0x2000) = true ∧ c.tileFault (3 : BitVec 16).toNat false = none ∧ c.s.tilePending c.core c.t.uid (3 : BitVec 16).toNat = false ∧ c.walk (.va 1 0x2000) 128 .read = none ∧ gives (c.s.readRec (clusterOf c.core) (.va 1 0x2000) 16) (List.replicate 16 0) = true ∧ (3 : BitVec 16) ≠ 0 ∧ ((List.range 16).filter (bitN (3 : BitVec 16).toNat)).any (fun i => badTileEntry ((List.replicate 16 0).getD i 0)) = false ∧ c.tilesClash (3 : BitVec 16).toNat (((List.range 16).filter (bitN (3 : BitVec 16).toNat)).map (fun i => (i, tileOfEntry ((List.replicate 16 0).getD i 0) c.t.vol c.t.gidx c.t.lane))) = true)) &&
    ((enters (formOf (.tcfg hd (GOp.g 3) (.g 4) (1 : BitVec 16))) (stS (withLeaf rwLeaf))).any fun c => decide (gives (c.placePtr (c.g (.g 4)) 128 rR 64) (.va 1 0x2000) = true ∧ c.tileFault (1 : BitVec 16).toNat false = none ∧ c.s.tilePending c.core c.t.uid (1 : BitVec 16).toNat = false ∧ c.walk (.va 1 0x2000) 128 .read = none ∧ gives (c.s.readRec (clusterOf c.core) (.va 1 0x2000) 16) (List.replicate 16 0) = true ∧ (1 : BitVec 16) ≠ 0 ∧ ((List.range 16).filter (bitN (1 : BitVec 16).toNat)).any (fun i => badTileEntry ((List.replicate 16 0).getD i 0)) = false ∧ c.tilesClash (1 : BitVec 16).toNat (((List.range 16).filter (bitN (1 : BitVec 16).toNat)).map (fun i => (i, tileOfEntry ((List.replicate 16 0).getD i 0) c.t.vol c.t.gidx c.t.lane))) = false)) &&
    ((enters (formOf (.trel hd 2)) (stS (withTile tile1))).any fun c => decide (c.t.prog ≠ 2 ∧ c.s.strand 0 0 = some c.t ∧ c.tileFault 2 false = none ∧ c.s.tilePending c.core c.t.uid 2 = false ∧ c.s.tileBusy c.core 2 = false)) &&
    ((enters (formOf (.tzero hd 2)) (stS (withTile tile1))).any fun c => decide (c.t.prog ≠ 2 ∧ c.s.strand 0 0 = some c.t ∧ c.tileFault 2 true = none ∧ c.s.tilePending c.core c.t.uid 2 = false ∧ c.s.tileBusy c.core 2 = false)) &&
    ((enters (formOf (.twait hd (2 : BitVec 24))) (stS (withTile tile1))).any fun c => decide (c.tileFault (2 : BitVec 24).toNat false = none ∧ c.s.tilePending c.core c.t.uid (2 : BitVec 24).toNat = false)) &&
    ((enters (formOf (.tld hd .f32 (1 : Fin 16) (GOp.g 1) (GOp.g 2))) (stS (withTile tile1))).any fun c => decide (c.tileFault (2 ^ (1 : Fin 16).val) true = none ∧ c.s.tilePending c.core c.t.uid (2 ^ (1 : Fin 16).val) = false)) &&
    ((enters (formOf (.tst hd .f32 .rne (1 : Fin 16) (GOp.g 1) (GOp.g 2))) (stS (withTile tile1))).any fun c => decide (c.tileFault (2 ^ (1 : Fin 16).val) true = none ∧ c.s.tilePending c.core c.t.uid (2 ^ (1 : Fin 16).val) = false)) &&
    ((enters (formOf (.tget hd false (1 : Fin 16) (GOp.g 3) (GOp.g 1))) (st (Strand.putG · 1 255) (withTile tile1) 0)).any fun c => decide (c.tileFault (2 ^ (1 : Fin 16).val) true = none ∧ c.s.tilePending c.core c.t.uid (2 ^ (1 : Fin 16).val) = false ∧ (c.g (GOp.g 1)).toNat < ((c.s.core c.core).tile (1 : Fin 16).val).rows * ((c.s.core c.core).tile (1 : Fin 16).val).cols)) &&
    ((enters (formOf (.tset hd false (1 : Fin 16) (GOp.g 1) (GOp.g 2))) (st (Strand.putG · 1 255) (withTile tile1) 0)).any fun c => decide (c.tileFault (2 ^ (1 : Fin 16).val) true = none ∧ c.s.tilePending c.core c.t.uid (2 ^ (1 : Fin 16).val) = false ∧ (c.g (GOp.g 1)).toNat < ((c.s.core c.core).tile (1 : Fin 16).val).rows * ((c.s.core c.core).tile (1 : Fin 16).val).cols)) &&
    ((enters (formOf (.mmar hd .f32 (1 : Fin 16) (1 : Fin 16) (2 : Fin 16))) (stS (withTile { tile1 with modeK := true }))).any fun c => decide (c.tileFault (2 ^ (1 : Fin 16).val) true = none ∧ c.s.tilePending c.core c.t.uid (2 ^ (1 : Fin 16).val) = false ∧ ((c.s.core c.core).tile (1 : Fin 16).val).modeK = kFormat .f32)) &&
    ((enters (formOf (.mmar hd .f32 (1 : Fin 16) (1 : Fin 16) (2 : Fin 16))) (stS (withTile tile1))).any fun c => decide (c.tileFault (2 ^ (1 : Fin 16).val) true = none ∧ ((c.s.core c.core).tile (1 : Fin 16).val).modeK ≠ kFormat .f32)) &&
    ((enters (formOf (.msset hd (1 : Fin 4) (GOp.g 1) (GOp.g 2))) (st (fun t => (t.putG 1 (ptr 4 0x100)).putG 2 (0x20000 - 0x100)) id 0)).any fun c => decide (gives (ptrParts (c.g (GOp.g 1))) (4, 0x100) = true ∧ descType (c.t.sreg 4) = 3 ∧ hasRights (descRights (c.t.sreg 4)) rR = true ∧ ((c.g (GOp.g 2)).toNat % 2 = 0 ∧ (c.g (GOp.g 2)).toNat ≠ 0 ∧ 0x100 + (c.g (GOp.g 2)).toNat ≤ descLimit (c.t.sreg 4) ∧ c.s.streamPending c.core c.t.uid (1 : Fin 4).val = false))) &&
    ((enters (formOf (.msrd hd (1 : Fin 4) (GOp.g 3))) st0).any fun c => decide (c.s.streamPending c.core c.t.uid (1 : Fin 4).val = false)) &&
    ((enters (formOf (.tld hd .f32 (1 : Fin 16) (GOp.g 1) (GOp.g 2))) (stS (withTile { tile1 with lane := 3 }))).any fun c => decide ((List.range 16).any (fun i => bitN 2 i && ((c.s.core c.core).tile i).conf && !((c.s.core c.core).tile i).ownedBy c.t) = true))) = true := by decide +kernel

/-- States and operands that meet the hypotheses of `TileInstructions`. -/
theorem test_meets_TileInstructions_2 : (((enters (formOf (.tst hd .f32 .rne (1 : Fin 16) (GOp.g 1) (GOp.g 2))) (stS (withTile { tile1 with lane := 3 }))).any fun c => decide ((List.range 16).any (fun i => bitN 2 i && ((c.s.core c.core).tile i).conf && !((c.s.core c.core).tile i).ownedBy c.t) = true)) &&
    ((enters (formOf (.tget hd false (1 : Fin 16) (GOp.g 3) (GOp.g 1))) (stS (withTile { tile1 with lane := 3 }))).any fun c => decide ((List.range 16).any (fun i => bitN 2 i && ((c.s.core c.core).tile i).conf && !((c.s.core c.core).tile i).ownedBy c.t) = true)) &&
    ((enters (formOf (.tset hd false (1 : Fin 16) (GOp.g 1) (GOp.g 2))) (stS (withTile { tile1 with lane := 3 }))).any fun c => decide ((List.range 16).any (fun i => bitN 2 i && ((c.s.core c.core).tile i).conf && !((c.s.core c.core).tile i).ownedBy c.t) = true)) &&
    ((enters (formOf (.mmar hd .f32 (1 : Fin 16) (1 : Fin 16) (2 : Fin 16))) (stS (withTile { tile1 with lane := 3 }))).any fun c => decide ((List.range 16).any (fun i => bitN 2 i && ((c.s.core c.core).tile i).conf && !((c.s.core c.core).tile i).ownedBy c.t) = true)) &&
    ((enters (formOf (.tld hd .f32 (1 : Fin 16) (GOp.g 1) (GOp.g 2))) st0).any fun c => decide (¬ (c.t.free = true ∨ c.slot = 63 ∨ (List.range 16).any (fun i => bitN 2 i && ((c.s.core c.core).tile i).conf && !((c.s.core c.core).tile i).ownedBy c.t) = true) ∧ (List.range 16).any (fun i => bitN 2 i && !((c.s.core c.core).tile i).conf) = true)) &&
    ((enters (formOf (.tst hd .f32 .rne (1 : Fin 16) (GOp.g 1) (GOp.g 2))) st0).any fun c => decide (¬ (c.t.free = true ∨ c.slot = 63 ∨ (List.range 16).any (fun i => bitN 2 i && ((c.s.core c.core).tile i).conf && !((c.s.core c.core).tile i).ownedBy c.t) = true) ∧ (List.range 16).any (fun i => bitN 2 i && !((c.s.core c.core).tile i).conf) = true)) &&
    ((enters (formOf (.tget hd false (1 : Fin 16) (GOp.g 3) (GOp.g 1))) st0).any fun c => decide (¬ (c.t.free = true ∨ c.slot = 63 ∨ (List.range 16).any (fun i => bitN 2 i && ((c.s.core c.core).tile i).conf && !((c.s.core c.core).tile i).ownedBy c.t) = true) ∧ (List.range 16).any (fun i => bitN 2 i && !((c.s.core c.core).tile i).conf) = true)) &&
    ((enters (formOf (.tset hd false (1 : Fin 16) (GOp.g 1) (GOp.g 2))) st0).any fun c => decide (¬ (c.t.free = true ∨ c.slot = 63 ∨ (List.range 16).any (fun i => bitN 2 i && ((c.s.core c.core).tile i).conf && !((c.s.core c.core).tile i).ownedBy c.t) = true) ∧ (List.range 16).any (fun i => bitN 2 i && !((c.s.core c.core).tile i).conf) = true)) &&
    ((enters (formOf (.mmar hd .f32 (1 : Fin 16) (1 : Fin 16) (2 : Fin 16))) st0).any fun c => decide (¬ (c.t.free = true ∨ c.slot = 63 ∨ (List.range 16).any (fun i => bitN 2 i && ((c.s.core c.core).tile i).conf && !((c.s.core c.core).tile i).ownedBy c.t) = true) ∧ (List.range 16).any (fun i => bitN 2 i && !((c.s.core c.core).tile i).conf) = true)) &&
    ((enters (formOf (.tget hd false (1 : Fin 16) (GOp.g 3) (GOp.g 1))) (st (Strand.putG · 1 256) (withTile tile1) 0)).any fun c => decide (c.t.free = false ∧ c.slot ≠ 63 ∧ ((c.s.core c.core).tile 1).conf = true ∧ ((c.s.core c.core).tile 1).ownedBy c.t = true ∧ ((c.s.core c.core).tile 1).rows * ((c.s.core c.core).tile 1).cols = (c.g (.g 1)).toNat)) &&
    ((enters (formOf (.tset hd false (1 : Fin 16) (GOp.g 1) (GOp.g 2))) (st (Strand.putG · 1 256) (withTile tile1) 0)).any fun c => decide (c.t.free = false ∧ c.slot ≠ 63 ∧ ((c.s.core c.core).tile 1).conf = true ∧ ((c.s.core c.core).tile 1).ownedBy c.t = true ∧ ((c.s.core c.core).tile 1).rows * ((c.s.core c.core).tile 1).cols = (c.g (.g 1)).toNat)) &&
    ((enters (formOf (.twait hd (2 : BitVec 24))) (stS (withTile { tile1 with lane := 3 }))).any fun c => decide ((List.range 16).any (fun i => bitN 2 i && ((c.s.core c.core).tile i).conf && !((c.s.core c.core).tile i).ownedBy c.t) = true)) &&
    ((enters (formOf (.tcfg hd (GOp.g 3) (.g 4) (2 : BitVec 16))) (stS (withTile { tile1 with lane := 3 }))).any fun c => decide (gives (c.placePtr (c.g (.g 4)) 128 rR 64) (.va 1 0x2000) = true ∧ (List.range 16).any (fun i => bitN 2 i && ((c.s.core c.core).tile i).conf && !((c.s.core c.core).tile i).ownedBy c.t) = true)) &&
    ((enters (formOf (.tcfg hd (GOp.g 3) (GOp.g 1) (1 : BitVec 16))) (stG 1 (ptr 2 32))).any fun c => decide ((match c.placePtr (c.g (.g 1)) 128 rR 64 with | .error _ => true | .ok _ => false) = true)) &&
    ((enters (formOf (.trel hd 2)) (stS (withTile { tile1 with lane := 3 }))).any fun c => decide (c.t.prog ≠ 2 ∧ c.s.tilePending c.core c.t.uid 2 = false ∧ c.s.tilePutBack c.core 2 = false ∧ (List.range 16).any (fun i => bitN 2 i && ((c.s.core c.core).tile i).conf && !((c.s.core c.core).tile i).ownedBy c.t) = true)) &&
    ((enters (formOf (.tzero hd 2)) (stS (withTile { tile1 with lane := 3 }))).any fun c => decide (c.t.prog ≠ 2 ∧ c.s.tilePending c.core c.t.uid 2 = false ∧ c.s.tilePutBack c.core 2 = false ∧ (List.range 16).any (fun i => bitN 2 i && ((c.s.core c.core).tile i).conf && !((c.s.core c.core).tile i).ownedBy c.t) = true))) = true := by decide +kernel

/-- States and operands that meet the hypotheses of `TileInstructions`. -/
theorem test_meets_TileInstructions_3 : (((enters (formOf (.tzero hd 2)) st0).any fun c => decide (c.t.prog ≠ 2 ∧ c.s.tilePending c.core c.t.uid 2 = false ∧ c.s.tilePutBack c.core 2 = false ∧ ¬ (c.t.free = true ∨ c.slot = 63 ∨ (List.range 16).any (fun i => bitN 2 i && ((c.s.core c.core).tile i).conf && !((c.s.core c.core).tile i).ownedBy c.t) = true) ∧ (List.range 16).any (fun i => bitN 2 i && !((c.s.core c.core).tile i).conf) = true)) &&
    ((enters (formOf (.msset hd (1 : Fin 4) (GOp.g 1) (GOp.g 2))) (stT fun t => { (t.putG 1 (ptr 4 0x100)).putG 2 2 with sregs := setAt t.sregs 4 (0) })).any fun c => decide (gives (ptrParts (c.g (GOp.g 1))) (4, 0x100) = true ∧ descType (c.t.sreg 4) = 0)) &&
    ((enters (formOf (.msset hd (1 : Fin 4) (GOp.g 1) (GOp.g 2))) (stT fun t => { (t.putG 1 (ptr 4 0x100)).putG 2 2 with sregs := setAt t.sregs 4 (mkDesc 1 rR 0 0x20000) })).any fun c => decide (gives (ptrParts (c.g (GOp.g 1))) (4, 0x100) = true ∧ descType (c.t.sreg 4) ≠ 0 ∧ descType (c.t.sreg 4) ≠ 3)) &&
    ((enters (formOf (.msset hd (1 : Fin 4) (GOp.g 1) (GOp.g 2))) (stT fun t => { (t.putG 1 (ptr 4 0x100)).putG 2 2 with sregs := setAt t.sregs 4 (mkDesc 3 rW 0 0x20000) })).any fun c => decide (gives (ptrParts (c.g (GOp.g 1))) (4, 0x100) = true ∧ descType (c.t.sreg 4) = 3 ∧ hasRights (descRights (c.t.sreg 4)) rR = false)) &&
    ((enters (formOf (.msset hd (1 : Fin 4) (GOp.g 1) (GOp.g 2))) (stT fun t => { (t.putG 1 (ptr 4 0x100)).putG 2 1 with sregs := setAt t.sregs 4 (mkDesc 3 rR 0 0x20000) })).any fun c => decide (gives (ptrParts (c.g (GOp.g 1))) (4, 0x100) = true ∧ descType (c.t.sreg 4) = 3 ∧ hasRights (descRights (c.t.sreg 4)) rR = true ∧ (c.g (GOp.g 2)).toNat % 2 = 1)) &&
    ((enters (formOf (.msset hd (1 : Fin 4) (GOp.g 1) (GOp.g 2))) (stT fun t => { (t.putG 1 (ptr 4 0x100)).putG 2 0x102 with sregs := setAt t.sregs 4 (mkDesc 3 rR 0 0x200) })).any fun c => decide (gives (ptrParts (c.g (GOp.g 1))) (4, 0x100) = true ∧ descType (c.t.sreg 4) = 3 ∧ hasRights (descRights (c.t.sreg 4)) rR = true ∧ (c.g (GOp.g 2)).toNat % 2 = 0 ∧ ((c.g (GOp.g 2)).toNat = 0 ∨ descLimit (c.t.sreg 4) < 0x100 + (c.g (GOp.g 2)).toNat)))) = true := by decide +kernel

/-- States and operands that meet the hypotheses of `EngineRequestsAreSent`. -/
theorem test_meets_EngineRequestsAreSent_1 : (((enters (formOf (.cpy hd (GOp.g 3) (.g 4) .z)) st0).any fun c => decide (gives (c.enginePtr (c.g (.g 4)) 64 (rR + rE) 64) (1, .va 1 0x2000) = true)) &&
    ((enters (formOf (.cpyRp hd (GOp.g 3) (.g 4) .z)) st0).any fun c => decide (gives (c.enginePtr (c.g (.g 4)) 64 (rR + rE) 64) (1, .va 1 0x2000) = true)) &&
    ((enters (formOf (.gath hd (GOp.g 3) (.g 4) .z)) st0).any fun c => decide (gives (c.enginePtr (c.g (.g 4)) 64 (rR + rE) 64) (1, .va 1 0x2000) = true)) &&
    ((enters (formOf (.scat hd (GOp.g 3) (.g 4) .z)) st0).any fun c => decide (gives (c.enginePtr (c.g (.g 4)) 64 (rR + rE) 64) (1, .va 1 0x2000) = true)) &&
    ((enters (formOf (.cmpct hd (GOp.g 3) (.g 4) .z)) st0).any fun c => decide (gives (c.enginePtr (c.g (.g 4)) 64 (rR + rE) 64) (1, .va 1 0x2000) = true)) &&
    ((enters (formOf (.dcpy hd (GOp.g 3) (.g 4) .z)) st0).any fun c => decide (gives (c.enginePtr (c.g (.g 4)) 64 (rR + rE) 64) (1, .va 1 0x2000) = true)) &&
    ((enters (formOf (.ksel hd false (GOp.g 3) (.g 4) .z)) st0).any fun c => decide (gives (c.enginePtr (c.g (.g 4)) 64 (rR + rE) 64 [2]) (1, .va 1 0x2000) = true)) &&
    ((enters (formOf (.kgath hd false (GOp.g 3) (.g 4) .z)) st0).any fun c => decide (gives (c.enginePtr (c.g (.g 4)) 64 (rR + rE) 64 [2]) (1, .va 1 0x2000) = true)) &&
    ((enters (formOf (.emb hd false (GOp.g 3) (.g 4) .z)) (stS (withLeaf (rwLeaf + Config.annexBase)))).any fun c => decide (gives (c.enginePtr (c.g (.g 4)) 64 (rR + rE) 64) (1, .va 1 0x2000) = true ∧ (match c.s.locKey (clusterOf c.core) (.va 1 0x2000) .read with | .key k _ => isAnnex k | _ => false) = true)) &&
    ((enters (formOf (.spec hd (GOp.g 3) (GOp.g 1) (.g 4) (1 : BitVec 16))) st0).any fun c => decide (gives (c.enginePtr (c.g (.g 4)) 64 (rR + rW + rE) 64) (1, (.va 1 0x2000)) = true)) &&
    ((enters (formOf (.tenq hd (GOp.g 3) (GOp.g 1) (GOp.g 2))) (stG 2 65)).any fun c => decide (128 ≤ (c.g (GOp.g 2)).toNat ∨ 64 < (c.g (GOp.g 2)).toNat % 128)) &&
    ((enters (formOf (.tenq hd (GOp.g 3) (.g 4) (GOp.g 2))) (stG 2 64)).any fun c => decide ((c.g (GOp.g 2)).toNat ≤ 64 ∧ gives (c.enginePtr (c.g (.g 4)) (64 * (if (c.g (GOp.g 2)).toNat % 128 = 0 then 1 else (c.g (GOp.g 2)).toNat % 128)) (rR + rE) 64) (1, .va 1 0x2000) = true)) &&
    ((enters (formOf (.launch hd (GOp.g 3) (.g 4) .z)) st0).any fun c => decide (gives (c.enginePtr (c.g (.g 4)) 256 (rR + rE) 64) (1, .va 1 0x2000) = true)) &&
    ((enters (formOf (.nsend hd false (GOp.g 3) (.g 4))) st0).any fun c => decide (gives (c.enginePtr (c.g (.g 4)) 64 (rR + rE) 64) (1, (.va 1 0x2000)) = true)) &&
    ((enters (formOf (.nread hd false (GOp.g 3) (.g 4))) st0).any fun c => decide (gives (c.enginePtr (c.g (.g 4)) 64 (rR + rE) 64) (1, (.va 1 0x2000)) = true)) &&
    ((enters (formOf (.nwrite hd false (GOp.g 3) (.g 4))) st0).any fun c => decide (gives (c.enginePtr (c.g (.g 4)) 64 (rR + rE) 64) (1, (.va 1 0x2000)) = true))) = true := by decide +kernel

/-- States and operands that meet the hypotheses of `EngineRequestsAreSent`. -/
theorem test_meets_EngineRequestsAreSent_2 : (((enters (formOf (.nrecv hd false (GOp.g 3) (.g 4))) st0).any fun c => decide (gives (c.enginePtr (c.g (.g 4)) 64 (rR + rE) 64) (1, (.va 1 0x2000)) = true)) &&
    ((enters (formOf (.nsend hd false (GOp.g 3) (.g 6))) (stG 6 (ptr 6 0x40))).any fun c => decide ((match c.enginePtr (c.g (.g 6)) 64 (rR + rE) 64 with | .ok (ty, _) => ty != 1 | .error _ => false) = true)) &&
    ((enters (formOf (.nread hd false (GOp.g 3) (.g 6))) (stG 6 (ptr 6 0x40))).any fun c => decide ((match c.enginePtr (c.g (.g 6)) 64 (rR + rE) 64 with | .ok (ty, _) => ty != 1 | .error _ => false) = true)) &&
    ((enters (formOf (.nwrite hd false (GOp.g 3) (.g 6))) (stG 6 (ptr 6 0x40))).any fun c => decide ((match c.enginePtr (c.g (.g 6)) 64 (rR + rE) 64 with | .ok (ty, _) => ty != 1 | .error _ => false) = true)) &&
    ((enters (formOf (.nrecv hd false (GOp.g 3) (.g 6))) (stG 6 (ptr 6 0x40))).any fun c => decide ((match c.enginePtr (c.g (.g 6)) 64 (rR + rE) 64 with | .ok (ty, _) => ty != 1 | .error _ => false) = true))) = true := by decide +kernel

/-- States and operands that meet the hypotheses of `EngineQueries`. -/
theorem test_meets_EngineQueries : (((enters (formOf (.dpat hd (GOp.g 1) (GOp.g 2))) st0).isSome) &&
    ((enters (formOf (.cqry hd (GOp.g 3) (GOp.g 1) (0 : BitVec 16))) st0).any fun c => decide ((0 : BitVec 16) = 0)) &&
    ((enters (formOf (.cqry hd (GOp.g 3) (GOp.g 1) (1 : BitVec 16))) st0).any fun c => decide ((1 : BitVec 16) = 1)) &&
    ((enters (formOf (.cqry hd (GOp.g 3) (GOp.g 1) (2 : BitVec 16))) st0).any fun c => decide ((2 : BitVec 16) = 2)) &&
    ((enters (formOf (.cqry hd (GOp.g 3) (GOp.g 1) (3 : BitVec 16))) st0).any fun c => decide ((3 : BitVec 16) = 3)) &&
    ((enters (formOf (.nqry hd (GOp.g 3) (GOp.g 1) (1 : BitVec 16))) (stG 1 0x1000)).any fun c => decide (fld (c.g (GOp.g 1)) 63 12 ≠ 0)) &&
    ((enters (formOf (.nqry hd (GOp.g 3) (GOp.g 1) (0 : BitVec 16))) (stG 1 0xFFF)).any fun c => decide (fld (c.g (GOp.g 1)) 63 12 = 0 ∧ (0 : BitVec 16) = 0)) &&
    ((enters (formOf (.nqry hd (GOp.g 3) (GOp.g 1) (1 : BitVec 16))) (stG 1 0xFFF)).any fun c => decide (fld (c.g (GOp.g 1)) 63 12 = 0 ∧ (1 : BitVec 16) = 1)) &&
    ((enters (formOf (.nqry hd (GOp.g 3) (GOp.g 1) (2 : BitVec 16))) (stG 1 0xFFF)).any fun c => decide (fld (c.g (GOp.g 1)) 63 12 = 0 ∧ (2 : BitVec 16) = 2)) &&
    ((enters (formOf (.nqry hd (GOp.g 3) (GOp.g 1) (3 : BitVec 16))) (stG 1 0xFFF)).any fun c => decide (fld (c.g (GOp.g 1)) 63 12 = 0 ∧ (3 : BitVec 16) = 3)) &&
    ((enters (formOf (.ainf hd (1 : Fin 4) (GOp.g 3) (GOp.g 1))) (stG 1 handle1)).any fun c => decide (fld (c.g (GOp.g 1)) 47 44 = 0 ∨ fld (c.g (GOp.g 1)) 47 44 = 8)) &&
    ((enters (formOf (.ainf hd (1 : Fin 4) (GOp.g 3) (GOp.g 1))) (stG 1 0x100000000000)).any fun c => decide (fld (c.g (GOp.g 1)) 47 44 ≠ 0 ∧ fld (c.g (GOp.g 1)) 47 44 ≠ 8))) = true := by decide +kernel

/-- States and operands that meet the hypotheses of `AccessionCalls`. -/
theorem test_meets_AccessionCalls : (((enters (formOf (.acall hd (GOp.g 3) (GOp.g 1))) (st (Strand.putG · 1 handle1) (withEntry 5 entry1) 0)).any fun c => decide (¬ follows (formOf (.acall hd (GOp.g 3) (GOp.g 1))) c.t ∧ c.s.callTarget c.t.vol (c.g (GOp.g 1)) = some (5, entry1, 0, false))) &&
    ((enters (formOf (.acall hd (GOp.g 3) (GOp.g 1))) st0).any fun c => decide (¬ follows (formOf (.acall hd (GOp.g 3) (GOp.g 1))) c.t ∧ c.s.callTarget c.t.vol (c.g (GOp.g 1)) = none)) &&
    ((enters (formOf (.aref hd (GOp.g 1))) (st (Strand.putG · 1 handle1) (withEntry 5 entry1) 0)).any fun c => decide (c.s.currentHandle c.t.vol (c.g (GOp.g 1)) = some 5 ∧ ((c.s.spaceOf c.t.vol).entry 5).refs ≠ 2 ^ 32 - 1)) &&
    ((enters (formOf (.arel hd (GOp.g 1))) (st (Strand.putG · 1 handle1) (withEntry 5 entry1) 0)).any fun c => decide (c.s.currentHandle c.t.vol (c.g (GOp.g 1)) = some 5 ∧ ((c.s.spaceOf c.t.vol).entry 5).refs ≠ 0)) &&
    ((enters (formOf (.aref hd (GOp.g 1))) st0).any fun c => decide (c.s.currentHandle c.t.vol (c.g (GOp.g 1)) = none)) &&
    ((enters (formOf (.arel hd (GOp.g 1))) st0).any fun c => decide (c.s.currentHandle c.t.vol (c.g (GOp.g 1)) = none)) &&
    ((enters (formOf (.aref hd (GOp.g 1))) (st (Strand.putG · 1 handle1) (withEntry 5 { entry1 with refs := 2 ^ 32 - 1 }) 0)).any fun c => decide (c.s.currentHandle c.t.vol (c.g (GOp.g 1)) = some 5 ∧ ((c.s.spaceOf c.t.vol).entry 5).refs = 2 ^ 32 - 1)) &&
    ((enters (formOf (.arel hd (GOp.g 1))) (st (Strand.putG · 1 handle1) (withEntry 5 { entry1 with refs := 0 }) 0)).any fun c => decide (c.s.currentHandle c.t.vol (c.g (GOp.g 1)) = some 5 ∧ ((c.s.spaceOf c.t.vol).entry 5).refs = 0))) = true := by decide +kernel

/-- States and operands that meet the hypotheses of `HoldsAndDeques`. -/
theorem test_meets_HoldsAndDeques : (((enters (formOf (.hold hd (GOp.g 3) (GOp.g 1) (1 : BitVec 24))) (stG 1 0x7FFFFFFF)).any fun c => decide ((c.g (GOp.g 1) + sx64 (1 : BitVec 24)).toNat = 0 ∨ 2 ^ 31 ≤ (c.g (GOp.g 1) + sx64 (1 : BitVec 24)).toNat)) &&
    ((enters (formOf (.hold hd (GOp.g 3) (GOp.g 1) (1 : BitVec 24))) (st (Strand.putG · 1 0x7FFFFFFE) (withCore fun c => { c with freeHolds := [] }) 0)).any fun c => decide ((c.g (GOp.g 1) + sx64 (1 : BitVec 24)).toNat ≠ 0 ∧ (c.g (GOp.g 1) + sx64 (1 : BitVec 24)).toNat < 2 ^ 31 ∧ (c.s.core c.core).freeHolds = [])) &&
    ((enters (formOf (.hold hd (GOp.g 3) (GOp.g 1) (1 : BitVec 24))) (st (Strand.putG · 1 0) (withCore fun c => { c with freeHolds := [3] }) 0)).any fun c => decide ((c.g (GOp.g 1) + sx64 (1 : BitVec 24)).toNat ≠ 0 ∧ (c.g (GOp.g 1) + sx64 (1 : BitVec 24)).toNat < 2 ^ 31 ∧ (c.s.core c.core).freeHolds = 3 :: [])) &&
    ((enters (formOf (.dech hd (GOp.g 1) (1 : BitVec 24))) (stG 1 0xFFFFFF)).any fun c => decide (1 ≤ (1 : BitVec 24).toInt ∧ holdBad (c.g (GOp.g 1)) = false)) &&
    ((enters (formOf (.dech hd (GOp.g 1) (1 : BitVec 24))) (stG 1 0x1000000)).any fun c => decide ((1 : BitVec 24).toInt < 1 ∨ holdBad (c.g (GOp.g 1)) = true)) &&
    ((enters (formOf (.pushr hd (GOp.g 3) (GOp.g 1))) (stG 1 0x500000005)).any fun c => decide (rangeHi (c.g (GOp.g 1)) ≤ rangeLo (c.g (GOp.g 1)))) &&
    ((enters (formOf (.pushr hd (GOp.g 3) (GOp.g 1))) (st (Strand.putG · 1 0x600000005) (withCore fun c => { c with deques := [(1, 0x600000005)] }) 0)).any fun c => decide (rangeLo (c.g (GOp.g 1)) < rangeHi (c.g (GOp.g 1)) ∧ ((c.s.volume c.t.vol).map Volume.dequeN).getD 0 ≤ ((c.s.core c.core).deques.filter (·.1 == c.t.vol)).length)) &&
    ((enters (formOf (.pushr hd (GOp.g 3) (GOp.g 1))) (st (Strand.putG · 1 0x600000005) (withVolume { placedVolume with rec_ := placedRecord.set 13 (ofN (2 ^ 16)) }) 0)).any fun c => decide (rangeLo (c.g (GOp.g 1)) < rangeHi (c.g (GOp.g 1)) ∧ ((c.s.core c.core).deques.filter (·.1 == c.t.vol)).length < ((c.s.volume c.t.vol).map Volume.dequeN).getD 0)) &&
    ((enters (formOf (.popr hd (GOp.g 3))) st0).any fun c => decide (bottomOf c.t.vol (c.s.core c.core).deques = none)) &&
    ((enters (formOf (.popr hd (GOp.g 3))) (stS (withCore fun c => { c with deques := [(1, 0x600000005)] }))).any fun c => decide (bottomOf c.t.vol (c.s.core c.core).deques = some (0x600000005, []))) &&
    ((enters (formOf (.splitr hd (GOp.g 3))) st0).any fun c => decide (bottomOf c.t.vol (c.s.core c.core).deques = none)) &&
    ((enters (formOf (.splitr hd (GOp.g 3))) (stS (withCore fun c => { c with deques := [(1, 0x600000005)] }))).any fun c => decide (bottomOf c.t.vol (c.s.core c.core).deques = some (0x600000005, []) ∧ rangeHi 0x600000005 - rangeLo 0x600000005 < 2)) &&
    ((enters (formOf (.splitr hd (GOp.g 3))) (stS (withCore fun c => { c with deques := [(1, 0x700000005)] }))).any fun c => decide (bottomOf c.t.vol (c.s.core c.core).deques = some (0x700000005, []) ∧ 2 ≤ rangeHi 0x700000005 - rangeLo 0x700000005)) &&
    ((enters (formOf (.stealr hd (GOp.g 3) (GOp.g 1))) (stG 1 0x800)).any fun c => decide (fld (c.g (GOp.g 1)) 63 11 ≠ 0)) &&
    ((enters (formOf (.stealr hd (GOp.g 3) (GOp.g 1))) (stG 1 0x7FF)).any fun c => decide (fld (c.g (GOp.g 1)) 63 11 = 0))) = true := by decide +kernel

/-- States and operands that meet the hypotheses of `SpawnPostAndPreempt`. -/
theorem test_meets_SpawnPostAndPreempt : (((enters (formOf (.spawn hd (.g 3) (.g 1) .z 0)) (st (Strand.putG · 1 code1) (withEntry 5 entry1) 0)).any fun c => decide (c.s.codePoint c.t.vol (c.g (.g 1)) = some (5, 9)) && (c.s.volume c.t.vol).any fun v => decide (v.pool.length < v.runlist)) &&
    ((enters (formOf (.spawn hd (.g 3) (.g 1) .z 0)) (st (Strand.putG · 1 code1) (fun s => withVolume { placedVolume with pool := [0] } (withEntry 5 entry1 s)) 0)).any fun c => decide (c.s.codePoint c.t.vol (c.g (.g 1)) = some (5, 9)) && (c.s.volume c.t.vol).any fun v => decide (v.runlist ≤ v.pool.length)) &&
    ((enters (formOf (.spawn hd (GOp.g 3) (GOp.g 1) (GOp.g 2) (1 : BitVec 16))) st0).any fun c => decide (c.s.codePoint c.t.vol (c.g (GOp.g 1)) = none)) &&
    ((enters (formOf (.spawn hd (GOp.g 3) (GOp.g 1) (GOp.g 2) (1 : BitVec 16))) (st (fun t => (t.putG 1 code1).putG 2 0x1000000) (withEntry 5 entry1) 0)).any fun c => decide (c.s.codePoint c.t.vol (c.g (GOp.g 1)) = some (5, 9) ∧ (GOp.g 2) ≠ .z ∧ holdBad (c.g (GOp.g 2)) = true)) &&
    ((enters (formOf (.post hd (GOp.g 3) (GOp.g 1) (GOp.g 2) (1 : BitVec 16))) (stG 1 0x7FF0000)).any fun c => decide (fld (c.g (GOp.g 1)) 63 27 = 0 ∧ fld (c.g (GOp.g 1)) 15 11 = 0)) &&
    ((enters (formOf (.post hd (GOp.g 3) (GOp.g 1) (GOp.g 2) (1 : BitVec 16))) (stG 1 0x80000000)).any fun c => decide ((fld (c.g (GOp.g 1)) 63 32 = 0 ∧ fld (c.g (GOp.g 1)) 30 27 = 0 ∧ fld (c.g (GOp.g 1)) 15 0 = 0 ∧ (c.g (GOp.g 1)).getLsbD 31 = true) ∧ c.t.free = false ∧ c.slot ≠ 63 ∧ c.s.gathering c.t.vol c.t.gidx = some placedGathering ∧ placedGathering.cores[fld (c.g (GOp.g 1)) 26 24]? = some 0)) &&
    ((enters (formOf (.post hd (GOp.g 3) (GOp.g 1) (GOp.g 2) (1 : BitVec 16))) (stG 1 0x8000000)).any fun c => decide (fld (c.g (GOp.g 1)) 63 32 ≠ 0 ∨ fld (c.g (GOp.g 1)) 30 27 ≠ 0 ∨ fld (c.g (GOp.g 1)) 15 11 ≠ 0 ∨ ((c.g (GOp.g 1)).getLsbD 31 = true ∧ (c.t.free = true ∨ c.slot = 63 ∨ c.s.coreCount c.t ≤ fld (c.g (GOp.g 1)) 26 24 ∨ fld (c.g (GOp.g 1)) 10 0 ≠ 0)))) &&
    ((enters (formOf (.pmt hd (GOp.g 3) (GOp.g 1))) (st (Strand.putG · 1 0x800) id 63)).any fun c => decide (fld (c.g (GOp.g 1)) 62 11 ≠ 0)) &&
    ((enters (formOf (.spawn hd (.g 3) (.g 1) (.g 2) 0)) (st (Strand.putG · 1 code1) (fun s => withCore (fun c => { c with holds := [{ idx := 5, vol := 1, count := 3 }] }) (withEntry 5 entry1 s)) 0)).any fun c => decide (c.s.codePoint c.t.vol (c.g (.g 1)) = some (5, 9) ∧ holdBad (c.g (.g 2)) = false) && (c.s.volume c.t.vol).any fun v => decide (v.pool.length < v.runlist)) &&
    ((enters (formOf (.pmt hd (GOp.g 3) (GOp.g 1))) (st (Strand.putG · 1 0x80000000000007FF) id 63)).any fun c => decide (fld (c.g (GOp.g 1)) 62 11 = 0 ∧ (c.g (GOp.g 1)).getLsbD 63 = true)) &&
    ((enters (formOf (.spawn hd (.g 3) (.g 1) (.g 2) 0)) (st (Strand.putG · 1 code1) (fun s => withCore (fun c => { c with holds := [{ idx := 5, vol := 1, count := 3 }] }) (withEntry 5 entry1 s)) 0)).any fun c => decide (c.s.codePoint c.t.vol (c.g (.g 1)) = some (5, 9) ∧ holdBad (c.g (.g 2)) = false) && (c.s.volume c.t.vol).any fun v => decide (v.pool.length < v.runlist))) = true := by decide +kernel

/-- States and operands that meet the hypotheses of `SupervisorInstructions`. -/
theorem test_meets_SupervisorInstructions_1 : (((enters (formOf (.emr hd (GOp.g 3) (GOp.g 1) (0 : BitVec 24))) (st (Strand.putG · 1 0x8000000000000001) (fun s => s.setStrand 0 1 haltedStrand) 63)).any fun c => decide (c.s.target c.core (c.g (GOp.g 1)) = .halted 0 1 haltedStrand ∧ ((0 : BitVec 24).toNat < 128 → haltedStrand.failing.contains (0 : BitVec 24).toNat = false) ∧ ((0 : BitVec 24).toNat = 128 → haltedStrand.predBad = false) ∧ (128 < (0 : BitVec 24).toNat → haltedStrand.sregBad.contains ((0 : BitVec 24).toNat - 256) = false))) &&
    ((enters (formOf (.emr hd (GOp.g 3) (GOp.g 1) (127 : BitVec 24))) (st (Strand.putG · 1 areaVA) (withSlip [3 * 2 ^ 48 + 15 * 2 ^ 55, 0, 2 ^ 48, 0, 3 * 2 ^ 61]) 63)).any fun c => decide (c.s.target c.core (c.g (GOp.g 1)) = .slip 1 0 ∧ (127 : BitVec 24).toNat < 128 ∧ (127 : BitVec 24).toNat < 8 * (fld (c.s.slipDw 0 0) 58 55 + 1))) &&
    ((enters (formOf (.emr hd (GOp.g 3) (GOp.g 1) (0 : BitVec 24))) st63).any fun c => decide (c.s.target c.core (c.g (GOp.g 1)) = .none)) &&
    ((enters (formOf (.emw hd (GOp.g 3) (GOp.g 1) (127 : BitVec 24))) (st (Strand.putG · 1 0x8000000000000001) (fun s => s.setStrand 0 1 haltedStrand) 63)).any fun c => decide (c.s.target c.core (c.g (GOp.g 1)) = .halted 0 1 haltedStrand ∧ (127 : BitVec 24).toNat < 128 ∧ (127 : BitVec 24).toNat < haltedStrand.size)) &&
    ((enters (formOf (.emw hd (GOp.g 3) (GOp.g 1) (128 : BitVec 24))) (st (Strand.putG · 1 0x8000000000000001) (fun s => s.setStrand 0 1 haltedStrand) 63)).any fun c => decide (c.s.target c.core (c.g (GOp.g 1)) = .halted 0 1 haltedStrand ∧ (128 : BitVec 24).toNat = 128)) &&
    ((enters (formOf (.emw hd (GOp.g 3) (GOp.g 1) (256 : BitVec 24))) (st (Strand.putG · 1 0x8000000000000001) (fun s => s.setStrand 0 1 haltedStrand) 63)).any fun c => decide (c.s.target c.core (c.g (GOp.g 1)) = .halted 0 1 haltedStrand ∧ 256 ≤ (256 : BitVec 24).toNat)) &&
    ((enters (formOf (.emw hd (GOp.g 3) (GOp.g 1) (127 : BitVec 24))) (st (Strand.putG · 1 areaVA) (withSlip [3 * 2 ^ 48 + 15 * 2 ^ 55, 0, 2 ^ 48, 0, 3 * 2 ^ 61]) 63)).any fun c => decide (c.s.target c.core (c.g (GOp.g 1)) = .slip 1 0 ∧ (127 : BitVec 24).toNat < 128 ∧ (127 : BitVec 24).toNat < 8 * (fld (c.s.slipDw 0 0) 58 55 + 1))) &&
    ((enters (formOf (.emw hd (GOp.g 3) (GOp.g 1) (0 : BitVec 24))) st63).any fun c => decide (c.s.target c.core (c.g (GOp.g 1)) = .none)) &&
    ((enters (formOf (.resume hd (GOp.g 1))) (st (Strand.putG · 1 0x8000000000000001) (fun s => s.setStrand 0 1 haltedStrand) 63)).any fun c => decide (c.s.target c.core (c.g (GOp.g 1)) = .halted 0 1 haltedStrand ∧ (c.g (GOp.g 1)).getLsbD 61 = false)) &&
    ((enters (formOf (.resume hd (GOp.g 1))) (st (Strand.putG · 1 0xA000000000000001) (fun s => s.setStrand 0 1 { strandOf 1 with uid := 7, lane := 1, run := .halted, faulter := some 5 }) 63)).any fun c => decide (c.s.target c.core (c.g (GOp.g 1)) = .halted 0 1 { strandOf 1 with uid := 7, lane := 1, run := .halted, faulter := some 5 } ∧ (c.g (GOp.g 1)).getLsbD 61 = true ∧ (1 = 63 ∨ { strandOf 1 with uid := 7, lane := 1, run := .halted, faulter := some 5 }.faulter.isSome = true))) &&
    ((enters (formOf (.resume hd (GOp.g 1))) (st (Strand.putG · 1 areaVA) (withSlip [3 * 2 ^ 48 + 15 * 2 ^ 55, 0, 2 ^ 48, 0, 3 * 2 ^ 61]) 63)).any fun c => decide (c.s.target c.core (c.g (GOp.g 1)) = .slip 1 0 ∧ (c.g (GOp.g 1)).getLsbD 61 = false)) &&
    ((enters (formOf (.resume hd (GOp.g 1))) st63).any fun c => decide (c.s.target c.core (c.g (GOp.g 1)) = .none)) &&
    ((enters (formOf (.kill hd (GOp.g 1))) (st (Strand.putG · 1 0x8000000000000001) (fun s => s.setStrand 0 1 haltedStrand) 63)).any fun c => decide (c.s.target c.core (c.g (GOp.g 1)) = .halted 0 1 haltedStrand)) &&
    ((enters (formOf (.kill hd (GOp.g 1))) (st (Strand.putG · 1 areaVA) (withSlip [3 * 2 ^ 48 + 15 * 2 ^ 55, 0, 2 ^ 48, 0, 3 * 2 ^ 61]) 63)).any fun c => decide (c.s.target c.core (c.g (GOp.g 1)) = .slip 1 0)) &&
    ((enters (formOf (.kill hd (GOp.g 1))) st63).any fun c => decide (c.s.target c.core (c.g (GOp.g 1)) = .none)) &&
    ((enters (formOf (.resume hd (GOp.g 1))) (st (Strand.putG · 1 0xA000000000000001) (fun s => s.setStrand 0 1 haltedStrand) 63)).any fun c => decide (c.s.target c.core (c.g (GOp.g 1)) = .halted 0 1 haltedStrand ∧ (c.g (GOp.g 1)).getLsbD 61 = true ∧ 1 ≠ 63 ∧ haltedStrand.faulter.isSome = false))) = true := by decide +kernel

/-- States and operands that meet the hypotheses of `SupervisorInstructions`. -/
theorem test_meets_SupervisorInstructions_2 : (((enters (formOf (.resume hd (GOp.g 1))) (st (Strand.putG · 1 (0x2000000000000000 + areaVA)) (withSlip [3 * 2 ^ 48 + 15 * 2 ^ 55, 0, 2 ^ 48, 0, 3 * 2 ^ 61]) 63)).any fun c => decide (c.s.target c.core (c.g (GOp.g 1)) = .slip 1 0 ∧ (c.g (GOp.g 1)).getLsbD 61 = true)) &&
    ((enters (formOf (.emr hd (GOp.g 3) (GOp.g 1) (127 : BitVec 24))) (st (Strand.putG · 1 areaVA) (withSlip [3 * 2 ^ 48 + 14 * 2 ^ 55, 0, 2 ^ 48, 0, 3 * 2 ^ 61]) 63)).any fun c => decide (c.s.target c.core (c.g (GOp.g 1)) = .slip 1 0 ∧ (127 : BitVec 24).toNat < 128 ∧ 8 * (fld (c.s.slipDw 0 0) 58 55 + 1) ≤ (127 : BitVec 24).toNat)) &&
    ((enters (formOf (.emr hd (GOp.g 3) (GOp.g 1) (128 : BitVec 24))) (st (Strand.putG · 1 areaVA) (withSlip [3 * 2 ^ 48 + 15 * 2 ^ 55, 0, 2 ^ 48, 0, 3 * 2 ^ 61]) 63)).any fun c => decide (c.s.target c.core (c.g (GOp.g 1)) = .slip 1 0 ∧ (128 : BitVec 24).toNat = 128)) &&
    ((enters (formOf (.emr hd (GOp.g 3) (GOp.g 1) (256 : BitVec 24))) (st (Strand.putG · 1 areaVA) (withSlip [3 * 2 ^ 48 + 15 * 2 ^ 55, 0, 2 ^ 48, 0, 3 * 2 ^ 61]) 63)).any fun c => decide (c.s.target c.core (c.g (GOp.g 1)) = .slip 1 0 ∧ 256 ≤ (256 : BitVec 24).toNat)) &&
    ((enters (formOf (.emw hd (GOp.g 3) (GOp.g 1) (127 : BitVec 24))) (st (Strand.putG · 1 areaVA) (withSlip [3 * 2 ^ 48 + 14 * 2 ^ 55, 0, 2 ^ 48, 0, 3 * 2 ^ 61]) 63)).any fun c => decide (c.s.target c.core (c.g (GOp.g 1)) = .slip 1 0 ∧ (127 : BitVec 24).toNat < 128 ∧ 8 * (fld (c.s.slipDw 0 0) 58 55 + 1) ≤ (127 : BitVec 24).toNat)) &&
    ((enters (formOf (.emw hd (GOp.g 3) (GOp.g 1) (128 : BitVec 24))) (st (Strand.putG · 1 areaVA) (withSlip [3 * 2 ^ 48 + 15 * 2 ^ 55, 0, 2 ^ 48, 0, 3 * 2 ^ 61]) 63)).any fun c => decide (c.s.target c.core (c.g (GOp.g 1)) = .slip 1 0 ∧ (128 : BitVec 24).toNat = 128)) &&
    ((enters (formOf (.emw hd (GOp.g 3) (GOp.g 1) (256 : BitVec 24))) (st (Strand.putG · 1 areaVA) (withSlip [3 * 2 ^ 48 + 15 * 2 ^ 55, 0, 2 ^ 48, 0, 3 * 2 ^ 61]) 63)).any fun c => decide (c.s.target c.core (c.g (GOp.g 1)) = .slip 1 0 ∧ 256 ≤ (256 : BitVec 24).toNat)) &&
    ((enters (formOf (.emw hd (GOp.g 3) (GOp.g 1) (127 : BitVec 24))) (st (Strand.putG · 1 0x8000000000000001) (fun s => s.setStrand 0 1 { haltedStrand with wgr := 0 }) 63)).any fun c => decide (c.s.target c.core (c.g (GOp.g 1)) = .halted 0 1 { haltedStrand with wgr := 0 } ∧ (127 : BitVec 24).toNat < 128 ∧ { haltedStrand with wgr := 0 }.size ≤ (127 : BitVec 24).toNat)) &&
    ((enters (formOf (.emr hd (GOp.g 3) (GOp.g 1) (0 : BitVec 24))) (st (Strand.putG · 1 0x8000000000000001) (fun s => s.setStrand 0 1 haltedStrand) 63)).any fun c => decide (c.s.target c.core (c.g (.g 1)) = .halted 0 1 haltedStrand ∧ (match c.s.readHalted 0 1 0 haltedStrand with | .ok _ => true | .error _ => false) = true)) &&
    ((enters (formOf (.emr hd (GOp.g 3) (GOp.g 1) (128 : BitVec 24))) (st (Strand.putG · 1 0x8000000000000001) (fun s => s.setStrand 0 1 { haltedStrand with predBad := true }) 63)).any fun c => decide (c.s.target c.core (c.g (.g 1)) = .halted 0 1 { haltedStrand with predBad := true } ∧ (match c.s.readHalted 0 1 128 { haltedStrand with predBad := true } with | .error _ => true | .ok _ => false) = true)) &&
    ((B.redoOf 0 haltedStrand).isEmpty) &&
    (let x := B.settle 0 haltedStrand (List.range haltedStrand.regs.length); ((x.1.dropFailed 0 x.2.uid).saveSettled 0 1 x.2 0 3 1 0 { vol := x.2.vol, pa := x.2.slip - Config.areaVA, redo := x.1.redoOf 0 x.2 }).2 == none)) = true := by decide +kernel

/-- States and operands that meet the hypotheses of `ServiceCallsAndTraps`. -/
theorem test_meets_ServiceCallsAndTraps : (((enters (formOf (.trap hd (0 : BitVec 24))) st0).any fun c => decide (c.t.free = false)) &&
    ((enters (formOf (.svc hd (GOp.g 3) (.g 4) (GOp.g 2) (1 : BitVec 16))) (stG 4 (ptr 1 0x40))).any fun c => decide (c.svcReach (c.g (.g 4)) = true ∨ ((GOp.g 2) ≠ .z ∧ c.svcReach (c.g (GOp.g 2)) = true))) &&
    ((enters (formOf (.svc hd (.g 3) (.g 4) .z 0)) st0).any fun c => decide (c.svcReach (c.g (.g 4)) = false ∧ gives (c.svcBlock (c.g (.g 4)) rR) 0x2000 ∧ c.s.isFenced .curator (clusterOf c.core) = false)) &&
    ((enters (formOf (.svc hd (.g 3) (.g 4) (.g 4) 1)) st0).any fun c => decide (c.svcReach (c.g (.g 4)) = false ∧ gives (c.svcBlock (c.g (.g 4)) rR) 0x2000 ∧ gives (c.svcBlock (c.g (.g 4)) rW) 0x2000 ∧ c.s.isFenced .curator (clusterOf c.core) = false)) &&
    ((enters (formOf (.svc hd (.g 3) (.g 4) .z 0)) (stS fun s => { s with root := { s.root with fenced := [{ kind := .curator, index := 0 }] } })).any fun c => decide (c.svcReach (c.g (.g 4)) = false ∧ gives (c.svcBlock (c.g (.g 4)) rR) 0x2000 ∧ c.s.isFenced .curator (clusterOf c.core) = true)) &&
    (decide (st0.clk.cur = some (0, 0) ∧ (st0.strand 0 0).any (fun t => t.group == 0) = true)) &&
    (let s := st (fun t => { t with group := 3 }) (withShape 0) 0; s.clk.cur == some (0, 0) && (s.strand 0 0).any (fun t => t.group != 0) && illegalByPairOnly (s.decCtx 0 0) (wordOf (.mov hd .d .qa (.g 3))) && (s.strands.map (·.2.uid)).Nodup && s.fresh.1 != 0 && s.strands.all (·.2.group != s.fresh.1)) &&
    (let s := st (fun t => { t with group := 3 }) id 0; s.clk.cur == some (0, 0) && (s.strand 0 0).any (fun t => t.group != 0) && !illegalByPairOnly (s.decCtx 0 0) 1) &&
    ((enters (formOf (.svc hd (.g 3) (.g 4) (.g 4) 1)) (stS fun s => { s with root := { s.root with fenced := [{ kind := .curator, index := 0 }] } })).any fun c => decide (c.svcReach (c.g (.g 4)) = false ∧ gives (c.svcBlock (c.g (.g 4)) rR) 0x2000 ∧ gives (c.svcBlock (c.g (.g 4)) rW) 0x2000 ∧ c.s.isFenced .curator (clusterOf c.core) = true))) = true := by decide +kernel

/-- States and operands that meet the hypotheses of `ResultsAndWakes`. -/
theorem test_meets_ResultsAndWakes_1 : ((let s := stT fun t => { t with ops := [opDone] }; ((s.core 0).tileOps.find? (fun x => x.id == 7 && !x.failed)).isNone && (s.strand 0 0).any fun t => t.ops.find? (·.id == 7) == some opDone && t.run == .ready) &&
    (let s := stT fun t => { t with run := .parked .results }; (s.strand 0 0).any fun t => t.run == .parked .results && s.wakeable 0 0 t) &&
    ((st0.strand 0 0).any fun t => !st0.wakeable 0 0 t) &&
    (let s := stT fun t => { t with run := .parked (.op 7), ops := [{ opDone with stage := .held }] }; (s.strand 0 0).any fun t => t.run == .parked (.op 7) && s.wakeable 0 0 t && (t.ops.find? (·.id == 7)).any fun o => o.fault == none && s.pushShort t == none) &&
    (({ strandOf 0 with run := .parked (.credit q0) } : Strand).run == .parked (.credit q0)) &&
    (({ strandOf 0 with run := .parked (.results) } : Strand).run == .parked (.results)) &&
    (({ strandOf 0 with run := .parked (.barw 0) } : Strand).run == .parked (.barw 0)) &&
    (let s := stT fun t => { t with run := .waiting 0 }; (s.strand 0 0).any fun t => t.run == .waiting 0 && t.prog != 3) &&
    (let s := stT fun t => { t with run := .waiting 1 }; (s.strand 0 0).any fun t => t.run == .waiting 1) &&
    (({ strandOf 0 with run := .parked (.queue q0) } : Strand).run == .parked (.queue q0)) &&
    (({ strandOf 0 with run := .parked (.anyQueue) } : Strand).run == .parked (.anyQueue)) &&
    (({ strandOf 0 with run := .parked (.inbox) } : Strand).run == .parked (.inbox)) &&
    (({ strandOf 0 with run := .parked (.bara 0) } : Strand).run == .parked (.bara 0)) &&
    (({ strandOf 0 with run := .parked (.tiles 2) } : Strand).run == .parked (.tiles 2)) &&
    (({ strandOf 0 with run := .parked (.stream 1) } : Strand).run == .parked (.stream 1)) &&
    (({ strandOf 0 with run := .parked (.tlbsync) } : Strand).run == .parked (.tlbsync))) = true := by decide +kernel

/-- States and operands that meet the hypotheses of `ResultsAndWakes`. -/
theorem test_meets_ResultsAndWakes_2 : ((({ strandOf 0 with run := .parked (.op 7) } : Strand).run == .parked (.op 7)) &&
    (({ strandOf 0 with run := .parked (.remote) } : Strand).run == .parked (.remote)) &&
    (({ strandOf 0 with run := .parked (.collate 2) } : Strand).run == .parked (.collate 2)) &&
    (({ strandOf 0 with run := .parked (.retired) } : Strand).run == .parked (.retired)) &&
    (let s := stT fun t => { t with run := .waiting 0, prog := 3 }; (s.strand 0 0).any fun t => t.run == .waiting 0 && t.prog == 3) &&
    (let s := (stS fun s => withGathering { placedGathering with spent := [(q0, s.portDepth 1 - 1)] } s); let t : Strand := { strandOf 0 with run := .parked (.op 7), ops := [{ opDone with stage := .held }, { opDone with id := 8, dest := .push 3 q0, stage := .held }, { opDone with id := 9, dest := .push 3 q0, stage := .held }] }; let s := s.setStrand 0 0 t; t.run == .parked (.op 7) && s.wakeable 0 0 t && (t.ops.find? (·.id == 7)).any (fun o => o.fault == none) && s.pushShort t == some q0)) = true := by decide +kernel

/-- States and operands that meet the hypotheses of `SlipsAndFetch`. -/
theorem test_meets_SlipsAndFetch : (((B.idleSlot 0 0).isNone) &&
    (let s := withCore (fun c => { c with runs := List.replicate 7 [] ++ [[(1, 0)]] }) (withSlip [2 ^ 51, 0, 2 ^ 48, 0, 0, 0, 0, 0] B); (s.idleSlot 0 1).any fun p => ((s.core (clusterOf 0 * 8 + 0 % 8)).runs.getD 7 []).head? == some (p.1.vol, 0) && (s.slipDw 0 0).getLsbD 51 && s.slipOk 0 && (s.takeGran 0 (fld (s.slipDw 0 0) 58 55 + 1)).isSome) &&
    (let s := st (fun t => { t with pc := 8 }) (withLeaf (2 ^ 57)) 0; (s.strand 0 0).any fun t => t.run == .ready && s.cached 0 t == none && gives t.fetchCheck 8 && !(t.follower && (s.leaderOf t).isSome) && s.lookup (s.cluster (clusterOf 0)).tlb t.vol 8 .fetch == some (.key 8 none) && !s.keyFenced 8) &&
    (let s := st (fun t => { t with pc := 8 }) withTable 0; (s.strand 0 0).any fun t => t.run == .ready && s.cached 0 t == none && gives t.fetchCheck 8 && !(t.follower && (s.leaderOf t).isSome) && s.lookup (s.cluster (clusterOf 0)).tlb t.vol 8 .fetch == none) &&
    (let s := stT fun t => { t with pc := 4 }; (s.strand 0 0).any fun t => t.run == .ready && s.cached 0 t == none && fails t.fetchCheck 3 && !(t.follower && (s.leaderOf t).isSome)) &&
    (let s := st (fun t => { t with group := 3, colI := 1 }) (fun s => s.setStrand 1 0 { strandOf 0 with uid := 9, role := 1, group := 3 }) 0; (s.strand 0 0).any fun t => t.follower && (s.leaderOf t).isSome) &&
    (let s := stT fun t => { t with pc := 0x1008 }; let x := walk1 4 0; (s.strand 0 0).any fun t => t.run == .ready && t.vol == x.vol && s.cached 0 t == none && gives t.fetchCheck 0x1008 && 0x1008 / 2 ^ leaf1.bits == x.va / 2 ^ leaf1.bits && s.leafPlace leaf1 0x1008 .fetch == .key 0x1008 none && !s.keyFenced 0x1008)) = true := by decide +kernel

/-- States and operands that meet the hypotheses of `NetworkArrivals`. -/
theorem test_meets_NetworkArrivals : (((B.engFor 0 1).isEmpty) &&
    ((let m : EngMsg := { id := 7, core := 0, lane := 63, vol := 0, src := 3, word := 1 }; let s : State := { B with fab := { B.fab with eng := [m] } }; s.fab.eng.find? (·.id == m.id) == some m && (s.fab.eng.all fun x => !(decide (x.id < m.id))) && m.vol == 0 && decide ((s.core m.core).inbox.countP (·.vol == 0) < 16)) && let m : EngMsg := { id := 7, core := 0, lane := 0, vol := 1, src := 3, word := 1 }; let s : State := { B with fab := { B.fab with eng := [m] } }; s.fab.eng.find? (·.id == m.id) == some m && (s.fab.eng.all fun x => !(decide (x.id < m.id))) && (s.volume m.vol).any fun v => decide (s.inboxUsed m.vol m.core < v.inboxN)) &&
    (let m : EngMsg := { id := 7, core := 0, lane := 0, vol := 1, src := 3, word := 1 }; let s : State := withCore (fun c => { c with inbox := [{ inMsg0 with vol := 1, lane := 0 }] }) { B with fab := { B.fab with eng := [m] } }; s.fab.eng.find? (·.id == m.id) == some m && m.vol != 0 && (s.volume m.vol).any fun v => decide (v.inboxN ≤ s.inboxUsed m.vol m.core)) &&
    (!(B.core 0).awayVol 1) &&
    (let m : EngMsg := { id := 7, core := 0, lane := 63, vol := 0, src := 3, word := 1 }; let s : State := withCore (fun c => { c with inbox := List.replicate 16 inMsg0 }) { B with fab := { B.fab with eng := [m] } }; s.fab.eng.find? (·.id == m.id) == some m && m.vol == 0 && decide (16 ≤ (s.core m.core).inbox.countP (·.vol == 0))) &&
    (let m : SupMsg := { id := 7, dst := some 0, from_ := 0, src := 8, word := 1 }; let s : State := withCore (fun c => { c with inbox := List.replicate 15 inMsg0 }) { B with fab := { B.fab with sup := [m] } }; s.fab.sup.find? (·.id == m.id) == some m && m.dst == some 0 && decide ((s.core 0).inbox.countP (·.vol == 0) < 16)) &&
    (let m : SupMsg := { id := 7, dst := none, from_ := 0, src := 8, word := 1 }; let s : State := { B with fab := { B.fab with sup := [m] } }; s.fab.sup.find? (·.id == m.id) == some m && m.dst == none)) = true := by decide +kernel

/-- States and operands that meet the hypotheses of `BankTransactions`. -/
theorem test_meets_BankTransactions : ((let p : Part := { part1 with key := none }; let f : Flight := { flightOf .st with parts := [p] }; let s := withFlight f (withTable B); let x := walk1 4 0; s.flights.find? (·.id == f.id) == some f && f.unplaced == some (0, p, 1, 0x1000) && !f.failed && x.vol == 1 && 0x1000 / 2 ^ leaf1.bits == x.va / 2 ^ leaf1.bits) &&
    (let x := walk1 3 0x20000; let s := withWalk x (withTable B); s.walkRun 9 == some (0, x) && x.fuel != 4 && (match walkLevel s x.va x.fuel x.table x.p with | .inl _ => true | .inr _ => false)) &&
    (let x := walk1 4 0x10000; let s := withWalk x (withTable B); s.walkRun 9 == some (0, x) && (s.spaceOf x.vol).root != none && (match walkLevel s x.va x.fuel x.table x.p with | .inr _ => true | .inl _ => false)) &&
    (let x := walk1 4 0; let s := withWalk x (B); s.walkRun 9 == some (0, x) && x.fuel == 4 && (s.spaceOf x.vol).root == none) &&
    ((walk1 4 0).for_.isEmpty && (B.cluster 0).misses.isEmpty) &&
    (let f : Flight := { flightOf .st with spill := some 0 }; let s : State := withFlight f { B with clk := { B.clk with frame := 64 } }; s.flights.find? (·.id == f.id) == some f && f.parts[f.k]? == some part1 && decide (0 < s.clk.frame ∧ (s.clk.frame - 0) % 64 = 0) && part1.key != none && (match s.bankDo f part1 (part1.key.getD 0) with | .wait => false | _ => true)) &&
    (let f : Flight := { flightOf .st with spill := some 0 }; let s : State := withFlight f { B with clk := { B.clk with frame := 65 } }; s.flights.find? (·.id == f.id) == some f && decide ((s.clk.frame - 0) % 64 ≠ 0))) = true := by decide +kernel

/-- States and operands that meet the hypotheses of `PreemptionAndResumption`. -/
theorem test_meets_PreemptionAndResumption : ((!B.coreFenced 0 && (B.core 0).pre == .none && !(B.users 0).isEmpty) &&
    (!(withCore (fun c => { c with pre := .out }) B).coreFenced 0 && ((withCore (fun c => { c with pre := .out }) B).core 0).pre != .none) &&
    ((withFenced [{ kind := .core, index := 0 }] B).coreFenced 0) &&
    (!B.coreFenced 2047 && (B.core 2047).pre == .none && (B.users 2047).isEmpty) &&
    (!(withCore (fun c => { c with pre := .out }) B).coreFenced 0 && ((withCore (fun c => { c with pre := .out }) B).core 0).pre == .out) &&
    (!B.coreFenced 0 && (B.core 0).pre != .out) &&
    (((withCore (fun c => { c with pre := (.saving none) }) B).core 0).pre == .saving none && (withCore (fun c => { c with pre := (.saving none) }) B).savesReady 0) &&
    (let s := withCore (fun c => { c with pre := .resuming none }) State.reset; (s.core 0).pre == .resuming none && s.resumeFits 0) &&
    (!B.coreFenced 0) &&
    ((withFenced [{ kind := .core, index := 0 }] B).coreFenced 0)) = true := by decide +kernel

/-- States and operands that meet the hypotheses of `LaunchPlacementRetirement`. -/
theorem test_meets_LaunchPlacementRetirement : ((let r := reqOf .launch; let s : State := withRecord placedRecord (withReady [{ kind := .circ, index := 0 }] { B with circ := { B.circ with reqs := [r] } });
      s.circ.reqs.find? (·.id == r.id) == some r && s.reqReady r && s.isReady .circ 0 && !s.isFenced .circ 0 && gives (r.iss.place r.a 256 (rR + rE) 64) (1, .va 1 0x2000) &&
      State.reqRecord { s with circ := { s.circ with reqs := s.circ.reqs.filter (·.id != r.id) } } (clusterOf r.iss.core) r (.va 1 0x2000) 32 == .words placedRecord) &&
    (let r := { reqOf .launch with b := some (ptr 2 0x2000) }; gives (r.iss.place (ptr 2 0x2000) 8 (rW + rF + rE) 8) (1, .va 1 0x2000)) &&
    ((reqOf .launch).b == none && (match iss1.place 5 8 (rW + rF + rE) 8 with | .error _ => true | .ok _ => false)) &&
    (let r := { reqOf .launch with a := 5 }; let s : State := withReady [{ kind := .circ, index := 0 }] { B with circ := { B.circ with reqs := [r] } }; s.circ.reqs.find? (·.id == r.id) == some r && s.reqReady r && s.isReady .circ 0 && !s.isFenced .circ 0 && (match r.iss.place r.a 256 (rR + rE) 64 with | .error _ => true | .ok _ => false)) &&
    (let r := { reqOf .launch with a := 5 }; let s : State := withFenced [{ kind := .circ, index := 0 }] { B with circ := { B.circ with reqs := [r] } }; s.circ.reqs.find? (·.id == r.id) == some r && s.reqReady r && s.isFenced .circ 0) &&
    ((B.badRecord 1 placedRecord).isSome) &&
    (let s := goodSpace B; s.badRecord 1 goodRecord == none && !shapeNever s goodRecord && decide (((s.volume 1).map Volume.launchN).getD 0 ≤ s.launched 1)) &&
    (let v := goodVolume; let s := withReady [{ kind := .circ, index := 0 }, { kind := .core, index := 0 }, { kind := .curator, index := 0 }, { kind := .slice, index := 0 }] (goodSpace (withVolume v State.reset));
      s.isReady .circ 0 && !s.isFenced .circ 0 && s.placeOrder == [v.id] && s.volume v.id == some v && v.count == v.next + 1 && v.reserved == none && (s.circ.volumes.all fun x => x.id == v.id || x.reserved == none) &&
      (s.clusterFits v 0).isSome && (s.codePoint v.id (v.dw 0)).isSome) &&
    (let s := withReady [{ kind := .circ, index := 0 }] State.reset; s.isReady .circ 0 && !s.isFenced .circ 0 && s.placeOrder == []) &&
    (let g := endedG; let s := withGathering g B; s.gathering 1 0 == some g && s.volume 1 == some placedVolume && (g.members.all (·.st != .live)) && !s.retireWaits g && s.strangers g == [] && g.succ == none) &&
    (let g : Gathering := { endedG with succ := some code1 }; let s := withGathering g (goodSpace B); s.gathering 1 0 == some g && s.volume 1 == some placedVolume && (g.members.all (·.st != .live)) && !s.retireWaits g && s.strangers g == [] && s.codePoint 1 code1 == some (5, 9) && s.granFits g) &&
    ((B.gathering 1 0).isSome && (B.volume 1).isSome && placedGathering.members.any (·.st == .live))) = true := by decide +kernel

/-- States and operands that meet the hypotheses of `CopyOperations`. -/
theorem test_meets_CopyOperations : ((let o := copy1; let s := withCopy o (withLeaf rwLeaf B); (s.cluster 0).copies.find? (·.id == 7) == some o && o.started && decide (o.chunk < o.chunks) && !s.copyBlocked o && (o.far.all (·.res != none)) && o.sent == none && !(s.copyScan 0 o).wait) &&
    (let o : CopyOp := { copy1 with chunk := 1 }; let s := withCopy o B; (s.cluster 0).copies.find? (·.id == 7) == some o && decide (o.chunks ≤ o.chunk) && o.kind != .cmpct && o.marks == [] && o.extra == [] && !(o.dws.getD 6 0).getLsbD 63) &&
    (!B.det 1) &&
    (let s := withCopy copy1 B; (s.cluster 0).copies.find? (·.id == 7) == some copy1 && decide (copy1.chunk < copy1.chunks))) = true := by decide +kernel

/-- States and operands that meet the hypotheses of `BinderyTasks`. -/
theorem test_meets_BinderyTasks : ((let t := task1 zeroTask; let s := withTask t (withTile tile1 B); (s.cluster 0).tasks == [t] && t.cores == [8 * 0 + 0] && t.parts == [.waiting] && s.startable 0 (8 * 0 + 0) [] t) &&
    (let t := startedTask zeroTask; let s := withTask t (withTile tile1 B); (s.cluster 0).tasks.find? (·.id == t.id) == some t && t.cores == [0] && t.parts == [.started] && !((s.core 0).tile t.tile).halted && !s.coreFenced 0 && t.kind == 2) &&
    (let t := startedTask storeTask; let s := withTask t (withTile tile1 B); (s.cluster 0).tasks.find? (·.id == t.id) == some t && t.cores == [0] && t.parts == [.started] && !((s.core 0).tile t.tile).halted && !s.coreFenced 0 && (s.runPart 0 0 t 0).2.isSome) &&
    (let t := startedTask zeroTask; let s := withTask t (withTile tile1 B); (s.cluster 0).tasks.find? (·.id == t.id) == some t && t.cores == [0] && t.parts == [.started] && !((s.core 0).tile t.tile).halted && !s.coreFenced 0 && (s.runPart 0 0 t 0).2.isNone) &&
    (((B.status iss1 7 (ofN 1)).requestEvents 1).isEmpty)) = true := by decide +kernel

/-- States and operands that meet the hypotheses of `SelectionOperations`. -/
theorem test_meets_SelectionOperations : ((let o := sel1 .ksel; let s := withSel o B; (s.cluster 0).sels.head? == some o && !s.unitFenced .sel 0 && o.hdr == none && !s.selBlocked o && o.kind == .ksel) &&
    (let o := sel1 .kgath; let s := withSel o B; (s.cluster 0).sels.head? == some o && !s.unitFenced .sel 0 && o.hdr == none && !s.selBlocked o && o.kind == .kgath && (match s.engRead 0 (o.iss.at_ (o.dws.getD 0 0) 0) 8 with | .ok _ => true | _ => false)) &&
    (let o := gathOp 0; let s := withSel o B; (s.cluster 0).sels.head? == some o && !s.unitFenced .sel 0 && o.hdr == some 0 && decide (gathM (fun i => o.dws.getD i 0) ≤ o.e) && !s.selBlocked o) &&
    (let o := gathOp 1; let s := withSel o B; (s.cluster 0).sels.head? == some o && !s.unitFenced .sel 0 && o.hdr == some 0 && decide (o.e < gathM (fun i => o.dws.getD i 0)) && (match s.gatherSlots 0 o (gathE0 (fun i => o.dws.getD i 0) + o.e) 0 with | .error (_, _, _, none) => true | _ => false) && !s.selBlocked o) &&
    (let o := gathOk; let s := gathState; (s.cluster 0).sels.head? == some o && !s.unitFenced .sel 0 && o.hdr == some 1 && decide (o.e < gathM (fun i => o.dws.getD i 0)) && (match s.gatherSlots 0 o (gathE0 (fun i => o.dws.getD i 0) + o.e) 1 with | .ok _ => true | .error _ => false) && o.sync == none && !s.selBlocked o) &&
    (let o := { gathOk with sync := some (ptr 2 0x4000) }; let s := withCluster (fun c => { c with sels := [o] }) gathState; (s.cluster 0).sels.head? == some o && !s.unitFenced .sel 0 && o.hdr == some 1 && !s.selBlocked o && decide (o.e < gathM (fun i => o.dws.getD i 0)) && (match s.gatherSlots 0 o (gathE0 (fun i => o.dws.getD i 0) + o.e) 1 with | .ok (_, kg, vg) => !(s.gathered 0 o kg vg).2 | .error _ => false) && o.sync == some (ptr 2 0x4000)) &&
    (let o := sel1 .ksel; let s := withSel o B; o.qry == none && ((List.range (selC fun i => o.dws.getD i 0)).all fun c => (match s.engRead 0 (o.iss.at_ (o.dws.getD 0 0) (c * selQ fun i => o.dws.getD i 0)) (selQ fun i => o.dws.getD i 0) with | .ok _ => true | _ => false))) &&
    (let o := { sel1 .ksel with qry := some [], e := 1 }; o.qry == some [] && decide (selN (fun i => o.dws.getD i 0) ≤ o.e)) &&
    (let q := List.replicate 64 0; let o := { sel1 .ksel with qry := some q, dws := kselRec.set 1 (ptr 6 0x10) }; let s := gathState; o.qry == some q && decide (o.e < selN (fun i => o.dws.getD i 0)) && (match s.engRead 0 (o.iss.at_ (o.dws.getD 1 0) (16 * o.e)) 8 with | .ok v => (match s.descBound 0 o (q.map (if selQ (fun i => o.dws.getD i 0) == 4 then fpF32 else fpBf16).value) (ofN v) with | .ok _ => true | .error _ => false) | _ => false)) &&
    (let q := List.replicate 64 0; let o := { sel1 .ksel with qry := some q }; let s := withSel o B; o.qry == some q && decide (o.e < selN (fun i => o.dws.getD i 0)) && (match s.engRead 0 (o.iss.at_ (o.dws.getD 1 0) (16 * o.e)) 8 with | .ok v => (match s.descBound 0 o (q.map (if selQ (fun i => o.dws.getD i 0) == 4 then fpF32 else fpBf16).value) (ofN v) with | .error _ => true | .ok _ => false) | _ => false)) &&
    (let o : SelOp := { sel1 .kgath with dws := [ptr 0 0] }; let s := withSel o B; (s.cluster 0).sels.head? == some o && !s.unitFenced .sel 0 && o.hdr == none && !s.selBlocked o && o.kind == .kgath && (match s.engRead 0 (o.iss.at_ (o.dws.getD 0 0) 0) 8 with | .bad _ => true | _ => false))) = true := by decide +kernel

/-- States and operands that meet the hypotheses of `PoolingOperations`. -/
theorem test_meets_PoolingOperations : ((let o := bag1; let s := withBag o { B with chips := [(0, 9, 0)] }; (s.cluster 0).bags.find? (·.id == 9) == some o && o.started && s.chips.contains (0, 9, 0) && gives (s.bagRows o 0) []) &&
    (let o : BagOp := { bag1 with offs := [0, 1] }; let s := withBag o { B with chips := [(0, 9, 0)] }; (s.cluster 0).bags.find? (·.id == 9) == some o && o.started && s.chips.contains (0, 9, 0) && o.bad == [] && (match s.bagRows o 0 with | .error _ => true | .ok _ => false)) &&
    (let o : BagOp := { bag1 with bag := 1 }; let s := withBag o B; (s.cluster 0).bags.find? (·.id == 9) == some o && o.started && !s.unitFenced .annexif 0 && decide (bagNb (fun i => o.dws.getD i 0) ≤ o.bag)) &&
    (let o : BagOp := { bag1 with bad := [(0, 0x65, 0, 0)] }; let s := withBag o B; (s.cluster 0).bags.find? (·.id == 9) == some o && o.started && !s.unitFenced .annexif 0 && decide (o.bag < bagNb (fun i => o.dws.getD i 0)) && (s.chips.all fun e => e.2.1 != 9 || e.2.2 != o.bag) && o.bad.find? (·.1 == o.bag) == some (o.bag, 0x65, 0, 0)) &&
    (let o := bag1; let s := withBag o (withLeaf rwLeaf B); (s.cluster 0).bags.find? (·.id == 9) == some o && o.started && !s.unitFenced .annexif 0 && decide (o.bag < bagNb (fun i => o.dws.getD i 0)) && (s.chips.all fun e => e.2.1 != 9 || e.2.2 != o.bag) && (o.bad.find? (·.1 == o.bag)).isNone && ((List.range (bagD fun i => o.dws.getD i 0)).all fun e => (s.outCode 0 (o.out e) (bagOb fun i => o.dws.getD i 0)).isNone) && o.sync == none) &&
    (let o : BagOp := { bag1 with sync := some (ptr 2 0x4000) }; let s := withBag o (withLeaf rwLeaf B); (s.cluster 0).bags.find? (·.id == 9) == some o && o.started && !s.unitFenced .annexif 0 && decide (o.bag < bagNb (fun i => o.dws.getD i 0)) && (s.chips.all fun e => e.2.1 != 9 || e.2.2 != o.bag) && (o.bad.find? (·.1 == o.bag)).isNone && ((List.range (bagD fun i => o.dws.getD i 0)).all fun e => (s.outCode 0 (o.out e) (bagOb fun i => o.dws.getD i 0)).isNone) && o.sync == some (ptr 2 0x4000))) = true := by decide +kernel

/-- States and operands that meet the hypotheses of `SpecialisationOperations`. -/
theorem test_meets_SpecialisationOperations : ((let s := withSpec spec1 (stopCode B); (s.cluster 0).specs.head? == some spec1 && spec1.taken == none && (match s.specTrace 0 spec1 with | .done _ => true | _ => false)) &&
    (let s := withSpec spec1 (goodSpace B); (s.cluster 0).specs.head? == some spec1 && spec1.taken == none && (match s.specTrace 0 spec1 with | .end_ _ _ => true | _ => false)) &&
    (let s := arenaCode B; (match s.specTrace 0 spec1 with | .done t => (s.placeCode 1 ((deadPass (specLive fun i => spec1.dws.getD i 0) (copyPass t.out.length t.out)).map Raw.toWord)).isSome | _ => false)) &&
    (let s := stopCode B; (match s.specTrace 0 spec1 with | .done t => (s.placeCode 1 ((deadPass (specLive fun i => spec1.dws.getD i 0) (copyPass t.out.length t.out)).map Raw.toWord)).isNone | _ => false)) &&
    (let s := withSpec takenSpec B; (s.cluster 0).specs.head? == some takenSpec && takenSpec.taken == some (6, 1, 0x40000, 0)) &&
    (let s := withLeaf rwLeaf B; !(s.blockOut 0 takenSpec (1 * 2 ^ 48 + 6 * 2 ^ 32 + ((s.spaceOf 1).entry 6).size) 0).2) &&
    (let s := B; (s.blockOut 0 takenSpec (1 * 2 ^ 48 + 6 * 2 ^ 32 + ((s.spaceOf 1).entry 6).size) 0).2)) = true := by decide +kernel

/-- States and operands that meet the hypotheses of `NetworkRequests`. -/
theorem test_meets_NetworkRequests : ((let w := { wr1 [] 0 with dws := [ofN (2 ^ 60), ptr 2 0x4000, 768, 0, 0, 0, 0, 0] }; let s := withWr w B; s.net.wrs.find? (fun x => x.id == 9 && x.peer == 0 && x.started && x.kind.outward) == some w && decide (1 < w.packets) && !w.got.contains 1 && decide (w.got.length + 1 < w.packets)) &&
    (let w := wr1 [0] 0; let s := withWr w B; s.net.wrs.find? (fun x => x.id == 9 && x.peer == 0 && x.started && x.kind.outward) == some w && decide (1 < w.packets) && !w.got.contains 1 && decide (w.got.length + 1 = w.packets)) &&
    (let w := wr1 [0] 0; let s := withWr w B; s.net.wrs.find? (fun x => x.id == 9 && x.started && x.kind != .nrecv) == some w && decide (1 < w.packets) && !w.got.contains 1 && s.packetPeer 9 1 == some 0) &&
    (let s := withWr (wr1 [0] 63) B; s.triesOf 9 1 == some 63 && (s.sentPacket 9 1).isSome) &&
    (let w := wr1 [0] 64; let s := withWr w B; s.net.wrs.find? (fun x => x.id == 9 && x.started && x.kind != .nrecv) == some w && s.triesOf 9 1 == some 64) &&
    (let w := { wr1 [0] 0 with msg := 4 }; let s := withWr w B; s.net.wrs.find? (fun x => x.kind == .nsend && x.iss.vol == 1 && x.peer == 0 && x.msg == 4) == some w) &&
    (let s := netR [] [rd1]; s.net.wrs.find? (fun x => x.id == 9 && x.peer == 0 && x.kind == .nread && x.started) == some rd1 && decide (0 < rd1.packets) && !rd1.got.contains 0 && (match s.netWrite (rd1.iss.at_ (rd1.dw 1) 0) (List.replicate (rd1.size 0) 1) with | .ok _ => true | .error _ => false)) &&
    (let s := netR [] []; s.isReady .net 0 && !s.isFenced .net 0 && s.isReady .port 0 && !s.isFenced .port 0 && (pkt .other).kind == .other) &&
    (let w := rcv1 [0]; let s := netV w []; let i := (w.bytes + w.pk - 1) / w.pk; firstIn s w i && decide (w.bytes ≤ i * w.pk)) &&
    (let w := rcv1 []; let s := netV w []; firstIn s w 0 && decide (0 * w.pk < w.bytes) && (match s.netWrite (w.iss.at_ (w.dw 1) (0 * w.pk)) ([(1 : Byte)].take (w.bytes - 0 * w.pk)) with | .ok _ => true | .error _ => false)) &&
    ((netV (rcv1 []) [(1, 0, 4, 2)]).net.gotPk.contains (((netV (rcv1 []) [(1, 0, 4, 2)]).peer 0).vol, 0, 4, 2)) &&
    (let w := rcv1 [0]; let s := netV w []; w.kind == .nrecv && (s.wrRelease w).2 == none && decide (w.bytes < w.len.getD 0)) &&
    (let w := { rcv1 [0] with len := some 768 }; let s := netV w []; w.kind == .nrecv && (s.wrRelease w).2 == none && decide (w.len.getD 0 ≤ w.bytes))) = true := by decide +kernel

/-- States and operands that meet the hypotheses of `CuratorWork`. -/
theorem test_meets_CuratorWork : ((let s := withCluster (fun c => { c with switch := some 3 }) B; (s.cluster 0).switch == some 3 && !s.isFenced .curator 0 && !s.clusterFenced 0) &&
    (let x : Tlbi := { id := 9, uid := 1, vol := 1, lo := 0, hi := 0x1000 }; let s : State := { B with tlbis := [x] }; s.tlbis.find? (·.id == 9) == some x && !x.done) &&
    ((withFenced [{ kind := .sfu, index := 3 }] B).root.fenced.contains { kind := .sfu, index := 3 }) &&
    (!B.root.fenced.contains { kind := .sfu, index := 0 }) &&
    (!B.root.fenced.contains { kind := .slice, index := 0 }) &&
    (!B.root.fenced.contains { kind := .core, index := 0 })) = true := by decide +kernel

/-- States and operands that meet the hypotheses of `PowerOnAndReports`. -/
theorem test_meets_PowerOnAndReports : (((rootIn .testing State.reset).root.st == .testing) &&
    ((rootIn .testing State.reset).root.st == .testing) &&
    (let s : State := { rootIn .safe State.reset with root := { (rootIn .safe State.reset).root with again := [call1] } }; s.root.st == .safe && s.root.again == [call1]) &&
    (let s := rootIn .passed State.reset; let f : Func := { kind := .sfu, index := 0 }; s.mayReport f && !s.failsWithCluster f && !s.root.fenced.contains f && (imageRegs f.kind).isEmpty) &&
    (let s := rootIn .passed State.reset; let f : Func := { kind := .copy, index := 0 }; s.mayReport f && (clusterOfFunc f).all (fun k => !s.clusterFenced k)) &&
    (let s := withFenced [{ kind := .cluster, index := 0 }] (rootIn .passed State.reset); let f : Func := { kind := .copy, index := 0 }; s.mayReport f && clusterOfFunc f == some 0 && s.clusterFenced 0 && f.kind != .curator && f.kind != .slice && ([3] : List Nat).isPrefixOf (imageRegs f.kind)) &&
    (let s := rootIn .passed State.reset; s.mayReport { kind := .curator, index := 0 } && !s.root.fenced.contains { kind := .curator, index := 0 }) &&
    (let s := rootIn .passed State.reset; let f : Func := { kind := .copy, index := 0 }; imageRegs f.kind == [3] && s.mayReport f && !s.failsWithCluster f && !s.root.fenced.contains f) &&
    (!(rootIn .passed State.reset).mayReport { kind := .root, index := 0 }) &&
    (let s := rootIn .passed State.reset; let f : Func := { kind := .curator, index := 0 }; ([] : List Nat) != imageRegs f.kind && !s.failsWithCluster f && !s.root.fenced.contains f && (s.loadImages f.kind []).2) &&
    (decide (FuncKind.copy ≠ .core ∧ FuncKind.copy ≠ .curator ∧ FuncKind.copy ≠ .slice)) &&
    (State.reset.root.micro.isEmpty && microKinds.contains .sel && microKinds.contains .copy && microKinds.idxOf .sel != State.reset.root.microN && microKinds.all (fun q => !State.reset.kindGone q) && microKinds.idxOf .copy == State.reset.root.microN) &&
    (decide (1 ≠ 3) && ({ State.reset with root := { State.reset.root with measured := [(1, [5])] } } : State).root.measured.contains (1, [5]) && !State.reset.root.measured.contains (1, [5])) &&
    (let f : Func := { kind := .copy, index := 0 }; let s := withFenced [f] (rootIn .passed State.reset); s.mayReport f && !s.failsWithCluster f && s.root.fenced.contains f && ([3] : List Nat).isPrefixOf (imageRegs f.kind))) = true := by decide +kernel

/-- States and operands that meet the hypotheses of `HostCommands`. -/
theorem test_meets_HostCommands : ((let s := rootIn .safe B; s.root.st == .safe && call1.mgmt && !s.callBusy call1 && call1.argsOk) &&
    (let s := hostS fun s => { s with root := { s.root with update := some call1 } }; s.root.st == .passed && s.root.update == some call1 && call1.mgmt && !s.callBusy call1 && call1.argsOk) &&
    (let s := rootIn .safe B; s.root.st == .safe && call1.mgmt && !s.callBusy call1)) = true := by decide +kernel

/-- States and operands that meet the hypotheses of `PrivilegedOpcodes`. -/
theorem test_meets_PrivilegedOpcodes : (([0x01A, 0x01B, 0x01C, 0x01D, 0x01E, 0x0E3, 0x0E4].all fun n => (Raw.ofWord (BitVec.ofNat 64 (n * 2 ^ 51))).op.toNat == n) &&
    ((Raw.ofWord 0x0058000000000000).op.toNat == 0x00B) &&
    ((encode (.resume hd (.g 1))).isSome) &&
    ((encode (.emr hd (.g 3) (.g 1) 0)).isSome) &&
    ((encode (.emw hd (.g 3) (.g 1) 0)).isSome) &&
    ((encode (.kill hd (.g 1))).isSome) &&
    ((encode (.pmt hd (.g 3) (.g 1))).isSome) &&
    ((encode (.tlbi hd (.g 1) (.g 2))).isSome) &&
    ((encode (.tlbsync hd)).isSome) &&
    ((encode (.stop hd)).isSome)) = true := by decide +kernel

/-- States and operands that meet the hypotheses of `WellFormedDescriptors`. -/
theorem test_meets_WellFormedDescriptors : ((descType 0 == 0 && bitsN (0 : Desc).toNat 127 112 == 0 && bitsN (0 : Desc).toNat 54 48 == 0)) = true := by decide +kernel

/-- States and operands that meet the hypotheses of `PredicateFalse`. -/
theorem test_meets_PredicateFalse : (((Raw.ofWord 0x0000400000000000).pr == 0 && (Raw.ofWord 0x0000400000000000).pn) &&
    (cur st0 fun _ _ t => t.group == 0) &&
    ((addW off).raw.isSome && !(formOf (addW off)).h.sw && cur st0 fun _ _ t => !st0.predTrue (formOf (addW off)) t && !t.predBad && cur st0 fun core slot t => (Ctx.skipFault { s := st0, core := core, slot := slot, t := t, word := (formOf (addW off)).word } (formOf (addW off))) == none) &&
    (let s := stT fun t => { t with ops := [{ opDone with stage := .sent }] }; (addW sw).raw.isSome && (formOf (addW sw)).h.sw && cur s fun _ _ t => !s.predTrue (formOf (addW sw)) t && !t.outstanding.isEmpty) &&
    ((addW sw).raw.isSome && (formOf (addW sw)).h.sw && cur st0 fun core slot t => !st0.predTrue (formOf (addW sw)) t && t.outstanding.isEmpty && t.faulted == none && st0.pushShort t == none && !(st0.land core slot t).1.predTrue (formOf (addW sw)) (st0.land core slot t).2 && !(st0.land core slot t).2.predBad && cur st0 fun core slot t => (Ctx.skipFault { s := (st0.land core slot t).1, core := core, slot := slot, t := (st0.land core slot t).2, word := (formOf (addW sw)).word } (formOf (addW sw))) == none) &&
    (let f := formOf (addW hd); cur st0 fun _ _ t => !st0.switches f t && st0.predTrue f t && !f.outside t.size && f.pop == none && f.push == none && f.lost t == none && (f.regs.all fun n => !t.failing.contains n) && !f.rel) &&
    ((formOf (addW hd)).span == none) &&
    ((strandOf 0).colEnd == none) &&
    (let s := stT fun t => { t with predBad := true }; (addW off).raw.isSome && !(formOf (addW off)).h.sw && (formOf (addW off)).h.pr != 0 && cur s fun _ _ t => !s.predTrue (formOf (addW off)) t && t.predBad) &&
    (vpermW.raw.isSome && !(formOf vpermW).h.sw && cur lostS fun _ _ t => t == lostT && !lostS.predTrue (formOf vpermW) t && !t.predBad)) = true := by decide +kernel

/-- States and operands that meet the hypotheses of `InstructionsEnter`. -/
theorem test_meets_InstructionsEnter : ((let f := formOf (addW hd); cur st0 fun _ _ t => !st0.switches f t && st0.predTrue f t && !f.outside t.size && f.pop == none && f.push == none && f.lost t == none && (f.regs.all fun n => !t.failing.contains n) && !f.rel) &&
    (let f := formOf (.yield hd); cur st0 fun _ _ t => t.ops.isEmpty && st0.predTrue f t && !f.outside t.size && f.pop == none && f.push == none && f.lost t == none && (f.regs.all fun n => !t.failing.contains n) && !f.rel) &&
    (let f := formOf (.mov hd .d (.g 3) .qup); let s := stS withWord; cur s fun core slot t => !s.switches f t && s.predTrue f t && !f.outside t.size && f.pop == some .qup && f.push == none && f.lost t == none && (f.regs.all fun n => !t.failing.contains n) && !f.rel && !s.portBad t slot .qup && !s.portFenced core slot t .qup false && (s.popPort core slot t .qup).isSome) &&
    (let f := formOf (.mov hd .d .qdn (.g 3)); let s := st0; cur s fun core slot t => !s.switches f t && s.predTrue f t && !f.outside t.size && f.pop == none && f.push == some .qdn && f.lost t == none && (f.regs.all fun n => !t.failing.contains n) && !f.rel && !s.portBad t slot .qdn && !s.portFenced core slot t .qdn true && s.credits (s.portQ t slot .qdn) != 0) &&
    (let i : Instr := .mov hd .d (.g 127) (.g 1); let s := stT fun t => { t with wgr := 0 }; i.raw.isSome && cur s fun _ _ t => !s.switches (formOf i) t && s.predTrue (formOf i) t && (formOf i).outside t.size) &&
    ((enters (formOf (addW hd)) st0).isSome)) = true := by decide +kernel

/-- States and operands that meet the hypotheses of `RegisterFrames`. -/
theorem test_meets_RegisterFrames : ((let i : Instr := addW hd; destG i == some (.g 3) && (enters (formOf i) st0).any fun c => c.popOp == none) &&
    (let i : Instr := .add hd .wrap .d .z (.g 1) (.g 2); destG i == some .z && (enters (formOf i) st0).any fun c => c.popOp == none) &&
    (let i : Instr := .vand hd 15 1 (.v 2); destV i == some 15 && (enters (formOf i) st0).any fun c => c.popOp == none) &&
    (let i : Instr := .pand hd 15 1 2; destP i == some 15 && destP (.pand hd 0 1 2) == some 0 && (enters (formOf i) st0).any fun c => c.popOp == none) &&
    (let i : Instr := .add hd .wrap .d .qdn (.g 1) (.g 2); destG i == some .qdn && (enters (formOf i) st0).any fun c => c.popOp == none) &&
    (let i : Instr := .add hd .wrap .d (.g 3) .qup (.g 2); (destG i).isSome && (enters (formOf i) (stS withWord)).any fun c => c.popOp.isSome) &&
    ((strandOf 0).colEnd == none) &&
    (({ strandOf 0 with group := 3, colEnd := some 2 } : Strand).colEnd == some 2 && decide ((0, 1) ≠ (0, 0))) &&
    (decide ((0, 1) ≠ (0, 0)))) = true := by decide +kernel

/-- States and operands that meet the hypotheses of `FaultEntry`. -/
theorem test_meets_FaultEntry : ((decide (7 < 8 ∧ 2 ^ 13 - 1 < 2 ^ 13 ∧ 15 < 16 ∧ 2 ^ 11 - 1 < 2 ^ 11 ∧ 63 < 64 ∧ 2 ^ 24 - 1 < 2 ^ 24)) &&
    ((strandOf 0).ops.isEmpty) &&
    (let t := strandOf 0; B.mem.wf && t.bad.isEmpty && !t.predBad && t.sregBad.isEmpty && decide (t.prio < 8 ∧ t.wgr < 16 ∧ t.home < 2 ^ 11 ∧ 7 < 8 ∧ 2 ^ 13 - 1 < 2 ^ 13 ∧ t.holdp < 2 ^ 48)) &&
    (let t := strandOf 0; decide (0 ≠ 63) && t.faulter == none && t.bad.isEmpty && !t.predBad && t.sregBad.isEmpty) &&
    (let t := strandOf 0; decide (0 ≠ 63) && t.faulter == none && t.bad.isEmpty && !t.predBad && t.sregBad.isEmpty && codeB.volume 1 == some upVol && (codeB.resolveVA 1 upVol.upv).isSome) &&
    ((B.volume 1).all fun v => B.resolveVA 1 v.upv == none) &&
    ((B.volume 1).any fun v => B.resolveVA 1 v.fhv == none) &&
    (let v : Volume := { placedVolume with handlers := [0] }; (withVolume v B).volume 1 == some v && v.handlers.contains 0) &&
    ((strandOf 0).faulted == none && (strandOf 0).outstanding.isEmpty && decide (3 ≠ 2)) &&
    ((strandOf 0).faulted == none && (strandOf 0).outstanding.isEmpty) &&
    (let t : Strand := { strandOf 0 with ops := [{ opDone with stage := .sent }] }; t.faulted == none && !t.outstanding.isEmpty) &&
    (let t : Strand := { strandOf 0 with ops := [{ opDone with stage := .held, fault := some { cls := 3, code := 2 } }] }; (t.faulted.any fun o => o.fault.isSome) && t.outstanding == []) &&
    (({ strandOf 0 with faulter := some 5 } : Strand).faulter.isSome) &&
    (let t : Strand := { strandOf 0 with ops := [{ opDone with stage := .held, fault := some { cls := 3, code := 2 } }, { opDone with id := 8, stage := .sent }] }; (t.faulted.any fun o => o.fault.isSome) && t.outstanding != [])) = true := by decide +kernel

/-- States and operands that meet the hypotheses of `ChecksAndBanks`. -/
theorem test_meets_ChecksAndBanks : ((descType 0 == 0) &&
    (descType (mkDesc 1 (rR + rW) 0x1000 0x100) != 0 && !hasRights (descRights (mkDesc 1 (rR + rW) 0x1000 0x100)) rX) &&
    (descType (mkDesc 1 (rR + rW) 0x1000 0x100) != 0 && hasRights (descRights (mkDesc 1 (rR + rW) 0x1000 0x100)) rR && decide (4 % 8 ≠ 0)) &&
    (descType (mkDesc 1 (rR + rW) 0x1000 0x100) != 0 && hasRights (descRights (mkDesc 1 (rR + rW) 0x1000 0x100)) rR && decide (0x100 % 8 = 0 ∧ descLimit (mkDesc 1 (rR + rW) 0x1000 0x100) < 0x100 + 8)) &&
    (descType (mkDesc 1 (rR + rW) 0x1000 0x100) != 0 && hasRights (descRights (mkDesc 1 (rR + rW) 0x1000 0x100)) rR && decide (0xF8 % 8 = 0 ∧ 0xF8 < 2 ^ 48 ∧ 0xF8 + 8 ≤ descLimit (mkDesc 1 (rR + rW) 0x1000 0x100))) &&
    (decide (2 ^ 63 < 2 ^ 64 ∧ 2 ^ 24 - 1 < 2 ^ 24) && bitsN (2 ^ 63) 63 40 != 0) &&
    (decide (2 ^ 40 - 1 < 2 ^ 64 ∧ 2 ^ 24 - 1 < 2 ^ 24) && bitsN (2 ^ 40 - 1) 63 40 == 0) &&
    (decide ((8 = 4 ∨ 8 = 8) ∧ 2 ^ 64 - 1 < 2 ^ (8 * 8)))) = true := by decide +kernel

/-- States and operands that meet the hypotheses of `PortsAndFrames`. -/
theorem test_meets_PortsAndFrames : (((B.gathering 1 0).isSome && decide (0 < B.credits q0)) &&
    (let s := withWord B; (s.core 0).words.head?.any fun w => s.portTakes (strandOf 0) 0 .qup w) &&
    ((B.core 0).words.all fun w => !B.portTakes (strandOf 0) 0 .qup w) &&
    (let s := withCore (fun c => { c with inbox := [{ inMsg0 with vol := 1, lane := 0 }] }) B; (s.core 0).inbox.head?.any fun m => inboxTakes (strandOf 0) 0 m) &&
    ((enters (formOf (addW hd)) st0).any fun c => c.popOp == none) &&
    (B.nextTurn == some (0, 0))) = true := by decide +kernel

/-- States and operands that meet the hypotheses of `StepRunsTheDecodedInstruction`. -/
theorem test_meets_StepRunsTheDecodedInstruction : ((let s := stepS 0 [] []; s.clk.timed.isEmpty && s.clk.agenda.isEmpty && s.clk.due.isEmpty && turn s fun core slot t => (s.cached core t).any fun w => (decode (s.decCtx core slot) w).isSome) &&
    (let s := State.reset.placeWord 0; let s1 : State := { s with clk := { s.clk with agenda := s.clk.agenda.tail } }; s.clk.timed.isEmpty && s.clk.agenda.head? == some .turn && turn s1 fun core slot t => (s.cached core t).any fun w => (decode (s.decCtx core slot) w).isSome) &&
    (let s := stepS 1 [] []; s.clk.timed.isEmpty && s.clk.agenda.isEmpty && s.clk.due.isEmpty && turn s fun core slot t => (s.cached core t).any fun w => decode (s.decCtx core slot) w == none) &&
    (let s := withCore (fun c => { c with icache := [] }) (stepS 0 [] []); s.clk.timed.isEmpty && s.clk.agenda.isEmpty && s.clk.due.isEmpty && turn s fun core _ t => s.cached core t == none) &&
    (let s : State := { State.reset with clk := { State.reset.clk with timed := [], agenda := [], due := [] } }; s.clk.timed.isEmpty && s.clk.agenda.isEmpty && s.clk.due.isEmpty && s.nextTurn == none) &&
    (let s : State := { B with clk := { B.clk with timed := [.placement] } }; s.clk.timed.head? == some .placement && !isWord .placement && State.defer { s with clk := { s.clk with timed := [] } } .placement == none) &&
    (let s := stepS 0 [] [.placement]; s.clk.timed.isEmpty && s.clk.agenda.isEmpty && s.clk.due.head? == some .placement && !isWord .placement && State.defer { s with clk := { s.clk with due := [] } } .placement == none) &&
    (let s := stepS 0 [.event .placement] []; s.clk.timed.isEmpty && s.clk.agenda.head? == some (.event .placement) && !isWord .placement && State.defer (State.takeEvent { s with clk := { s.clk with agenda := [] } } .placement) .placement == none) &&
    (let s := stepS 0 [.corrected { kind := .slice, index := 0 }] []; s.clk.timed.isEmpty && s.clk.agenda.head? == some (.corrected { kind := .slice, index := 0 })) &&
    ((B.strand 0 0).isSome)) = true := by decide +kernel

/-- States and operands that meet the hypotheses of `EncodeDecode`. -/
theorem test_meets_EncodeDecode : ((let c : DecCtx := { sup := false, pair := .none }; (addW hd).wf && (addW hd).allowedIn c) &&
    (let c : DecCtx := { sup := false, pair := .none }; (decode c 0).isSome)) = true := by decide +kernel

/-- States and operands that meet the hypotheses of `MemoryStaysCanonical`. -/
theorem test_meets_MemoryStaysCanonical : ((State.reset.mem.wf && match step State.reset with | .next _ => true | _ => false)) = true := by decide +kernel

/-- States that meet the hypotheses of `NetworkArrivals`. -/
theorem test_reaches_NetworkArrivals_1 :
    (dueMsg (withMsg (.word q0 7) B) (msgOf (.word q0 7)) ∧ (B.gathering 1 0).isSome = true ∧ (B.core 0).away 1 0 = false) ∧
    (dueMsg (withMsg (.word q0 7) (withCore (fun c => { c with pre := .out, outG := [(1, 0)] }) B)) (msgOf (.word q0 7)) ∧ ((withCore (fun c => { c with pre := .out, outG := [(1, 0)] }) B).gathering 1 0).isSome = true ∧ ((withCore (fun c => { c with pre := .out, outG := [(1, 0)] }) B).core 0).away 1 0 = true) ∧
    (dueMsg (withMsg (.word { q0 with vol := 2 } 7) B) (msgOf (.word { q0 with vol := 2 } 7)) ∧ B.gathering 2 0 = none) := by
  unfold dueMsg
  decide +kernel

/-- States that meet the hypotheses of `NetworkArrivals`. -/
theorem test_reaches_NetworkArrivals_2 :
    (dueMsg (withMsg (.credit q0) B) (msgOf (.credit q0)) ∧ (B.gathering 1 0).isSome = true) ∧
    (dueMsg (withMsg (.post 1 0 false 9 0 0 5) B) (msgOf (.post 1 0 false 9 0 0 5)) ∧ (State.heldFirst (State.took (withMsg (.post 1 0 false 9 0 0 5) B) (msgOf (.post 1 0 false 9 0 0 5)).id) (msgOf (.post 1 0 false 9 0 0 5)).dst 1).postStatus (msgOf (.post 1 0 false 9 0 0 5)) 1 0 false 0 = 0) ∧
    (dueMsg (withMsg (.post 1 63 false 9 0 0 5) B) (msgOf (.post 1 63 false 9 0 0 5)) ∧ (State.heldFirst (State.took (withMsg (.post 1 63 false 9 0 0 5) B) (msgOf (.post 1 63 false 9 0 0 5)).id) (msgOf (.post 1 63 false 9 0 0 5)).dst 1).postStatus (msgOf (.post 1 63 false 9 0 0 5)) 1 63 false 0 ≠ 0) := by
  unfold dueMsg
  decide +kernel

/-- States that meet the hypotheses of `NetworkArrivals`. -/
theorem test_reaches_NetworkArrivals_3 :
    (dueMsg (withMsg (.post 1 63 false 9 0 2 5) B) (msgOf (.post 1 63 false 9 0 2 5)) ∧ (2 : Nat) ≠ 0) := by
  unfold dueMsg
  decide +kernel

/-- States that meet the hypotheses of `BarriersHoldsAndSteals`. -/
theorem test_reaches_BarriersHoldsAndSteals_1 :
    (dueMsg (withMsg (.bar 1 0 0 0 0) B) (msgOf (.bar 1 0 0 0 0))) ∧
    (dueMsg (withMsg (.dec 1 0 3 4 false 0 0) (withCore (fun c => { c with holds := [hold3] }) B)) (msgOf (.dec 1 0 3 4 false 0 0)) ∧ (withCore (fun c => { c with holds := [hold3] }) B).liveHold 1 0 0 3 = some hold3 ∧ 4 < hold3.count) ∧
    (dueMsg (withMsg (.dec 1 0 3 5 false 0 0) (withCore (fun c => { c with holds := [hold3] }) B)) (msgOf (.dec 1 0 3 5 false 0 0)) ∧ (withCore (fun c => { c with holds := [hold3] }) B).liveHold 1 0 0 3 = some hold3 ∧ 5 = hold3.count) := by
  unfold dueMsg
  decide +kernel

/-- States that meet the hypotheses of `BarriersHoldsAndSteals`. -/
theorem test_reaches_BarriersHoldsAndSteals_2 :
    (dueMsg (withMsg (.dec 1 0 3 6 false 0 0) (withCore (fun c => { c with holds := [hold3] }) B)) (msgOf (.dec 1 0 3 6 false 0 0)) ∧ (withCore (fun c => { c with holds := [hold3] }) B).liveHold 1 0 0 3 = some hold3 ∧ 6 > hold3.count) ∧
    (dueMsg (withMsg (.dec 1 1 3 4 false 0 0) (withCore (fun c => { c with holds := [hold3] }) B)) (msgOf (.dec 1 1 3 4 false 0 0)) ∧ (withCore (fun c => { c with holds := [hold3] }) B).liveHold 1 0 1 3 = none) ∧
    (dueMsg (withMsg (.steal 1 5) B) (msgOf (.steal 1 5)) ∧ (B.core 0).deques.find? (·.1 == 1) = none) := by
  unfold dueMsg
  decide +kernel

/-- States that meet the hypotheses of `BarriersHoldsAndSteals`. -/
theorem test_reaches_BarriersHoldsAndSteals_3 :
    (dueMsg (withMsg (.steal 1 5) (withCore (fun c => { c with deques := [(1, 0x700000005)] }) B)) (msgOf (.steal 1 5)) ∧ ((withCore (fun c => { c with deques := [(1, 0x700000005)] }) B).core 0).deques.find? (·.1 == 1) = some (1, 0x700000005) ∧ rangeLo 0x700000005 + (rangeHi 0x700000005 - rangeLo 0x700000005 + 1) / 2 < rangeHi 0x700000005) ∧
    (dueMsg (withMsg (.steal 1 5) (withVolume { placedVolume with next := 0 } <| withCore (fun c => { c with deques := [(1, 0x600000005), (1, 0x700000005)] }) B)) (msgOf (.steal 1 5)) ∧ ((withVolume { placedVolume with next := 0 } <| withCore (fun c => { c with deques := [(1, 0x600000005), (1, 0x700000005)] }) B).core 0).deques.find? (·.1 == 1) = some (1, 0x600000005) ∧ rangeHi 0x600000005 ≤ rangeLo 0x600000005 + (rangeHi 0x600000005 - rangeLo 0x600000005 + 1) / 2 ∧ (∃ e ∈ removeFirst (·.1 == 1) ((withVolume { placedVolume with next := 0 } <| withCore (fun c => { c with deques := [(1, 0x600000005), (1, 0x700000005)] }) B).core 0).deques, e.1 = 1)) ∧
    (dueMsg (withMsg (.steal 1 5) (withVolume { placedVolume with next := 0 } <| withCore (fun c => { c with deques := [(1, 0x600000005)] }) B)) (msgOf (.steal 1 5)) ∧ ((withVolume { placedVolume with next := 0 } <| withCore (fun c => { c with deques := [(1, 0x600000005)] }) B).core 0).deques.find? (·.1 == 1) = some (1, 0x600000005) ∧ rangeHi 0x600000005 ≤ rangeLo 0x600000005 + (rangeHi 0x600000005 - rangeLo 0x600000005 + 1) / 2 ∧ (∀ e ∈ removeFirst (·.1 == 1) ((withVolume { placedVolume with next := 0 } <| withCore (fun c => { c with deques := [(1, 0x600000005)] }) B).core 0).deques, e.1 ≠ 1) ∧ ((withVolume { placedVolume with next := 0 } <| withCore (fun c => { c with deques := [(1, 0x600000005)] }) B).circ.volumes.any fun v => decide (v.next < v.count)) = true) := by
  unfold dueMsg
  decide +kernel

/-- States that meet the hypotheses of `BankTransactions`. -/
theorem test_reaches_BankTransactions :
    (atBank (withFlight (flightOf .st) B) (flightOf .st) part1 0x1000 ∧ part1.kpage = none ∧ unfiltered (withFlight (flightOf .st) B) (flightOf .st) ∧ B.mem.wf = true) ∧
    (atBank (withFlight (flightOf (.ld false)) (stT fun t => { t with ops := [{ opDone with stage := .sent }] })) (flightOf (.ld false)) part1 0x1000 ∧ (((stT fun t => { t with ops := [{ opDone with stage := .sent }] })).byUid 1).any (fun e => (e.2.ops.find? (·.id == 7)).isSome) = true) ∧
    (atBank (withFlight ({ flightOf .ldf with bound := false }) { B with empty := [512] }) ({ flightOf .ldf with bound := false }) part1 0x1000 ∧ ({ B with empty := [512] } : State).full 0x1000 = false ∧ 0 < ({ B with empty := [512] } : State).poolFree (ownerCluster 0x1000)) := by
  unfold atBank
  unfold unfiltered
  decide +kernel

/-- States that meet the hypotheses of `PreemptionAndResumption`. -/
theorem test_reaches_PreemptionAndResumption :
    (dueMsg (withMsg (.preempt 5) B) (msgOf (.preempt 5))) ∧
    (dueMsg (withMsg (.resume 5) B) (msgOf (.resume 5))) := by
  unfold dueMsg
  decide +kernel

/-- States that meet the hypotheses of `CopyOperations`. -/
theorem test_reaches_CopyOperations_1 :
    (takesReq (withReq .cpy .copy false (withRecord [] (B))) 0 .copy (reqOf .cpy) ∧ (withReq .cpy .copy false (withRecord [] (B))).unitFenced .copy 0 = true) ∧
    (takesReq (withReq .cpy .copy true (withRecord [] (withCluster (fun c => { c with copies := List.replicate 256 copy1 }) B))) 0 .copy (reqOf .cpy) ∧ (withReq .cpy .copy true (withRecord [] (withCluster (fun c => { c with copies := List.replicate 256 copy1 }) B))).unitFenced .copy 0 = false ∧ 256 ≤ (((withReq .cpy .copy true (withRecord [] (withCluster (fun c => { c with copies := List.replicate 256 copy1 }) B)))).cluster 0).copies.length + ((withReq .cpy .copy true (withRecord [] (withCluster (fun c => { c with copies := List.replicate 256 copy1 }) B)))).held 0 1) ∧
    (takesReq (withReq .cpy .copy true (withRecord (List.replicate 8 0) (B))) 0 .copy (reqOf .cpy) ∧ ((withReq .cpy .copy true (withRecord (List.replicate 8 0) (B)))).unitFenced .copy 0 = false ∧ (((withReq .cpy .copy true (withRecord (List.replicate 8 0) (B)))).cluster 0).copies.length + ((withReq .cpy .copy true (withRecord (List.replicate 8 0) (B)))).held 0 1 < 256 ∧ (match (State.tookReq (withReq .cpy .copy true (withRecord (List.replicate 8 0) (B))) 0 7).copyRecord 0 (reqOf .cpy) with | .bad _ => true | _ => false) = true) := by
  unfold takesReq
  decide +kernel

/-- States that meet the hypotheses of `CopyOperations`. -/
theorem test_reaches_CopyOperations_2 :
    (takesReq (withReq .cpy .copy true (withRecord copyRec (B))) 0 .copy (reqOf .cpy) ∧ ((withReq .cpy .copy true (withRecord copyRec (B)))).unitFenced .copy 0 = false ∧ (((withReq .cpy .copy true (withRecord copyRec (B)))).cluster 0).copies.length + ((withReq .cpy .copy true (withRecord copyRec (B)))).held 0 1 < 256 ∧ (match (State.tookReq (withReq .cpy .copy true (withRecord copyRec (B))) 0 7).copyRecord 0 (reqOf .cpy) with | .op _ => true | _ => false) = true) ∧
    (takesReq (withReq .cpy .copy true (withLeaf farLeaf B)) 0 .copy (reqOf .cpy) ∧ ((withReq .cpy .copy true (withLeaf farLeaf B))).unitFenced .copy 0 = false ∧ (((withReq .cpy .copy true (withLeaf farLeaf B))).cluster 0).copies.length + ((withReq .cpy .copy true (withLeaf farLeaf B))).held 0 1 < 256 ∧ (match (State.tookReq (withReq .cpy .copy true (withLeaf farLeaf B)) 0 7).copyRecord 0 (reqOf .cpy) with | .ask _ => true | _ => false) = true) := by
  unfold takesReq
  decide +kernel

/-- States that meet the hypotheses of `BinderyTasks`. -/
theorem test_reaches_BinderyTasks_1 :
    (takesTask (withReq .tenq .bind false (withRecord [] (B))) 0 0 (reqOf .tenq) ∧ (withReq .tenq .bind false (withRecord [] (B))).unitFenced .bind 0 = true) ∧
    (takesTask (withR tenq1 .bind (withRecord (List.replicate 8 0) (withTile tile1 B))) 0 0 tenq1 ∧ (withR tenq1 .bind (withRecord (List.replicate 8 0) (withTile tile1 B))).unitFenced .bind 0 = false ∧ gives (iss1.place (ptr 2 0x2000) 64 (rR + rE) 64) (1, .va 1 0x2000) = true ∧ (State.tookReq (withR tenq1 .bind (withRecord (List.replicate 8 0) (withTile tile1 B))) 0 7).reqRecord 0 tenq1 (.va 1 0x2000) 8 = .words (List.replicate 8 0) ∧ (State.tookReq (withR tenq1 .bind (withRecord (List.replicate 8 0) (withTile tile1 B))) 0 7).gathering 1 0 = some placedGathering ∧ (((recordsOf (List.replicate 8 0) 1).map fun d => (State.tookReq (withR tenq1 .bind (withRecord (List.replicate 8 0) (withTile tile1 B))) 0 7).recordStatus iss1 placedGathering fun i => d.getD i 0).zipIdx.find? (·.1 != 0)).isSome = true) ∧
    (takesTask (withR tenq1 .bind (withRecord zeroTask (withCluster (fun c => { c with tasks := List.replicate 1024 (task1 zeroTask) }) (withTile tile1 B)))) 0 0 tenq1 ∧ (withR tenq1 .bind (withRecord zeroTask (withCluster (fun c => { c with tasks := List.replicate 1024 (task1 zeroTask) }) (withTile tile1 B)))).unitFenced .bind 0 = false ∧ gives (iss1.place (ptr 2 0x2000) 64 (rR + rE) 64) (1, .va 1 0x2000) = true ∧ (State.tookReq (withR tenq1 .bind (withRecord zeroTask (withCluster (fun c => { c with tasks := List.replicate 1024 (task1 zeroTask) }) (withTile tile1 B)))) 0 7).reqRecord 0 tenq1 (.va 1 0x2000) 8 = .words zeroTask ∧ (State.tookReq (withR tenq1 .bind (withRecord zeroTask (withCluster (fun c => { c with tasks := List.replicate 1024 (task1 zeroTask) }) (withTile tile1 B)))) 0 7).gathering 1 0 = some placedGathering ∧ (∀ d ∈ recordsOf zeroTask 1, (State.tookReq (withR tenq1 .bind (withRecord zeroTask (withCluster (fun c => { c with tasks := List.replicate 1024 (task1 zeroTask) }) (withTile tile1 B)))) 0 7).recordStatus iss1 placedGathering (fun i => d.getD i 0) = 0) ∧ 1024 < ((withR tenq1 .bind (withRecord zeroTask (withCluster (fun c => { c with tasks := List.replicate 1024 (task1 zeroTask) }) (withTile tile1 B)))).cluster 0).tasks.length + (State.tookReq (withR tenq1 .bind (withRecord zeroTask (withCluster (fun c => { c with tasks := List.replicate 1024 (task1 zeroTask) }) (withTile tile1 B)))) 0 7).held 0 2 + (recordsOf zeroTask 1).length) := by
  unfold takesTask
  decide +kernel

/-- States that meet the hypotheses of `BinderyTasks`. -/
theorem test_reaches_BinderyTasks_2 :
    (takesTask (withR tenq1 .bind (withRecord zeroTask (withTile tile1 B))) 0 0 tenq1 ∧ (withR tenq1 .bind (withRecord zeroTask (withTile tile1 B))).unitFenced .bind 0 = false ∧ gives (iss1.place (ptr 2 0x2000) 64 (rR + rE) 64) (1, .va 1 0x2000) = true ∧ (State.tookReq (withR tenq1 .bind (withRecord zeroTask (withTile tile1 B))) 0 7).reqRecord 0 tenq1 (.va 1 0x2000) 8 = .words zeroTask ∧ (State.tookReq (withR tenq1 .bind (withRecord zeroTask (withTile tile1 B))) 0 7).gathering 1 0 = some placedGathering ∧ (∀ d ∈ recordsOf zeroTask 1, (State.tookReq (withR tenq1 .bind (withRecord zeroTask (withTile tile1 B))) 0 7).recordStatus iss1 placedGathering (fun i => d.getD i 0) = 0) ∧ ((withR tenq1 .bind (withRecord zeroTask (withTile tile1 B))).cluster 0).tasks.length + (State.tookReq (withR tenq1 .bind (withRecord zeroTask (withTile tile1 B))) 0 7).held 0 2 + (recordsOf zeroTask 1).length ≤ 1024) := by
  unfold takesTask
  decide +kernel

/-- States that meet the hypotheses of `SelectionOperations`. -/
theorem test_reaches_SelectionOperations_1 :
    (takesReq (withReq .ksel .sel false (withRecord [] (B))) 0 .sel (reqOf .ksel) ∧ (withReq .ksel .sel false (withRecord [] (B))).unitFenced .sel 0 = true) ∧
    (takesReq (withReq .ksel .sel true (withRecord [] (withCluster (fun c => { c with sels := List.replicate 64 (sel1 .ksel) }) B))) 0 .sel (reqOf .ksel) ∧ (withReq .ksel .sel true (withRecord [] (withCluster (fun c => { c with sels := List.replicate 64 (sel1 .ksel) }) B))).unitFenced .sel 0 = false ∧ 64 ≤ (((withReq .ksel .sel true (withRecord [] (withCluster (fun c => { c with sels := List.replicate 64 (sel1 .ksel) }) B)))).cluster 0).sels.length + ((withReq .ksel .sel true (withRecord [] (withCluster (fun c => { c with sels := List.replicate 64 (sel1 .ksel) }) B)))).held 0 3) ∧
    (takesReq (withReq .ksel .sel true (withRecord (List.replicate 8 0) (B))) 0 .sel (reqOf .ksel) ∧ (withReq .ksel .sel true (withRecord (List.replicate 8 0) (B))).unitFenced .sel 0 = false ∧ ((withReq .ksel .sel true (withRecord (List.replicate 8 0) (B))).cluster 0).sels.length + (withReq .ksel .sel true (withRecord (List.replicate 8 0) (B))).held 0 3 < 64 ∧ gives (iss1.place (ptr 2 0x2000) 64 (rR + rE) 64) (1, .va 1 0x2000) = true ∧ (State.tookReq (withReq .ksel .sel true (withRecord (List.replicate 8 0) (B))) 0 7).reqRecord 0 (reqOf .ksel) (.va 1 0x2000) 8 = .words (List.replicate 8 0) ∧ (lowestBad (kselChecks iss1 fun i => (List.replicate 8 0).getD i 0)).isSome = true) := by
  unfold takesReq
  decide +kernel

/-- States that meet the hypotheses of `SelectionOperations`. -/
theorem test_reaches_SelectionOperations_2 :
    (takesReq (withReq .ksel .sel true (withRecord kselRec (B))) 0 .sel (reqOf .ksel) ∧ (withReq .ksel .sel true (withRecord kselRec (B))).unitFenced .sel 0 = false ∧ ((withReq .ksel .sel true (withRecord kselRec (B))).cluster 0).sels.length + (withReq .ksel .sel true (withRecord kselRec (B))).held 0 3 < 64 ∧ gives (iss1.place (ptr 2 0x2000) 64 (rR + rE) 64) (1, .va 1 0x2000) = true ∧ (State.tookReq (withReq .ksel .sel true (withRecord kselRec (B))) 0 7).reqRecord 0 (reqOf .ksel) (.va 1 0x2000) 8 = .words kselRec ∧ lowestBad (kselChecks iss1 fun i => kselRec.getD i 0) = none) ∧
    (takesReq (withReq .kgath .sel true (withRecord kgathRec (B))) 0 .sel (reqOf .kgath) ∧ (withReq .kgath .sel true (withRecord kgathRec (B))).unitFenced .sel 0 = false ∧ ((withReq .kgath .sel true (withRecord kgathRec (B))).cluster 0).sels.length + (withReq .kgath .sel true (withRecord kgathRec (B))).held 0 3 < 64 ∧ gives (iss1.place (ptr 2 0x2000) 64 (rR + rE) 64) (1, .va 1 0x2000) = true ∧ (State.tookReq (withReq .kgath .sel true (withRecord kgathRec (B))) 0 7).reqRecord 0 (reqOf .kgath) (.va 1 0x2000) 8 = .words kgathRec ∧ lowestBad (kgathChecks iss1 fun i => kgathRec.getD i 0) = none) ∧
    (takesReq (withReq .ksel .sel true (withLeaf farLeaf B)) 0 .sel (reqOf .ksel) ∧ (withReq .ksel .sel true (withLeaf farLeaf B)).unitFenced .sel 0 = false ∧ ((withReq .ksel .sel true (withLeaf farLeaf B)).cluster 0).sels.length + (withReq .ksel .sel true (withLeaf farLeaf B)).held 0 3 < 64 ∧ gives (iss1.place (ptr 2 0x2000) 64 (rR + rE) 64) (1, .va 1 0x2000) = true ∧ (match (State.tookReq (withReq .ksel .sel true (withLeaf farLeaf B)) 0 7).reqRecord 0 (reqOf .ksel) (.va 1 0x2000) 8 with | .ask _ => true | _ => false) = true) := by
  unfold takesReq
  decide +kernel

/-- States that meet the hypotheses of `PoolingOperations`. -/
theorem test_reaches_PoolingOperations_1 :
    (takesReq (withFenced [{ kind := .annexif, index := 0 }] (withBagReq bagRec B)) 0 .annexif (reqOf .emb) ∧ (∀ c < 8, (withFenced [{ kind := .annexif, index := 0 }] (withBagReq bagRec B)).isReady .chip c = true ∨ (withFenced [{ kind := .annexif, index := 0 }] (withBagReq bagRec B)).isFenced .chip c = true) ∧ (withFenced [{ kind := .annexif, index := 0 }] (withBagReq bagRec B)).unitFenced .annexif 0 = true) ∧
    (takesReq (withBagReq (List.replicate 8 0) (B)) 0 .annexif (reqOf .emb) ∧ (∀ c < 8, (withBagReq (List.replicate 8 0) (B)).isReady .chip c = true ∨ (withBagReq (List.replicate 8 0) (B)).isFenced .chip c = true) ∧ (withBagReq (List.replicate 8 0) (B)).unitFenced .annexif 0 = false ∧ gives (iss1.place (ptr 2 0x2000) 64 (rR + rE) 64) (1, .va 1 0x2000) = true ∧ (State.tookReq (withBagReq (List.replicate 8 0) (B)) 0 7).reqRecord 0 (reqOf .emb) (.va 1 0x2000) 8 = .words (List.replicate 8 0) ∧ (lowestBad (bagChecks iss1 (fun i => (List.replicate 8 0).getD i 0) ((State.tookReq (withBagReq (List.replicate 8 0) (B)) 0 7).readOffs iss1 fun i => (List.replicate 8 0).getD i 0))).isSome = true) ∧
    (takesReq (withBagReq bagRec ({ B with chips := List.replicate 256 (0, 3, 0) })) 0 .annexif (reqOf .emb) ∧ (∀ c < 8, (withBagReq bagRec ({ B with chips := List.replicate 256 (0, 3, 0) })).isReady .chip c = true ∨ (withBagReq bagRec ({ B with chips := List.replicate 256 (0, 3, 0) })).isFenced .chip c = true) ∧ (withBagReq bagRec ({ B with chips := List.replicate 256 (0, 3, 0) })).unitFenced .annexif 0 = false ∧ gives (iss1.place (ptr 2 0x2000) 64 (rR + rE) 64) (1, .va 1 0x2000) = true ∧ (State.tookReq (withBagReq bagRec ({ B with chips := List.replicate 256 (0, 3, 0) })) 0 7).reqRecord 0 (reqOf .emb) (.va 1 0x2000) 8 = .words bagRec ∧ lowestBad (bagChecks iss1 (fun i => bagRec.getD i 0) ((State.tookReq (withBagReq bagRec ({ B with chips := List.replicate 256 (0, 3, 0) })) 0 7).readOffs iss1 fun i => bagRec.getD i 0)) = none ∧ ∃ c ∈ (withBagReq bagRec ({ B with chips := List.replicate 256 (0, 3, 0) })).liveChips, 256 < ((withBagReq bagRec ({ B with chips := List.replicate 256 (0, 3, 0) })).chips.filter (·.1 == c)).length + bagNb fun i => bagRec.getD i 0) := by
  unfold takesReq
  decide +kernel

/-- States that meet the hypotheses of `PoolingOperations`. -/
theorem test_reaches_PoolingOperations_2 :
    (takesReq (withBagReq bagRec (B)) 0 .annexif (reqOf .emb) ∧ (∀ c < 8, (withBagReq bagRec (B)).isReady .chip c = true ∨ (withBagReq bagRec (B)).isFenced .chip c = true) ∧ (withBagReq bagRec (B)).unitFenced .annexif 0 = false ∧ gives (iss1.place (ptr 2 0x2000) 64 (rR + rE) 64) (1, .va 1 0x2000) = true ∧ (State.tookReq (withBagReq bagRec (B)) 0 7).reqRecord 0 (reqOf .emb) (.va 1 0x2000) 8 = .words bagRec ∧ lowestBad (bagChecks iss1 (fun i => bagRec.getD i 0) ((State.tookReq (withBagReq bagRec (B)) 0 7).readOffs iss1 fun i => bagRec.getD i 0)) = none ∧ ∀ c ∈ (withBagReq bagRec (B)).liveChips, ((withBagReq bagRec (B)).chips.filter (·.1 == c)).length + bagNb (fun i => bagRec.getD i 0) ≤ 256) := by
  unfold takesReq
  decide +kernel

/-- States that meet the hypotheses of `SpecialisationOperations`. -/
theorem test_reaches_SpecialisationOperations_1 :
    (takesReq (withReq .spec .red false (withRecord [] (B))) 0 .red (reqOf .spec) ∧ (withReq .spec .red false (withRecord [] (B))).unitFenced .red 0 = true) ∧
    (takesReq (withReq .spec .red true (withRecord [] (withCluster (fun c => { c with specs := List.replicate 32 spec1 }) B))) 0 .red (reqOf .spec) ∧ (withReq .spec .red true (withRecord [] (withCluster (fun c => { c with specs := List.replicate 32 spec1 }) B))).unitFenced .red 0 = false ∧ 32 ≤ (((withReq .spec .red true (withRecord [] (withCluster (fun c => { c with specs := List.replicate 32 spec1 }) B)))).cluster 0).specs.length + ((withReq .spec .red true (withRecord [] (withCluster (fun c => { c with specs := List.replicate 32 spec1 }) B)))).held 0 5) ∧
    (takesReq (withR (specReq 0) .red (withRecord specRec (goodSpace B))) 0 .red (specReq 0) ∧ (withR (specReq 0) .red (withRecord specRec (goodSpace B))).unitFenced .red 0 = false ∧ ((withR (specReq 0) .red (withRecord specRec (goodSpace B))).cluster 0).specs.length + (withR (specReq 0) .red (withRecord specRec (goodSpace B))).held 0 5 < 32 ∧ (∀ x ∈ (State.tookReq (withR (specReq 0) .red (withRecord specRec (goodSpace B))) 0 7).specBlock 0 (specReq 0), x ≠ none) ∧ lowestBad (specChecks ((State.tookReq (withR (specReq 0) .red (withRecord specRec (goodSpace B))) 0 7).specDws 0 (specReq 0))) = none ∧ (∀ x ∈ (State.tookReq (withR (specReq 0) .red (withRecord specRec (goodSpace B))) 0 7).specEarly 0 (specReq 0), x ≠ none) ∧ (State.tookReq (withR (specReq 0) .red (withRecord specRec (goodSpace B))) 0 7).currentHandle 1 0 = none) := by
  unfold takesReq
  simp only [allSome_iff]
  decide +kernel

/-- States that meet the hypotheses of `SpecialisationOperations`. -/
theorem test_reaches_SpecialisationOperations_2 :
    (takesReq (withR (specReq handle1) .red (withRecord specRec (goodSpace B))) 0 .red (specReq handle1) ∧ (withR (specReq handle1) .red (withRecord specRec (goodSpace B))).unitFenced .red 0 = false ∧ ((withR (specReq handle1) .red (withRecord specRec (goodSpace B))).cluster 0).specs.length + (withR (specReq handle1) .red (withRecord specRec (goodSpace B))).held 0 5 < 32 ∧ (∀ x ∈ (State.tookReq (withR (specReq handle1) .red (withRecord specRec (goodSpace B))) 0 7).specBlock 0 (specReq handle1), x ≠ none) ∧ lowestBad (specChecks ((State.tookReq (withR (specReq handle1) .red (withRecord specRec (goodSpace B))) 0 7).specDws 0 (specReq handle1))) = none ∧ (∀ x ∈ (State.tookReq (withR (specReq handle1) .red (withRecord specRec (goodSpace B))) 0 7).specEarly 0 (specReq handle1), x ≠ none) ∧ (State.tookReq (withR (specReq handle1) .red (withRecord specRec (goodSpace B))) 0 7).currentHandle 1 handle1 = some 5) := by
  unfold takesReq
  simp only [allSome_iff]
  decide +kernel

/-- States that meet the hypotheses of `NetworkRequests`. -/
theorem test_reaches_NetworkRequests_1 :
    (({ B with net := { B.net with reqs := [reqOf .nsend] }, root := { B.root with ready := [{ kind := .net, index := 0 }] } } : State).net.reqs.find? (·.id == 7) = some (reqOf .nsend) ∧ ({ B with net := { B.net with reqs := [reqOf .nsend] }, root := { B.root with ready := [{ kind := .net, index := 0 }] } } : State).reqReady (reqOf .nsend) = true ∧ ({ B with net := { B.net with reqs := [reqOf .nsend] }, root := { B.root with ready := [{ kind := .net, index := 0 }] } } : State).isReady .net 0 = true ∧ gives (iss1.place (ptr 2 0x2000) 64 (rR + rE) 64) (1, .va 1 0x2000) = true ∧ (State.devFill (State.tookNet ({ B with net := { B.net with reqs := [reqOf .nsend] }, root := { B.root with ready := [{ kind := .net, index := 0 }] } } : State) 7) (.va 1 0x2000) 64).netRecord (reqOf .nsend) = none) ∧
    ((netS netRec ({ peer1 with state := 2 })).net.reqs.find? (·.id == 7) = some (reqOf .nsend) ∧ (netS netRec ({ peer1 with state := 2 })).reqReady (reqOf .nsend) = true ∧ (netS netRec ({ peer1 with state := 2 })).isReady .net 0 = true ∧ gives (iss1.place (ptr 2 0x2000) 64 (rR + rE) 64) (1, .va 1 0x2000) = true ∧ (State.devFill (State.tookNet (netS netRec ({ peer1 with state := 2 })) 7) (.va 1 0x2000) 64).netRecord (reqOf .nsend) = some netRec ∧ lowestBad (netChecks (State.devFill (State.tookNet (netS netRec ({ peer1 with state := 2 })) 7) (.va 1 0x2000) 64) iss1 .nsend fun i => netRec.getD i 0) = none ∧ (((State.devFill (State.tookNet (netS netRec ({ peer1 with state := 2 })) 7) (.va 1 0x2000) 64).peer (wrPeer fun i => netRec.getD i 0)).valid = false ∨ ((State.devFill (State.tookNet (netS netRec ({ peer1 with state := 2 })) 7) (.va 1 0x2000) 64).peer (wrPeer fun i => netRec.getD i 0)).state = 2)) ∧
    ((netS netRec (peer1)).net.reqs.find? (·.id == 7) = some (reqOf .nsend) ∧ (netS netRec (peer1)).reqReady (reqOf .nsend) = true ∧ (netS netRec (peer1)).isReady .net 0 = true ∧ gives (iss1.place (ptr 2 0x2000) 64 (rR + rE) 64) (1, .va 1 0x2000) = true ∧ (State.devFill (State.tookNet (netS netRec (peer1)) 7) (.va 1 0x2000) 64).netRecord (reqOf .nsend) = some netRec ∧ lowestBad (netChecks (State.devFill (State.tookNet (netS netRec (peer1)) 7) (.va 1 0x2000) 64) iss1 .nsend fun i => netRec.getD i 0) = none ∧ ((State.devFill (State.tookNet (netS netRec (peer1)) 7) (.va 1 0x2000) 64).peer (wrPeer fun i => netRec.getD i 0)).valid = true ∧ ((State.devFill (State.tookNet (netS netRec (peer1)) 7) (.va 1 0x2000) 64).peer (wrPeer fun i => netRec.getD i 0)).state ≠ 2 ∧ ((State.devFill (State.tookNet (netS netRec (peer1)) 7) (.va 1 0x2000) 64).peer (wrPeer fun i => netRec.getD i 0)).vol = 1 ∧ ((State.devFill (State.tookNet (netS netRec (peer1)) 7) (.va 1 0x2000) 64).wrsTo 1 (wrPeer fun i => netRec.getD i 0)).length < ((State.devFill (State.tookNet (netS netRec (peer1)) 7) (.va 1 0x2000) 64).peer (wrPeer fun i => netRec.getD i 0)).depth ∧ (State.devFill (State.tookNet (netS netRec (peer1)) 7) (.va 1 0x2000) 64).netUsed < 65536 ∧ (State.devFill (State.tookNet (netS netRec (peer1)) 7) (.va 1 0x2000) 64).isFenced .net 0 = false ∧ (State.devFill (State.tookNet (netS netRec (peer1)) 7) (.va 1 0x2000) 64).isFenced .port ((State.devFill (State.tookNet (netS netRec (peer1)) 7) (.va 1 0x2000) 64).peer (wrPeer fun i => netRec.getD i 0)).port = false ∧ (netS netRec (peer1)).isReady .port ((State.devFill (State.tookNet (netS netRec (peer1)) 7) (.va 1 0x2000) 64).peer (wrPeer fun i => netRec.getD i 0)).port = true) := by
  decide +kernel

/-- States that meet the hypotheses of `NetworkRequests`. -/
theorem test_reaches_NetworkRequests_2 :
    (takesPacket (netK []) (pkt (.send 1 0 0 8 [1]))) ∧
    (takesPacket (netK []) (pkt (.write 3 0 9 0 [1])) ∧ (0, 3, 0) ∉ (netK []).net.donePk ∧ (netK []).keyCheck 0 9 0 [(1 : Byte)].length true = some (.va 1 0x1000) ∧ (match (netK []).netWrite (.va 1 0x1000) [1] with | .ok _ => true | .error _ => false) = true) ∧
    (takesPacket (netK [(0, 3, 0)]) (pkt (.write 3 0 9 0 [1])) ∧ (0, 3, 0) ∈ (netK [(0, 3, 0)]).net.donePk) := by
  unfold takesPacket
  decide +kernel

/-- States that meet the hypotheses of `NetworkRequests`. -/
theorem test_reaches_NetworkRequests_3 :
    (takesPacket (netK []) (pkt (.write 3 0 8 0 [1])) ∧ (0, 3, 0) ∉ (netK []).net.donePk ∧ (netK []).keyCheck 0 8 0 [(1 : Byte)].length true = none) ∧
    (takesPacket (netK []) (pkt (.readReq 3 0 9 0 8)) ∧ (netK []).keyCheck 0 9 0 8 false = some (.va 1 0x1000) ∧ (match (netK []).netRead (.va 1 0x1000) 8 with | .ok _ => true | .error _ => false) = true) ∧
    (takesPacket (netR [(0, 9, 0)] [rd1]) (pkt (.readData 9 0 [1])) ∧ (0, 9, 0) ∈ (netR [(0, 9, 0)] [rd1]).net.doneRd) := by
  unfold takesPacket
  decide +kernel

/-- States that meet the hypotheses of `NetworkRequests`. -/
theorem test_reaches_NetworkRequests_4 :
    (takesPacket (netR [] [rd1]) (pkt (.readData 9 0 (List.replicate (rd1.size 0) 1))) ∧ (0, 9, 0) ∉ (netR [] [rd1]).net.doneRd ∧ ((netR [] [rd1]).dataTaken 0 9 0 (List.replicate (rd1.size 0) 1)).isSome = true) ∧
    (takesPacket (netR [] []) (pkt (.readData 9 0 [1])) ∧ (0, 9, 0) ∉ (netR [] []).net.doneRd ∧ (netR [] []).dataTaken 0 9 0 [1] = none) := by
  unfold takesPacket
  decide +kernel

/-- States that meet the hypotheses of `CuratorWork`. -/
theorem test_reaches_CuratorWork_1 :
    (svcTaken (svcS 0 (0) (B)) 0 0 0 (svc1 0) (svcS 0 (0) (B)) [ofN (0), 0, 0, 0, 0, 0, 0, 0]) ∧
    (svcTaken (svcS 0 (1) (B)) 0 0 0 (svc1 0) (svcS 0 (1) (B)) [ofN (1), 0, 0, 0, 0, 0, 0, 0] ∧ (ofN (1) : Word) ≠ 0) ∧
    (svcTaken (svcS 1 (Config.areaVA) (faultedSlip B)) 0 0 1 (svc1 1) (svcS 1 (Config.areaVA) (faultedSlip B)) [ofN (Config.areaVA), 0, 0, 0, 0, 0, 0, 0] ∧ (ofN (Config.areaVA) : Word).getLsbD 63 = false ∧ (ofN (Config.areaVA) : Word).getLsbD 61 = false ∧ fld (ofN (Config.areaVA) : Word) 60 48 = 0 ∧ (svcS 1 (Config.areaVA) (faultedSlip B)).ownFaulted 1 (fld (ofN (Config.areaVA) : Word) 47 0) = some 0) := by
  unfold svcTaken
  decide +kernel

/-- States that meet the hypotheses of `CuratorWork`. -/
theorem test_reaches_CuratorWork_2 :
    (svcTaken (svcS 2 (Config.areaVA) (faultedSlip B)) 0 0 2 (svc1 2) (svcS 2 (Config.areaVA) (faultedSlip B)) [ofN (Config.areaVA), 0, 0, 0, 0, 0, 0, 0] ∧ fld (ofN (Config.areaVA) : Word) 63 48 = 0 ∧ (svcS 2 (Config.areaVA) (faultedSlip B)).ownFaulted 1 (fld (ofN (Config.areaVA) : Word) 47 0) = some 0) ∧
    (svcTaken (svcS 2 (5) (B)) 0 0 2 (svc1 2) (svcS 2 (5) (B)) [ofN (5), 0, 0, 0, 0, 0, 0, 0] ∧ fld (ofN (5) : Word) 63 48 = 0 ∧ (svcS 2 (5) (B)).ownFaulted 1 (fld (ofN (5) : Word) 47 0) = none) ∧
    (svcTaken (svcS 3 (0x8000) (B)) 0 0 3 (svc1 3) (svcS 3 (0x8000) (B)) [ofN (0x8000), 0, 0, 0, 0, 0, 0, 0] ∧ fld (ofN (0x8000) : Word) 63 48 = 0 ∧ ((svcS 3 (0x8000) (B)).joinPage 0 1 (fld (ofN (0x8000) : Word) 47 12 * 4096) 0 0 (((svcS 3 (0x8000) (B)).strand 0 0).map Strand.gidx |>.getD 0) { core := 0, lane := 0, res := none, svc := some 9 }).isSome = true) := by
  unfold svcTaken
  decide +kernel

/-- States that meet the hypotheses of `CuratorWork`. -/
theorem test_reaches_CuratorWork_3 :
    (svcTaken (svcS 4 (0) (B)) 0 0 4 (svc1 4) (svcS 4 (0) (B)) [ofN (0), 0, 0, 0, 0, 0, 0, 0]) := by
  unfold svcTaken
  decide +kernel

/-- States that meet the hypotheses of `HostCommands`. -/
theorem test_reaches_HostCommands_1 :
    (State.hears (hostS (id)) call1 ∧ volumeId 1 = true ∧ ([0] : List Word) ≠ [] ∧ ([0] : List Word).length ≤ 2 ^ 24 ∧ (State.heard (hostS (id)) call1).placeCode 1 [0] = none) ∧
    (State.hears (hostS (codeSpace)) call1 ∧ volumeId 1 = true ∧ ([0] : List Word) ≠ [] ∧ ([0] : List Word).length ≤ 2 ^ 24 ∧ ((State.heard (hostS (codeSpace)) call1).placeCode 1 [0]).isSome = true) ∧
    (State.hears (hostS (id)) call1 ∧ (State.heard (hostS (id)) call1).mapOk 1 mapArgs0 = true) := by
  unfold State.hears
  decide +kernel

/-- States that meet the hypotheses of `HostCommands`. -/
theorem test_reaches_HostCommands_2 :
    (State.hears (hostS (id)) call1 ∧ (State.heard (hostS (id)) call1).mapOk 1 { mapArgs0 with root := some 5 } = false) ∧
    (State.hears (hostS (id)) call1 ∧ volumeId 1 = true ∧ ([{ pa := 0x1000, entry := 0 }] : List TableWrite).all (State.heard (hostS (id)) call1).entryOk = true ∧ vaFree 0x1000 0x1000 = true) ∧
    (State.hears (hostS (id)) call1 ∧ ((State.heard (hostS (id)) call1).hostPlaces 1 (.pa 0x1000) 2).isSome = true) := by
  unfold State.hears
  decide +kernel

/-- States that meet the hypotheses of `HostCommands`. -/
theorem test_reaches_HostCommands_3 :
    (State.hears (hostS (id)) call1 ∧ (State.heard (hostS (id)) call1).hostPlaces 1 (.va 0x1000) 2 = none) ∧
    (State.hears (hostS (id)) call1 ∧ isStack 0x1000 = true ∧ (hostS (id)).keyFenced 0x1000 = false ∧ (State.heard (hostS (id)) call1).inArena 0x1000 = false ∧ (hostS (id)).mem.wf = true ∧ ∀ f ∈ (hostS (id)).flights, f.joined = none) ∧
    (State.hears (hostS (id)) call1 ∧ (State.heard (hostS (id)) call1).hostPlaces 1 (.va 0x1000) ([1] : List Byte).length = none) := by
  unfold State.hears
  decide +kernel

/-- States that meet the hypotheses of `HostCommands`. -/
theorem test_reaches_HostCommands_4 :
    (State.hears (hostS (withReady [{ kind := .circ, index := 0 }])) call1 ∧ (List.replicate 32 0 : List Word).length = 32 ∧ volumeId 1 = true ∧ (hostS (withReady [{ kind := .circ, index := 0 }])).isFenced .circ 0 = false ∧ (hostS (withReady [{ kind := .circ, index := 0 }])).isReady .circ 0 = true) ∧
    (State.hears (hostS (id)) call1) ∧
    (State.hears (hostS (id)) call1) := by
  unfold State.hears
  decide +kernel

/-- States that meet the hypotheses of `HostCommands`. -/
theorem test_reaches_HostCommands_5 :
    (State.hears (hostS (withCluster fun c => { c with pages := [{ id := 9, vol := 1, page := 0x8000, waiters := [], forwarded := true }] })) call1 ∧ ((State.heard (hostS (withCluster fun c => { c with pages := [{ id := 9, vol := 1, page := 0x8000, waiters := [], forwarded := true }] })) call1).pageRequests 1 0x8000).isEmpty = false) ∧
    (State.hears (hostS (id)) call1 ∧ (State.heard (hostS (id)) call1).pageRequests 1 0x8000 = []) ∧
    (State.hears (hostS (id)) call1 ∧ QueryItem.fenced ≠ .identity ∧ ((State.heard (hostS (id)) call1).answer .fenced).isSome = true) := by
  unfold State.hears
  decide +kernel

/-- States that meet the hypotheses of `HostCommands`. -/
theorem test_reaches_HostCommands_6 :
    (State.hears (hostS (id)) call1 ∧ QueryItem.peer 4096 ≠ .identity ∧ (State.heard (hostS (id)) call1).answer (.peer 4096) = none) ∧
    (State.hears (hostS (id)) call1) ∧
    (State.hears (hostS (id)) call1) := by
  unfold State.hears
  decide +kernel

/-- States that meet the hypotheses of `HostCommands`. -/
theorem test_reaches_HostCommands_7 :
    (State.hears (hostS (id)) call1) ∧
    (State.hears (hostS (id)) call1) ∧
    (State.hears (hostS (id)) call1 ∧ (hostS (id)).root.update = none) := by
  unfold State.hears
  decide +kernel

/-- States that meet the hypotheses of `HostCommands`. -/
theorem test_reaches_HostCommands_8 :
    (State.hears (hostS (id)) call1 ∧ (List.replicate 32 0 : List Byte).length = 32) ∧
    (State.hears (hostS (id)) call1) ∧
    (State.hears (hostS (codeSpace)) call1 ∧ isStack 0x40000 = true ∧ (hostS (codeSpace)).keyFenced 0x40000 = false ∧ (State.heard (hostS (codeSpace)) call1).inArena 0x40000 = true) := by
  unfold State.hears
  decide +kernel

/-- States that meet the hypotheses of `HostCommands`. -/
theorem test_reaches_HostCommands_9 :
    (State.hears (hostS (fun s => withCluster (fun c => { c with pages := [{ id := 9, vol := 1, page := 0x8000, waiters := [], forwarded := true }] }) (withTable s))) call1 ∧ (State.heard (hostS (fun s => withCluster (fun c => { c with pages := [{ id := 9, vol := 1, page := 0x8000, waiters := [], forwarded := true }] }) (withTable s))) call1).pageRequests 1 0x8000 ≠ [] ∧ [({ pa := 0x1000, entry := 0 } : TableWrite)].all (State.heard (hostS (fun s => withCluster (fun c => { c with pages := [{ id := 9, vol := 1, page := 0x8000, waiters := [], forwarded := true }] }) (withTable s))) call1).entryOk = true ∧ [({ pa := 0x1000, entry := 0 } : TableWrite)].all (((State.heard (hostS (fun s => withCluster (fun c => { c with pages := [{ id := 9, vol := 1, page := 0x8000, waiters := [], forwarded := true }] }) (withTable s))) call1).writeEntries [({ pa := 0x1000, entry := 0 } : TableWrite)]).entryGood 1) = true ∧ (∀ e ∈ [({ pa := 0x1000, entry := 0 } : TableWrite)], (State.heard (hostS (fun s => withCluster (fun c => { c with pages := [{ id := 9, vol := 1, page := 0x8000, waiters := [], forwarded := true }] }) (withTable s))) call1).entryFenced e.entry = false) ∧ (State.heard (hostS (fun s => withCluster (fun c => { c with pages := [{ id := 9, vol := 1, page := 0x8000, waiters := [], forwarded := true }] }) (withTable s))) call1).arenaKept ((State.heard (hostS (fun s => withCluster (fun c => { c with pages := [{ id := 9, vol := 1, page := 0x8000, waiters := [], forwarded := true }] }) (withTable s))) call1).writeEntries [({ pa := 0x1000, entry := 0 } : TableWrite)]) = true ∧ (match ((State.heard (hostS (fun s => withCluster (fun c => { c with pages := [{ id := 9, vol := 1, page := 0x8000, waiters := [], forwarded := true }] }) (withTable s))) call1).writeEntries [({ pa := 0x1000, entry := 0 } : TableWrite)]).walk 1 0x8000 with | .fail 3 => false | .fenced => false | _ => true) = true) ∧
    (State.hears (hostS (fun s => withCluster (fun c => { c with pages := [{ id := 9, vol := 1, page := 0x8000, waiters := [], forwarded := true }] }) (withTable s))) call1 ∧ (State.heard (hostS (fun s => withCluster (fun c => { c with pages := [{ id := 9, vol := 1, page := 0x8000, waiters := [], forwarded := true }] }) (withTable s))) call1).pageRequests 1 0x8000 ≠ [] ∧ ([({ pa := 0x1000, entry := (2 ^ 64 - 1) } : TableWrite)].all (State.heard (hostS (fun s => withCluster (fun c => { c with pages := [{ id := 9, vol := 1, page := 0x8000, waiters := [], forwarded := true }] }) (withTable s))) call1).entryOk = false ∨ [({ pa := 0x1000, entry := (2 ^ 64 - 1) } : TableWrite)].all (((State.heard (hostS (fun s => withCluster (fun c => { c with pages := [{ id := 9, vol := 1, page := 0x8000, waiters := [], forwarded := true }] }) (withTable s))) call1).writeEntries [({ pa := 0x1000, entry := (2 ^ 64 - 1) } : TableWrite)]).entryGood 1) = false)) := by
  unfold State.hears
  decide +kernel

/-- States that meet the hypotheses of `ChecksAndBanks`. -/
theorem test_reaches_ChecksAndBanks_1 :
    (atBank (withFlight (flightOf (.amo .add)) B) (flightOf (.amo .add)) part1 0x1000 ∧ part1.kpage = none ∧ (withFlight (flightOf (.amo .add)) (B)).mem.wf = true ∧ (atomicNew (flightOf (.amo .add)).kind part1.n ((withFlight (flightOf (.amo .add)) (B)).rdN 0x1000 part1.n) (flightOf (.amo .add)).b.toNat (flightOf (.amo .add)).c.toNat).1.isSome = true) ∧
    (atBank (withFlight (flightOf .lde) B) (flightOf .lde) part1 0x1000 ∧ (withFlight (flightOf .lde) (B)).full 0x1000 = true ∧ ∀ x ∈ (withFlight (flightOf .lde) (B)).flights, x.joined = none) ∧
    (atBank (withFlight (flightOf .clrf) B) (flightOf .clrf) part1 0x1000 ∧ ∀ x ∈ (withFlight (flightOf .clrf) (B)).flights, x.joined = none) := by
  unfold atBank
  decide +kernel

/-- States that meet the hypotheses of `ChecksAndBanks`. -/
theorem test_reaches_ChecksAndBanks_2 :
    (atBank (withFlight (flightOf .stfe) ({ B with empty := [512] } : State)) (flightOf .stfe) part1 0x1000 ∧ (withFlight (flightOf .stfe) (({ B with empty := [512] } : State))).full 0x1000 = false ∧ part1.kpage = none ∧ unfiltered (withFlight (flightOf .stfe) (({ B with empty := [512] } : State))) (flightOf .stfe) ∧ (withFlight (flightOf .stfe) (({ B with empty := [512] } : State))).mem.wf = true ∧ ∀ x ∈ (withFlight (flightOf .stfe) (({ B with empty := [512] } : State))).flights, x.joined = none) ∧
    (atBank (withFlight ({ flightOf .stfe with bound := false }) B) ({ flightOf .stfe with bound := false }) part1 0x1000 ∧ (withFlight ({ flightOf .stfe with bound := false }) (B)).full 0x1000 = true ∧ 0 < (withFlight ({ flightOf .stfe with bound := false }) (B)).poolFree (ownerCluster 0x1000)) ∧
    (atBank (withFlight ({ flightOf .swwait with bound := false }) B) ({ flightOf .swwait with bound := false }) part1 0x1000 ∧ (withFlight ({ flightOf .swwait with bound := false }) (B)).rdN 0x1000 2 = 0 % 2 ^ 16 ∧ 0 < (withFlight ({ flightOf .swwait with bound := false }) (B)).poolFree (ownerCluster 0x1000)) := by
  unfold atBank
  unfold unfiltered
  decide +kernel


/-! ## Words written out from the encoding tables (R23 to R38); where the spec works a word, the word is the spec's -/

def user : DecCtx := { sup := false, pair := .none }
def supervisor : DecCtx := { sup := true, pair := .none }
/-- The word decodes to the instruction in this slot, and the instruction encodes to the word. -/
def reads (c : DecCtx) (w : Word) (i : Instr) : Bool := decode c w == some i && encode i == some w

theorem test_wordsControl : (
    reads user 0x0000000000000000 (.nop hd) &&
    reads user 0x0008000000FFFFFE (.br hd 0xFFFFFE) &&
    reads user 0x8010000280FFFFFF (.beq { hd with sw := true } (.g 2) .z 0xFFFFFF) &&
    reads user 0x2018000405FFFFFD (.bne { hd with emB := true } (.g 4) (.g 5) 0xFFFFFD) &&
    reads user 0x0020000102000001 (.blt hd (.g 1) (.g 2) 1) &&
    reads user 0x0028000480FFFFFD (.bge hd (.g 4) .z 0xFFFFFD) &&
    reads user 0x00300001027FFFFF (.bltu hd (.g 1) (.g 2) 0x7FFFFF) &&
    reads user 0x0038000102800000 (.bgeu hd (.g 1) (.g 2) 0x800000) &&
    reads user 0x0040000700000005 (.call hd (.g 7) 5) &&
    reads user 0x0048008007000000 (.jr hd .z (.g 7)) &&
    reads user 0x0050000600FFFFFE (.loop hd (.g 6) 0xFFFFFE) &&
    reads user 0x0050000700FFFFEF (.loop hd (.g 7) 0xFFFFEF) &&
    reads user 0x0058000000000000 (.stop hd) &&
    reads user 0x0060000002030000 (.retire hd (.g 2) (.g 3)) &&
    reads user 0x0068000000000000 (.yield hd) &&
    reads user 0x0070000000000003 (.bara hd 3) &&
    reads user 0x0078000000000003 (.barw hd 3) &&
    reads user 0x0080000000000004 (.collate hd 4) &&
    reads user 0x0088000000000000 (.disband hd) &&
    reads user 0x0090000002000003 (.wait hd (.g 2) 3) &&
    reads user 0x00C0000102800003 (.svc hd (.g 1) (.g 2) .z 3) &&
    reads user 0x00C0000702040003 (.svc hd (.g 7) (.g 2) (.g 4) 3) &&
    reads user 0x00C8000000000012 (.trap hd 0x12) &&
    reads user 0x00F8000102800000 (.launch hd (.g 1) (.g 2) .z)) = true := by decide +kernel

theorem test_wordsIntegers : (
    reads user 0x8188030201000005 (.addi { hd with sw := true } .wrap .d (.g 2) (.g 1) 5) &&
    reads user 0x0188060505000064 (.addi hd .ss .w (.g 5) (.g 5) 100) &&
    reads user 0xC188030202000001 (.addi { hd with sw := true, emA := true } .wrap .d (.g 2) (.g 2) 1) &&
    reads user 0x0180030404070000 (.add hd .wrap .d (.g 4) (.g 4) (.g 7)) &&
    reads user 0x0190080405060000 (.sub hd .us .b (.g 4) (.g 5) (.g 6)) &&
    reads user 0x0198030403050000 (.mul hd .wrap .d (.g 4) (.g 3) (.g 5)) &&
    reads user 0xA198030706050000 (.mul { hd with sw := true, emB := true } .wrap .d (.g 7) (.g 6) (.g 5)) &&
    reads user 0x01A0020301020000 (.mulh hd .w (.g 3) (.g 1) (.g 2)) &&
    reads user 0x01A8030301020000 (.mulhu hd .d (.g 3) (.g 1) (.g 2)) &&
    reads user 0x01B0030304800000 (.div hd .d (.g 3) (.g 4) .z) &&
    reads user 0x01B8010301020000 (.divu hd .h (.g 3) (.g 1) (.g 2)) &&
    reads user 0x01C0000301020000 (.rem hd .b (.g 3) (.g 1) (.g 2)) &&
    reads user 0x01C8030301020000 (.remu hd .d (.g 3) (.g 1) (.g 2)) &&
    reads user 0x81D0030706000000 (.neg { hd with sw := true } .wrap .d (.g 7) (.g 6)) &&
    reads user 0x01D8050301000000 (.abs hd .ss .h (.g 3) (.g 1)) &&
    reads user 0x01E0030301020000 (.min hd .d (.g 3) (.g 1) (.g 2)) &&
    reads user 0x01E8020301020000 (.max hd .w (.g 3) (.g 1) (.g 2)) &&
    reads user 0x01F0010301020000 (.minu hd .h (.g 3) (.g 1) (.g 2)) &&
    reads user 0x01F8000301020000 (.maxu hd .b (.g 3) (.g 1) (.g 2))) = true := by decide +kernel

theorem test_wordsBits : (
    reads user 0x0200030301020000 (.and hd .d (.g 3) (.g 1) (.g 2)) &&
    reads user 0x0208020301FFFFFF (.andi hd .w (.g 3) (.g 1) 0xFFFFFF) &&
    reads user 0x0210020301020000 (.or hd .w (.g 3) (.g 1) (.g 2)) &&
    reads user 0x0218000301000007 (.ori hd .b (.g 3) (.g 1) 7) &&
    reads user 0x0220030301020000 (.xor hd .d (.g 3) (.g 1) (.g 2)) &&
    reads user 0x0228010301000001 (.xori hd .h (.g 3) (.g 1) 1) &&
    reads user 0x0230030301020000 (.andn hd .d (.g 3) (.g 1) (.g 2)) &&
    reads user 0x0238030301020000 (.shl hd .d (.g 3) (.g 1) (.g 2)) &&
    reads user 0x0240020301020000 (.shr hd .w (.g 3) (.g 1) (.g 2)) &&
    reads user 0x0248010301020000 (.sar hd .h (.g 3) (.g 1) (.g 2)) &&
    reads user 0x0250000301020000 (.rol hd .b (.g 3) (.g 1) (.g 2)) &&
    reads user 0x025803030100003F (.shli hd .d (.g 3) (.g 1) 63) &&
    reads user 0x026002030100001F (.shri hd .w (.g 3) (.g 1) 31) &&
    reads user 0x0268000301000007 (.sari hd .b (.g 3) (.g 1) 7) &&
    reads user 0x0270010301000000 (.clz hd .h (.g 3) (.g 1)) &&
    reads user 0x0278020301000000 (.ctz hd .w (.g 3) (.g 1)) &&
    reads user 0x0280030301000000 (.popc hd .d (.g 3) (.g 1)) &&
    reads user 0x0288000304000308 (.bfx hd (.g 3) (.g 4) 0x308) &&
    reads user 0x82880007060000AA (.bfx { hd with sw := true } (.g 7) (.g 6) 0xAA) &&
    reads user 0x0290000301000204 (.bfi hd (.g 3) (.g 1) 0x204)) = true := by decide +kernel

theorem test_wordsMoves : (
    reads user 0x0298020301000000 (.sext hd .w (.g 3) (.g 1)) &&
    reads user 0x02A0000301000000 (.zext hd .b (.g 3) (.g 1)) &&
    reads user 0x02A8030403000000 (.mov hd .d (.g 4) (.g 3)) &&
    reads user 0x02A8030685000000 (.mov hd .d (.g 6) .ib) &&
    reads user 0x02A8038202000000 (.mov hd .d .qdn (.g 2)) &&
    reads user 0x02A8030381000000 (.mov hd .d (.g 3) .qup) &&
    reads user 0x02B0000500000002 (.movi hd (.g 5) 2) &&
    reads user 0x02B8000310030000 (.movhi hd (.g 3) 0x10030000) &&
    reads user 0x02C00003014FFFF8 (.lea hd (.g 3) (.g 1) 4 0xFFFF8) &&
    reads user 0x02C800030102000F (.sel hd (.g 3) (.g 1) (.g 2) 15) &&
    reads user 0x02D0220201020000 (.cmp hd .ltu .w 2 (.g 1) (.g 2)) &&
    reads user 0x02D8180F01800000 (.cmpi hd .ge .b 15 (.g 1) 0x800000) &&
    reads user 0x02E0000102030000 (.pand hd 1 2 3) &&
    reads user 0x02E8000102030000 (.por hd 1 2 3) &&
    reads user 0x02F0000102030000 (.pxor hd 1 2 3) &&
    reads user 0x02F8000102030000 (.pandn hd 1 2 3) &&
    reads user 0x0300000300000000 (.mfp hd (.g 3)) &&
    reads user 0x0308000001000000 (.mtp hd (.g 1)) &&
    reads user 0x0310000300000013 (.mfs hd (.g 3) 19) &&
    reads user 0x031800000100000D (.mts hd (.g 1) 13)) = true := by decide +kernel

theorem test_wordsFloats : (
    reads user 0x0321D00102030000 (.fadd { hd with pr := 3, pn := true } .f32 .rtz (.g 1) (.g 2) (.g 3)) &&
    reads user 0x0328010301020000 (.fsub hd .f64 .rne (.g 3) (.g 1) (.g 2)) &&
    reads user 0x0330220301020000 (.fmul hd .bf16 .rup (.g 3) (.g 1) (.g 2)) &&
    reads user 0x0338330301020400 (.ffma hd .f16 .rdn (.g 3) (.g 1) (.g 2) (.g 4)) &&
    reads user 0x0340000301020000 (.fmin hd .f32 .rne (.g 3) (.g 1) (.g 2)) &&
    reads user 0x0348000301020000 (.fmax hd .f32 .rne (.g 3) (.g 1) (.g 2)) &&
    reads user 0x0350310301020000 (.fcmp hd .un .f64 3 (.g 1) (.g 2)) &&
    reads user 0x0358140102000000 (.fcvt hd { sat := true, df := .e4m3, sf := .f32, rm := .rne } (.g 1) (.g 2)) &&
    reads user 0x0358080102000031 (.fcvt hd { sat := false, df := .int16, sf := .f64, rm := .rdn } (.g 1) (.g 2))) = true := by decide +kernel

theorem test_wordsVectors : (
    reads user 0x0400000102050080 (.vadd hd { fmt := .f32, mode := 0 } 1 2 (.g (.g 5))) &&
    reads user 0x0400090101010080 (.vadd hd { fmt := .int32, mode := 0 } 1 1 (.g (.g 1))) &&
    reads user 0x8400090202010000 (.vadd { hd with sw := true } { fmt := .int32, mode := 0 } 2 2 (.v 1)) &&
    reads user 0x0408170301020000 (.vsub hd { fmt := .int8, mode := 1 } 3 1 (.v 2)) &&
    reads user 0x0410330301020000 (.vmul hd { fmt := .f16, mode := 3 } 3 1 (.v 2)) &&
    reads user 0x0418020102030400 (.vfma hd { fmt := .bf16, mode := 0 } 1 2 (.v 3) 4) &&
    reads user 0x8418000804050880 (.vfma { hd with sw := true } { fmt := .f32, mode := 0 } 8 4 (.g (.g 5)) 8) &&
    reads user 0x0420080301020000 (.vmin hd { fmt := .int16, mode := 0 } 3 1 (.v 2)) &&
    reads user 0x0428020301020000 (.vmax hd { fmt := .bf16, mode := 0 } 3 1 (.v 2)) &&
    reads user 0x0430000301000000 (.vabs hd { fmt := .f32, mode := 0 } 3 1) &&
    reads user 0x0438270301000000 (.vneg hd { fmt := .int8, mode := 2 } 3 1) &&
    reads user 0x0440000301020000 (.vand hd 3 1 (.v 2)) &&
    reads user 0x0448000301020080 (.vor hd 3 1 (.g (.g 2))) &&
    reads user 0x0450000F0E0D0000 (.vxor hd 15 14 (.v 13)) &&
    reads user 0x0458070301020000 (.vshl hd .int8 3 1 (.v 2)) &&
    reads user 0x0460080301020000 (.vshr hd .int16 3 1 (.v 2)) &&
    reads user 0x0468090301020080 (.vsar hd .int32 3 1 (.g (.g 2))) &&
    reads user 0x0470070301020004 (.vcmp hd .ltu .int8 (.g 3) 1 (.v 2)) &&
    reads user 0x0470030301020086 (.vcmp hd .un .f16 (.g 3) 1 (.g (.g 2))) &&
    reads user 0x0478000301020400 (.vsel hd .f32 3 1 2 (.g 4)) &&
    reads user 0x0480090301000000 (.vbc hd .int32 3 (.g 1)) &&
    reads user 0x048807030100003F (.vget hd .int8 (.g 3) 1 63) &&
    reads user 0x049000030100000F (.vput hd .f32 3 (.g 1) 15)) = true := by decide +kernel

theorem test_wordsVectorsAcross : (
    reads user 0x0498080301020000 (.vperm hd .int16 3 1 2) &&
    reads user 0x04A0090302000000 (.vred hd .add { fmt := .int32, mode := 0 } (.g 3) 2) &&
    reads user 0x04A0000302000002 (.vred hd .max { fmt := .f32, mode := 0 } (.g 3) 2) &&
    reads user 0x04A8070301020000 (.vdot hd { fmt := .int8, mode := 0 } (.g 3) 1 2) &&
    reads user 0x04B0140102000010 (.vcvt hd { sat := true, df := .e4m3, sf := .f32, rm := .rtz } 1 2) &&
    reads user 0x04B0000402000004 (.vcvt hd { sat := false, df := .f32, sf := .e4m3, rm := .rne } 4 2) &&
    reads user 0x04B8260102030000 (.vqnt hd true .e2m1b 1 2 (.g 3)) &&
    reads user 0x04C0070301020000 (.vdeq hd .int8 3 1 (.g 2)) &&
    reads user 0x04C8000300000000 (.amxrd hd (.g 3)) &&
    reads user 0x04D0000301000000 (.amxsw hd (.g 3) (.g 1)) &&
    reads user 0x04D8070204300040 (.vld hd { sz := .d, ord := .acq, rx := false, seg := 3, disp := 64 } 2 (.g 4)) &&
    reads user 0x04E0030102A00000 (.vst hd { sz := .d, ord := .pln, rx := true, seg := 2, disp := 0 } 1 (.g 2)) &&
    reads user 0x04E8090301200008 (.vldf hd { fmt := .int32, rx := false, seg := 2, disp := 8 } 3 (.g 1)) &&
    reads user 0x04F0060301A00000 (.vstf hd { fmt := .e2m1b, rx := true, seg := 2, disp := 0 } 3 (.g 1)) &&
    reads user 0x04F80203012FFFFC (.vldx hd { sz := .w, ord := .pln, rx := false, seg := 2, disp := 0xFFFFC } 3 1) &&
    reads user 0x0500030301A00000 (.vstx hd { sz := .d, ord := .pln, rx := true, seg := 2, disp := 0 } 3 1) &&
    reads user 0x0508000402800003 (.sfn hd .f32 (.g 4) (.g 2) .z 3) &&
    reads user 0x8508000504800003 (.sfn { hd with sw := true } .f32 (.g 5) (.g 4) .z 3)) = true := by decide +kernel

theorem test_wordsMemory : (
    reads user 0x0600070580200008 (.ld hd { sz := .d, ord := .acq, rx := false, seg := 2, disp := 8 } (.g 5) .z) &&
    reads user 0x06000306032FFFF8 (.ld hd { sz := .d, ord := .pln, rx := false, seg := 2, disp := 0xFFFF8 } (.g 6) (.g 3)) &&
    reads user 0x4608000502300000 (.lds { hd with emA := true } { sz := .b, ord := .pln, rx := false, seg := 3, disp := 0 } (.g 5) (.g 2)) &&
    reads user 0x8610020780A00008 (.st { hd with sw := true } { sz := .w, ord := .pln, rx := true, seg := 2, disp := 8 } (.g 7) .z) &&
    reads user 0x06100B0780200008 (.st hd { sz := .d, ord := .rel, rx := false, seg := 2, disp := 8 } (.g 7) .z) &&
    reads user 0x0618030301200000 (.ldf hd { sz := .d, ord := .pln, rx := false, seg := 2, disp := 0 } (.g 3) (.g 1)) &&
    reads user 0x0620070502300008 (.lde hd { sz := .d, ord := .acq, rx := false, seg := 3, disp := 8 } (.g 5) (.g 2)) &&
    reads user 0x06280B0301200000 (.stf hd { sz := .d, ord := .rel, rx := false, seg := 2, disp := 0 } (.g 3) (.g 1)) &&
    reads user 0x0630030301200000 (.stfe hd { sz := .d, ord := .pln, rx := false, seg := 2, disp := 0 } (.g 3) (.g 1)) &&
    reads user 0x0638030001A00000 (.clrf hd { sz := .d, ord := .pln, rx := true, seg := 2, disp := 0 } (.g 1)) &&
    reads user 0x064002010203000A (.amo hd .add { sz := .w, rx := false, ord := .acq, seg := 2 } (.g 1) (.g 2) (.g 3)) &&
    reads user 0x0640030406070082 (.amo hd .add { sz := .d, rx := true, ord := .pln, seg := 2 } (.g 4) (.g 6) (.g 7)) &&
    reads user 0x0640230102030017 (.amo hd .swap { sz := .d, rx := false, ord := .rel, seg := 7 } (.g 1) (.g 2) (.g 3)) &&
    reads user 0x0648020102030402 (.cas hd { sz := .w, rx := false, ord := .pln, seg := 2 } (.g 1) (.g 2) (.g 3) (.g 4)) &&
    reads user 0x0650060102030002 (.amof hd .max { sz := .w, rx := false, ord := .pln, seg := 2 } (.g 1) (.g 2) (.g 3)) &&
    reads user 0x06580A0000000000 (.fence hd .rel .dev) &&
    reads user 0x0660000000000000 (.cfence hd) &&
    reads user 0x0668008006050000 (.swarm hd .z (.g 6) (.g 5)) &&
    reads user 0x0670000001020000 (.swadd hd (.g 1) (.g 2)) &&
    reads user 0x0678000002030000 (.swwait hd (.g 2) (.g 3)) &&
    reads user 0x0678000006800000 (.swwait hd (.g 6) .z) &&
    reads user 0x0680000301000000 (.swrd hd (.g 3) (.g 1))) = true := by decide +kernel

theorem test_wordsSegments : (
    reads user 0x0700000205000000 (.segld hd 2 (.g 5)) &&
    reads user 0x0708000004030000 (.segst hd (.g 4) 3) &&
    reads user 0x0710000302000001 (.segrd hd true (.g 3) 2) &&
    reads user 0x0710000603000000 (.segrd hd false (.g 6) 3) &&
    reads user 0x0728000000000000 (.upret hd (.g 0)) &&
    reads user 0x0730000102800000 (.pgrq hd (.g 1) (.g 2) .z)) = true := by decide +kernel

theorem test_wordsTiles : (
    reads user 0x0780000102000003 (.tcfg hd (.g 1) (.g 2) 3) &&
    reads user 0x0788000000000001 (.trel hd 1) &&
    reads user 0x0790000000008001 (.tzero hd 0x8001) &&
    reads user 0x0798000102800000 (.tenq hd (.g 1) (.g 2) .z) &&
    reads user 0x07A0020304050000 (.tst hd .bf16 .rne 3 (.g 4) (.g 5)) &&
    reads user 0x07A0120304050000 (.tst hd .bf16 .rtz 3 (.g 4) (.g 5)) &&
    reads user 0x07A8040304050000 (.tld hd .e4m3 3 (.g 4) (.g 5)) &&
    reads user 0x07B0000102000015 (.tget hd true 5 (.g 1) (.g 2)) &&
    reads user 0x07B8000002030005 (.tset hd false 5 (.g 2) (.g 3)) &&
    reads user 0x07C0000002030001 (.msset hd 1 (.g 2) (.g 3)) &&
    reads user 0x07C8000400000001 (.msrd hd 1 (.g 4)) &&
    reads user 0x07D0000000000008 (.twait hd 8) &&
    reads user 0x07D8040004080000 (.mmar hd .e4m3 0 4 8)) = true := by decide +kernel

theorem test_wordsEngines : (
    reads user 0x0880000102030000 (.cpy hd (.g 1) (.g 2) (.g 3)) &&
    reads user 0x0880000102030001 (.cpyRp hd (.g 1) (.g 2) (.g 3)) &&
    reads user 0x0888000102030000 (.gath hd (.g 1) (.g 2) (.g 3)) &&
    reads user 0x0890000102800000 (.scat hd (.g 1) (.g 2) .z) &&
    reads user 0x0898000102030000 (.cmpct hd (.g 1) (.g 2) (.g 3)) &&
    reads user 0x08A0000004050000 (.dpat hd (.g 4) (.g 5)) &&
    reads user 0x08A8000102030000 (.dcpy hd (.g 1) (.g 2) (.g 3)) &&
    reads user 0x08B0000102000001 (.cqry hd (.g 1) (.g 2) 1) &&
    reads user 0x0900000102030000 (.ksel hd false (.g 1) (.g 2) (.g 3)) &&
    reads user 0x0900000102800001 (.ksel hd true (.g 1) (.g 2) .z) &&
    reads user 0x0908000405060000 (.kgath hd false (.g 4) (.g 5) (.g 6)) &&
    reads user 0x0910000102000000 (.kabs hd (.g 1) (.g 2)) &&
    reads user 0x0918000102030000 (.emb hd false (.g 1) (.g 2) (.g 3)) &&
    reads user 0x0918000102800001 (.emb hd true (.g 1) (.g 2) .z) &&
    reads user 0x0980000102030005 (.spec hd (.g 1) (.g 2) (.g 3) 5) &&
    reads user 0x0980000C090D0051 (.spec hd (.g 12) (.g 9) (.g 13) 0x51) &&
    reads user 0x0988000002000000 (.aref hd (.g 2)) &&
    reads user 0x0990000002000000 (.arel hd (.g 2)) &&
    reads user 0x0998000706000000 (.acall hd (.g 7) (.g 6)) &&
    reads user 0x0998008007000000 (.acall hd .z (.g 7)) &&
    reads user 0x09A0000302000002 (.ainf hd 2 (.g 3) (.g 2)) &&
    reads user 0x09A0000A80000003 (.ainf hd 3 (.g 10) .z)) = true := by decide +kernel

theorem test_wordsCirculation : (
    reads user 0x0A00000102000004 (.hold hd (.g 1) (.g 2) 4) &&
    reads user 0x0A08000001000001 (.dech hd (.g 1) 1) &&
    reads user 0x0A10000102000000 (.pushr hd (.g 1) (.g 2)) &&
    reads user 0x0A18000300000000 (.popr hd (.g 3)) &&
    reads user 0x0A20000300000000 (.splitr hd (.g 3)) &&
    reads user 0x0A28000304000000 (.stealr hd (.g 3) (.g 4)) &&
    reads user 0x0A30000102030007 (.post hd (.g 1) (.g 2) (.g 3) 7) &&
    reads user 0x0A38000102030085 (.spawn hd (.g 1) (.g 2) (.g 3) 0x85) &&
    reads user 0x0A80000102000000 (.nsend hd false (.g 1) (.g 2)) &&
    reads user 0x0A88000102000000 (.nread hd false (.g 1) (.g 2)) &&
    reads user 0x0A90000102000000 (.nwrite hd false (.g 1) (.g 2)) &&
    reads user 0x0A98000304000001 (.nrecv hd true (.g 3) (.g 4)) &&
    reads user 0x0AA0000580000003 (.nqry hd (.g 5) .z 3) &&
    reads user 0x0AA0000401000000 (.nqry hd (.g 4) (.g 1) 0)) = true := by decide +kernel

theorem test_wordsSupervisor : (
    reads supervisor 0x00D0000002000000 (.resume hd (.g 2)) &&
    reads supervisor 0x00D8000302000005 (.emr hd (.g 3) (.g 2) 5) &&
    reads supervisor 0x00E0000402000080 (.emw hd (.g 4) (.g 2) 128) &&
    reads supervisor 0x00E8000002000000 (.kill hd (.g 2)) &&
    reads supervisor 0x00F0000102000000 (.pmt hd (.g 1) (.g 2)) &&
    reads supervisor 0x0718000001020000 (.tlbi hd (.g 1) (.g 2)) &&
    reads supervisor 0x0720000000000000 (.tlbsync hd)) = true := by decide +kernel

/-- One word for each check of R39 that refuses it. -/
theorem test_refusedWords : (
    -- an opcode that R36 does not give
    decode user 0x0100000000000000 == none &&
    -- an overflow code 3
    decode user 0x01800F0301020000 == none &&
    -- a size layout with bit 42 set
    decode user 0x01A0060301020000 == none &&
    -- a format code of 10
    decode user 0x03200A0301020000 == none &&
    -- a format outside the set: `fadd` on e4m3
    decode user 0x0320040301020000 == none &&
    -- a compare condition of 6
    decode user 0x02D0330201020000 == none &&
    -- MEM ordering 3
    decode user 0x06000F0301200000 == none &&
    -- `acq` on a store
    decode user 0x0610070301200000 == none &&
    -- `rel` on a load
    decode user 0x06000B0301200000 == none &&
    -- RX with an ordering
    decode user 0x0600070301A00000 == none &&
    -- RX on `lea`
    decode user 0x02C0000301A00000 == none &&
    -- `lds` of size 3
    decode user 0x0608030301200000 == none &&
    -- relaxed AT with an ordering
    decode user 0x064003010203008A == none &&
    -- an `amo` operation of 9
    decode user 0x0640270102030002 == none &&
    -- `amof` of size 1
    decode user 0x0650010102030002 == none &&
    -- a fence scope of 3
    decode user 0x0658070000000000 == none &&
    -- X set where X is unused
    decode user 0x0180030301020001 == none &&
    -- C set where C is unused
    decode user 0x0180030301020100 == none &&
    -- a general field of 136
    decode user 0x0180038801020000 == none &&
    -- a vector field of 16
    decode user 0x0440001001020000 == none &&
    -- a predicate field of 16
    decode user 0x02E0001001020000 == none &&
    -- a tile field of 16
    decode user 0x07A0001001020000 == none &&
    -- a segment field of 8
    decode user 0x0700000801000000 == none &&
    -- a read port as a destination
    decode user 0x0180038101020000 == none &&
    -- a write port as a source
    decode user 0x0180030382020000 == none &&
    -- two ports
    decode user 0x0180038281020000 == none &&
    -- a port in a `ds` field
    decode user 0x02B8008100000000 == none &&
    -- a port in a format M field
    decode user 0x0600038101200000 == none &&
    -- `qa` outside a declared pair
    decode user 0x02A8038601000000 == none &&
    -- an early mark on D
    decode user 0x42B8000000000000 == none &&
    -- an early mark on an immediate
    decode user 0x2188030301000005 == none &&
    -- a shift of 64
    decode user 0x0258030301000040 == none &&
    -- a bit field of width 0
    decode user 0x0288000304000008 == none &&
    -- a bit field beyond bit 63
    decode user 0x02880003040000BF == none &&
    -- special register 20
    decode user 0x0310000300000014 == none &&
    -- `collate` of 3
    decode user 0x0080000000000003 == none &&
    -- a tile mask above 16 bits
    decode user 0x0788000000010000 == none &&
    -- barrier 16
    decode user 0x0070000000000010 == none &&
    -- CV with saturation to an integer
    decode user 0x0358180102000000 == none &&
    -- fine scales with int8
    decode user 0x04B8270301020000 == none &&
    -- `vget` past the last element
    decode user 0x0488000301000010 == none &&
    -- `vcmp` ltu on floats
    decode user 0x0470000301020004 == none &&
    -- `vred` operation 3
    decode user 0x04A0000301000003 == none &&
    -- `mmar` from v13
    decode user 0x07D804000D080000 == none &&
    -- `ksel` flag 2
    decode user 0x0900000102030002 == none &&
    -- PR = 0 with PN = 1
    decode user 0x0000400000000000 == none &&
    -- `nop` with X = 1
    decode user 0x0000000000000001 == none &&
    -- `resume` outside slot 63
    decode user 0x00D0000002000000 == none
    ) = true := by decide +kernel

/-- Paired slots: the even one writes `qa` and reads `qc`, the odd one the reverse (R28, R29). -/
theorem test_pairPorts : (
    reads { sup := false, pair := .even } 0x02A8038601000000 (.mov hd .d .qa (.g 1)) && reads { sup := false, pair := .odd } 0x02A8030386000000 (.mov hd .d (.g 3) .qa) &&
    reads { sup := false, pair := .odd } 0x02A8038701000000 (.mov hd .d .qc (.g 1)) && reads { sup := false, pair := .even } 0x02A8030387000000 (.mov hd .d (.g 3) .qc) &&
    decode { sup := false, pair := .odd } 0x02A8038601000000 == none && decode { sup := false, pair := .even } 0x02A8030386000000 == none) = true := by decide +kernel

theorem test_stopInSlot63 : decode supervisor 0x0058000000000000 = none := by decide +kernel

/-- The first step after reset runs the word placed for it, in slot 0 and in slot 63. -/
theorem test_placedWordRuns : (
    decodeTableWord 64 0x0180030404070000 == some (.add hd .wrap .d (.g 4) (.g 4) (.g 7)) &&
    (match step (State.reset.withFetchWord 64 0x0180030404070000) with | .next t => (t.strand 0 0).any fun t => t.pc == 8 | _ => false) &&
    (match step (State.reset.withFetchWord 64 0x0720000000000000) with | .next t => (t.strand 0 63).any fun t => t.pc == 8 | _ => false)) = true := by decide +kernel


/-- Each check of R39 refuses a term of its own: the predicate (pr = 0 with pn), FN (a rounding code where FN has no rounding,
a format that the operation lacks), X (an element past the last), RX with an ordering, a register field (`v4` above v12),
ports (the wrong direction, two ports, a port of a memory access), an early mark on no source, an immediate past its limit
(a shift, `collate`), `sfn` with a second operand, and a call whose header names another command. -/
theorem test_illFormedTerms : (
    !(Instr.nop { hd with pn := true }).wf && (Instr.nop hd).wf &&
    !(Instr.vget hd .bf16 (.g 3) 0 40).wf && (Instr.vget hd .bf16 (.g 3) 0 31).wf &&
    !(Instr.vqnt hd true .int8 0 1 .z).wf && (Instr.vqnt hd true .e2m1b 0 1 .z).wf &&
    !(Instr.ld hd { memF 0 with rx := true, ord := .acq } (.g 3) (.g 4)).wf && (Instr.ld hd { memF 0 with rx := true } (.g 3) (.g 4)).wf &&
    !(Instr.mmar hd .bf16 0 13 0).wf && (Instr.mmar hd .bf16 0 12 0).wf &&
    !(Instr.add hd .wrap .d .qup (.g 4) (.g 3)).wf && !(Instr.add hd .wrap .d (.g 4) .qa .qc).wf &&
    !(Instr.ld hd (memF 0) .qa (.g 4)).wf && (Instr.add hd .wrap .d .qa (.g 3) .z).wf &&
    !(Instr.add { hd with emC := true } .wrap .d (.g 4) (.g 3) (.g 3)).wf && (Instr.add { hd with emA := true } .wrap .d (.g 4) (.g 3) (.g 3)).wf &&
    !(Instr.shli hd .w (.g 4) (.g 3) 32).wf && (Instr.shli hd .w (.g 4) (.g 3) 31).wf &&
    !(Instr.collate hd 3).wf && (Instr.collate hd 4).wf &&
    !(Instr.sfn hd .f32 (.g 4) (.g 3) (.g 3) 1).wf && (Instr.sfn hd .f32 (.g 4) (.g 3) (.g 3) 9).wf &&
    !(Instr.loadCode { call1 with command := 2 } [0]).wf && (Instr.loadCode call1 [0]).wf) = true := by decide +kernel
/-! ## Worked examples of the spec, one step each -/

/-- The strand after one instruction of slot 0, with these registers. -/
def after (i : Instr) (rs : List (Nat × Word)) : Option Strand :=
  match exec i (stT fun t => rs.foldl (fun t r => t.putG r.1 r.2) t) with
  | .next s => s.strand 0 0
  | _ => none
/-- One instruction leaves this value in a register and raises these flags. -/
def gives1 (i : Instr) (rs : List (Nat × Word)) (d : Nat) (v : Word) (fl : FlagWord) : Bool :=
  (after i rs).any fun t => t.g d == v && t.fflg == fl

/-- The worked lines of the scalar chapter (spec/05_register_windows.md). -/
theorem test_workedScalars : (
    gives1 (.addi hd .ss .w (.g 2) (.g 1) 100) [(1, 0x7FFFFFF0)] 2 0x7FFFFFFF 64 &&
    gives1 (.addi hd .wrap .w (.g 2) (.g 1) 100) [(1, 0x7FFFFFF0)] 2 0x80000054 0 &&
    gives1 (.sext hd .w (.g 3) (.g 2)) [(2, 0x80000054)] 3 0xFFFFFFFF80000054 0 &&
    gives1 (.sub hd .us .b (.g 4) (.g 5) (.g 6)) [(5, 3), (6, 10)] 4 0 64 &&
    gives1 (.mulh hd .w (.g 4) (.g 5) (.g 6)) [(5, 0x80000000), (6, 3)] 4 0xFFFFFFFE 0 &&
    gives1 (.div hd .d (.g 3) (.g 4) (.g 5)) [(4, -7), (5, 2)] 3 (-3) 0 &&
    gives1 (.rem hd .d (.g 6) (.g 4) (.g 5)) [(4, -7), (5, 2)] 6 (-1) 0 &&
    gives1 (.rol hd .b (.g 3) (.g 4) (.g 5)) [(4, 0x81), (5, 9)] 3 0x03 0 &&
    gives1 (.clz hd .h (.g 3) (.g 4)) [(4, 0x10080)] 3 8 0 &&
    gives1 (.bfx hd (.g 3) (.g 4) 0x308) [(4, 0xABCDEF)] 3 0xBCD 0 &&
    gives1 (.bfi hd (.g 3) (.g 4) 0x204) [(3, 0xFFFF), (4, 0x12)] 3 0xF12F 0 &&
    gives1 (.movi hd (.g 7) 0xFFFFFFFE) [] 7 0xFFFFFFFFFFFFFFFE 0 &&
    gives1 (.movhi hd (.g 7) 0x12345678) [(7, -2)] 7 0x12345678FFFFFFFE 0) = true := by decide +kernel

theorem test_workedCompares : (
    (after (.cmp hd .lt .w 2 (.g 1) (.g 2)) [(1, 0xFFFFFFFF), (2, 1)]).any (fun t => t.pred.getLsbD 2) &&
    (after (.cmp hd .ltu .w 3 (.g 1) (.g 2)) [(1, 0xFFFFFFFF), (2, 1)]).any (fun t => !t.pred.getLsbD 3)) = true := by decide +kernel

/-- 1.25 rounds to 1 and 2.5 to 2 on the E2M1 grid under RNE (R48); e4m3 overflows to 448 with `.sat` and else to NaN (R49). -/
theorem test_workedRounding : (
    (conv .e2m1b .rne true (fpF32.value 0x3FA00000)).1 == 2 && (conv .e2m1b .rne true (fpF32.value 0x40200000)).1 == 4 &&
    (conv .e4m3 .rne true (fpF32.value 0x44000000)).1 == 0x7E && (conv .e4m3 .rne false (fpF32.value 0x44000000)).1 == 0x7F) = true := by decide +kernel

/-- f32 elements of a vector register, two to a general register. -/
def f32s (k : Nat) (xs : List Nat) : List (Nat × Word) :=
  (List.range 8).map fun j => (8 * k + j, ofN (xs.getD (2 * j) 0 + xs.getD (2 * j + 1) 0 * 2 ^ 32))
def quantIn : List (Nat × Word) :=
  (3, 0x3F800000) :: f32s 2 [0x3E99999A, 0xBF99999A, 0x40200000, 0x40A00000, 0, 0xBF333333, 0x41100000, 0x3F8CCCCD]

/-- The worked case of R56: block scale, then the element bytes; both raise inexact. -/
theorem test_workedQuantiser : (
    (after (.vqnt hd false .e2m1b 1 2 (.g 3)) quantIn).any (fun t => t.g 8 == 0xA0 && t.g 9 == 0x16904290 && t.fflg.getLsbD 4) &&
    (after (.vqnt hd true .e2m1b 1 2 (.g 3)) quantIn).any (fun t => t.g 8 == 0x90 && t.g 9 == 0x179053A0 && t.fflg.getLsbD 4)) = true := by decide +kernel

/-- The worked case of R61: the error term keeps what the sum drops. -/
theorem test_workedKahan : (
    let p (acc : BitVec 96) (x : Machine.Num) : BitVec 96 := (kEnter acc x (fpF32.value 0x3F800000)).1
    let big := fpF32.value 0x5A000000
    let one := fpF32.value 0x3F800000
    p (p (p (p 0 big) one) one) (negNum big) == 0x40000000) = true := by decide +kernel

def annexSegs : List Desc := (segs.set 3 (mkDesc 1 (rR + rE) 0x2000 0x10000)).set 4 (mkDesc 5 (rR + rW + rE) 0 0x400000)
/-- The worked bag record, its rows, indices and offsets (spec/15_annex_pooling.md). -/
def bagW : BagOp :=
  { bag1 with iss := { iss1 with sregs := annexSegs }, offs := [0, 4, 5, 5],
              dws := [0x6000000000000000, 0x6000000000002000, 0x6000000000002040, 0, 0x8000000000000200, 0x080800000C000000, 0x0000004000000040, 0x15] }
def bagS (o : BagOp) (cs : List (Nat × Nat × Nat)) : State :=
  let w (s : Memory) (a n v : Nat) : Memory := s.setBytes (Config.annexBase + 0x2000 + a) (leBytes n v)
  let m := w (w (w B.mem (64 * 3) 8 0x4380C0003F003F80) (64 * 65) 8 0x3E804040BF800000) (64 * 70) 8 0xC38000003F804B80
  let m2 := w (w m 0x2000 20 0x0000004100000041000000030000004600000003) 0x2040 16 0x00000005000000050000000400000000
  withBag o (withDevLeaf (rwLeaf + Config.annexBase) (withLeaf (rwLeaf + Config.annexBase) { B with mem := m2, chips := cs }))

theorem test_workedPartials : (
    (match exec (.chipPartial 0 9 0 2) (bagS bagW [(2, 9, 0)]) with
      | .next t => (t.cluster 0).bags.any fun o => o.partials == [(0, 2, [0x40000000, 0x3F800000, 0xC0800000, 0x44000000])]
      | _ => false) &&
    (match exec (.chipPartial 0 9 0 3) (bagS bagW [(3, 9, 0)]) with
      | .next t => (t.cluster 0).bags.any fun o => o.partials == [(0, 3, [0x4B800000, 0, 0x40400000, 0xC37FC000])]
      | _ => false)) = true := by decide +kernel

theorem test_workedBag :
    (match exec (.bagWrite 0 9) (bagS { bagW with partials := [(0, 2, [0x40000000, 0x3F800000, 0xC0800000, 0x44000000]), (0, 3, [0x4B800000, 0, 0x40400000, 0xC37FC000])] } []) with
      | .next t => t.rdN (roomKey 0 0x200) 16 == 0x43802000BF8000003F8000004B800001
      | _ => false) = true := by decide +kernel

/-- The worked selection (spec/14_key_pages.md): three key pages, top-N with N = 2. -/
def selS (e : Nat) (good : List (Nat × Nat × Nat)) : State :=
  let page : Nat := 0x10000
  let b (m : Memory) (va n v : Nat) : Memory := m.setBytes (0x10000 + va % 0x4000) (leBytes n v)
  let m0 := b B.mem 0 8 0x200
  let m1 := b (b m0 (0x40 + 4096) 4 0xA880B0B8) (0x40 + 4160) 4 0x30443840
  let m2 := b (b m1 (0x10C0 + 4096) 4 0x00B8C000) (0x10C0 + 4160) 4 0x2838B838
  let m3 := b (b m2 (0x2140 + 4096) 4 0) (0x2140 + 4160) 4 0x40003030
  let m4 := (m3.setBytes (aKey 0 0) (leBytes 16 0x408000003F000000C00000003F800000)).setBytes (roomKey 0 0x1000)
    (leBytes 48 (0x4000000000012140 * 2 ^ 256 + 0x40000000000110C0 * 2 ^ 128 + 0x4000000000010040))
  let q := [0x3F800000, 0xC0000000, 0x3F000000, 0x40800000] ++ List.replicate 60 0
  let o : SelOp := { sel1 .ksel with dws := [ptr 4 0, ptr 6 0x1000, ptr 6 0x40, ofN (2 * 2 ^ 48 + 2 ^ 36), 0, 0, 0, 0], qry := some q, e := e, good := good }
  withSel o (withCluster (fun c => { c with tlb := [{ vol := 1, page := page, bits := 14, leaf := ofN (2 ^ 63 + 2 ^ 62 + 2 ^ 60 + rwLeaf + 0x10000) }] }) { B with mem := m4 })

/-- The bounds and pages of the worked selection. -/
def selGood : List (Nat × Nat × Nat) := [(0, 0x40D00000, 0x10040), (1, 0x40D00000, 0x110C0), (2, 0x41080000, 0x12140)]

theorem test_workedBounds : ((List.range 3).all fun e =>
    match exec (.selectRun 0 9) (selS e (selGood.take e)) with
      | .next t => (t.cluster 0).sels.any fun o => o.good == selGood.take (e + 1)
      | _ => false) = true := by decide +kernel

theorem test_workedSelection :
    (match exec (.selectRun 0 9) (selS 3 selGood) with
      | .next t => (List.range 6).map (fun j => t.rdN (roomKey 0 (0x40 + 8 * j)) 8) ==
          [0x30002, 0, 0x0000000000010040, 0x40D00000, 0x0002000000012140, 0x41080000]
      | _ => false) = true := by decide +kernel

/-- The worked scatters (spec/13_indirect_copy.md): four 8-byte rows. -/
def scatS (src : Nat) (idx rows : List Nat) : State :=
  let w4 (n a : Nat) (xs : List Nat) (m : Memory) : Memory := m.setBytes a (xs.flatMap (leBytes n))
  let o : CopyOp := { copy1 with kind := .scat, dws := [ptr 2 src, ptr 2 0x6000, ptr 2 0x5000, ofN (2 * 2 ^ 62 + 4 * 2 ^ 32 + 8), 8, 0, 0, 0] }
  withCopy o (withLeaf rwLeaf { B with mem := w4 8 src rows (w4 4 0x5000 idx B.mem) })
def rowsAt (s : State) : List Nat := (List.range 4).map fun j => s.rdN (0x6000 + 8 * j) 8

theorem test_workedScatter : (
    (match exec (.copyChunk 0 7) (scatS 0x4000 [2, 0, 2, 1] [10, 20, 30, 40]) with | .next t => rowsAt t == [20, 40, 30, 0] | _ => false) &&
    (match exec (.copyChunk 0 7) (scatS 0x6000 [1, 2, 3, 0] [10, 20, 30, 40]) with | .next t => rowsAt t == [40, 10, 20, 30] | _ => false)) = true := by decide +kernel

/-- The worked task (spec/12_matrix_engines.md). -/
def taskS : State :=
  let w (a n v : Nat) (m : Memory) : Memory := m.setBytes a (leBytes n v)
  let m := w (wKey 0 0) 12 0x1A74059200000000000000A0 (w (aKey 0 0x200) 8 0x48B8283840303838 (w (roomKey 0 0x1000) 4 0x3F803F00 B.mem))
  let t : Task := { task1 [0x4000000000, 0, 0x4000000200, 0x1000000000, 0x0C86000000000007, 0x807E800200000000, 0x8000100000000004, 0x8000000000000021] with parts := [.started], met := true }
  withTask t (withCore (fun c => { c with tiles := setAt c.tiles 3 tile1 }) { B with mem := m })

theorem test_workedTask :
    (match exec (.taskPartComplete 0 9 0) taskS with
      | .next t => (t.core 0).acc 0 == 0x11000000000000
      | _ => false) = true := by decide +kernel

/-- The worked fold (spec/16_accessions_redactor.md): the source's seven words, and the residual's four. -/
def foldWords : List Instr :=
  [.cmpi { hd with emA := true } .eq .d 1 (.g 1) 0, .br { hd with pr := 1 } 3, .mul { hd with emB := true } .wrap .d (.g 4) (.g 3) (.g 2), .acall hd .z (.g 7),
   .shli { hd with emA := true } .d (.g 5) (.g 2) 1, .mul hd .wrap .d (.g 4) (.g 3) (.g 5), .acall hd .z (.g 7)]
def foldS : State :=
  let s := codeSpace B
  let s1 : State := { s with circ := { s.circ with spaces := s.circ.spaces.map fun p => { p with table := [(5, { entry1 with size := 7 })] } } }
  let dws : List Word := [0x001F400100000002, 6, 0, 0x10, 0, 0, 0, 0]
  withSpec { spec1 with dws := dws, early := [0, 0x100000000] } { s1 with mem := s1.mem.setBytes 0x8000 (foldWords.flatMap fun i => leBytes 8 (wordOf i).toNat) }

/-- The redactor writes the residual in one step, and the block in the next. -/
theorem test_workedFold :
    (match exec (.specRun 0 9) foldS with
      | .next t => (List.range 4).map (fun j => t.rdN (0x40000 + 8 * j) 8) == [0x02B0000500000000, 0x02B8000500000002, 0x0198030403050000, 0x0998008007000000] &&
          (match exec (.specRun 0 9) t with
            | .next u => u.rdN 0x2038 8 == 0x0002000014000006 && u.rdN 0x2030 8 == 0x0001000000000004
            | _ => false)
      | _ => false) = true := by decide +kernel

/-- Two accesses of each of two parties on words 0 and 1 (spec/09_ordering.md, the test catalogue): 0 and 1 the initial writes, 2 and 3
the first party's, 4 and 5 the second's. -/
def litmus (ev : List Event) (rf : List (Nat × Nat)) (co s : List Nat) : Candidate :=
  { events := [{ who := .start, kind := .write, loc := 0 }, { who := .start, kind := .write, loc := 1 }] ++ ev, rf := rf.map fun x => (x.1, x.2, 0xFF), co := co, s := s }
def evP (k : EventKind) (l : Nat) : Event := { who := .strand 0 0, kind := k, loc := l }
def evQ (k : EventKind) (l : Nat) : Event := { who := .strand 1 8, kind := k, loc := l }

/-- Message passing: the flag read as 1 and the datum as 0 is forbidden with a release and an acquire, allowed without the release. -/
theorem test_messagePassing :
    (!(litmus [evP .write 0, { evP .write 1 with ordered := true, release := true }, { evQ .read 1 with ordered := true, acquire := true }, evQ .read 0]
        [(3, 4), (0, 5)] [0, 1, 2, 3] [3, 4]).allowed &&
     (litmus [evP .write 0, { evP .write 1 with ordered := true }, { evQ .read 1 with ordered := true, acquire := true }, evQ .read 0]
        [(3, 4), (0, 5)] [0, 1, 2, 3] [3, 4]).allowed) = true := by decide +kernel

/-- Load buffering: both reads give 1 only where nothing marks the stores. -/
theorem test_loadBuffering :
    ((litmus [evP .read 0, evP .write 1, evQ .read 1, evQ .write 0] [(5, 2), (3, 4)] [0, 1, 3, 5] []).allowed &&
     !(litmus [evP .read 0, { evP .write 1 with marks := 1 }, evQ .read 1, { evQ .write 0 with marks := 1 }] [(5, 2), (3, 4)] [0, 1, 3, 5] []).allowed) = true := by decide +kernel

/-- Store buffering, relaxed, with fences between: both reads give 0 under release fences, or full fences whose scope is too narrow. -/
def fenced (k : FenceKind) (sc : FenceScope) (s : List Nat) : Candidate :=
  { litmus [evP .write 0, evP (.fence k sc) 0, evP .read 1, evQ .write 1, evQ (.fence k sc) 0, evQ .read 0] [(1, 4), (0, 7)] [0, 1, 2, 5] s with dep := [] }
theorem test_storeBuffering :
    ((fenced .rel .dev [2, 3, 5, 6]).allowed && (fenced .full .clus [3, 6]).allowed &&
      (!(fenced .full .dev [2, 3, 4, 5, 6, 7]).allowed && !(fenced .full .dev [5, 6, 7, 2, 3, 4]).allowed)) = true := by decide +kernel

/-- Whatever the core pairs, a lost source of a spanning word whose predicate is false is found: no granule is left to duplicate (R107). -/
theorem test_skip_reads_lost :
    (Ctx.skipFault { s := lostS, core := 0, slot := 0, t := lostT, word := (formOf vpermW).word } (formOf vpermW)).isSome = true := by
  have hg : ((lostT.failing.filter (formOf vpermW).regs.contains).map (· / 8)).eraseDups = [1] := by decide +kernel
  have hs : lostS.drawBool.2.spareGran 0 = none := by decide +kernel
  have hd : lostT.dups = [] := by decide +kernel
  have hx : (lostS.settle 0 lostT (formOf vpermW).regs).2 = lostT.unpaired [1] := by
    unfold State.settle
    rw [hg]
    have ht : { lostT.unpaired [1] with dups := [] } = lostT.unpaired [1] := by rw [show ([] : List (Nat × Nat)) = (lostT.unpaired [1]).dups from hd.symm]
    simp only [List.foldl_cons, List.foldl_nil, settleGran]
    split <;> simp only [hd, hs, ht, List.filter_nil, List.any_nil, Bool.false_eq_true, reduceIte]
  have hf : ((formOf vpermW).regs.find? (lostT.unpaired [1]).lost.contains).isSome = true := by decide +kernel
  have hv : Ctx.gives { s := lostS, core := 0, slot := 0, t := lostT, word := (formOf vpermW).word } (formOf vpermW) = true := by decide +kernel
  unfold Ctx.skipFault
  rw [if_pos hv, Option.isSome_map]
  unfold Ctx.settle
  simp only [hx]
  exact hf

/-- A strand that a limit of R75 has parked lands what it holds when it comes back to its instruction (R73, R75): the addition reads the
loaded 9, and not the older 0x1000 that it would read at no switch point. -/
theorem test_limit_lands :
    ((match exec (.mov hd .d (.g 3) (.g 1)) (stT fun t => { t with atSwitch := true, ops := [{ opDone with dest := .g 1, stage := .held, val := 9 }] }) with
        | .next s => (s.strand 0 0).any fun t => t.g 3 == 9 && t.ops == [] && !t.atSwitch
        | _ => false) &&
     (match exec (.mov hd .d (.g 3) (.g 1)) (stT fun t => { t with ops := [{ opDone with dest := .g 1, stage := .held, val := 9 }] }) with
        | .next s => (s.strand 0 0).any fun t => t.g 3 == 0x1000 && t.ops != []
        | _ => false)) = true := by decide +kernel

/-- Two held pushes and one credit: the first leaves, the strand parks for the next credit, and the switch point is kept (R165). -/
theorem test_push_each_credit :
    (match exec (.nop { hd with sw := true }) (st (fun t => { t with ops := [{ opDone with dest := .push 3 q0, stage := .held }, { opDone with id := 8, dest := .push 3 q0, stage := .held }] })
        (fun s => withGathering { placedGathering with spent := [(q0, s.portDepth 1 - 1)] } s) 0) with
      | .next s => s.credits q0 == 0 && (s.strand 0 0).any fun t => t.run == .parked (.credit q0) && t.atSwitch && t.ops.map (·.id) == [8]
      | _ => false) = true := by decide +kernel

end Sys2Proof.Test
end

section
/-! SUPPORT. Memory writes that a saved strand is made of: doublewords, key-page elements and strand areas. -/

namespace Sys2Proof.Machine

open Sys2Proof

@[simp] theorem fld_ofN (n hi lo : Nat) : fld (ofN n) hi lo = bitsN (n % 2 ^ 64) hi lo := by
  simp [fld, ofN, BitVec.toNat_ofNat]

theorem Memory.setBytes_append (m : Memory) (a : Nat) (bs cs : List Byte) :
    m.setBytes a (bs ++ cs) = (m.setBytes a bs).setBytes (a + bs.length) cs := by
  induction bs generalizing m a with
  | nil => rfl
  | cons b r ih =>
    simp only [List.cons_append, Memory.setBytes, ih, List.length_cons]
    rw [Nat.add_assoc, Nat.add_comm 1]

@[simp] theorem State.wrWords_strands (s : State) (key : Nat) (vs : List Nat) : (s.wrWords key vs).strands = s.strands := rfl

/-- Doublewords are written one after another. -/
theorem State.wrWords_cons (s : State) (key v : Nat) (vs : List Nat) :
    s.wrWords key (v :: vs) = (s.wrN key 8 v).wrWords (key + 8) vs := by
  simp only [State.wrWords, State.wrBytes, State.wrN, List.flatMap_cons, Memory.setBytes_append, leBytes_length]

/-- A write above a range leaves what the range reads. -/
theorem State.rdN_wrBytes_below (s : State) {key n a : Nat} (bs : List Byte) (h : key + n ≤ a) :
    (s.wrBytes a bs).rdN key n = s.rdN key n := by
  have same : (s.mem.setBytes a bs).getBytes key n = s.mem.getBytes key n :=
    List.map_congr_left fun i hi => Memory.get_setBytes_out _ _ _ (by have := List.mem_range.1 hi; omega)
  simp only [State.rdN, State.wrBytes, same]

/-- Each doubleword reads as it was written, whatever is written beside it. -/
theorem State.rdW_wrWords {s : State} (h : s.mem.wf = true) (key : Nat) {vs : List Nat} {i : Nat} (hi : i < vs.length) :
    (s.wrWords key vs).rdW (key + 8 * i) = ofN (vs.getD i 0) := by
  induction vs generalizing s key i with
  | nil => simp at hi
  | cons v r ih =>
    rw [State.wrWords_cons]
    cases i with
    | zero =>
      have read : ((s.wrN key 8 v).wrWords (key + 8) r).rdN key 8 = v % 2 ^ 64 :=
        (State.rdN_wrBytes_below _ _ (Nat.le_refl _)).trans (State.rdN_wrN h key 8 v)
      simp only [State.rdW, Nat.mul_zero, Nat.add_zero, read, List.getD_cons_zero]
      exact BitVec.eq_of_toNat_eq (by simp [ofN])
    | succ i =>
      have := ih (State.wrN_wf h key 8 v) (key + 8) (i := i) (by simpa using hi)
      simpa [show key + 8 * (i + 1) = key + 8 + 8 * i by omega] using this

/-- `s'` differs from `s` in memory and in the shadows of accesses in flight only, and its memory is canonical if that of `s` is. -/
def State.WritesMem (s s' : State) : Prop :=
  (∃ m fl, s' = { s with mem := m, flights := fl }) ∧ (s.mem.wf = true → s'.mem.wf = true)

theorem State.WritesMem.refl (s : State) : s.WritesMem s := ⟨⟨s.mem, s.flights, rfl⟩, id⟩

theorem State.WritesMem.trans {s s' s'' : State} (h : s.WritesMem s') (h' : s'.WritesMem s'') : s.WritesMem s'' := by
  obtain ⟨⟨m, fl, rfl⟩, hwf⟩ := h
  obtain ⟨⟨m', fl', rfl⟩, hwf'⟩ := h'
  exact ⟨⟨m', fl', rfl⟩, fun hs => hwf' (hwf hs)⟩

/-- Writes made one after another are a write. -/
theorem State.WritesMem.foldl {α : Type} {f : State → α → State} (hf : ∀ (s : State) x, s.WritesMem (f s x)) (s : State) (xs : List α) :
    s.WritesMem (xs.foldl f s) := by
  induction xs generalizing s with
  | nil => exact .refl s
  | cons x r ih => exact (hf s x).trans (ih (f s x))

theorem State.WritesMem.strands {s s' : State} (h : s.WritesMem s') : s'.strands = s.strands := by
  obtain ⟨⟨m, fl, rfl⟩, _⟩ := h
  rfl

theorem State.wrN_writesMem (s : State) (key n v : Nat) : s.WritesMem (s.wrN key n v) :=
  ⟨⟨_, s.flights, rfl⟩, fun h => State.wrN_wf h key n v⟩

/-- The abstract and its shadows widen by two writes (R301, R303). -/
theorem State.widen1_writesMem (s : State) (g : Geometry) (base a : Nat) : s.WritesMem (s.widen1 g base a) := by
  unfold State.widen1
  dsimp only
  split
  · exact .refl s
  · exact ((State.wrN_writesMem s _ _ _).trans (State.wrN_writesMem _ _ _ _)).trans ⟨⟨_, _, rfl⟩, id⟩

theorem State.widen_writesMem (s : State) (kpage : Option (Nat × Nat)) (a n : Nat) : s.WritesMem (s.widen kpage a n) := by
  unfold State.widen
  split
  · exact .refl s
  · split
    · exact .refl s
    · dsimp only
      split
      · exact .refl s
      · split
        · exact .refl s
        · exact .foldl (fun s i => State.widen1_writesMem s _ _ _) s _

theorem State.bankWrite_writesMem (s : State) (key : Nat) (kpage : Option (Nat × Nat)) (n v : Nat) :
    s.WritesMem (s.bankWrite key kpage n v) :=
  (State.wrN_writesMem s key n v).trans (State.widen_writesMem _ kpage key n)

theorem State.areaPut_writesMem (s : State) (vol va pa : Nat) (bs : List Byte) : s.WritesMem (s.areaPut vol va pa bs) :=
  .foldl (fun s _ => State.bankWrite_writesMem s _ _ _ _) s _

end Sys2Proof.Machine
end

section
/-! SUPPORT. What saving a strand, halting it and starting an upcall leave in its slot and in its slip (R76, R79, R80, R241, R399). -/

namespace Sys2Proof.Machine

open Sys2Proof

@[simp] theorem aget_adel_self {α β : Type} [DecidableEq α] (l : List (α × β)) (a : α) : aget (adel l a) a = none := by
  induction l with
  | nil => rfl
  | cons x r ih =>
    obtain ⟨k, v⟩ := x
    simp only [adel] at ih
    by_cases hk : k = a <;> simp [adel, aget, hk, ih]

/-- A sound strand has no failing register. -/
theorem Strand.failing_sound {t : Strand} (ht : t.sound) : t.failing = [] := by
  obtain ⟨hbad, _, _⟩ := ht
  simp [Strand.failing, hbad]

/-- A sound strand is saved without loss (R108). -/
theorem Strand.lostArg_sound {t : Strand} (ht : t.sound) : t.lostArg = none := by
  obtain ⟨_, hpred, hsreg⟩ := id ht
  simp [Strand.lostArg, Strand.lost, Strand.failing_sound ht, hpred, hsreg]

/-- Of a sound strand no pairing is settled before it is saved. -/
theorem State.saveStrand_sound (s : State) (core slot : Nat) {t : Strand} (pc st cls code : Nat) (a : Aside) (ht : t.sound) :
    s.saveStrand core slot t pc st cls code a = s.saveSettled core slot t pc st cls code a := by
  have : s.settle core t (List.range t.regs.length) = (s, t) := State.settle_sound (by simp [Strand.failing_sound ht])
  simp only [State.saveStrand, this]

/-- No register of a sound strand is found lost as it is saved (R108). -/
theorem State.saveStrand_lost_sound (s : State) (core slot : Nat) {t : Strand} (pc st cls code : Nat) (a : Aside) (ht : t.sound) :
    (s.saveStrand core slot t pc st cls code a).2 = none := by
  rw [State.saveStrand_sound s core slot pc st cls code a ht]
  exact Strand.lostArg_sound ht

/-- A slip holds no register. -/
theorem slipWords_regs (t : Strand) (rs : List Word) (pc st link cls code npend : Nat) :
    slipWords { t with regs := rs } pc st link cls code npend = slipWords t pc st link cls code npend := rfl

/-- The slip is written last, after the segment table and the save area, and the strand leaves its slot (R79). -/
theorem State.saveSettled_eq (s : State) (core slot : Nat) {t : Strand} (pc st cls code : Nat) (a : Aside) (ht : t.sound) :
    ∃ s' c, s.WritesMem s' ∧ (s.saveSettled core slot t pc st cls code a).1 =
      { (s'.wrWords (t.slip - Config.areaVA) (slipWords t pc st 0 cls code ((t.ops.filter Op.lands).take 16).length)).dropStrand core slot
        with circ := c } := by
  simp only [State.saveSettled, Strand.lostArg_sound ht, Option.isSome_none, Bool.false_eq_true, if_false, slipWords_regs]
  refine ⟨_, _, ?writes, rfl⟩
  case writes => exact (State.areaPut_writesMem s _ _ _ _).trans (State.areaPut_writesMem _ _ _ _ _)

/-- The slot that a saved strand leaves is empty, and every other slot is as it was (R79). -/
theorem State.saveStrand_strand (s : State) (core slot : Nat) {t : Strand} (pc st cls code : Nat) (a : Aside) (ht : t.sound)
    (core' slot' : Nat) : (s.saveStrand core slot t pc st cls code a).1.strand core' slot' =
      if (core', slot') = (core, slot) then none else s.strand core' slot' := by
  obtain ⟨s', c, hw, h⟩ := State.saveSettled_eq s core slot pc st cls code a ht
  rw [State.saveStrand_sound s core slot pc st cls code a ht, h]
  simp only [State.strand, State.dropStrand, State.wrWords_strands, hw.strands]
  split
  · rename_i same; rw [same, aget_adel_self]
  · rename_i other; exact aget_adel_ne _ other

/-- The doublewords of a saved strand's slip (R79). -/
theorem State.saveStrand_slipDw {s : State} (core slot : Nat) {t : Strand} (pc st cls code : Nat) (a : Aside) (hs : s.mem.wf = true)
    (ht : t.sound) {i : Nat} (hi : i < 8) :
    (s.saveStrand core slot t pc st cls code a).1.slipDw (t.slip - Config.areaVA) i =
      ofN ((slipWords t pc st 0 cls code ((t.ops.filter Op.lands).take 16).length).getD i 0) := by
  obtain ⟨s', c, ⟨_, hwf⟩, h⟩ := State.saveSettled_eq s core slot pc st cls code a ht
  have read := State.rdW_wrWords (hwf hs) (t.slip - Config.areaVA)
    (vs := slipWords t pc st 0 cls code ((t.ops.filter Op.lands).take 16).length) (i := i) hi
  rw [State.saveStrand_sound s core slot pc st cls code a ht, h]
  simpa only [State.slipDw, State.rdW, State.rdN, State.dropStrand_mem] using read

/-- Queueing events changes the clock only. -/
theorem State.foldl_pushNew_eq {α : Type} (f : α → Instr) (s : State) (l : List α) :
    ∃ k, l.foldl (fun s x => s.pushNew (f x)) s = { s with clk := k } := by
  induction l generalizing s with
  | nil => exact ⟨s.clk, rfl⟩
  | cons x r ih =>
    obtain ⟨k, hk⟩ := State.pushNew_eq s (f x)
    obtain ⟨k', hk'⟩ := ih (s.pushNew (f x))
    exact ⟨k', by rw [List.foldl_cons, hk', hk]⟩

/-- With no operation, nothing lands. -/
theorem State.land_nil (s : State) (core slot : Nat) {t : Strand} (ht : t.ops = []) : s.land core slot t = (s, t) := by
  cases t
  cases ht
  rfl

/-- A halt writes the halt block and the slot, sends the message, and wakes members of the group (R42, R399). -/
theorem State.haltNow_eq (s : State) (core slot : Nat) {t : Strand} (f : FaultInfo) (pc : Nat) (w : Word) (ht : t.ops = []) :
    ∃ k, s.haltNow core slot t f pc w =
      { ((s.setCore core { s.core core with
            halts := aput (s.core core).halts slot (faultRecord 0 f pc w t.cnt core slot t.gidx) }).setStrand core slot
          { t.alone with run := .halted, prog := 0 }).supMsg (s.routeOf t core slot) core 8 1 (slot * 2 ^ 38 + core * 2 ^ 27)
        with clk := k } := by
  unfold State.haltNow
  rw [State.land_nil s core slot ht]
  exact State.foldl_pushNew_eq (fun e : (Nat × Nat) × Strand => .strandWake e.1.1 e.1.2) _ _

/-- Counting a strand of an accession moves no strand. -/
theorem State.strand_bumpExec (s : State) (vol : Nat) (acc : Option Nat) (d : Int) (core slot : Nat) :
    (s.bumpExec vol acc d).strand core slot = s.strand core slot := by
  cases acc <;> rfl

/-- Loaded arguments come first; the registers above them are as they were. -/
theorem Strand.args_g (t : Strand) (vs : List Word) (n : Nat) (h : vs.length ≤ t.regs.length) :
    (t.args vs).g n = if n < vs.length then vs.getD n 0 else t.g n := by
  have len : (vs ++ t.regs.drop vs.length).length ≤ t.regs.length := by simp; omega
  simp only [Strand.g, Strand.args, List.take_of_length_le len, List.getD_eq_getElem?_getD, List.getElem?_append, List.getElem?_drop]
  split
  · rfl
  · rw [Nat.add_sub_cancel' (by omega)]

/-- The strand that the rule on upcalls starts in a faulter's slot (R241). -/
def upcallStrand (uid : Nat) (t : Strand) (v : Volume) (i : Nat) (e : Entry) (f : FaultInfo) (pc : Nat) : Strand :=
  { (newStrand uid t.vol t.gidx true 255 0 t.prio t.home t.wgr v.upv 0 0 v.det (codeDesc e :: t.sregs.drop 1) (some i)).args
      [ofN t.slip, ofN f.arg, ofN (f.code + f.access * 2 ^ 8 + f.size * 2 ^ 12), ofN pc] with
    gran := t.gran, faulter := some t.slip, segt := 0, save := 0 }

/-- Every register of a new strand is 0 (R81). -/
theorem newStrand_g (uid vol gidx : Nat) (free : Bool) (lane role prio home wgr pc slip holdp : Nat) (det : Bool) (sregs : List Desc)
    (acc : Option Nat) (n : Nat) : (newStrand uid vol gidx free lane role prio home wgr pc slip holdp det sregs acc).g n = 0 := by
  simp only [Strand.g, newStrand, List.getD_eq_getElem?_getD, List.getElem?_replicate]
  split <;> rfl

/-- An upcall has its four arguments in g0 to g3, and 0 above them. -/
theorem upcallStrand_g (uid : Nat) (t : Strand) (v : Volume) (i : Nat) (e : Entry) (f : FaultInfo) (pc n : Nat) :
    (upcallStrand uid t v i e f pc).g n =
      [ofN t.slip, ofN f.arg, ofN (f.code + f.access * 2 ^ 8 + f.size * 2 ^ 12), ofN pc].getD n 0 := by
  refine (Strand.args_g _ _ n (by simp [newStrand]; omega)).trans ?_
  split
  · rfl
  · rename_i h
    rw [List.getD_eq_getElem?_getD, List.getElem?_eq_none (by simpa using h), Option.getD_none]
    exact newStrand_g ..

/-- The page fault of a sound strand with a slip leaves the upcall in its slot (R241). -/
theorem State.pageFault_strand (s : State) (core slot : Nat) {t : Strand} (f : FaultInfo) (pc : Nat) (w : Word) {v : Volume} {i : Nat}
    {e : Entry} (hslot : slot ≠ 63) (hup : t.faulter = none) (ht : t.sound) (hv : s.volume t.vol = some v)
    (he : s.resolveVA t.vol v.upv = some (i, e)) :
    ∃ uid, (s.pageFault core slot t f pc w).strand core slot = some (upcallStrand uid t v i e f pc) := by
  unfold State.pageFault
  simp only [hv, Option.bind_some, he, Option.map_some, beq_iff_eq, hslot, hup, Option.isSome_none, Bool.false_eq_true, or_self,
    Bool.or_eq_true, if_false, State.saveStrand_lost_sound _ _ _ _ _ _ _ _ ht]
  rw [State.strand_bumpExec, State.strand_setStrand]
  exact ⟨_, rfl⟩

/-- A task fault of a sound strand with a slip saves it FAULTED and goes to the volume's handler, with the fault's own record (R400). -/
theorem State.faultNow_sound (s : State) (core slot : Nat) {t : Strand} (f : FaultInfo) (pc : Nat) (w : Word) (hslot : slot ≠ 63)
    (hup : t.faulter = none) (ht : t.sound) : s.faultNow core slot t f pc w =
      State.pushNew (((((s.dropFailed core t.uid).endCollation t).saveStrand core slot t t.pc 3 f.cls f.code
          { vol := t.vol, pa := t.slip - Config.areaVA, left := t.run.due, redo := s.redoOf core t }).1).handlerTask
        t.vol t.prio t.home t.gidx core (t.slip - Config.areaVA) t.sregs f.cls (faultRecord t.slip f pc w t.cnt core slot t.gidx)) .placement := by
  unfold State.faultNow
  simp only [beq_iff_eq, hslot, hup, Option.isSome_none, Bool.false_eq_true, or_self, Bool.or_eq_true, if_false,
    State.saveStrand_lost_sound _ _ _ _ _ _ _ _ ht, Option.map_none, Option.getD_none, ite_self]

/-- A volume without a handler at its fault VA sends the message of the rule to its route core (R400). -/
theorem State.handlerTask_unresolved {s : State} {vol : Nat} {v : Volume} (hv : s.volume vol = some v) (hh : s.resolveVA vol v.fhv = none)
    (prio home gidx core pa : Nat) (sregs : List Desc) (cls : Nat) (rec_ : List Word) :
    s.handlerTask vol prio home gidx core pa sregs cls rec_ = s.supMsg (some (v.route core)) core 8 cls ((Config.areaVA + pa) / 16) := by
  simp only [State.handlerTask, hv, hh]

/-- So does the fault of a handler task itself (R400). -/
theorem State.handlerTask_handler {s : State} {vol : Nat} {v : Volume} {pa : Nat} (hv : s.volume vol = some v) (hp : pa ∈ v.handlers)
    (prio home gidx core : Nat) (sregs : List Desc) (cls : Nat) (rec_ : List Word) :
    s.handlerTask vol prio home gidx core pa sregs cls rec_ = s.supMsg (some (v.route core)) core 8 cls ((Config.areaVA + pa) / 16) := by
  cases hh : s.resolveVA vol v.fhv with
  | none => exact State.handlerTask_unresolved hv hh prio home gidx core pa sregs cls rec_
  | some r => simp [State.handlerTask, hv, hh, hp]

end Sys2Proof.Machine
end

section
/-! Taking a fault (R19, R76, R241, R397, R399, R400, R402): each clause of the statement, and the statement. -/

namespace Sys2Proof.Machine

open Sys2Proof

/-- Each field of a fault record is where the record rule puts it (R402). -/
theorem faultRecord_fields (slip : Nat) {f : FaultInfo} (pc : Nat) (w : Word) (cnt : Nat) {core slot gidx : Nat} (hcls : f.cls < 8)
    (hcode : f.code < 2 ^ 13) (haccess : f.access < 16) (hsize : f.size < 16) (hcore : core < 2 ^ 11) (hslot : slot < 64) (hgidx : gidx < 2 ^ 24) :
    let r := faultRecord slip f pc w cnt core slot gidx
    fld (r.getD 1 0) 63 61 = f.cls ∧ fld (r.getD 1 0) 60 48 = f.code ∧ fld (r.getD 1 0) 47 0 = pc % 2 ^ 48 ∧
      fld (r.getD 4 0) 15 12 = f.size ∧ fld (r.getD 4 0) 11 8 = f.access ∧ fld (r.getD 5 0) 47 0 = cnt % 2 ^ 48 ∧
      fld (r.getD 6 0) 58 48 = core ∧ fld (r.getD 6 0) 45 40 = slot ∧ fld (r.getD 6 0) 23 0 = gidx := by
  simp only [faultRecord, List.getD_cons_succ, List.getD_cons_zero, fld_ofN, bitsN]
  omega

/-- What a halt leaves: the strand in its slot, memory, the record in the halt block, and one message (R399). -/
theorem State.haltNow_leaves (s : State) (core slot : Nat) {t : Strand} (f : FaultInfo) (pc : Nat) (w : Word) (ht : t.ops = []) :
    (s.haltNow core slot t f pc w).strand core slot = some { t.alone with run := .halted, prog := 0 } ∧
      (s.haltNow core slot t f pc w).mem = s.mem ∧
      aget ((s.haltNow core slot t f pc w).core core).halts slot = some (faultRecord 0 f pc w t.cnt core slot t.gidx) ∧
      ∃ m, (s.haltNow core slot t f pc w).fab.sup = s.fab.sup ++ [m] ∧ m.dst = s.routeOf t core slot ∧
        m.word = ofN (1 * 2 ^ 48 + 8 * 2 ^ 44 + (slot * 2 ^ 38 + core * 2 ^ 27) % 2 ^ 44) := by
  obtain ⟨k, h⟩ := State.haltNow_eq s core slot f pc w ht
  rw [h]
  refine ⟨State.strand_setStrand _ core slot _, rfl, ?_, _, rfl, rfl, rfl⟩
  exact (congrArg (fun c : Core => aget c.halts slot) (State.core_setCore s core _)).trans (aget_aput_self _ _ _)

/-- What a save leaves: state, pc and fault in the slip, and the slot empty (R79, R400). -/
theorem State.saveStrand_leaves {s : State} (core slot : Nat) {t : Strand} (pc : Nat) {st cls code : Nat} (a : Aside) (hs : s.mem.wf = true)
    (ht : t.sound) (hst : st < 8) (hcls : cls < 8) (hcode : code < 2 ^ 13) :
    (s.saveStrand core slot t pc st cls code a).1.slipState (t.slip - Config.areaVA) = st ∧
      fld ((s.saveStrand core slot t pc st cls code a).1.slipDw (t.slip - Config.areaVA) 0) 47 0 = pc % 2 ^ 48 ∧
      (s.saveStrand core slot t pc st cls code a).1.slipFault (t.slip - Config.areaVA) = (cls, code) ∧
      (s.saveStrand core slot t pc st cls code a).1.strand core slot = none ∧
      ∀ core' slot', (core', slot') ≠ (core, slot) →
        (s.saveStrand core slot t pc st cls code a).1.strand core' slot' = s.strand core' slot' := by
  have dw {i : Nat} (hi : i < 8) := State.saveStrand_slipDw core slot pc st cls code a hs ht hi
  have hfree : 2 ^ 51 ∣ (if t.free then 2 ^ 51 else 0) := by split <;> simp
  refine ⟨?_, ?_, ?_, ?_, ?_⟩
  · simp only [State.slipState, dw (i := 0) (by omega), slipWords, List.getD_cons_zero, fld_ofN, bitsN]
    omega
  · simp only [dw (i := 0) (by omega), slipWords, List.getD_cons_zero, fld_ofN, bitsN]
    omega
  · simp only [State.slipFault, dw (i := 4) (by omega), slipWords, List.getD_cons_succ, List.getD_cons_zero, fld_ofN, bitsN, Prod.mk.injEq]
    omega
  · simp [State.saveStrand_strand s core slot pc st cls code a ht]
  · intro core' slot' h
    rw [State.saveStrand_strand s core slot pc st cls code a ht, if_neg h]

/-- A page fault without an upcall is a task fault (R19). -/
theorem State.pageFault_no_upcall {s : State} {t : Strand} (h : ∀ v, s.volume t.vol = some v → s.resolveVA t.vol v.upv = none)
    (core slot : Nat) (f : FaultInfo) (pc : Nat) (w : Word) : s.pageFault core slot t f pc w = s.faultNow core slot t f pc w := by
  unfold State.pageFault
  cases hv : s.volume t.vol with
  | none => rfl
  | some v => simp only [Option.bind_some, h v hv, Option.map_none]

/-- A strand without a slip halts in its slot (R242; slot 63 by assumption 14). -/
theorem State.faultNow_no_slip (s : State) (core : Nat) {slot : Nat} {t : Strand} (h : slot = 63 ∨ t.faulter.isSome = true) (f : FaultInfo)
    (pc : Nat) (w : Word) : s.faultNow core slot t f pc w = (s.endCollation t).haltNow core slot t f pc w := by
  unfold State.faultNow
  exact if_pos (by simpa using h)

/-- A fault found at issue with none returned: taken at once, or once the outstanding operations have returned (R400). -/
theorem State.faultAtIssue_fresh (s : State) (core slot : Nat) {t : Strand} (f : FaultInfo) (w : Word) (h : t.faulted = none) :
    s.faultAtIssue core slot t f w =
      if t.outstanding = [] then (if f.cls = 2 then s.pageFault core slot t f t.pc w else s.faultNow core slot t f t.pc w)
      else (s.endCollation t).setStrand core slot { t.alone with run := .faulting f w } := by
  simp [State.faultAtIssue, h]

/-- A fault that has returned goes before one found at issue, once every operation has returned (assumption 10). -/
theorem State.faultAtIssue_returned (s : State) (core slot : Nat) {t : Strand} (f : FaultInfo) (w : Word) {o : Op} {g : FaultInfo}
    (h : t.faulted = some o) (hg : o.fault = some g) :
    s.faultAtIssue core slot t f w =
      if t.outstanding = [] then s.faultAtSwitch core slot t o g
      else s.setStrand core slot { t with run := .parked .results, atSwitch := true } := by
  simp [State.faultAtIssue, h, hg]

/-- Settles O52: every clause is a lemma above on `faultRecord`, `haltNow`, `saveStrand`, `faultNow`, `pageFault`, `handlerTask`
or `faultAtIssue`. -/
theorem faultEntry : Obligations.FaultEntry := by
  unfold Obligations.FaultEntry
  refine ⟨by decide, ?record, ?halt, ?save, ?task, ?upcall, ?noUpcall, ?noHandler, ?handler, ?issue, ?issuePage, ?issueWaits, ?returned,
    ?noSlip, ?returnedWaits⟩
  case record =>
    intro slip f pc w cnt core slot gidx hcls hcode haccess hsize hcore hslot hgidx
    exact faultRecord_fields slip pc w cnt hcls hcode haccess hsize hcore hslot hgidx
  case halt => exact fun s core slot t f pc w ht => s.haltNow_leaves core slot f pc w ht
  case save =>
    intro s core slot t pc st cls code a hs ht _ _ _ hst hcls hcode _
    exact State.saveStrand_leaves core slot pc a hs ht hst hcls hcode
  case task => exact fun s core slot t f pc w hslot hup ht => s.faultNow_sound core slot f pc w hslot hup ht
  case upcall =>
    intro s core slot t f pc w v i e hslot hup ht hv he
    obtain ⟨uid, h⟩ := s.pageFault_strand core slot f pc w hslot hup ht hv he
    refine ⟨_, h, rfl, rfl, rfl, rfl, rfl, rfl, rfl, rfl, rfl, rfl, rfl, ?_⟩
    refine ⟨upcallStrand_g .., upcallStrand_g .., upcallStrand_g .., upcallStrand_g .., fun n hn => ?_⟩
    rw [upcallStrand_g, List.getD_eq_getElem?_getD, List.getElem?_eq_none (by simpa using hn), Option.getD_none]
  case noUpcall => exact fun s core slot t f pc w h => State.pageFault_no_upcall h core slot f pc w
  case noHandler => exact fun s vol prio home gidx core pa sregs cls rec_ v hv hh => State.handlerTask_unresolved hv hh ..
  case handler => exact fun s vol prio home gidx core pa sregs cls rec_ v hv hp => State.handlerTask_handler hv hp ..
  case issue =>
    intro s core slot t f w h hout hcls
    rw [s.faultAtIssue_fresh core slot f w h, if_pos hout, if_neg hcls]
  case issuePage =>
    intro s core slot t f w h hout hcls
    rw [s.faultAtIssue_fresh core slot f w h, if_pos hout, if_pos hcls]
  case issueWaits =>
    intro s core slot t f w h hout
    rw [s.faultAtIssue_fresh core slot f w h, if_neg hout]
  case returned =>
    intro s core slot t f w o g h hg hout
    rw [s.faultAtIssue_returned core slot f w h hg, if_pos hout]
  case noSlip => exact fun s core slot t f pc w h => s.faultNow_no_slip core h f pc w
  case returnedWaits =>
    intro s core slot t f w o g h hg hout
    rw [s.faultAtIssue_returned core slot f w h hg, if_neg hout]

end Sys2Proof.Machine
end

section
/-! Vector conversion and quantisation, and AMAX (R63 to R67): how a fall-through instruction completes, and the statement. -/

namespace Sys2Proof.Machine

open Sys2Proof

/-- An instruction that is issued under its form, with a body that falls through to `r c`, completes there. -/
theorem Completes.of_go {i : Instr} {p : Ctx → Prop} {body : Ctx → Out} {r : Ctx → Ctx} (issued : ∀ s, exec i s = issue (formOf i) s body)
    (falls : ∀ c, p c → body c = .go (r c)) : Completes i p fun c => (r c).done :=
  fun s c hc hp => (issued s).trans (issue_go hc (falls c hp))

@[simp] theorem flagIf_true (f : FlagWord) : flagIf true f = f := rfl

@[simp] theorem flagIf_false (f : FlagWord) : flagIf false f = 0 := rfl

/-- Settles O11: each instruction's body falls through to the context its clause names; that of `amxsw` does so by whether its source
is a NaN. -/
theorem vectorConversions : Obligations.VectorConversions := by
  unfold Obligations.VectorConversions
  refine ⟨?vcvt, ?vqnt, ?vdeq, ?amxrd, ?amxsw, ?amxswNan⟩
  case vcvt => exact fun h cv d a => .of_go (fun _ => rfl) fun _ _ => rfl
  case vqnt => exact fun h fine df d a b => .of_go (fun _ => rfl) fun _ _ => rfl
  case vdeq => exact fun h sf d a b => .of_go (fun _ => rfl) fun _ _ => rfl
  case amxrd => exact fun h d => .of_go (fun _ => rfl) fun _ _ => rfl
  case amxsw => exact fun h d a => .of_go (fun _ => rfl) fun c number => by simp only [number, flagIf_false, Bool.false_eq_true, if_false]
  case amxswNan => exact fun h d a => .of_go (fun _ => rfl) fun c nan => by simp only [nan, flagIf_true, if_true, BitVec.ofNat_eq_ofNat]

end Sys2Proof.Machine
end

section
/-! SUPPORT. Completion and faults of an instruction that is issued under its form, by the end of its body. -/

namespace Sys2Proof.Machine

open Sys2Proof

variable {i : Instr} {p : Ctx → Prop} {body : Ctx → Out} {r : Ctx → Ctx}

/-- A body that transfers control to `pc c` completes there (R94). -/
theorem Completes.of_jump {pc : Ctx → Nat} (issued : ∀ s, exec i s = issue (formOf i) s body)
    (jumps : ∀ c, p c → body c = .jump (r c) (pc c)) : Completes i p fun c => (r c).gone (pc c) :=
  fun s c hc hp => (issued s).trans (issue_jump hc (jumps c hp))

/-- A body that has rounds to wait completes with its strand at rest (R101). -/
theorem Completes.of_rest {n : Ctx → Nat} (issued : ∀ s, exec i s = issue (formOf i) s body)
    (rests : ∀ c, p c → body c = .rest (r c) (n c)) : Completes i p fun c => (r c).rested (n c) :=
  fun s c hc hp => (issued s).trans (issue_rest hc (rests c hp))

/-- A body that sets the state itself completes in that state. -/
theorem Completes.of_left {out : Ctx → State} (issued : ∀ s, exec i s = issue (formOf i) s body)
    (leaves : ∀ c, p c → body c = .left (out c)) : Completes i p out :=
  fun s c hc hp => (issued s).trans (issue_left hc (leaves c hp))

/-- A body that finds a fault takes it at issue (R400). -/
theorem FaultsAtIssue.of_fault {e : Ctx → FaultInfo} (issued : ∀ s, exec i s = issue (formOf i) s body)
    (faults : ∀ c, p c → body c = .fault (e c)) : FaultsAtIssue i p e := by
  intro s c hc hp
  obtain ⟨c0, hcore, hslot, hpc, hpop, h⟩ := issue_fault hc (faults c hp)
  exact ⟨c0, hcore, hslot, hpc, hpop, (issued s).trans h⟩

/-- A body that finds a fault after effects that stay (R94). -/
theorem FaultsAfter.of_faultAfter {e : Ctx → FaultInfo} (issued : ∀ s, exec i s = issue (formOf i) s body)
    (faults : ∀ c, p c → body c = .faultAfter (r c) (e c)) : FaultsAfter i p r e := by
  intro s c hc hp
  obtain ⟨c0, hcore, hslot, hpc, hpop, h⟩ := issue_faultAfter hc (faults c hp)
  exact ⟨c0, hcore, hslot, hpc, hpop, (issued s).trans h⟩

end Sys2Proof.Machine
end

section
/-! Control transfers (R94 to R98, R101, R150, R152, R232): targets, the leader's decision, compare-branches, and two statements. -/

namespace Sys2Proof.Machine

open Sys2Proof

/-! ## Targets (R94) -/

/-- A target of the running code: aligned, and within the code segment (R94, R232). -/
theorem Ctx.targetOk_iff (c : Ctx) (t : Nat) :
    c.targetOk t = true ↔ t % 8 = 0 ∧ c.codeBase ≤ t ∧ t < c.codeBase + descLimit (c.t.sreg 0) := by
  simp only [Ctx.targetOk, Bool.and_eq_true, beq_iff_eq, decide_eq_true_eq]
  omega

/-- A jump to a target of the running code transfers there. -/
theorem Ctx.jump_target {c : Ctx} {t : Nat} (h : c.targetOk t = true) : c.jump t = .jump c t := if_pos h

/-- A jump elsewhere is SEG_TARGET, with the effects so far (R94). -/
theorem Ctx.jump_noTarget {c : Ctx} {t : Nat} (h : c.targetOk t = false) : c.jump t = .faultAfter c (taskFault 0x07 t) :=
  if_neg (by simp [h])

/-- A branch goes its signed displacement in words from its pc, modulo 2^64 (R94). -/
theorem Ctx.branchTo_eq (c : Ctx) (disp : BitVec 24) : ((c.branchTo disp : Nat) : Int) = (c.t.pc + 8 * disp.toInt) % 2 ^ 64 := by
  have hsx : ((disp.signExtend 64).toNat : Int) = disp.toInt % 2 ^ 64 := by
    rw [BitVec.signExtend, BitVec.toNat_ofInt]
    omega
  have h8 : (8 : Word).toNat = 8 := rfl
  simp only [Ctx.branchTo, ofN, sx64, BitVec.toNat_add, BitVec.toNat_mul, BitVec.toNat_ofNat, h8]
  omega

/-! ## The leader's decision (R150, R152) -/

/-- A follower goes where its leader's decision sends it. -/
theorem Ctx.leaderPc_decided {c : Ctx} {x : Decision} (h : c.s.leadOf c.t = some x) : c.leaderPc = x.pc := by
  simp [Ctx.leaderPc, h]

/-- A follower whose leader has left the group goes on at the next word. -/
theorem Ctx.leaderPc_undecided {c : Ctx} (h : c.s.leadOf c.t = none) : c.leaderPc = nextPc c.t.pc := by
  simp [Ctx.leaderPc, h]

/-- The decision that a leader has left with a member. -/
theorem State.leadOf_left {s : State} {t : Strand} {x : Decision} (h : t.lead = some x) : s.leadOf t = some x := by
  simp [State.leadOf, h]

/-- The decision of a leader that has issued the word and is still in the group. -/
theorem State.leadOf_leader {s : State} {t l : Strand} (hlead : t.lead = none) (hl : s.leaderOf t = some l) (hn : t.colN < l.colN) :
    s.leadOf t = some l.decision := by
  simp [State.leadOf, hlead, hl, hn]

/-! ## Compare-branches (R95) -/

/-- Instruction `i` branches by `disp` where the values of its sources satisfy `P`; a follower takes its leader's decision. -/
def BranchesOn (i : Instr) (a b : GOp) (disp : BitVec 24) (P : Word → Word → Prop) : Prop :=
  ∃ cond : Word → Word → Bool, (∀ x y, cond x y = true ↔ P x y) ∧ ∀ s, exec i s = issue (formOf i) s fun c =>
    if follows (formOf i) c.t then .jump c c.leaderPc else if cond (c.g a) (c.g b) then c.jump (c.branchTo disp) else .go c

section
variable {i : Instr} {a b : GOp} {disp : BitVec 24} {P : Word → Word → Prop}

theorem BranchesOn.taken (h : BranchesOn i a b disp P) :
    Completes i (fun c => ¬ follows (formOf i) c.t ∧ P (c.g a) (c.g b) ∧ c.targetOk (c.branchTo disp)) fun c => c.gone (c.branchTo disp) := by
  obtain ⟨cond, hcond, issued⟩ := h
  refine .of_jump issued fun c ⟨alone, holds, target⟩ => ?_
  rw [if_neg alone, if_pos ((hcond _ _).2 holds), Ctx.jump_target target]

theorem BranchesOn.notTaken (h : BranchesOn i a b disp P) :
    Completes i (fun c => ¬ follows (formOf i) c.t ∧ ¬ P (c.g a) (c.g b)) fun c => c.done := by
  obtain ⟨cond, hcond, issued⟩ := h
  refine .of_go issued fun c ⟨alone, fails⟩ => ?_
  rw [if_neg alone, if_neg (mt (hcond _ _).1 fails)]

theorem BranchesOn.noTarget (h : BranchesOn i a b disp P) :
    FaultsAfter i (fun c => ¬ follows (formOf i) c.t ∧ P (c.g a) (c.g b) ∧ c.targetOk (c.branchTo disp) = false) (fun c => c)
      fun c => taskFault 0x07 (c.branchTo disp) := by
  obtain ⟨cond, hcond, issued⟩ := h
  refine .of_faultAfter issued fun c ⟨alone, holds, target⟩ => ?_
  rw [if_neg alone, if_pos ((hcond _ _).2 holds), Ctx.jump_noTarget target]

theorem BranchesOn.follower (h : BranchesOn i a b disp P) :
    Completes i (fun c => follows (formOf i) c.t = true) fun c => c.gone c.leaderPc := by
  obtain ⟨cond, hcond, issued⟩ := h
  exact .of_jump issued fun c follower => if_pos follower

/-- A branch without a condition is taken (R95). -/
theorem BranchesOn.always (h : BranchesOn i a b disp fun _ _ => True) :
    Completes i (fun c => ¬ follows (formOf i) c.t ∧ c.targetOk (c.branchTo disp)) fun c => c.gone (c.branchTo disp) :=
  fun s c hc ⟨alone, target⟩ => h.taken s c hc ⟨alone, trivial, target⟩

end

theorem br_branchesOn (h : Hdr) (disp : BitVec 24) : BranchesOn (.br h disp) .z .z disp fun _ _ => True :=
  ⟨fun _ _ => true, fun _ _ => by simp, fun _ => rfl⟩

theorem beq_branchesOn (h : Hdr) (a b : GOp) (disp : BitVec 24) : BranchesOn (.beq h a b disp) a b disp (· = ·) :=
  ⟨fun x y => x == y, fun _ _ => beq_iff_eq, fun _ => rfl⟩

theorem bne_branchesOn (h : Hdr) (a b : GOp) (disp : BitVec 24) : BranchesOn (.bne h a b disp) a b disp (· ≠ ·) :=
  ⟨fun x y => x != y, fun _ _ => bne_iff_ne, fun _ => rfl⟩

theorem blt_branchesOn (h : Hdr) (a b : GOp) (disp : BitVec 24) :
    BranchesOn (.blt h a b disp) a b disp fun x y => x.toInt < y.toInt :=
  ⟨fun x y => x.slt y, fun _ _ => BitVec.slt_iff_toInt_lt, fun _ => rfl⟩

theorem bge_branchesOn (h : Hdr) (a b : GOp) (disp : BitVec 24) :
    BranchesOn (.bge h a b disp) a b disp fun x y => y.toInt ≤ x.toInt :=
  ⟨fun x y => !x.slt y, fun _ _ => by simp [BitVec.slt_eq_decide], fun _ => rfl⟩

theorem bltu_branchesOn (h : Hdr) (a b : GOp) (disp : BitVec 24) :
    BranchesOn (.bltu h a b disp) a b disp fun x y => x.toNat < y.toNat :=
  ⟨fun x y => x.ult y, fun _ _ => BitVec.ult_iff_toNat_lt, fun _ => rfl⟩

theorem bgeu_branchesOn (h : Hdr) (a b : GOp) (disp : BitVec 24) :
    BranchesOn (.bgeu h a b disp) a b disp fun x y => y.toNat ≤ x.toNat :=
  ⟨fun x y => !x.ult y, fun _ _ => by simp [BitVec.ult_eq_decide], fun _ => rfl⟩

/-- Settles O12: each branch is a compare-branch on its condition (`br` on none), and each clause is a case of `BranchesOn` or a lemma
on targets or on the leader's decision. -/
theorem branchOutcomes : Obligations.BranchOutcomes := by
  unfold Obligations.BranchOutcomes
  refine ⟨?br, ?beq, ?beqNot, ?bne, ?bneNot, ?blt, ?bltNot, ?bge, ?bgeNot, ?bltu, ?bltuNot, ?bgeu, ?bgeuNot, ?branchTo, ?targetOk,
    ?brSeg, ?beqSeg, ?bneSeg, ?bltSeg, ?bgeSeg, ?bltuSeg, ?bgeuSeg, ?brLed, ?beqLed, ?bneLed, ?bltLed, ?bgeLed, ?bltuLed, ?bgeuLed,
    ?decided, ?undecided⟩
  case br => exact fun h disp => (br_branchesOn h disp).always
  case beq => exact fun h a b disp => (beq_branchesOn h a b disp).taken
  case beqNot => exact fun h a b disp => (beq_branchesOn h a b disp).notTaken
  case bne => exact fun h a b disp => (bne_branchesOn h a b disp).taken
  case bneNot => exact fun h a b disp => (bne_branchesOn h a b disp).notTaken
  case blt => exact fun h a b disp => (blt_branchesOn h a b disp).taken
  case bltNot => exact fun h a b disp => (blt_branchesOn h a b disp).notTaken
  case bge => exact fun h a b disp => (bge_branchesOn h a b disp).taken
  case bgeNot => exact fun h a b disp => (bge_branchesOn h a b disp).notTaken
  case bltu => exact fun h a b disp => (bltu_branchesOn h a b disp).taken
  case bltuNot => exact fun h a b disp => (bltu_branchesOn h a b disp).notTaken
  case bgeu => exact fun h a b disp => (bgeu_branchesOn h a b disp).taken
  case bgeuNot => exact fun h a b disp => (bgeu_branchesOn h a b disp).notTaken
  case branchTo => exact Ctx.branchTo_eq
  case targetOk => exact Ctx.targetOk_iff
  case brSeg => exact fun h disp => (br_branchesOn h disp).noTarget
  case beqSeg => exact fun h a b disp => (beq_branchesOn h a b disp).noTarget
  case bneSeg => exact fun h a b disp => (bne_branchesOn h a b disp).noTarget
  case bltSeg => exact fun h a b disp => (blt_branchesOn h a b disp).noTarget
  case bgeSeg => exact fun h a b disp => (bge_branchesOn h a b disp).noTarget
  case bltuSeg => exact fun h a b disp => (bltu_branchesOn h a b disp).noTarget
  case bgeuSeg => exact fun h a b disp => (bgeu_branchesOn h a b disp).noTarget
  case brLed => exact fun h disp => (br_branchesOn h disp).follower
  case beqLed => exact fun h a b disp => (beq_branchesOn h a b disp).follower
  case bneLed => exact fun h a b disp => (bne_branchesOn h a b disp).follower
  case bltLed => exact fun h a b disp => (blt_branchesOn h a b disp).follower
  case bgeLed => exact fun h a b disp => (bge_branchesOn h a b disp).follower
  case bltuLed => exact fun h a b disp => (bltu_branchesOn h a b disp).follower
  case bgeuLed => exact fun h a b disp => (bgeu_branchesOn h a b disp).follower
  case decided => exact fun c x h => Ctx.leaderPc_decided h
  case undecided => exact fun c h => Ctx.leaderPc_undecided h

/-! ## Links, loops and waits (R96, R97, R101) -/

/-- A count other than 1 does not run out as it is decremented, modulo 2^64 (R97). -/
theorem word_sub_one_ne_zero {x : Word} (h : x ≠ 1) : x - 1 ≠ 0 := by bv_omega

/-- The count of a `wait`: its own, or the leader's where a follower issues it; 0 where the leader has left (R101, R150, R152). -/
def waitCount (h : Hdr) (a : GOp) (imm : BitVec 24) (c : Ctx) : Word :=
  if follows (formOf (.wait h a imm)) c.t then ((c.s.leadOf c.t).map Decision.w).getD 0 else c.g a + sx64 imm

/-- How a `wait` ends that counts `w`, which the strand keeps for its followers: at rest for `w` rounds, or gone on. -/
def Ctx.waits (c : Ctx) (w : Word) : Out :=
  if w.toInt ≤ 0 then .go { c with t := { c.t with colV := w } } else .rest { c with t := { c.t with colV := w } } w.toNat

theorem exec_wait (h : Hdr) (a : GOp) (imm : BitVec 24) (s : State) :
    exec (.wait h a imm) s = issue (formOf (.wait h a imm)) s fun c => c.waits (waitCount h a imm c) := rfl

/-- A `wait` without rounds to wait goes on. -/
theorem wait_passes {h : Hdr} {a : GOp} {imm : BitVec 24} {p : Ctx → Prop} {w : Ctx → Word}
    (counts : ∀ c, p c → waitCount h a imm c = w c) (spent : ∀ c, p c → (w c).toInt ≤ 0) :
    Completes (.wait h a imm) p fun c => ({ c with t := { c.t with colV := w c } } : Ctx).done := by
  refine .of_go (exec_wait h a imm) fun c hc => ?_
  rw [counts c hc]
  exact if_pos (spent c hc)

/-- A `wait` with rounds to wait rests for them. -/
theorem wait_rests {h : Hdr} {a : GOp} {imm : BitVec 24} {p : Ctx → Prop} {w : Ctx → Word}
    (counts : ∀ c, p c → waitCount h a imm c = w c) (due : ∀ c, p c → 0 < (w c).toInt) :
    Completes (.wait h a imm) p fun c => ({ c with t := { c.t with colV := w c } } : Ctx).rested (w c).toNat := by
  refine .of_rest (exec_wait h a imm) fun c hc => ?_
  rw [counts c hc]
  exact if_neg (Int.not_le.2 (due c hc))

/-- Settles O13: a link or count is written first, then the jump goes to its target, to the leader's pc, or takes SEG_TARGET; `wait`
ends by its count. -/
theorem linksAndLoops : Obligations.LinksAndLoops := by
  unfold Obligations.LinksAndLoops
  refine ⟨?nop, ?call, ?jr, ?jrHigh, ?loop, ?loopEnd, ?wait, ?waitRounds, ?callSeg, ?jrSeg, ?loopSeg, ?callLed, ?jrLed, ?loopLed,
    ?waitLed, ?waitLedRounds, ?waitLeft, ?leader, ?left⟩
  case nop => exact fun h => .of_go (fun _ => rfl) fun _ _ => rfl
  case call =>
    refine fun h a disp => .of_jump (fun _ => rfl) fun c ⟨alone, target⟩ => ?_
    exact (if_neg alone).trans (Ctx.jump_target target)
  case jr =>
    refine fun h d a => .of_jump (fun _ => rfl) fun c ⟨alone, low, target⟩ => ?_
    exact (if_neg alone).trans ((if_neg (by omega)).trans (Ctx.jump_target target))
  case jrHigh =>
    refine fun h d a => .of_fault (fun _ => rfl) fun c ⟨alone, high⟩ => ?_
    exact (if_neg alone).trans (if_pos high)
  case loop =>
    refine fun h a disp => .of_jump (fun _ => rfl) fun c ⟨alone, more, target⟩ => ?_
    exact (if_neg alone).trans ((if_pos (bne_iff_ne.2 (word_sub_one_ne_zero more))).trans (Ctx.jump_target target))
  case loopEnd =>
    refine fun h a disp => .of_go (fun _ => rfl) fun c ⟨alone, last⟩ => ?_
    have spent : c.g a - 1 = 0 := by bv_omega
    exact (if_neg alone).trans ((if_neg (by simp only [spent, bne_self_eq_false, Bool.false_eq_true, not_false_eq_true])).trans (by rw [spent]))
  case callSeg =>
    refine fun h a disp => .of_faultAfter (fun _ => rfl) fun c ⟨alone, target⟩ => ?_
    exact (if_neg alone).trans (Ctx.jump_noTarget target)
  case jrSeg =>
    refine fun h d a => .of_faultAfter (fun _ => rfl) fun c ⟨alone, low, target⟩ => ?_
    exact (if_neg alone).trans ((if_neg (by omega)).trans (Ctx.jump_noTarget target))
  case loopSeg =>
    refine fun h a disp => .of_faultAfter (fun _ => rfl) fun c ⟨alone, more, target⟩ => ?_
    exact (if_neg alone).trans ((if_pos (bne_iff_ne.2 (word_sub_one_ne_zero more))).trans (Ctx.jump_noTarget target))
  case callLed => exact fun h a disp => .of_jump (fun _ => rfl) fun c led => if_pos led
  case jrLed => exact fun h d a => .of_jump (fun _ => rfl) fun c led => if_pos led
  case loopLed => exact fun h a disp => .of_jump (fun _ => rfl) fun c led => if_pos led
  case wait => exact fun h a imm => wait_passes (fun c hc => if_neg hc.left) fun c hc => hc.right
  case waitRounds => exact fun h a imm => wait_rests (fun c hc => if_neg hc.left) fun c hc => hc.right
  case waitLed =>
    exact fun h a imm x => wait_passes (fun c ⟨led, decided, _⟩ => by simp [waitCount, led, decided]) fun c ⟨_, _, spent⟩ => spent
  case waitLedRounds =>
    exact fun h a imm x => wait_rests (fun c ⟨led, decided, _⟩ => by simp [waitCount, led, decided]) fun c ⟨_, _, due⟩ => due
  case waitLeft =>
    exact fun h a imm => wait_passes (fun c ⟨led, left⟩ => by simp [waitCount, led, left]) fun _ _ => by decide
  case leader => exact fun s t l hlead hl hn => State.leadOf_leader hlead hl hn
  case left => exact fun s t x h => State.leadOf_left h

end Sys2Proof.Machine
end

section
/-! Ends of a strand, yield and collation (R87, R99, R100, R147 to R152, R242): how each word ends, and the statement. -/

namespace Sys2Proof.Machine

open Sys2Proof

/-! ## stop and yield (R99, R100) -/

/-- A strand keeps its slot at `yield` in slot 63, in a pair, in an upcall and in a group that is ending (R87, R100, R242). -/
theorem yield_stays (h : Hdr) :
    Completes (.yield h) (fun c => c.slot = 63 ∨ c.s.inPair c.core c.slot = true ∨ c.t.faulter.isSome = true ∨ c.t.colEnd.isSome = true)
      fun c => c.done :=
  .of_go (fun _ => rfl) fun c stays => if_pos (by simpa [or_assoc] using stays)

/-- A sound strand gives its slot up at `yield` elsewhere (R100). -/
theorem yield_leaves (h : Hdr) :
    Completes (.yield h) (fun c => c.slot ≠ 63 ∧ c.s.inPair c.core c.slot = false ∧ c.t.faulter = none ∧ c.t.colEnd = none ∧ c.t.sound)
      fun c => c.yielded := by
  refine .of_left (fun _ => rfl) fun c ⟨hslot, hpair, hup, hend, hsound⟩ => ?_
  have sound : c.t.issued.alone.sound := hsound
  refine (if_neg (by simp [hslot, hpair, hup, hend])).trans ?_
  simp only [State.saveStrand_lost_sound _ _ _ _ _ _ _ _ sound]
  rfl

theorem exec_stop (h : Hdr) (s : State) : exec (.stop h) s = issue (formOf (.stop h)) s fun c =>
    if follows (formOf (.stop h)) c.t && (c.s.leadOf c.t).isNone then .go c
    else .left ((c.s.groupOf c.core c.slot c.t).foldl (fun s e => s.endStrand e.1.1 e.1.2 e.2) c.s) := rfl

/-! ## collate (R147, R148) -/

/-- A strand that may not collate with `n` roles: a free one, slot 63, a group's member, or one beyond its gathering's width or cores
(R147, R148; assumption 26). -/
def Ctx.collateBarred (c : Ctx) (n : Nat) : Bool :=
  c.t.free || c.slot == 63 || c.t.group != 0 ||
    decide ((((c.s.gathering c.t.vol c.t.gidx).map fun g => if shapeCol g.shape == 0 then 0 else 2 ^ shapeCol g.shape).getD 0) < n) ||
    decide (c.s.coreCount c.t < n * (c.t.role / n) + n)

/-- The strand as it waits in the `collate` that it has issued. -/
def Ctx.collating (c : Ctx) : Strand := { c.t.issued with ir := c.word }

theorem exec_collate (h : Hdr) (n : BitVec 24) (s : State) : exec (.collate h n) s = issue (formOf (.collate h n)) s fun c =>
    if c.collateBarred n.toNat then .fault (taskFault 0x12)
    else if !(c.s.clashes c.t n.toNat).isEmpty then
      .left (c.s.collateFaults (c.s.clashes c.t n.toNat ++ [((c.core, c.slot), { c.t with ir := c.word })]))
    else .left ((c.s.collateTry c.core c.slot c.collating n.toNat).getD
      (c.s.setStrand c.core c.slot { c.collating with run := .parked (.collate n.toNat) })) := rfl

theorem Ctx.mayCollate.not_barred {c : Ctx} {n : Nat} (h : c.mayCollate n) : ¬ c.collateBarred n := by
  obtain ⟨hfree, hslot, hgroup, hcores, g, hg, hcol, hwidth⟩ := h
  simp [Ctx.collateBarred, hfree, hslot, hgroup, hg, hcol, hcores, hwidth]

/-- With no partner in another width, the group forms as soon as all of them wait in `collate` (R147). -/
theorem State.collateTry_eq {s : State} {t : Strand} {n : Nat} (hclash : s.clashes t n = []) (core slot : Nat) :
    s.collateTry core slot t n = if (s.partners t n).length + 1 = n ∧ ∀ e ∈ s.partners t n, e.2.inCollate n = true then
      some (s.fresh.2.formGroup (s.partners t n ++ [((core, slot), t)]) t.uid n (s.fresh.1 + 1)) else none := by
  simp only [State.collateTry, hclash, List.isEmpty_nil, Bool.not_true, Bool.false_eq_true, if_false, Bool.and_eq_true, beq_iff_eq, List.all_eq_true]

/-- Settles O14: `stop`, `yield` and `disband` by how their bodies end, `collate` by what its partners do. -/
theorem endsAndYields : Obligations.EndsAndYields := by
  unfold Obligations.EndsAndYields
  refine ⟨?stop, ?yieldStays, ?yieldLeaves, ?collateWaits, ?collateForms, ?collateBarred, ?disband, ?stopLeft, ?collateClashes⟩
  case stop =>
    refine fun h => .of_left (exec_stop h) fun c decided => if_neg fun held => ?_
    obtain ⟨led, left⟩ := Bool.and_eq_true_iff.1 held
    obtain alone | made := decided
    · exact alone led
    · exact made (Option.isNone_iff_eq_none.1 left)
  case yieldStays => exact yield_stays
  case yieldLeaves => exact yield_leaves
  case collateWaits =>
    refine fun h n => .of_left (exec_collate h n) fun c ⟨may, hclash, hwait⟩ => ?_
    have waits : c.s.collateTry c.core c.slot c.collating n.toNat = none := by
      refine (State.collateTry_eq (t := c.collating) hclash c.core c.slot).trans (if_neg ?_)
      rintro ⟨count, all⟩
      obtain short | ⟨e, he, out⟩ := hwait
      · exact short count
      · exact Bool.false_ne_true (out.symm.trans (all e he))
    rw [if_neg may.not_barred, if_neg (by simp [hclash]), waits]
    rfl
  case collateForms =>
    refine fun h n => .of_left (exec_collate h n) fun c ⟨may, hclash, count, all⟩ => ?_
    have forms := (State.collateTry_eq (t := c.collating) hclash c.core c.slot).trans (if_pos ⟨count, all⟩)
    rw [if_neg may.not_barred, if_neg (by simp [hclash]), forms]
    rfl
  case collateBarred =>
    refine fun h n => .of_fault (exec_collate h n) fun c barred => if_pos ?_
    rcases barred with hfree | hslot | hgroup
    · simp [Ctx.collateBarred, hfree]
    · simp [Ctx.collateBarred, hslot]
    · simp [Ctx.collateBarred, hgroup]
  case disband => exact fun h => .of_go (fun _ => rfl) fun _ _ => rfl
  case stopLeft => exact fun h => .of_go (exec_stop h) fun c ⟨led, left⟩ => if_pos (by simp [led, left])
  case collateClashes =>
    refine fun h n => .of_left (exec_collate h n) fun c ⟨may, hclash⟩ => ?_
    rw [if_neg may.not_barred, if_pos (by simpa using hclash)]

end Sys2Proof.Machine
end

section
/-! Results that return and strands that wake (R72, R92, R101, R148, R166, R172, R188, R248, R273, R281, R364, R400): what each park
waits for, what a wake does, and the statement. -/

namespace Sys2Proof.Machine

open Sys2Proof

/-! ## Results (R72) -/

/-- A strand that neither halts nor faults has nothing to do once its operations are back. -/
theorem State.afterReturn_running {s : State} {core slot : Nat} {t : Strand} (ht : s.strand core slot = some t)
    (hhalt : ∀ f w, t.run ≠ .halting f w) (hfault : ∀ f w, t.run ≠ .faulting f w) : s.afterReturn core slot = s := by
  simp only [State.afterReturn, ht, ite_self]

/-- The result of a strand that neither halts nor faults is held at its core. -/
theorem State.holdResult_running {s : State} {core slot : Nat} {t : Strand} (ht : s.strand core slot = some t)
    (hhalt : ∀ f w, t.run ≠ .halting f w) (hfault : ∀ f w, t.run ≠ .faulting f w) (op : Nat) (f : Op → Op) :
    s.holdResult core slot op f =
      s.setStrand core slot { t with ops := mapIf (·.id == op) (fun o => { f o with stage := .held }) t.ops } := by
  simp only [State.holdResult, ht]
  exact State.afterReturn_running (State.strand_setStrand s core slot _) hhalt hfault

theorem exec_resultReturn (core slot op : Nat) (s : State) : exec (.resultReturn core slot op) s = execResultReturn core slot op s := rfl

/-- An operation that is done, none of the core's own tile operations, has its result held. -/
theorem exec_resultReturn_done {s : State} {core slot op : Nat} {t : Strand} {o : Op}
    (htile : (s.core core).tileOps.find? (fun x => x.id == op && !x.failed) = none) (ht : s.strand core slot = some t)
    (ho : t.ops.find? (·.id == op) = some o) (hdone : o.stage = .done) :
    exec (.resultReturn core slot op) s = .next (s.holdResult core slot op id) := by
  simp only [exec_resultReturn, execResultReturn, htile, ht, Option.bind_some, ho, hdone]

/-! ## What a parked strand waits for (R92) -/

section
variable {s : State} {t : Strand} (core slot : Nat)

theorem State.wakeable_results (h : t.run = .parked .results) : s.wakeable core slot t = true ↔ t.outstanding = [] := by
  simp [State.wakeable, h]

theorem State.wakeable_remote (h : t.run = .parked .remote) :
    s.wakeable core slot t = true ↔ ∀ r ∈ s.net.far, r.uid = t.uid → r.write = false := by
  simp [State.wakeable, State.farStores, h]

theorem State.wakeable_credit {q : QId} (h : t.run = .parked (.credit q)) : s.wakeable core slot t = true ↔ 0 < s.credits q := by
  simp [State.wakeable, h]

theorem State.wakeable_queue {q : QId} (h : t.run = .parked (.queue q)) :
    s.wakeable core slot t = true ↔ (∃ w ∈ (s.core core).words, w.q = q) ∨ s.coreFenced (s.feederCore q) = true := by
  simp [State.wakeable, State.fencedWait, h]

/-- A word that `qin` takes comes from a queue of the strand's own that a role feeds (R163). -/
theorem State.portTakes_qin (s : State) (t : Strand) (slot : Nat) (w : PortWord) : s.portTakes t slot .qin w = true ↔
    w.q.vol = t.vol ∧ w.q.gidx = t.gidx ∧ w.q.role = t.role ∧ w.q.lane = t.lane ∧ ∃ k, w.q.src = .role k := by
  simp only [State.portTakes, Bool.and_eq_true, beq_iff_eq, and_assoc]
  cases w.q.src <;> simp

theorem State.fencedWait_anyQueue (s : State) (vol gidx : Nat) : s.fencedWait vol gidx .anyQueue = true ↔
    ∃ g, s.gathering vol gidx = some g ∧ ∀ k ∈ g.cores, s.coreFenced k = true := by
  cases h : s.gathering vol gidx <;> simp [State.fencedWait, h]

theorem State.wakeable_anyQueue (h : t.run = .parked .anyQueue) : s.wakeable core slot t = true ↔
    (∃ w ∈ (s.core core).words, w.q.vol = t.vol ∧ w.q.gidx = t.gidx ∧ w.q.role = t.role ∧ w.q.lane = t.lane ∧ ∃ k, w.q.src = .role k) ∨
      ∃ g, s.gathering t.vol t.gidx = some g ∧ ∀ k ∈ g.cores, s.coreFenced k = true := by
  simp only [State.wakeable, h, Bool.or_eq_true, List.any_eq_true, State.portTakes_qin, State.fencedWait_anyQueue]

theorem inboxTakes_iff (t : Strand) (slot : Nat) (m : InMsg) :
    inboxTakes t slot m = true ↔ if slot = 63 then m.vol = 0 ∧ m.lane = 63 else m.vol = t.vol ∧ m.lane = t.lane := by
  unfold inboxTakes
  by_cases h : slot = 63 <;> simp [h]

theorem State.wakeable_inbox (h : t.run = .parked .inbox) : s.wakeable core slot t = true ↔
    ∃ m ∈ (s.core core).inbox, if slot = 63 then m.vol = 0 ∧ m.lane = 63 else m.vol = t.vol ∧ m.lane = t.lane := by
  simp only [State.wakeable, h, List.any_eq_true, inboxTakes_iff]

theorem State.wakeable_bara {b : Nat} (h : t.run = .parked (.bara b)) :
    s.wakeable core slot t = true ↔ (s.barrierOf t b).1 ≤ (s.barrierOf t b).2 := by
  simp [State.wakeable, h]

theorem State.wakeable_barw {b : Nat} (h : t.run = .parked (.barw b)) :
    s.wakeable core slot t = true ↔ (s.barrierOf t b).1 ≤ (s.barrierOf t b).2 := by
  simp [State.wakeable, h]

theorem State.wakeable_collate {n : Nat} (h : t.run = .parked (.collate n)) : s.wakeable core slot t = true ↔
    s.clashes t n ≠ [] ∨ ((s.partners t n).length + 1 = n ∧ ∀ e ∈ s.partners t n, e.2.inCollate n = true) := by
  simp only [State.wakeable, h, Bool.or_eq_true, Bool.and_eq_true, beq_iff_eq, List.all_eq_true, Bool.not_eq_true', List.isEmpty_eq_false_iff, ne_eq]

theorem State.wakeable_op {id : Nat} (h : t.run = .parked (.op id)) : s.wakeable core slot t = true ↔
    (∀ o ∈ t.ops, o.id = id → o.stage = .held) ∧ (t.faulted ≠ none ∨ ∀ q, s.pushShort t = some q → 0 < s.credits q) := by
  simp only [State.wakeable, h, Bool.and_eq_true, Bool.or_eq_true]
  refine and_congr ?_ (or_congr ?_ ?_)
  · simp
  · simp [Option.isSome_iff_ne_none]
  · simp [Option.all_eq_true]

theorem State.wakeable_tiles {m : Nat} (h : t.run = .parked (.tiles m)) : s.wakeable core slot t = true ↔
    (∀ k ∈ (s.cluster (clusterOf core)).tasks, ¬ (k.on core = true ∧ bitN m k.tile = true)) ∧ s.tcfgOut core m = false ∧
      (m = 0 ∨ ∀ r ∈ (s.cluster (clusterOf core)).reqs, ¬ (r.kind = .tenq ∧ r.iss.uid = t.uid)) := by
  simp [State.wakeable, h, State.tilePending, and_assoc]

theorem State.wakeable_stream {m : Nat} (h : t.run = .parked (.stream m)) : s.wakeable core slot t = true ↔
    (∀ k ∈ (s.cluster (clusterOf core)).tasks, ¬ (k.on core = true ∧ k.kind = 1 ∧ recStrm k.dw = m)) ∧
      ∀ r ∈ (s.cluster (clusterOf core)).reqs, ¬ (r.kind = .tenq ∧ r.iss.uid = t.uid) := by
  simp [State.wakeable, h, State.streamPending]

theorem State.wakeable_tlbsync (h : t.run = .parked .tlbsync) : s.wakeable core slot t = true ↔
    ∀ i ∈ t.tlbis, ∀ x, s.tlbis.find? (·.id == i) = some x → x.done = true ∧ ∀ e ∈ x.old, e ∉ s.translated := by
  simp only [State.wakeable, h, State.tlbsyncDone, List.all_eq_true]
  refine forall₂_congr fun i _ => ?_
  cases s.tlbis.find? (·.id == i) with
  | none => simp
  | some x => simp [State.tlbiOver]

theorem State.wakeable_retired (h : t.run = .parked .retired) : s.wakeable core slot t = false := by
  simp [State.wakeable, h]

end

/-! ## Wakes (R92, R101, R188) -/

theorem exec_strandWake (core slot : Nat) (s : State) : exec (.strandWake core slot) s = execStrandWake core slot s := rfl

theorem exec_waitExpiry (core slot : Nat) (s : State) : exec (.waitExpiry core slot) s = execWaitExpiry core slot s := rfl

/-- A strand whose event has not come stays as it is. -/
theorem exec_strandWake_not {s : State} {core slot : Nat} {t : Strand} (ht : s.strand core slot = some t)
    (hwake : s.wakeable core slot t = false) : exec (.strandWake core slot) s = .next s := by
  simp [exec_strandWake, execStrandWake, ht, hwake]

/-- A parked strand whose event has come is READY, unless it waits for an operation, a service call or a group. -/
theorem exec_strandWake_ready {s : State} {core slot : Nat} {t : Strand} {p : Park} (ht : s.strand core slot = some t)
    (hrun : t.run = .parked p) (hwake : s.wakeable core slot t = true) (hop : ∀ id, p ≠ .op id) (hsvc : ∀ id, p ≠ .svc id)
    (hcol : ∀ n, p ≠ .collate n) : exec (.strandWake core slot) s = .next (s.setStrand core slot { t with run := .ready }) := by
  rw [exec_strandWake]
  simp only [execStrandWake, ht, hrun, hwake, Bool.not_true, Bool.false_eq_true, if_false]
  cases p with
  | op id => exact absurd rfl (hop id)
  | svc id => exact absurd rfl (hsvc id)
  | collate n => exact absurd rfl (hcol n)
  | _ => rfl

/-- A strand parked on its blocking operation completes it (R188). -/
theorem exec_strandWake_op {s : State} {core slot : Nat} {t : Strand} {id : Nat} (ht : s.strand core slot = some t)
    (hrun : t.run = .parked (.op id)) (hwake : s.wakeable core slot t = true) :
    exec (.strandWake core slot) s = .next (s.completeBlocking core slot t id) := by
  simp [exec_strandWake, execStrandWake, ht, hrun, hwake]

/-- A blocking operation without a fault lands; the strand goes on once every push has a credit (R165; assumption 11). -/
theorem State.completeBlocking_lands {s : State} {t : Strand} {id : Nat} {o : Op} (ho : t.ops.find? (·.id == id) = some o)
    (hok : o.fault = none) (core slot : Nat) : s.completeBlocking core slot t id =
      if (s.pushShort t).isSome then (s.land core slot t).1.setStrand core slot (s.land core slot t).2 else s.passBlocking core slot t := by
  simp only [State.completeBlocking, ho, hok, Option.bind_some, Option.map_none]

/-- One round of a `wait` passes (R101). -/
theorem exec_waitExpiry_succ {s : State} {core slot n : Nat} {t : Strand} (ht : s.strand core slot = some t)
    (hrun : t.run = .waiting (n + 1)) : exec (.waitExpiry core slot) s = .next (s.setStrand core slot { t with run := .waiting n }) := by
  simp only [exec_waitExpiry, execWaitExpiry, ht, hrun]

/-- The last round of a `wait` has passed: the strand is READY, or waits for the accesses that are performed again (R101, R400). -/
theorem exec_waitExpiry_zero {s : State} {core slot : Nat} {t : Strand} (ht : s.strand core slot = some t) (hrun : t.run = .waiting 0) :
    exec (.waitExpiry core slot) s = .next (s.setStrand core slot
      (if t.prog = 3 then { t with run := .parked .results, prog := 0 } else { t with run := .ready })) := by
  simp only [exec_waitExpiry, execWaitExpiry, ht, hrun, beq_iff_eq]

/-- Settles O31: a returned result is held, each park's event is the one that `wakeable` names for it, and a wake or a round's end
changes the strand as its lemma says. -/
theorem resultsAndWakes : Obligations.ResultsAndWakes := by
  unfold Obligations.ResultsAndWakes
  refine ⟨?held, ?ready, ?notYet, ?blocking, ?credit, ?results, ?barw, ?waited, ?round, ?queue, ?anyQueue, ?inbox, ?bara, ?tiles, ?stream,
    ?tlbsync, ?op, ?remote, ?collate, ?retired, ?waitedAgain, ?blockingShort⟩
  case held =>
    intro s core slot t op o htile ht ho hdone hhalt hfault
    rw [exec_resultReturn_done htile ht ho hdone, State.holdResult_running ht hhalt hfault]
    rfl
  case ready => exact fun s core slot t p ht hrun hwake hop hsvc hcol => exec_strandWake_ready ht hrun hwake hop hsvc hcol
  case notYet => exact fun s core slot t ht hwake => exec_strandWake_not ht hwake
  case blocking =>
    intro s core slot t id o ht hrun hwake ho hok hpush
    rw [exec_strandWake_op ht hrun hwake, State.completeBlocking_lands ho hok]
    simp [State.passBlocking, hpush]
  case credit => exact fun s core slot t q h => State.wakeable_credit core slot h
  case results => exact fun s core slot t h => State.wakeable_results core slot h
  case barw => exact fun s core slot t b h => State.wakeable_barw core slot h
  case waited =>
    intro s core slot t ht hrun hprog
    rw [exec_waitExpiry_zero ht hrun, if_neg hprog]
  case round => exact fun s core slot t n ht hrun => exec_waitExpiry_succ ht hrun
  case queue => exact fun s core slot t q h => State.wakeable_queue core slot h
  case anyQueue => exact fun s core slot t h => State.wakeable_anyQueue core slot h
  case inbox => exact fun s core slot t h => State.wakeable_inbox core slot h
  case bara => exact fun s core slot t b h => State.wakeable_bara core slot h
  case tiles => exact fun s core slot t m h => State.wakeable_tiles core slot h
  case stream => exact fun s core slot t m h => State.wakeable_stream core slot h
  case tlbsync => exact fun s core slot t h => State.wakeable_tlbsync core slot h
  case op => exact fun s core slot t id h => State.wakeable_op core slot h
  case remote => exact fun s core slot t h => State.wakeable_remote core slot h
  case collate => exact fun s core slot t n h => State.wakeable_collate core slot h
  case retired => exact fun s core slot t h => State.wakeable_retired core slot h
  case waitedAgain =>
    intro s core slot t ht hrun hprog
    rw [exec_waitExpiry_zero ht hrun, if_pos hprog]
  case blockingShort =>
    intro s core slot t id o q ht hrun hwake ho hok hpush
    rw [exec_strandWake_op ht hrun hwake, State.completeBlocking_lands ho hok, if_pos (by simp [hpush])]

end Sys2Proof.Machine
end

section
/-! Idle slots and instruction fetch (R70, R79, R84, R85, R231): a search that finds its slip first, a fetch by what it meets, and
the statement. -/

namespace Sys2Proof.Machine

open Sys2Proof

/-! ## Idle slots (R84, R85) -/

theorem exec_idleSlotSearch (core slot : Nat) (s : State) : exec (.idleSlotSearch core slot) s = execIdleSlotSearch core slot s := rfl

/-- The list of the highest priority on the slot's own core is searched first (R84). -/
theorem searchOrder_head (core : Nat) : ∃ rest, searchOrder core = (clusterOf core * 8 + core % 8, 7) :: rest := ⟨_, rfl⟩

/-- A free strand's slip of the gathering's volume may be taken by any of its slots (R85). -/
theorem State.mayTake_free {s : State} {pa : Nat} (hfree : (s.slipDw pa 0).getLsbD 51 = true) (core slot : Nat) (g : Gathering) (m : Member)
    (k : Nat) : s.mayTake core slot g m k g.vol pa = true := by
  simp [State.mayTake, hfree]

/-- The slip at the head of the first list, if the slot may take it, it is well-formed and its granules are free, leaves its list for
the slot (R79, R84). -/
theorem State.search_head {s : State} {core slot : Nat} {g : Gathering} {m : Member} {k p vol pa : Nat} {gr : List Nat}
    (hhead : ((s.core k).runs.getD p []).head? = some (vol, pa)) (hmay : s.mayTake core slot g m k vol pa = true)
    (hok : s.slipOk pa = true) (hgran : s.takeGran core (fld (s.slipDw pa 0) 58 55 + 1) = some gr) (fuel : Nat) (rest : List (Nat × Nat)) :
    s.search core slot g m (fuel + 1) ((k, p) :: rest) = (s.removeRun k pa).loadSlip core slot vol pa gr := by
  simp only [State.search, hhead, hmay, hok, hgran, Bool.not_true, Bool.false_eq_true, if_false]

/-! ## Instruction fetch (R70, R231) -/

theorem exec_fetchFill (core slot : Nat) (s : State) : exec (.fetchFill core slot) s = execFetchFill core slot s := rfl

/-- A word at a local place that is not fenced enters the core's cache. -/
theorem State.fetchAt_key {s : State} {x : Nat} (hx : s.keyFenced x = false) (core slot : Nat) (t : Strand) (va : Nat) (kp : Option (Nat × Nat)) :
    s.fetchAt core slot t va (.key x kp) = s.setCore core ((s.core core).cache t.vol va (s.rdW x)) := by
  simp [State.fetchAt, hx]

/-- A ready strand with no word at hand, and with no leader to fetch for it. -/
def State.wantsFetch (s : State) (core : Nat) (t : Strand) : Prop :=
  t.run = .ready ∧ (t.follower && (s.leaderOf t).isSome) = false ∧ s.cached core t = none

section
variable {s : State} {core slot : Nat} {t : Strand}

/-- A fetch whose check fails faults at its pc (R231). -/
theorem execFetchFill_bad {e : Nat} (ht : s.strand core slot = some t) (hw : s.wantsFetch core t) (hcheck : t.fetchCheck = .error e) :
    execFetchFill core slot s = .next (s.faultAtIssue core slot t (fetchFault 3 e (t.pc - descBase (t.sregs.getD 0 0))) 0) := by
  obtain ⟨hrun, hlead, hmiss⟩ := hw
  simp [execFetchFill, ht, hrun, hlead, hmiss, hcheck]

/-- A fetch whose place needs no walk is made (R70). -/
theorem execFetchFill_place {va : Nat} {p : Place} (ht : s.strand core slot = some t) (hw : s.wantsFetch core t)
    (hcheck : t.fetchCheck = .ok va) (hp : s.lookup (s.cluster (clusterOf core)).tlb t.vol va .fetch = some p) :
    execFetchFill core slot s = .next (s.fetchAt core slot t va p) := by
  obtain ⟨hrun, hlead, hmiss⟩ := hw
  simp [execFetchFill, ht, hrun, hlead, hmiss, hcheck, hp]

/-- A fetch that misses asks for a walk (R240). -/
theorem execFetchFill_miss {va : Nat} (ht : s.strand core slot = some t) (hw : s.wantsFetch core t)
    (hcheck : t.fetchCheck = .ok va) (hp : s.lookup (s.cluster (clusterOf core)).tlb t.vol va .fetch = none) :
    execFetchFill core slot s = .next (s.miss (clusterOf core) t.vol va (.fetch core slot)) := by
  obtain ⟨hrun, hlead, hmiss⟩ := hw
  simp [execFetchFill, ht, hrun, hlead, hmiss, hcheck, hp]

/-- A follower whose leader is in the group leaves the fetch to it (R149). -/
theorem execFetchFill_follower {l : Strand} (ht : s.strand core slot = some t) (hfol : t.follower = true) (hl : s.leaderOf t = some l) :
    execFetchFill core slot s = .next s := by
  simp [execFetchFill, ht, hfol, hl]

/-- A walk that has found the page of a fetch which is still wanted makes it (R240). -/
theorem State.walked_fetch {w : WalkRun} {r : Walk} {va : Nat} (ht : s.strand core slot = some t) (hrun : t.run = .ready)
    (hvol : t.vol = w.vol) (hmiss : s.cached core t = none) (hcheck : t.fetchCheck = .ok va) (hpage : r.covers w va = true) :
    s.walked w r (.fetch core slot) = s.fetchAt core slot t va (s.walkPlace r va .fetch) := by
  simp [State.walked, ht, hrun, hvol, hmiss, hcheck, hpage]

end

/-- Settles O32: the search finds the slip at the first list's head; a fetch is made, missed, refused or left to the leader by the lemma of
its case. -/
theorem slipsAndFetch : Obligations.SlipsAndFetch := by
  unfold Obligations.SlipsAndFetch
  refine ⟨?noSearch, ?slip, ?hit, ?miss, ?refused, ?follower, ?walked⟩
  case noSearch =>
    intro s core slot h
    rw [exec_idleSlotSearch]
    simp only [execIdleSlotSearch, h]
  case slip =>
    intro s core slot g m pa gr hidle hhead hfree hok hgran
    obtain ⟨rest, order⟩ := searchOrder_head core
    rw [exec_idleSlotSearch]
    simp only [execIdleSlotSearch, hidle, order, Nat.add_comm 64, Host.Outcome.next.injEq]
    exact State.search_head hhead (State.mayTake_free hfree core slot g m _) hok hgran _ rest
  case hit =>
    intro s core slot t va x kp ht hrun hlead hmiss hcheck hplace hx
    rw [exec_fetchFill, execFetchFill_place ht ⟨hrun, hlead, hmiss⟩ hcheck hplace, State.fetchAt_key hx]
  case miss =>
    intro s core slot t va ht hrun hlead hmiss hcheck hplace
    rw [exec_fetchFill, execFetchFill_miss ht ⟨hrun, hlead, hmiss⟩ hcheck hplace]
  case refused =>
    intro s core slot t e ht hrun hlead hmiss hcheck
    rw [exec_fetchFill, execFetchFill_bad ht ⟨hrun, hlead, hmiss⟩ hcheck]
    rfl
  case follower =>
    intro s core slot t l ht hfol hl
    rw [exec_fetchFill, execFetchFill_follower ht hfol hl]
  case walked =>
    intro s w l core slot t va x kp ht hrun hvol hmiss hcheck hpage hplace hx
    rw [State.walked_fetch ht hrun hvol hmiss hcheck (by simpa [Walk.covers] using hpage)]
    simp only [State.walkPlace, hplace, State.fetchAt_key hx]

end Sys2Proof.Machine
end

section
/-! Ports, messages and frames (R69, R91, R162, R163, R165, R166): credits, pops, the next frame and the next turn, and the statement. -/

namespace Sys2Proof.Machine

open Sys2Proof

/-! ## Gatherings and credits (R163, R165) -/

/-- Replacing the first element that a test finds by another that it finds. -/
theorem find?_replaceBy {α : Type} {p : α → Bool} {v x : α} {l : List α} (hv : p v = true) (h : l.find? p = some x) :
    (replaceBy p v l).find? p = some v := by
  induction l with
  | nil => simp at h
  | cons y r ih =>
    by_cases hy : p y = true
    · simp [replaceBy, hy, hv]
    · simp only [replaceBy, hy, Bool.false_eq_true, if_false, List.find?_cons_of_neg hy]
      exact ih (by simpa [List.find?_cons, hy] using h)

/-- A gathering is found by its own volume and index. -/
theorem State.gathering_names {s : State} {v i : Nat} {g : Gathering} (h : s.gathering v i = some g) : g.vol = v ∧ g.gidx = i := by
  simpa using List.find?_some h

/-- A gathering that is changed is found as it was changed. -/
theorem State.gathering_setGathering {s : State} {v i : Nat} {g g' : Gathering} (h : s.gathering v i = some g) (hv : g'.vol = v)
    (hi : g'.gidx = i) : (s.setGathering g').gathering v i = some g' := by
  subst hv hi
  exact find?_replaceBy (by simp) h

/-- A credit spent is one less to spend (R165). -/
theorem State.credits_spend {s : State} {q : QId} {g : Gathering} (h : s.gathering q.vol q.gidx = some g) :
    (s.spend q 1).credits q = s.credits q - 1 := by
  obtain ⟨hvol, hgidx⟩ := State.gathering_names h
  have spent : s.spend q 1 = s.setGathering { g with spent := aput g.spent q ((aget g.spent q).getD 0 + 1) } := by
    simp only [State.spend, h]
    rfl
  have depth : (s.spend q 1).portDepth q.vol = s.portDepth q.vol := by rw [spent]; rfl
  have found := State.gathering_setGathering (g' := { g with spent := aput g.spent q ((aget g.spent q).getD 0 + 1) }) h hvol hgidx
  rw [← spent] at found
  simp only [State.credits, found, h, depth, aget_aput_self, Option.getD_some]
  omega

/-- A message on its way: its name is new, and it is available a frame and its hops later (R162). -/
def State.msgTo (s : State) (core slot dst : Nat) (k : MsgKind) : Msg :=
  { id := s.clk.nextId, due := s.clk.frame + hops core dst + 1, dst := dst, core := core, slot := slot, kind := k }

theorem State.sendMsg_msgs (s : State) (core slot dst : Nat) (k : MsgKind) :
    (s.sendMsg core slot dst k).fab.msgs = s.fab.msgs ++ [s.msgTo core slot dst k] := rfl

/-- Spending a credit leaves the network and the clock. -/
theorem State.spend_eq (s : State) (q : QId) (d : Int) : ∃ c, s.spend q d = { s with circ := c } := by
  unfold State.spend
  split
  · exact ⟨s.circ, rfl⟩
  · exact ⟨_, rfl⟩

/-- A word that is pushed leaves for the core of its queue (R165). -/
theorem State.pushWord_msgs (s : State) (core slot : Nat) (q : QId) (v : Word) :
    (s.pushWord core slot q v).fab.msgs = s.fab.msgs ++ [s.msgTo core slot (s.queueCore q) (.word q v)] := by
  obtain ⟨c, h⟩ := s.spend_eq q 1
  rw [State.pushWord, h]
  rfl

/-! ## Pops (R166) -/

theorem removeFirst_head {α : Type} {p : α → Bool} {x : α} {r : List α} (h : p x = true) : removeFirst p (x :: r) = r := if_pos h

/-- `qup` pops the word at the head of the core's queues, if it is the port's, and sends its credit back. -/
theorem State.popPort_qup {s : State} {core slot : Nat} {t : Strand} {w : PortWord} {r : List PortWord} (hwords : (s.core core).words = w :: r)
    (htakes : s.portTakes t slot .qup w = true) : s.popPort core slot t .qup =
      some (w.val, (s.setCore core { s.core core with words := r }).sendMsg core slot (s.feederCore w.q) (.credit w.q)) := by
  simp only [State.popPort, hwords, List.find?_cons_of_pos htakes, removeFirst_head htakes, Option.map_some]

/-- With no word of its own, `qup` pops nothing. -/
theorem State.popPort_qup_none {s : State} {core slot : Nat} {t : Strand} (h : ∀ w ∈ (s.core core).words, s.portTakes t slot .qup w = false) :
    s.popPort core slot t .qup = none := by
  have : (s.core core).words.find? (s.portTakes t slot .qup) = none := List.find?_eq_none.2 (by simpa using h)
  simp only [State.popPort, this, Option.map_none]

/-- `ib` pops the message at the head of the inbox, if it is the strand's, and frees its entry (R174). -/
theorem State.popPort_ib {s : State} {core slot : Nat} {t : Strand} {m : InMsg} {r : List InMsg} (hinbox : (s.core core).inbox = m :: r)
    (htakes : inboxTakes t slot m = true) :
    s.popPort core slot t .ib = some (m.word, (s.setCore core { s.core core with inbox := r }).kickInbox core) := by
  simp only [State.popPort, hinbox, List.find?_cons_of_pos htakes, removeFirst_head htakes, Option.map_some]

/-! ## Frames and turns (R69, R91) -/

theorem State.pruneLasting_eq (s : State) : ∃ c k, s.pruneLasting = { s with circ := c, clk := k } := by
  unfold State.pruneLasting
  dsimp only
  split
  · exact ⟨s.circ, s.clk, rfl⟩
  · obtain ⟨k, h⟩ := State.pushNew_eq { s with circ := { s.circ with lasting := s.circ.lasting.filter fun e => s.owesMessages e.1 e.2 } } .placement
    exact ⟨_, k, h⟩

/-- A fold that keeps what it has or takes the next element ends with an element of the list, or with what it began with. -/
theorem foldl_keeps_or_takes {α : Type} {f : Option α → α → Option α} (hf : ∀ b e, f b e = some e ∨ f b e = b) {l : List α} {b : Option α}
    {x : α} (h : l.foldl f b = some x) : x ∈ l ∨ b = some x := by
  induction l generalizing b with
  | nil => exact .inr h
  | cons e r ih =>
    rcases ih h with hx | hx
    · exact .inl (List.mem_cons_of_mem e hx)
    · rcases hf b e with took | kept
      · exact .inl (Option.some.inj (took.symm.trans hx) ▸ List.mem_cons_self)
      · exact .inr (kept.symm.trans hx)

/-- The next turn is still to come in the frame, and a strand that can use it is in its slot. -/
theorem State.nextTurn_spec {s : State} {core slot : Nat} (h : s.nextTurn = some (core, slot)) :
    s.turnLeft core slot = true ∧ ∃ e ∈ s.strands, e.1 = (core, slot) ∧ s.canTurn core slot e.2 = true := by
  obtain ⟨e, picked, key⟩ := Option.map_eq_some_iff.1 h
  have mem := foldl_keeps_or_takes (fun b e => ?_) picked
  · obtain ⟨hmem, left, can⟩ : e ∈ s.strands ∧ s.turnLeft e.1.1 e.1.2 = true ∧ s.canTurn e.1.1 e.1.2 e.2 = true := by simpa using mem
    rw [key] at left can
    exact ⟨left, e, hmem, key, can⟩
  · cases b with
    | none => exact .inl rfl
    | some q =>
      dsimp only
      split
      · exact .inl rfl
      · exact .inr rfl

/-- A turn that is still to come is in a later slot, or in this one on a core that has not had it. -/
theorem State.turnLeft_iff (s : State) (core slot : Nat) :
    s.turnLeft core slot = true ↔ s.clk.pos < slot ∨ slot = s.clk.pos ∧ core ∉ s.clk.took := by
  simp [State.turnLeft]

/-- A core whose turn it is has had it. -/
theorem State.atTurn_took (s : State) (core slot : Nat) : core ∈ (s.atTurn core slot).clk.took := by
  simp only [State.atTurn]
  split <;> simp

theorem State.canTurn_ready {s : State} {core slot : Nat} {t : Strand} (h : s.canTurn core slot t = true) : t.run = .ready := by
  simp only [State.canTurn, Bool.and_eq_true, beq_iff_eq] at h
  obtain ⟨⟨⟨ready, _⟩, _⟩, _⟩ := h
  exact ready

/-- Settles O54: each clause is a lemma above on messages, credits, pops, frames or turns. -/
theorem portsAndFrames : Obligations.PortsAndFrames := by
  unfold Obligations.PortsAndFrames
  refine ⟨?message, ?push, ?pop, ?empty, ?inbox, ?put, ?frame, ?turn⟩
  case message => exact fun s core slot dst k => ⟨rfl, rfl, rfl⟩
  case push =>
    intro s core slot q v g hg _
    exact ⟨State.credits_spend hg, _, s.pushWord_msgs core slot q v, rfl, rfl, rfl⟩
  case pop => exact fun s core slot t w r hwords htakes => State.popPort_qup hwords htakes
  case empty => exact fun s core slot t h => State.popPort_qup_none h
  case inbox => exact fun s core slot t m r hinbox htakes => State.popPort_ib hinbox htakes
  case put =>
    intro c v fl hpop
    simp only [Ctx.put, hpop, and_self]
  case frame =>
    intro s
    obtain ⟨c, k, h⟩ := s.pruneLasting_eq
    simp only [State.nextFrame, h, and_self]
  case turn =>
    intro s core slot h
    obtain ⟨left, e, hmem, key, can⟩ := State.nextTurn_spec h
    have place := (s.turnLeft_iff core slot).1 left
    refine ⟨by omega, fun here => ?_, rfl, s.atTurn_took core slot, e, hmem, key, can, State.canTurn_ready can⟩
    exact (place.resolve_left (by omega)).right

end Sys2Proof.Machine
end

section
/-! SUPPORT. Integer arithmetic at n bits (R113 to R119): patterns, clamping, shifts, and the words that moves and inserts make. -/

namespace Sys2Proof.Machine

open Sys2Proof

theorem intTwoPow_pos (n : Nat) : (0 : Int) < 2 ^ n := by exact_mod_cast Nat.two_pow_pos n

theorem natCast_wrapN (n : Nat) (v : Int) : (wrapN n v : Int) = v % 2 ^ n :=
  Int.toNat_of_nonneg (Int.emod_nonneg v (Int.ne_of_gt (intTwoPow_pos n)))

theorem wrapN_natCast (n v : Nat) : wrapN n (v : Int) = v % 2 ^ n := by
  exact_mod_cast natCast_wrapN n v

/-- An integer of the signed range is read back from its n-bit pattern. -/
theorem sxNat_wrapN {n : Nat} {v : Int} (hn : 0 < n) (low : -(2 ^ (n - 1)) ≤ v) (high : v < 2 ^ (n - 1)) : sxNat n (wrapN n v) = v := by
  have double : (2 : Int) ^ n = 2 * 2 ^ (n - 1) := by rw [Int.mul_comm, ← Int.pow_succ, Nat.succ_eq_add_one, Nat.sub_add_cancel hn]
  have pattern := natCast_wrapN n v
  have below : (wrapN n v : Int) < 2 ^ n := by rw [pattern]; exact Int.emod_lt_of_pos v (intTwoPow_pos n)
  have wraps : wrapN n v % 2 ^ n = wrapN n v := Nat.mod_eq_of_lt (by exact_mod_cast below)
  have half : 2 * wrapN n v < 2 ^ n ↔ 2 * (wrapN n v : Int) < 2 ^ n := by norm_cast
  simp only [sxNat, wraps, half]
  by_cases neg : v < 0
  · rw [Int.emod_eq_add_self_emod, Int.emod_eq_of_lt (by omega) (by omega)] at pattern
    rw [if_neg (by omega)]
    omega
  · rw [Int.emod_eq_of_lt (by omega) (by omega)] at pattern
    rw [if_pos (by omega)]
    exact pattern

/-- What the two saturating modes do with an exact result `e`: clamp it to their range and tell whether that changed it (R113). -/
def clampN (n : Nat) (lo hi e : Int) : Nat × FlagWord :=
  if e < lo then (wrapN n lo, flSaturate) else if hi < e then (wrapN n hi, flSaturate) else (wrapN n e, 0)

theorem saDeliver_ss (n : Nat) (e : Int) : saDeliver .ss n e = clampN n (-(2 ^ (n - 1))) (2 ^ (n - 1) - 1) e := rfl

theorem saDeliver_us (n : Nat) (e : Int) : saDeliver .us n e = clampN n 0 (2 ^ n - 1) e := rfl

theorem clampN_below {n : Nat} {lo hi e : Int} (h : e < lo) : clampN n lo hi e = (wrapN n lo, flSaturate) := if_pos h

theorem clampN_above {n : Nat} {lo hi e : Int} (hlo : lo ≤ e) (h : hi < e) : clampN n lo hi e = (wrapN n hi, flSaturate) := by
  rw [clampN, if_neg (by omega), if_pos h]

theorem clampN_within {n : Nat} {lo hi e : Int} (hlo : lo ≤ e) (hhi : e ≤ hi) : clampN n lo hi e = (wrapN n e, 0) := by
  rw [clampN, if_neg (by omega), if_neg (by omega)]

/-- `mulhu` of natural operands: their product's high half (R114). -/
theorem mulHigh_natCast (n : Nat) {x y : Nat} (hx : x < 2 ^ n) (hy : y < 2 ^ n) : mulHigh n ((x : Int) * y) = x * y / 2 ^ n := by
  have quotient : ((x : Int) * y) / 2 ^ n = ((x * y / 2 ^ n : Nat) : Int) := by norm_cast
  rw [mulHigh, quotient, wrapN_natCast, Nat.mod_eq_of_lt (Nat.div_lt_of_lt_mul (Nat.mul_lt_mul'' hx hy))]

theorem szN_pos (z : Size) : 0 < szN z := Nat.mul_pos (by decide) (Nat.two_pow_pos _)

theorem shlN_eq (n a s : Nat) : shlN n a s = a * 2 ^ (s % n) % 2 ^ n := Nat.mod_mul_mod a (2 ^ (s % n)) (2 ^ n)

/-- A rotation: what is shifted out above bit n - 1 comes in below (R114). -/
theorem rolN_eq {n : Nat} (hn : 0 < n) (a s : Nat) :
    rolN n a s = a % 2 ^ n * 2 ^ (s % n) % 2 ^ n + a % 2 ^ n * 2 ^ (s % n) / 2 ^ n := by
  have small : a % 2 ^ n < 2 ^ n := Nat.mod_lt _ (Nat.two_pow_pos _)
  have amount : s % n < n := Nat.mod_lt _ hn
  rw [rolN, shlN, shrN, Nat.mod_mod]
  congr 1
  rcases Nat.eq_zero_or_pos (s % n) with still | turned
  · simp [still, Nat.div_eq_of_lt small]
  · have factors : 2 ^ n = 2 ^ (n - s % n) * 2 ^ (s % n) := by rw [← Nat.pow_add, Nat.sub_add_cancel (Nat.le_of_lt amount)]
    rw [Nat.mod_eq_of_lt (a := n - s % n) (by omega), if_neg (by simpa using Nat.ne_of_gt turned), Nat.mul_one]
    conv => rhs; rw [factors, Nat.mul_div_mul_right _ _ (Nat.two_pow_pos _), ← factors]

theorem sx64_eq_ofN {k : Nat} (v : BitVec k) : sx64 v = ofN (v.toInt % 2 ^ 64).toNat := by
  apply BitVec.eq_of_toNat_eq
  rw [sx64, BitVec.signExtend, ofN, BitVec.toNat_ofInt, BitVec.toNat_ofNat]
  omega

/-- Two parts put together: `h` above bit k - 1, the low k bits of `x` below (R117, R119). -/
theorem ofN_shiftLeft_or_and_mask (h : Nat) (x : Word) {k : Nat} (hk : k ≤ 64) :
    (ofN h <<< k) ||| (x &&& ofN (2 ^ k - 1)) = ofN (h * 2 ^ k + x.toNat % 2 ^ k) := by
  have mask : (2 ^ k - 1) % 2 ^ 64 = 2 ^ k - 1 :=
    Nat.mod_eq_of_lt (Nat.lt_of_lt_of_le (Nat.sub_lt (Nat.two_pow_pos k) Nat.one_pos) (Nat.pow_le_pow_right Nat.two_pos hk))
  have low : x.toNat % 2 ^ k < 2 ^ k := Nat.mod_lt _ (Nat.two_pow_pos _)
  have lowWord : x.toNat % 2 ^ k % 2 ^ 64 = x.toNat % 2 ^ k :=
    Nat.mod_eq_of_lt (Nat.lt_of_lt_of_le low (Nat.pow_le_pow_right Nat.two_pos hk))
  apply BitVec.eq_of_toNat_eq
  simp only [ofN, BitVec.toNat_or, BitVec.toNat_and, BitVec.toNat_shiftLeft, BitVec.toNat_ofNat, mask, Nat.and_two_pow_sub_one_eq_mod]
  rw [← Nat.shiftLeft_eq h k, Nat.shiftLeft_add_eq_or_of_lt low, Nat.or_mod_two_pow, lowWord]
  simp only [Nat.shiftLeft_eq, Nat.mod_mul_mod]

/-- The bits of the field that `bfi` replaces. -/
theorem ofN_mask_shiftLeft_bit (low width : Nat) {k : Nat} (hk : k < 64) :
    (ofN (2 ^ width - 1) <<< low).getLsbD k = decide (low ≤ k ∧ k < low + width) := by
  simp only [ofN, BitVec.getLsbD_shiftLeft, BitVec.getLsbD_ofNat, Nat.testBit_two_pow_sub_one, hk, decide_true, Bool.true_and]
  rw [decide_eq_true (p := k - low < 64) (by omega), Bool.true_and, ← decide_not, ← Bool.decide_and, decide_eq_decide]
  omega

/-- Inserting a field: bit by bit, from the source inside the field and from the destination elsewhere (R118). -/
theorem bfiWord_bit (d a : Word) (low width : Nat) {k : Nat} (hk : k < 64) :
    (bfiWord d a low width).getLsbD k = if low ≤ k ∧ k < low + width then a.getLsbD (k - low) else d.getLsbD k := by
  simp only [bfiWord, BitVec.getLsbD_or, BitVec.getLsbD_and, BitVec.getLsbD_not, ofN_mask_shiftLeft_bit low width hk, hk, decide_true,
    Bool.true_and]
  by_cases inside : low ≤ k ∧ k < low + width
  · simp only [inside, and_self, decide_true, Bool.not_true, Bool.and_false, Bool.false_or, Bool.and_true, if_true,
      BitVec.getLsbD_shiftLeft, hk, Bool.true_and]
    rw [decide_eq_false (by omega), Bool.not_false, Bool.true_and]
  · simp only [inside, if_false, decide_false, Bool.not_false, Bool.and_true, Bool.and_false, Bool.or_false]

end Sys2Proof.Machine
end

section
/-! SUPPORT. Completion of scalar instructions: a body that always falls through, a result written another way, and a
quotient by its divisor. -/

namespace Sys2Proof.Machine

open Sys2Proof

variable {i : Instr} {p : Ctx → Prop} {d a b : GOp}

/-- A body that always falls through to `r c` completes there. -/
theorem Completes.of_falls {r : Ctx → Ctx} (issued : ∀ s, exec i s = issue (formOf i) s fun c => .go (r c)) :
    Completes i p fun c => (r c).done :=
  .of_go issued fun _ _ => rfl

/-- A result of two general sources may be written another way. -/
theorem Completes.two_congr {f g : Nat → Nat → Nat × FlagWord} (completes : Completes i p fun c => c.two d a b f)
    (same : ∀ x y, f x y = g x y) : Completes i p fun c => c.two d a b g := by
  obtain rfl : f = g := funext fun x => funext fun y => same x y
  exact completes

/-- A result of one general source may be written another way. -/
theorem Completes.one_congr {f g : Nat → Nat × FlagWord} (completes : Completes i p fun c => c.one d a f)
    (same : ∀ x, f x = g x) : Completes i p fun c => c.one d a g := by
  obtain rfl : f = g := funext same
  exact completes

/-- A quotient or remainder by a divisor that is not 0 (R114). -/
theorem Completes.of_divide {n : Nat} {v : Ctx → Word}
    (issued : ∀ s, exec i s = issue (formOf i) s fun c =>
      if (c.g b).toNat % 2 ^ n == 0 then .fault (taskFault 0x13) else .go (c.put d (v c))) :
    Completes i (fun c => (c.g b).toNat % 2 ^ n ≠ 0) fun c => (c.put d (v c)).done :=
  .of_go issued fun _ divisor => if_neg (by simpa using divisor)

/-- A zero divisor takes DIV_ZERO (R114). -/
theorem FaultsAtIssue.of_divide {n : Nat} {v : Ctx → Word}
    (issued : ∀ s, exec i s = issue (formOf i) s fun c =>
      if (c.g b).toNat % 2 ^ n == 0 then .fault (taskFault 0x13) else .go (c.put d (v c))) :
    FaultsAtIssue i (fun c => (c.g b).toNat % 2 ^ n = 0) fun _ => taskFault 0x13 :=
  .of_fault issued fun _ divisor => if_pos (by simpa using divisor)

end Sys2Proof.Machine
end

section
/-! Integer instructions (R112 to R120): results, the overflow modes, division, bits and moves. -/

namespace Sys2Proof.Machine

open Sys2Proof

/-- The lesser of two integers, as the model compares them. -/
theorem if_lt_eq_min (x y : Int) : (if x < y then x else y) = min x y := by
  split <;> omega

/-- The greater of two integers, as the model compares them. -/
theorem if_lt_eq_max (x y : Int) : (if x < y then y else x) = max x y := by
  split <;> omega

/-- Settles O1: each body falls through with its result; those of `mulhu`, `min` and `max` are written another way in the model. -/
theorem integerArithmeticResults : Obligations.IntegerArithmeticResults := by
  unfold Obligations.IntegerArithmeticResults
  refine ⟨?add, ?addi, ?sub, ?mul, ?neg, ?abs, ?mulh, ?mulhu, ?min, ?max, ?minu, ?maxu⟩
  case add => exact fun h o z d a b => .of_falls fun _ => rfl
  case addi => exact fun h o z d a imm => .of_falls fun _ => rfl
  case sub => exact fun h o z d a b => .of_falls fun _ => rfl
  case mul => exact fun h o z d a b => .of_falls fun _ => rfl
  case neg => exact fun h o z d a => .of_falls fun _ => rfl
  case abs => exact fun h o z d a => .of_falls fun _ => rfl
  case mulh => exact fun h z d a b => .of_falls fun _ => rfl
  case mulhu =>
    intro h z d a b
    refine .two_congr (f := fun x y => noFlag (mulHigh (szN z) ((x % 2 ^ szN z : Nat) * (y % 2 ^ szN z : Nat)))) ?_
      fun x y => congrArg noFlag ?_
    · exact .of_falls fun _ => rfl
    · exact mulHigh_natCast _ (Nat.mod_lt _ (Nat.two_pow_pos _)) (Nat.mod_lt _ (Nat.two_pow_pos _))
  case min =>
    intro h z d a b
    refine .two_congr
      (f := fun x y => noFlag (wrapN (szN z) (if sxNat (szN z) x < sxNat (szN z) y then sxNat (szN z) x else sxNat (szN z) y))) ?_
      fun x y => ?_
    · exact .of_falls fun _ => rfl
    · rw [if_lt_eq_min, noFlag]
  case max =>
    intro h z d a b
    refine .two_congr
      (f := fun x y => noFlag (wrapN (szN z) (if sxNat (szN z) x < sxNat (szN z) y then sxNat (szN z) y else sxNat (szN z) x))) ?_
      fun x y => ?_
    · exact .of_falls fun _ => rfl
    · rw [if_lt_eq_max, noFlag]
  case minu => exact fun h z d a b => .of_falls fun _ => rfl
  case maxu => exact fun h z d a b => .of_falls fun _ => rfl

/-- Settles O2: wrapping is the remainder, and each saturating mode is a clamp, whose result lies in the mode's range. -/
theorem saturatingDelivery : Obligations.SaturatingDelivery := by
  unfold Obligations.SaturatingDelivery
  refine ⟨?wrap, ?ssWithin, ?ssBelow, ?ssAbove, ?usWithin, ?usBelow, ?usAbove⟩
  case wrap => exact fun n e => ⟨rfl, natCast_wrapN n e⟩
  case ssWithin =>
    intro n e hn low high
    rw [saDeliver_ss, clampN_within low (by omega)]
    exact ⟨rfl, sxNat_wrapN hn low high⟩
  case ssBelow =>
    intro n e hn below
    have pos := intTwoPow_pos (n - 1)
    rw [saDeliver_ss, clampN_below below]
    exact ⟨rfl, sxNat_wrapN hn (Int.le_refl _) (by omega)⟩
  case ssAbove =>
    intro n e hn above
    have pos := intTwoPow_pos (n - 1)
    rw [saDeliver_ss, clampN_above (by omega) (by omega)]
    exact ⟨rfl, sxNat_wrapN hn (by omega) (by omega)⟩
  case usWithin =>
    intro n e low high
    rw [saDeliver_us, clampN_within low (by omega)]
    exact ⟨rfl, (natCast_wrapN n e).trans (Int.emod_eq_of_lt low high)⟩
  case usBelow =>
    intro n e below
    rw [saDeliver_us, clampN_below below]
    simp [wrapN]
  case usAbove =>
    intro n e above
    have pos := intTwoPow_pos n
    have top : wrapN n (2 ^ n - 1) = 2 ^ n - 1 := by
      have cast := natCast_wrapN n (2 ^ n - 1)
      rw [Int.emod_eq_of_lt (by omega) (by omega)] at cast
      have natPos := Nat.two_pow_pos n
      have same : ((2 ^ n : Nat) : Int) = 2 ^ n := by norm_cast
      omega
    rw [saDeliver_us, clampN_above (by omega) (by omega), top]

/-- Settles O3: each body tests its divisor, and goes on with the quotient or remainder only where it is not 0. -/
theorem integerDivision : Obligations.IntegerDivision := by
  unfold Obligations.IntegerDivision
  refine ⟨?div, ?divu, ?rem, ?remu, ?divZero, ?divuZero, ?remZero, ?remuZero⟩
  case div => exact fun h z d a b => .of_divide fun _ => rfl
  case divu => exact fun h z d a b => .of_divide fun _ => rfl
  case rem => exact fun h z d a b => .of_divide fun _ => rfl
  case remu => exact fun h z d a b => .of_divide fun _ => rfl
  case divZero => exact fun h z d a b => .of_divide fun _ => rfl
  case divuZero => exact fun h z d a b => .of_divide fun _ => rfl
  case remZero => exact fun h z d a b => .of_divide fun _ => rfl
  case remuZero => exact fun h z d a b => .of_divide fun _ => rfl

/-- Settles O4: each body falls through with its result; those of the shifts to the left, `rol` and `andn` are written another way in
the model. -/
theorem integerBitResults : Obligations.IntegerBitResults := by
  unfold Obligations.IntegerBitResults
  refine ⟨?and, ?or, ?xor, ?andn, ?andi, ?ori, ?xori, ?shl, ?shr, ?sar, ?rol, ?shli, ?shri, ?sari, ?clz, ?ctz, ?popc, ?bfx, ?sext,
    ?zext, ?mov⟩
  case and => exact fun h z d a b => .of_falls fun _ => rfl
  case or => exact fun h z d a b => .of_falls fun _ => rfl
  case xor => exact fun h z d a b => .of_falls fun _ => rfl
  case andn =>
    intro h z d a b
    refine .two_congr (f := fun x y => noFlag ((x % 2 ^ szN z &&& (2 ^ szN z - 1 - y % 2 ^ szN z)) % 2 ^ szN z)) ?_
      fun x y => congrArg noFlag ?_
    · exact .of_falls fun _ => rfl
    · exact Nat.mod_eq_of_lt (Nat.lt_of_le_of_lt Nat.and_le_left (Nat.mod_lt _ (Nat.two_pow_pos _)))
  case andi => exact fun h z d a imm => .of_falls fun _ => rfl
  case ori => exact fun h z d a imm => .of_falls fun _ => rfl
  case xori => exact fun h z d a imm => .of_falls fun _ => rfl
  case shl =>
    intro h z d a b
    refine .two_congr (f := fun x y => noFlag (shlN (szN z) x y)) ?_ fun x y => congrArg noFlag (shlN_eq ..)
    exact .of_falls fun _ => rfl
  case shr => exact fun h z d a b => .of_falls fun _ => rfl
  case sar => exact fun h z d a b => .of_falls fun _ => rfl
  case rol =>
    intro h z d a b
    refine .two_congr (f := fun x y => noFlag (rolN (szN z) x y)) ?_ fun x y => congrArg noFlag (rolN_eq (szN_pos z) ..)
    exact .of_falls fun _ => rfl
  case shli =>
    intro h z d a imm
    refine .one_congr (f := fun x => noFlag (shlN (szN z) x imm.toNat)) ?_ fun x => congrArg noFlag (shlN_eq ..)
    exact .of_falls fun _ => rfl
  case shri => exact fun h z d a imm => .of_falls fun _ => rfl
  case sari => exact fun h z d a imm => .of_falls fun _ => rfl
  case clz => exact fun h z d a => .of_falls fun _ => rfl
  case ctz => exact fun h z d a => .of_falls fun _ => rfl
  case popc => exact fun h z d a => .of_falls fun _ => rfl
  case bfx => exact fun h d a imm => .of_falls fun _ => rfl
  case sext => exact fun h z d a => .of_falls fun _ => rfl
  case zext => exact fun h z d a => .of_falls fun _ => rfl
  case mov => exact fun h z d a => .of_falls fun _ => rfl

/-- `movhi` keeps the low half of its destination (R117). -/
theorem movhiWord_eq (imm : BitVec 32) (x : Word) :
    (imm.setWidth 64 <<< 32) ||| (x &&& 0xFFFFFFFF) = ofN (imm.toNat * 2 ^ 32 + x.toNat % 2 ^ 32) := by
  have wide : (imm.setWidth 64 : Word) = ofN imm.toNat := (BitVec.ofNat_toNat 64 imm).symm
  rw [wide]
  exact ofN_shiftLeft_or_and_mask imm.toNat x (k := 32) (by decide)

/-- Settles O5: the word that each body writes is the stated one, by the lemmas above on words put together of two parts. -/
theorem movesAndInserts : Obligations.MovesAndInserts := by
  unfold Obligations.MovesAndInserts
  refine ⟨?movi, ?movhi, ?bfi, ?lea, ?selTrue, ?selFalse⟩
  case movi => exact fun h d imm => .of_go (fun _ => rfl) fun c _ => congrArg (fun v => Out.go (c.put d v)) (sx64_eq_ofN imm)
  case movhi => exact fun h d imm => .of_go (fun _ => rfl) fun c _ => congrArg (fun v => Out.go (c.put d v)) (movhiWord_eq imm (c.g d))
  case bfi =>
    intro h d a imm s c hc
    exact ⟨bfiWord (c.g d) (c.g a) (imm.toNat % 64) (imm.toNat / 64 % 128), issue_go hc rfl, fun k hk => bfiWord_bit _ _ _ _ hk⟩
  case lea =>
    exact fun h d a seg disp => .of_go (fun _ => rfl) fun c _ => congrArg (fun v => Out.go (c.put d v))
      (ofN_shiftLeft_or_and_mask seg.val (c.g a + sx64 disp) (k := 61) (by decide))
  case selTrue => exact fun h d a b k => .of_go (fun _ => rfl) fun c set => by simp only [Ctx.p, set, if_true]
  case selFalse =>
    exact fun h d a b k => .of_go (fun _ => rfl) fun c clear => by simp only [Ctx.p, clear, Bool.false_eq_true, if_false]

end Sys2Proof.Machine
end

section
/-! Predicates and special registers (R110, R111, R121 to R124, R127), and scalar floating point (R125 to R128). -/

namespace Sys2Proof.Machine

open Sys2Proof

theorem Strand.setPred_pred (t : Strand) (v : Word) : (t.setPred v).pred = v.setWidth 16 ||| 1 := rfl

/-- Bit 0 of a predicate word that is written is 1, and its other bits are those of the source (R123). -/
theorem Strand.setPred_bit (t : Strand) (v : Word) {k : Nat} (hk : k < 16) :
    (t.setPred v).pred.getLsbD k = (v.getLsbD k || decide (k = 0)) := by
  rw [Strand.setPred_pred, BitVec.getLsbD_or, BitVec.getLsbD_setWidth, decide_eq_true hk, Bool.true_and]
  congr 1
  simp [BitVec.getLsbD_one]

/-- Settles O6: each instruction falls through with one predicate, one general register or the predicate word written. -/
theorem predicateResults : Obligations.PredicateResults := by
  unfold Obligations.PredicateResults
  refine ⟨?cmp, ?cmpi, ?fcmp, ?pand, ?por, ?pxor, ?pandn, ?mfp, ?mtp, ?word⟩
  case cmp => exact fun h cc z d a b => .of_falls fun _ => rfl
  case cmpi => exact fun h cc z d a imm => .of_falls fun _ => rfl
  case fcmp => exact fun h cc f d a b => .of_falls fun _ => rfl
  case pand => exact fun h d a b => .of_falls fun _ => rfl
  case por => exact fun h d a b => .of_falls fun _ => rfl
  case pxor => exact fun h d a b => .of_falls fun _ => rfl
  case pandn => exact fun h d a b => .of_falls fun _ => rfl
  case mfp => exact fun h d => .of_falls fun _ => rfl
  case mtp => exact fun h a => .of_falls fun _ => rfl
  case word =>
    refine fun t v => ⟨by rw [t.setPred_bit v (by decide), decide_eq_true rfl, Bool.or_true], fun k pos hk => ?_⟩
    rw [t.setPred_bit v hk, decide_eq_false (Nat.ne_of_gt pos), Bool.or_false]

/-- What a write of a special register can do: it changes no field of the strand but the four registers that `mts` writes, each
by its own number, and their parity (R110, R124). -/
theorem Strand.setSpecial_spec (t : Strand) (n : Nat) (v : Word) :
    ∃ bad tgt fflg rmod dst, t.setSpecial n v = { t with sregBad := bad, tgt := tgt, fflg := fflg, rmod := rmod, dst := dst } ∧
      (n ≠ 9 → tgt = t.tgt) ∧ (n ≠ 12 → fflg = t.fflg) ∧ (n ≠ 13 → rmod = t.rmod) ∧ (n ≠ 14 → dst = t.dst) := by
  unfold Strand.setSpecial
  split
  case h_1 => exact ⟨_, _, _, _, _, rfl, fun h => absurd rfl h, fun _ => rfl, fun _ => rfl, fun _ => rfl⟩
  case h_2 => exact ⟨_, _, _, _, _, rfl, fun _ => rfl, fun h => absurd rfl h, fun _ => rfl, fun _ => rfl⟩
  case h_3 => exact ⟨_, _, _, _, _, rfl, fun _ => rfl, fun _ => rfl, fun h => absurd rfl h, fun _ => rfl⟩
  case h_4 => exact ⟨_, _, _, _, _, rfl, fun _ => rfl, fun _ => rfl, fun _ => rfl, fun h => absurd rfl h⟩
  case h_5 => exact ⟨_, _, _, _, _, rfl, fun _ => rfl, fun _ => rfl, fun _ => rfl, fun _ => rfl⟩

/-- A write at any other number changes nothing at all. -/
theorem Strand.setSpecial_other (t : Strand) {n : Nat} (v : Word) (h9 : n ≠ 9) (h12 : n ≠ 12) (h13 : n ≠ 13) (h14 : n ≠ 14) :
    t.setSpecial n v = t := by
  unfold Strand.setSpecial
  split
  case h_1 => exact absurd rfl h9
  case h_2 => exact absurd rfl h12
  case h_3 => exact absurd rfl h13
  case h_4 => exact absurd rfl h14
  case h_5 => rfl

/-- The bits of `dst` after a write: bit 2 stays, bits 1 and 0 are the source's (R110). -/
theorem Strand.setSpecial_dst_bit (t : Strand) (v : Word) {k : Nat} (hk : k < 3) :
    (t.setSpecial 14 v).dst.getLsbD k = if k = 2 then t.dst.getLsbD 2 else v.getLsbD k := by
  change ((t.dst &&& 4) ||| (v.setWidth 3 &&& 3)).getLsbD k = _
  match k, hk with
  | 0, _ => simp
  | 1, _ => simp
  | 2, _ => simp

/-- A read of special register `m` depends on the four that `mts` writes only by their own numbers. -/
theorem State.special_congr (s : State) (core slot : Nat) (t : Strand) {m : Nat} {bad : List Nat} {tgt : BitVec 8} {fflg : BitVec 7}
    {rmod : BitVec 2} {dst : BitVec 3} (h9 : m = 9 → tgt = t.tgt) (h12 : m = 12 → fflg = t.fflg) (h13 : m = 13 → rmod = t.rmod)
    (h14 : m = 14 → dst = t.dst) :
    s.special core slot { t with sregBad := bad, tgt := tgt, fflg := fflg, rmod := rmod, dst := dst } m = s.special core slot t m := by
  rcases Classical.em (m = 9) with rfl | n9
  · rw [h9 rfl]; rfl
  rcases Classical.em (m = 12) with rfl | n12
  · rw [h12 rfl]; rfl
  rcases Classical.em (m = 13) with rfl | n13
  · rw [h13 rfl]; rfl
  rcases Classical.em (m = 14) with rfl | n14
  · rw [h14 rfl]; rfl
  -- Every other number reads a field that the two strands share.
  unfold State.special
  split <;> trivial

/-- A write of one special register leaves what every other reads. -/
theorem State.special_setSpecial_ne (s : State) (core slot : Nat) (t : Strand) {n m : Nat} (v : Word) (h : m ≠ n) :
    s.special core slot (t.setSpecial n v) m = s.special core slot t m := by
  obtain ⟨bad, tgt, fflg, rmod, dst, eq, keeps9, keeps12, keeps13, keeps14⟩ := t.setSpecial_spec n v
  rw [eq]
  exact s.special_congr core slot t (fun e => keeps9 (by omega)) (fun e => keeps12 (by omega)) (fun e => keeps13 (by omega))
    (fun e => keeps14 (by omega))

/-- Settles O7: the two instructions fall through, and the rest is what the lemmas above say of `Strand.setSpecial` and `State.special`. -/
theorem specialRegisters : Obligations.SpecialRegisters := by
  unfold Obligations.SpecialRegisters
  refine ⟨?mfs, ?mts, ?counts, ?tgt, ?fflg, ?rmod, ?dst, ?written, ?dstBits, ?frame, ?other, ?reads, ?numbers, ?gsz, ?handlers⟩
  case mfs => exact fun h d n => .of_falls fun _ => rfl
  case mts => exact fun h a n => .of_falls fun _ => rfl
  case counts => exact fun s core slot t => ⟨rfl, rfl, rfl⟩
  case tgt =>
    intro t n v h
    obtain ⟨bad, tgt, fflg, rmod, dst, eq, keeps, -⟩ := t.setSpecial_spec n v
    rw [eq, ← keeps h]
  case fflg =>
    intro t n v h
    obtain ⟨bad, tgt, fflg, rmod, dst, eq, -, keeps, -⟩ := t.setSpecial_spec n v
    rw [eq, ← keeps h]
  case rmod =>
    intro t n v h
    obtain ⟨bad, tgt, fflg, rmod, dst, eq, -, -, keeps, -⟩ := t.setSpecial_spec n v
    rw [eq, ← keeps h]
  case dst =>
    intro t n v h
    obtain ⟨bad, tgt, fflg, rmod, dst, eq, -, -, -, keeps⟩ := t.setSpecial_spec n v
    rw [eq, ← keeps h]
  case written => exact fun t v => ⟨rfl, rfl, rfl⟩
  case dstBits =>
    exact fun t v => ⟨t.setSpecial_dst_bit v (k := 2) (by decide), t.setSpecial_dst_bit v (k := 0) (by decide),
      t.setSpecial_dst_bit v (k := 1) (by decide)⟩
  case frame =>
    intro t n v
    obtain ⟨bad, tgt, fflg, rmod, dst, eq, -⟩ := t.setSpecial_spec n v
    rw [eq]
    exact ⟨rfl, rfl, rfl, rfl, rfl⟩
  case other => exact fun t n v h9 h12 h13 h14 => t.setSpecial_other v h9 h12 h13 h14
  case reads => exact fun s core slot t n m v h => s.special_setSpecial_ne core slot t v h
  case numbers => exact fun s core slot t => ⟨rfl, rfl, rfl, rfl, rfl, rfl, rfl, rfl, rfl, rfl, rfl, rfl, rfl, rfl⟩
  case gsz =>
    intro s core slot t g hg
    simp only [State.special, State.gsz, hg, Option.map_some, Option.getD_some]
  case handlers =>
    intro s core slot t v hv
    simp only [State.special, hv, Option.map_some, Option.getD_some, and_self]

/-- Settles O8: each body falls through to the context its clause names. -/
theorem scalarFloatResults : Obligations.ScalarFloatResults := by
  unfold Obligations.ScalarFloatResults
  refine ⟨?fadd, ?fsub, ?fmul, ?ffma, ?fmin, ?fmax, ?fcvt⟩
  case fadd => exact fun h f rm d a b => .of_falls fun _ => rfl
  case fsub => exact fun h f rm d a b => .of_falls fun _ => rfl
  case fmul => exact fun h f rm d a b => .of_falls fun _ => rfl
  case ffma => exact fun h f rm d a b c => .of_falls fun _ => rfl
  case fmin => exact fun h f rm d a b => .of_falls fun _ => rfl
  case fmax => exact fun h f rm d a b => .of_falls fun _ => rfl
  case fcvt => exact fun h cv d a => .of_falls fun _ => rfl

end Sys2Proof.Machine
end

section
/-! SUPPORT. Spanning instructions alone and in a group (R139 to R141, R150). -/

namespace Sys2Proof.Machine

open Sys2Proof

/-! ## The value of a spanning instruction (R139 to R141) -/

theorem spanValue_vperm (h : Hdr) (f : Fmt) (d a b : Fin 16) (parts : List SpanPart) (own : SpanPart) :
    spanValue (.vperm h f d a b) parts own =
      (BitVec.ofNat 512 (permValue f (parts.flatMap fun q => elems f q.a.toNat) (elems f own.b.toNat)), 0) := rfl

theorem spanValue_vred (h : Hdr) (op : RedOp) (f : VfF) (d : GOp) (a : Fin 16) (parts : List SpanPart) (own : SpanPart) :
    spanValue (.vred h op f d a) parts own =
      (BitVec.ofNat 512 (redValue op f (parts.flatMap fun q => elems f.fmt q.a.toNat)).1,
        (redValue op f (parts.flatMap fun q => elems f.fmt q.a.toNat)).2) := rfl

theorem spanValue_vdot (h : Hdr) (f : VfF) (d : GOp) (a b : Fin 16) (parts : List SpanPart) (own : SpanPart) :
    spanValue (.vdot h f d a b) parts own =
      (BitVec.ofNat 512 (dotValue f (parts.flatMap fun q => elems f.fmt q.a.toNat) (parts.flatMap fun q => elems f.fmt q.b.toNat)).1,
        (dotValue f (parts.flatMap fun q => elems f.fmt q.a.toNat) (parts.flatMap fun q => elems f.fmt q.b.toNat)).2) := rfl

/-! ## A member's part (R150) -/

/-- What a strand gives to a spanning instruction. -/
def Ctx.spanPart (c : Ctx) (op : Option Nat) (a b : Vec) : SpanPart := { idx := c.t.colI, uid := c.t.uid, op := op, a := a, b := b }

/-- Outside a group a spanning instruction has its value from the strand's own part. -/
theorem spanning_alone {c : Ctx} (alone : c.t.group = 0) (i : Instr) (d : Dest) (a b : Vec) (put : Ctx → Vec → FlagWord → Ctx) :
    spanning i d a b put c = .go (put c (spanValue i [c.spanPart none a b] (c.spanPart none a b)).1
      (spanValue i [c.spanPart none a b] (c.spanPart none a b)).2) := if_pos (by simpa using alone)

/-- In a group a spanning instruction is a pending operation, and its sources join those of the other members. -/
theorem spanning_member {c : Ctx} (member : c.t.group ≠ 0) (i : Instr) (d : Dest) (a b : Vec) (put : Ctx → Vec → FlagWord → Ctx) :
    spanning i d a b put c = .go ((c.op d).2.joinSpan i (some (c.op d).1) a b) := if_neg (by simpa using member)

/-- The span is that of the word at which the strand stands in its group. -/
def Ctx.atSpan (c : Ctx) (x : Span) : Bool := x.group == c.t.group && x.n == c.t.colN

/-- The span that the strand's part joins: the one that another member has begun, or a new one. -/
def Ctx.spanJoined (c : Ctx) (i : Instr) : Span :=
  (c.s.circ.spans.find? c.atSpan).getD { group := c.t.group, n := c.t.colN, instr := i, parts := [] }

theorem Ctx.spanJoined_found {c : Ctx} {y : Span} (h : c.s.circ.spans.find? c.atSpan = some y) (i : Instr) : c.spanJoined i = y := by
  rw [Ctx.spanJoined, h, Option.getD_some]

theorem Ctx.spanJoined_names (c : Ctx) (i : Instr) : (c.spanJoined i).group = c.t.group ∧ (c.spanJoined i).n = c.t.colN := by
  cases h : c.s.circ.spans.find? c.atSpan with
  | none => rw [Ctx.spanJoined, h]; exact ⟨rfl, rfl⟩
  | some y => rw [Ctx.spanJoined_found h]; simpa [Ctx.atSpan] using List.find?_some h

/-- Waking the members of a group leaves the open spans. -/
@[simp] theorem State.wakeSpans_circ (s : State) (group : Nat) : (s.wakeSpans group).circ = s.circ := by
  obtain ⟨k, woken⟩ := s.wakeSpans_eq group
  rw [woken]

/-- After a strand has joined it, the span has the strand's part behind those that it had. -/
theorem Ctx.joinSpan_mem (c : Ctx) (i : Instr) (op : Option Nat) (a b : Vec) :
    { c.spanJoined i with parts := (c.spanJoined i).parts ++ [c.spanPart op a b] } ∈ (c.joinSpan i op a b).s.circ.spans := by
  simp only [Ctx.joinSpan, State.wakeSpans_circ]
  exact List.mem_append_right _ List.mem_cons_self

/-! ## The group's result (R150, R152) -/

/-- A span is complete when every member that is still in the group has issued its word. -/
theorem State.spanReady_iff (s : State) (x : Span) : s.spanReady x = true ↔ ∀ e ∈ s.strands, e.2.group = x.group → x.n < e.2.colN := by
  simp [State.spanReady]

/-- An operation whose answer is still out, none of the core's own tile operations, is a part of a span. -/
theorem exec_resultReturn_sent {s : State} {core slot op : Nat} {t : Strand} {o : Op}
    (htile : (s.core core).tileOps.find? (fun x => x.id == op && !x.failed) = none) (ht : s.strand core slot = some t)
    (ho : t.ops.find? (·.id == op) = some o) (hsent : o.stage = .sent) :
    exec (.resultReturn core slot op) s = .next (s.spanReturn core slot op) := by
  simp only [exec_resultReturn, execResultReturn, htile, ht, Option.bind_some, ho, hsent]

/-- A part of a span that is not complete waits. -/
theorem State.spanReturn_waits {s : State} {op : Nat} {x : Span} {p : SpanPart}
    (hspan : s.circ.spans.findSome? (fun z => (z.parts.find? (·.op == some op)).map fun q => (z, q)) = some (x, p))
    (waits : s.spanReady x = false) (core slot : Nat) : s.spanReturn core slot op = s := by
  simp only [State.spanReturn, hspan, waits, Bool.not_false, if_true]

/-- A part of a complete span has its value held at its core; of the rest, only `circ`, which lists the open spans, changes. -/
theorem State.spanReturn_ready {s : State} {core slot op : Nat} {t : Strand} {x : Span} {p : SpanPart} (ht : s.strand core slot = some t)
    (hspan : s.circ.spans.findSome? (fun z => (z.parts.find? (·.op == some op)).map fun q => (z, q)) = some (x, p))
    (ready : s.spanReady x = true) (hhalt : ∀ f w, t.run ≠ .halting f w) (hfault : ∀ f w, t.run ≠ .faulting f w) :
    ∃ circ, s.spanReturn core slot op = { s.setStrand core slot { t with
      ops := mapIf (·.id == op) (fun o => { o with stage := .held, val := (x.value p).1, flags := (x.value p).2 }) t.ops } with circ := circ } := by
  simp only [State.spanReturn, hspan, ready, Bool.not_true, Bool.false_eq_true, if_false, State.holdResult_running ht hhalt hfault]
  exact ⟨_, rfl⟩

/-! ## Member order (R150) -/

/-- Sorted parts stand in the order of their members. -/
theorem sortParts_pairwise (ps : List SpanPart) : (sortParts ps).Pairwise fun p q => p.idx ≤ q.idx := by
  have member {p : SpanPart} {k : Nat} (h : p ∈ ps.filter (·.idx == k)) : p.idx = k := by simpa using (List.mem_filter.1 h).right
  refine List.pairwise_flatMap.2 ⟨fun k _ => ?one, List.pairwise_lt_range.imp fun {j k} lt p hp q hq => ?two⟩
  case one => exact List.pairwise_of_forall_mem_list fun p hp q hq => Nat.le_of_eq ((member hp).trans (member hq).symm)
  case two => rw [member hp, member hq]; exact Nat.le_of_lt lt

/-- Of two sorted parts, that of the lower member stands first. -/
theorem sortParts_lt {ps : List SpanPart} {p q : SpanPart} {i j : Nat} (hi : (sortParts ps)[i]? = some p) (hj : (sortParts ps)[j]? = some q)
    (lt : p.idx < q.idx) : i < j := by
  refine Nat.lt_of_not_le fun behind => ?_
  obtain ⟨hi', rfl⟩ := List.getElem?_eq_some_iff.1 hi
  obtain ⟨hj', rfl⟩ := List.getElem?_eq_some_iff.1 hj
  rcases Nat.eq_or_lt_of_le behind with rfl | before
  · exact Nat.lt_irrefl _ lt
  · exact Nat.not_le_of_lt lt (List.pairwise_iff_getElem.1 (sortParts_pairwise ps) j i hj' hi' before)

end Sys2Proof.Machine
end

section
/-! SUPPORT. Instructions that check the places of an access before they go on (R231). -/

namespace Sys2Proof.Machine

open Sys2Proof

/-- An access goes on from its checked place or places; a check that fails is its fault, which names the kind and the size of the access. -/
def Out.checked {α : Type} (access size : Nat) (next : α → Out) : Except FaultInfo α → Out
  | .error e => .fault { e with access := access, size := size }
  | .ok l => next l

/-- Instruction `i` checks the place or places `place c`, and goes on as `next c l` from them. -/
def Accesses {α : Type} (i : Instr) (access size : Nat) (place : Ctx → Except FaultInfo α) (next : Ctx → α → Out) : Prop :=
  ∃ body, (∀ s, exec i s = issue (formOf i) s body) ∧ ∀ c r, place c = r → body c = .checked access size (next c) r

section
variable {α : Type} {i : Instr} {access size : Nat} {place : Ctx → Except FaultInfo α} {next : Ctx → α → Out}

/-- Where the checks pass and the access then falls through, the instruction completes. -/
theorem Accesses.sent {r : Ctx → α → Ctx} (h : Accesses i access size place fun c l => .go (r c l)) (l : α) :
    Completes i (fun c => place c = .ok l) fun c => (r c l).done := by
  obtain ⟨body, issued, checks⟩ := h
  exact .of_go issued fun c passes => checks c _ passes

/-- A check that fails is a fault at issue. -/
theorem Accesses.refused (h : Accesses i access size place next) (e : FaultInfo) :
    FaultsAtIssue i (fun c => place c = .error e) fun _ => { e with access := access, size := size } := by
  obtain ⟨body, issued, checks⟩ := h
  exact .of_fault issued fun c fails => checks c _ fails

end

end Sys2Proof.Machine
end

section
/-! Vector instructions (R129 to R146, R150) and special functions (R153 to R158): results, spanning instructions, what is sent. -/

namespace Sys2Proof.Machine

open Sys2Proof

/-- Settles O9: each body falls through with the result that its clause names. -/
theorem vectorElementwise : Obligations.VectorElementwise := by
  unfold Obligations.VectorElementwise
  refine ⟨?vadd, ?vsub, ?vmul, ?vfma, ?vmin, ?vmax, ?vabs, ?vneg, ?vand, ?vor, ?vxor, ?vshl, ?vshr, ?vsar⟩
  case vadd => exact fun h f d a b => .of_falls fun _ => rfl
  case vsub => exact fun h f d a b => .of_falls fun _ => rfl
  case vmul => exact fun h f d a b => .of_falls fun _ => rfl
  case vfma => exact fun h f d a b c => .of_falls fun _ => rfl
  case vmin => exact fun h f d a b => .of_falls fun _ => rfl
  case vmax => exact fun h f d a b => .of_falls fun _ => rfl
  case vabs => exact fun h f d a => .of_falls fun _ => rfl
  case vneg => exact fun h f d a => .of_falls fun _ => rfl
  case vand => exact fun h d a b => .of_falls fun _ => rfl
  case vor => exact fun h d a b => .of_falls fun _ => rfl
  case vxor => exact fun h d a b => .of_falls fun _ => rfl
  case vshl => exact fun h f d a b => .of_falls fun _ => rfl
  case vshr => exact fun h f d a b => .of_falls fun _ => rfl
  case vsar => exact fun h f d a b => .of_falls fun _ => rfl

/-- Settles O10: outside a group every body falls through with its result; in a group a spanning instruction joins its span, whose value
comes from the sorted parts and is held once the span is complete. -/
theorem vectorMoves : Obligations.VectorMoves := by
  unfold Obligations.VectorMoves
  refine ⟨?vcmp, ?vsel, ?vbc, ?vget, ?vput, ?vperm, ?vred, ?vdot, ?vpermJoins, ?vredJoins, ?vdotJoins, ?joined, ?held, ?waits, ?vpermValue,
    ?vredValue, ?vdotValue, ?order⟩
  case vcmp => exact fun h cc f d a b => .of_falls fun _ => rfl
  case vsel => exact fun h f d a b c => .of_falls fun _ => rfl
  case vbc => exact fun h f d a => .of_falls fun _ => rfl
  case vget => exact fun h f d a idx => .of_falls fun _ => rfl
  case vput => exact fun h f d a idx => .of_falls fun _ => rfl
  case vperm =>
    refine fun h f d a b => .of_go (fun _ => rfl) fun c alone => ?_
    rw [spanning_alone alone, spanValue_vperm, List.flatMap_singleton]
    rfl
  case vred =>
    refine fun h op f d a => .of_go (fun _ => rfl) fun c alone => ?_
    rw [spanning_alone alone, spanValue_vred, List.flatMap_singleton]
    rfl
  case vdot =>
    refine fun h f d a b => .of_go (fun _ => rfl) fun c alone => ?_
    rw [spanning_alone alone, spanValue_vdot, List.flatMap_singleton, List.flatMap_singleton]
    rfl
  case vpermJoins => exact fun h f d a b => .of_go (fun _ => rfl) fun c member => spanning_member member ..
  case vredJoins => exact fun h op f d a => .of_go (fun _ => rfl) fun c member => spanning_member member ..
  case vdotJoins => exact fun h f d a b => .of_go (fun _ => rfl) fun c member => spanning_member member ..
  case joined =>
    intro c i op a b
    obtain ⟨group, n⟩ := c.spanJoined_names i
    refine ⟨_, c.joinSpan_mem i op a b, group, n, List.mem_append_right _ List.mem_cons_self, fun y found => ?_⟩
    rw [Ctx.spanJoined_found found]
    exact ⟨rfl, fun p hp => List.mem_append_left _ hp⟩
  case held =>
    intro s core slot op t o x p htile ht ho hsent hspan complete hhalt hfault
    obtain ⟨circ, returns⟩ := State.spanReturn_ready ht hspan ((s.spanReady_iff x).2 complete) hhalt hfault
    refine ⟨_, exec_resultReturn_sent htile ht ho hsent, ?_⟩
    rw [returns]
    exact ⟨rfl, s.strand_setStrand core slot _⟩
  case waits =>
    intro s core slot op t o x p htile ht ho hsent hspan ⟨e, he, group, behind⟩
    have waits : s.spanReady x = false := Bool.eq_false_iff.2 fun ready =>
      Nat.not_lt_of_le behind ((s.spanReady_iff x).1 ready e he group)
    rw [exec_resultReturn_sent htile ht ho hsent, State.spanReturn_waits hspan waits]
  case vpermValue =>
    intro x p h f d a b instr
    rw [Span.value, instr, spanValue_vperm]
  case vredValue =>
    intro x p h op f d a instr
    rw [Span.value, instr, spanValue_vred]
  case vdotValue =>
    intro x p h f d a b instr
    rw [Span.value, instr, spanValue_vdot]
  case order => exact fun ps p q i j _ _ hi hj lt => sortParts_lt hi hj lt

/-! ## Vector memory (R142 to R146) -/

theorem vld_accesses (h : Hdr) (m : MemF) (d : Fin 16) (a : GOp) :
    Accesses (.vld h m d a) 5 6 (fun c => c.place m.seg.val (c.offM a m.disp) 64 rR 64) fun c l =>
      .go (c.send .vld (.v d) (memClass m.rx) (m.ord == .acq) (parts8 l 0)).2 :=
  ⟨_, fun _ => rfl, fun c r found => by simp only [Bool.false_eq_true, if_false, found]; cases r <;> rfl⟩

theorem vst_accesses (h : Hdr) (m : MemF) (d : Fin 16) (a : GOp) :
    Accesses (.vst h m d a) 5 6 (fun c => c.place m.seg.val (c.offM a m.disp) 64 rW 64) fun c l =>
      .go (c.send .vst .none (memClass m.rx) (m.ord == .acq) (parts8 l (c.v d))).2 :=
  ⟨_, fun _ => rfl, fun c r found => by simp only [if_true, found]; cases r <;> rfl⟩

theorem vldf_accesses (h : Hdr) (m : FolF) (d : Fin 16) (a : GOp) :
    Accesses (.vldf h m d a) 5 6 (fun c => c.place m.seg.val (c.offM a m.disp) 64 rR 64) fun c l =>
      .go (c.send (.vldf m.fmt (modeRm c.t.rmod)) (.v d) (memClass m.rx) false (parts8 l 0)).2 :=
  ⟨_, fun _ => rfl, fun c r found => by simp only [Bool.false_eq_true, if_false, found]; cases r <;> rfl⟩

theorem vstf_accesses (h : Hdr) (m : FolF) (d : Fin 16) (a : GOp) :
    Accesses (.vstf h m d a) 5 6 (fun c => c.place m.seg.val (c.offM a m.disp) 64 rW 64) fun c l =>
      .go (c.send .vstf .none (memClass m.rx) false (parts8 l (BitVec.ofNat 512 (folioWrite m.fmt (c.v d).toNat)))).2 :=
  ⟨_, fun _ => rfl, fun c r found => by simp only [if_true, found]; cases r <;> rfl⟩

/-- The offsets of an indexed access: each element of vA, read as a signed index, with the displacement (R146). -/
def Ctx.elemOffsets (c : Ctx) (m : MemF) (a : Fin 16) : List Nat :=
  (List.range (64 / 2 ^ m.sz.code)).map fun j =>
    (ofN (wrapN 64 (sxNat (8 * 2 ^ m.sz.code) (elemN (8 * 2 ^ m.sz.code) (c.v a).toNat j))) + sx64 m.disp).toNat

theorem Ctx.elemOffsets_eq (c : Ctx) (m : MemF) (a : Fin 16) :
    (((List.range (64 / 2 ^ m.sz.code)).map fun j => elemN (8 * 2 ^ m.sz.code) (c.v a).toNat j).map fun x =>
      (ofN (wrapN 64 (sxNat (8 * 2 ^ m.sz.code) x)) + sx64 m.disp).toNat) = c.elemOffsets m a := List.map_map

theorem vldx_accesses (h : Hdr) (m : MemF) (d a : Fin 16) :
    Accesses (.vldx h m d a) 5 6 (fun c => c.places m.seg.val (2 ^ m.sz.code) rR (c.elemOffsets m a)) fun c ls =>
      .go (c.send .vldx (.v d) (memClass m.rx) false (ls.zipIdx.map fun p => partAt p.1 (2 ^ m.sz.code) 0)).2 :=
  ⟨_, fun _ => rfl, fun c r found => by simp only [Bool.false_eq_true, if_false, Ctx.elemOffsets_eq, found]; cases r <;> rfl⟩

theorem vstx_accesses (h : Hdr) (m : MemF) (d a : Fin 16) :
    Accesses (.vstx h m d a) 5 6 (fun c => c.places m.seg.val (2 ^ m.sz.code) rW (c.elemOffsets m a)) fun c ls =>
      .go (c.send .vstx .none (memClass m.rx) false
        (ls.zipIdx.map fun p => partAt p.1 (2 ^ m.sz.code) (ofN (elemN (8 * 2 ^ m.sz.code) (c.v d).toNat p.2)))).2 :=
  ⟨_, fun _ => rfl, fun c r found => by simp only [if_true, Ctx.elemOffsets_eq, found]; cases r <;> rfl⟩

/-- Settles O18: each instruction is an access by its places, which is sent where they pass and a fault at issue where one fails. -/
theorem vectorMemoryIsSent : Obligations.VectorMemoryIsSent := by
  unfold Obligations.VectorMemoryIsSent
  refine ⟨?vld, ?vst, ?vldf, ?vstf, ?vldx, ?vstx, ?vldFault, ?vstFault, ?vldfFault, ?vstfFault, ?vldxFault, ?vstxFault⟩
  case vld => exact fun h m d a l => (vld_accesses h m d a).sent l
  case vst => exact fun h m d a l => (vst_accesses h m d a).sent l
  case vldf => exact fun h m d a l => (vldf_accesses h m d a).sent l
  case vstf => exact fun h m d a l => (vstf_accesses h m d a).sent l
  case vldx => exact fun h m d a ls => (vldx_accesses h m d a).sent ls
  case vstx => exact fun h m d a ls => (vstx_accesses h m d a).sent ls
  case vldFault => exact fun h m d a e => (vld_accesses h m d a).refused e
  case vstFault => exact fun h m d a e => (vst_accesses h m d a).refused e
  case vldfFault => exact fun h m d a e => (vldf_accesses h m d a).refused e
  case vstfFault => exact fun h m d a e => (vstf_accesses h m d a).refused e
  case vldxFault => exact fun h m d a e => (vldx_accesses h m d a).refused e
  case vstxFault => exact fun h m d a e => (vstx_accesses h m d a).refused e

/-! ## Special functions (R153, R158, R416) -/

/-- The cluster's special-function unit does not answer: it or the cluster is fenced (R158). -/
def Ctx.sfuFenced (c : Ctx) : Bool := c.s.isFenced .sfu (clusterOf c.core) || c.s.clusterFenced (clusterOf c.core)

/-- The operation of an `sfn` with result `r` as its request leaves it: answered in two frames where the unit is fenced or has reported. -/
def Ctx.sfnSent (c : Ctx) (d : Dest) (r : Nat × FlagWord) (fenced answered : Bool) : Ctx :=
  let sent := (c.op d).2.setOp (c.op d).1 fun o => { o with
    stage := if answered then .done else .sent, val := BitVec.ofNat 512 r.1, flags := if fenced then 0 else r.2,
    fault := if fenced then some { cls := 5, code := 3 } else none }
  if answered then sent.replyIn 2 (c.op d).1 else sent

theorem exec_sfn (h : Hdr) (f : Fmt) (d a b : GOp) (fn : BitVec 16) (s : State) :
    exec (.sfn h f d a b fn) s = issue (formOf (.sfn h f d a b fn)) s fun c =>
      .go (c.sfnSent (c.dest d) (sfnValue fn.toNat (modeRm c.t.rmod) f (c.g a).toNat (c.g b).toNat) c.sfuFenced
        (c.sfuFenced || c.s.isReady .sfu (clusterOf c.core))) := rfl

/-- Settles O22: whether the unit is fenced, and whether it has reported, says which answer the operation gets. -/
theorem specialFunctionResult : Obligations.SpecialFunctionResult := by
  unfold Obligations.SpecialFunctionResult
  refine ⟨?ready, ?fenced, ?unreported⟩
  case ready =>
    refine fun h f d a b fn => .of_go (exec_sfn h f d a b fn) fun c ⟨unit, cluster, ready⟩ => ?_
    rw [show c.sfuFenced = false by simp [Ctx.sfuFenced, unit, cluster], ready]
    rfl
  case fenced =>
    refine fun h f d a b fn => .of_go (exec_sfn h f d a b fn) fun c fenced => ?_
    rw [show c.sfuFenced = true by simpa [Ctx.sfuFenced] using fenced]
    rfl
  case unreported =>
    refine fun h f d a b fn => .of_go (exec_sfn h f d a b fn) fun c ⟨unit, cluster, unready⟩ => ?_
    rw [show c.sfuFenced = false by simp [Ctx.sfuFenced, unit, cluster], unready]
    rfl

end Sys2Proof.Machine
end

section
/-! Arrivals on the register network (R41, R162, R163, R170 to R176): port words, credits, posts, and the messages of engines and faults. -/

namespace Sys2Proof.Machine

open Sys2Proof

/-! ## Port words and credits (R162, R163, R170, R176) -/

section
variable {s : State} {m : Msg} {q : QId} {v : Word} {g : Gathering}

theorem exec_portWordArrive (msg : Nat) (s : State) : exec (.portWordArrive msg) s = execPortWordArrive msg s := rfl

/-- A due word of a live gathering enters its queue, or the returns queue of a core whose strands are saved (R162, R176). -/
theorem execPortWordArrive_live (hdue : dueMsg s m) (hkind : m.kind = .word q v) (hg : s.gathering q.vol q.gidx = some g) :
    execPortWordArrive m.id s = .next ((s.took m.id).setCore m.dst (if (s.core m.dst).away q.vol q.gidx
      then { s.core m.dst with returns := (s.core m.dst).returns ++ [.word { q := q, val := v, frame := s.clk.frame }] }
      else { s.core m.dst with words := insertWord { q := q, val := v, frame := s.clk.frame } (s.core m.dst).words })) := by
  obtain ⟨found, due⟩ := hdue
  have live : ((s.took m.id).gathering q.vol q.gidx).isNone = false := congrArg Option.isNone hg
  simp only [execPortWordArrive, found, hkind, Nat.not_lt_of_le due, if_false]
  exact if_neg (Bool.eq_false_iff.1 live)

/-- A due word of a gathering that has ended is gone (R170). -/
theorem execPortWordArrive_ended (hdue : dueMsg s m) (hkind : m.kind = .word q v) (hg : s.gathering q.vol q.gidx = none) :
    execPortWordArrive m.id s = .next (s.took m.id) := by
  obtain ⟨found, due⟩ := hdue
  have ended : ((s.took m.id).gathering q.vol q.gidx).isNone = true := congrArg Option.isNone hg
  simp only [execPortWordArrive, found, hkind, Nat.not_lt_of_le due, if_false]
  exact if_pos ended

theorem exec_creditReturn (msg : Nat) (s : State) : exec (.creditReturn msg) s = execCreditReturn msg s := rfl

/-- A due credit lowers what its queue has spent (R163). -/
theorem execCreditReturn_due (hdue : dueMsg s m) (hkind : m.kind = .credit q) :
    execCreditReturn m.id s = .next ((s.took m.id).spend q (-1)) := by
  obtain ⟨found, due⟩ := hdue
  simp only [execCreditReturn, found, hkind, Nat.not_lt_of_le due, if_false, State.took]

/-- A credit given back is one less spent of its queue. -/
theorem State.spend_back (hg : s.gathering q.vol q.gidx = some g) :
    s.spend q (-1) = s.setGathering { g with spent := aput g.spent q ((aget g.spent q).getD 0 - 1) } := by
  have back (n : Nat) : ((n : Int) + -1).toNat = n - 1 := by omega
  simp only [State.spend, hg, back]

end

/-! ## Posts (R172, R175) -/

/-- The inbox message that a post brings. -/
def State.postIn (s : State) (m : Msg) (vol lane : Nat) (word : Word) : InMsg :=
  { vol := vol, lane := lane, src := 0, from_ := m.core, frame := s.clk.frame, word := word }

/-- A post has its status: with 0 its message is delivered, and any status is on its way back (R175). -/
def State.postAnswered (s : State) (m : Msg) (vol lane : Nat) (word : Word) (op status : Nat) : State :=
  (if status = 0 then s.deliver m.dst (s.postIn m vol lane word) else s).replyOp m.core m.slot op
    (s.clk.frame + hops m.core m.dst + 1) (ofN status)

section
variable {s : State} {m : Msg} {vol lane gidx bad op : Nat} {byRole : Bool} {word : Word}

theorem exec_postArrive (msg : Nat) (s : State) : exec (.postArrive msg) s = execPostArrive msg s := rfl

/-- A due post is answered once the engines' messages that wait for its inbox have been tried (R174, R175). -/
theorem execPostArrive_due (hdue : dueMsg s m) (hkind : m.kind = .post vol lane byRole word gidx bad op) :
    execPostArrive m.id s = .next (((s.took m.id).heldFirst m.dst vol).postAnswered m vol lane word op
      (if bad != 0 then 2 else ((s.took m.id).heldFirst m.dst vol).postStatus m vol lane byRole gidx)) := by
  obtain ⟨found, due⟩ := hdue
  simp only [execPostArrive, found, hkind, Nat.not_lt_of_le due, if_false, beq_iff_eq]
  rfl

/-- A well-formed post has the status that its core finds. -/
theorem exec_postArrive_wellFormed {s1 : State} (hdue : dueMsg s m) (hkind : m.kind = .post vol lane byRole word gidx 0 op)
    (hs1 : s1 = (s.took m.id).heldFirst m.dst vol) :
    exec (.postArrive m.id) s = .next (s1.postAnswered m vol lane word op (s1.postStatus m vol lane byRole gidx)) := by
  rw [exec_postArrive, execPostArrive_due hdue hkind, ← hs1]
  rfl

end

/-- No message waits, so none goes before a post. -/
theorem State.heldFirst_none {s : State} {core vol : Nat} (h : s.engFor core vol = []) : s.heldFirst core vol = s := by
  rw [State.heldFirst, h, List.foldl_nil]

/-- A volume whose queues are not switched to the returns queue has its messages in the inbox (R176). -/
theorem State.deliver_here {s : State} {core : Nat} {m : InMsg} (h : (s.core core).awayVol m.vol = false) :
    s.deliver core m = s.setCore core { s.core core with inbox := insertMsg m (s.core core).inbox } := by
  simp only [State.deliver, h, Bool.false_eq_true, if_false]

@[simp] theorem State.deliver_fab (s : State) (core : Nat) (m : InMsg) : (s.deliver core m).fab = s.fab := by
  simp only [State.deliver]
  split
  · rfl
  · rfl

/-! ## Engine messages (R172, R174) -/

/-- No earlier message to the same lane waits (R174). -/
def State.engFirst (s : State) (m : EngMsg) : Bool :=
  !(s.fab.eng.any fun x => decide (x.id < m.id) && x.core == m.core && x.vol == m.vol && x.lane == m.lane)

/-- The inbox has room: slot 63's 16 entries, or the volume's reservation (R174). -/
def State.engRoom (s : State) (m : EngMsg) : Bool :=
  decide (if m.vol == 0 then (s.core m.core).inbox.countP (·.vol == 0) < 16
    else s.inboxUsed m.vol m.core < ((s.volume m.vol).map Volume.inboxN).getD 0)

section
variable {s : State} {m : EngMsg} {v : Volume}

theorem State.engFirst_iff :
    s.engFirst m = true ↔ ∀ x ∈ s.fab.eng, x.id < m.id → x.core = m.core → x.vol = m.vol → x.lane ≠ m.lane := by
  simp [State.engFirst]

theorem State.engRoom_supervisor (hvol : m.vol = 0) : s.engRoom m = decide ((s.core m.core).inbox.countP (·.vol == 0) < 16) := by
  simp only [State.engRoom, hvol, beq_self_eq_true, if_true]

theorem State.engRoom_volume (hvol : m.vol ≠ 0) (hv : s.volume m.vol = some v) :
    s.engRoom m = decide (s.inboxUsed m.vol m.core < v.inboxN) := by
  simp only [State.engRoom, beq_eq_false_iff_ne.2 hvol, Bool.false_eq_true, if_false, hv, Option.map_some, Option.getD_some]

/-- An engine's message is delivered or held. -/
theorem State.deliverEng_eq (s : State) (m : EngMsg) :
    s.deliverEng m = if s.engFirst m && s.engRoom m then s.engDelivered m else s.engHeld m := rfl

theorem exec_engineMessageDeliver (id : Nat) (s : State) : exec (.engineMessageDeliver id) s = execEngineMessageDeliver id s := rfl

/-- The first message to its lane enters an inbox with room, and the next ones are to be tried. -/
theorem execEngineMessageDeliver_room (found : s.fab.eng.find? (·.id == m.id) = some m) (first : s.engFirst m = true)
    (room : s.engRoom m = true) : execEngineMessageDeliver m.id s = .next ((s.engDelivered m).nextHeld m.core m.vol) := by
  have gone : (s.engDelivered m).fab.eng.any (·.id == m.id) = false := by simp [State.engDelivered]
  simp only [execEngineMessageDeliver, found, State.deliverEng_eq, first, room, Bool.and_self, if_true, gone, Bool.false_eq_true, if_false]
  rfl

/-- A message that finds no room stays, and is held. -/
theorem execEngineMessageDeliver_full (found : s.fab.eng.find? (·.id == m.id) = some m) (full : s.engRoom m = false) :
    execEngineMessageDeliver m.id s = .next (s.engHeld m) := by
  have stays : (s.engHeld m).fab.eng.any (·.id == m.id) = true :=
    List.any_eq_true.2 ⟨{ m with held := true }, List.mem_map.2 ⟨m, List.mem_of_find?_eq_some found, by simp⟩, by simp⟩
  simp only [execEngineMessageDeliver, found, State.deliverEng_eq, full, Bool.and_false, Bool.false_eq_true, if_false, stays, if_true]

end

/-! ## Fault messages (R41, R174) -/

theorem exec_faultMessageDeliver (id : Nat) (s : State) : exec (.faultMessageDeliver id) s = execFaultMessageDeliver id s := rfl

/-- Settles O33: each arrival takes its message off the network and then does what the lemma of its case says. -/
theorem networkArrivals : Obligations.NetworkArrivals := by
  unfold Obligations.NetworkArrivals
  refine ⟨?queued, ?returned, ?ended, ?credit, ?delivered, ?refused, ?malformed, ?noneHeld, ?room, ?full, ?inbox, ?supFull,
    ?supervisor, ?curator⟩
  case queued =>
    intro s m q v g hdue hkind hg here
    rw [exec_portWordArrive, execPortWordArrive_live hdue hkind hg, if_neg (Bool.eq_false_iff.1 here)]
  case returned =>
    intro s m q v g hdue hkind hg away
    rw [exec_portWordArrive, execPortWordArrive_live hdue hkind hg, if_pos away]
  case ended => exact fun s m q v hdue hkind hg => execPortWordArrive_ended hdue hkind hg
  case credit =>
    intro s m q g hdue hkind hg
    rw [exec_creditReturn, execCreditReturn_due hdue hkind, State.spend_back (s := s.took m.id) hg]
  case delivered =>
    intro s m vol lane byRole word gidx op s1 hdue hkind hs1 status
    rw [exec_postArrive_wellFormed hdue hkind hs1, State.postAnswered, if_pos status, status]
    rfl
  case refused =>
    intro s m vol lane byRole word gidx op s1 hdue hkind hs1 status
    rw [exec_postArrive_wellFormed hdue hkind hs1, State.postAnswered, if_neg status]
  case malformed =>
    intro s m vol lane byRole word gidx op bad s1 hdue hkind hbad hs1
    rw [exec_postArrive, execPostArrive_due hdue hkind, ← hs1, if_pos (bne_iff_ne.2 hbad)]
    rfl
  case noneHeld => exact fun s core vol h => State.heldFirst_none h
  case room =>
    intro s m found first room
    refine execEngineMessageDeliver_room found (State.engFirst_iff.2 first) ?_
    rcases room with ⟨hvol, room⟩ | ⟨hvol, v, hv, room⟩
    · rw [State.engRoom_supervisor hvol, decide_eq_true room]
    · rw [State.engRoom_volume hvol hv, decide_eq_true room]
  case full =>
    intro s m v found hvol hv full
    refine execEngineMessageDeliver_full found ?_
    rw [State.engRoom_volume hvol hv, decide_eq_false (Nat.not_lt_of_le full)]
  case inbox => exact fun s core m here => State.deliver_here here
  case supFull =>
    intro s m found hvol full
    refine execEngineMessageDeliver_full found ?_
    rw [State.engRoom_supervisor hvol, decide_eq_false (Nat.not_lt_of_le full)]
  case supervisor =>
    intro s m k found hdst room
    simp only [exec_faultMessageDeliver, execFaultMessageDeliver, found, hdst, room, if_true]
    rfl
  case curator =>
    intro s m found hdst
    simp only [exec_faultMessageDeliver, execFaultMessageDeliver, found, hdst]

end Sys2Proof.Machine
end

section
/-! SUPPORT. Candidate executions (R209 to R217): orders given as lists, and what an allowed candidate keeps, axiom by axiom. -/

namespace Sys2Proof.Machine

/-! ## Orders given as lists -/

theorem listed_iff {l : List Nat} {a b : Nat} : listed l a b = true ↔ a ∈ l ∧ b ∈ l ∧ l.idxOf a < l.idxOf b := by
  simp [listed, and_assoc]

theorem listed_irrefl (l : List Nat) (a : Nat) : ¬ listed l a a = true := fun h => Nat.lt_irrefl _ (listed_iff.1 h).2.2

theorem listed_trans {l : List Nat} {a b d : Nat} (hab : listed l a b = true) (hbd : listed l b d = true) : listed l a d = true := by
  obtain ⟨ha, -, hlt⟩ := listed_iff.1 hab
  obtain ⟨-, hd, hlt'⟩ := listed_iff.1 hbd
  exact listed_iff.2 ⟨ha, hd, Nat.lt_trans hlt hlt'⟩

theorem eq_of_idxOf_eq {l : List Nat} {a b : Nat} (ha : a ∈ l) (hb : b ∈ l) (h : l.idxOf a = l.idxOf b) : a = b :=
  calc a = l[l.idxOf a]'(List.idxOf_lt_length_iff.2 ha) := (List.getElem_idxOf _).symm
    _ = l[l.idxOf b]'(List.idxOf_lt_length_iff.2 hb) := by simp only [h]
    _ = b := List.getElem_idxOf _

theorem listed_total {l : List Nat} {a b : Nat} (ha : a ∈ l) (hb : b ∈ l) (hne : a ≠ b) : listed l a b = true ∨ listed l b a = true :=
  (Nat.lt_or_gt_of_ne fun e => hne (eq_of_idxOf_eq ha hb e)).imp (fun h => listed_iff.2 ⟨ha, hb, h⟩) fun h => listed_iff.2 ⟨hb, ha, h⟩

namespace Candidate

variable {c : Candidate} {i j k r w : Nat}

/-! ## Coherence order (R209) -/

theorem isAccess_of_isRead (h : c.isRead i = true) : c.isAccess i = true := by rw [isAccess, h, Bool.true_or]

theorem isAccess_of_isWrite (h : c.isWrite i = true) : c.isAccess i = true := by rw [isAccess, h, Bool.or_true]

theorem lt_size_of_isAccess (h : c.isAccess i = true) : i < c.size := by
  simp only [isAccess, isRead, isWrite, Bool.or_eq_true, Bool.and_eq_true, decide_eq_true_eq] at h
  exact h.elim (·.1) (·.1)

theorem lt_size_of_sameLoc (h : c.sameLoc i j = true) : i < c.size ∧ j < c.size := by
  simp only [sameLoc, Bool.and_eq_true] at h
  obtain ⟨⟨hi, hj⟩, -⟩ := h
  exact ⟨lt_size_of_isAccess hi, lt_size_of_isAccess hj⟩

theorem lt_size_of_over (h : c.over i j = true) : i < c.size ∧ j < c.size :=
  lt_size_of_sameLoc (Bool.and_eq_true_iff.1 h).1

/-- The write `w` is the last of its word in co. -/
def last (c : Candidate) (w : Nat) : Bool := (List.range c.size).all fun u => !c.over w u

theorem last_iff : c.last w = true ↔ ∀ u, c.over w u = false := by
  simp only [last, List.all_eq_true, List.mem_range, Bool.not_eq_true']
  exact ⟨fun h u => Bool.eq_false_iff.2 fun hu => Bool.eq_false_iff.1 (h u (lt_size_of_over hu).2) hu, fun h u _ => h u⟩

theorem reads_of_rf {m : BitVec 8} (hrf : (w, r, m) ∈ c.rf) : c.reads w r = true :=
  List.any_eq_true.2 ⟨_, hrf, by simp only [beq_self_eq_true, Bool.and_self]⟩

/-- A read of a whole word is fr-before a write of the whole word that is co-after the write it reads. -/
theorem fr_of_rf (hrf : (w, r, 0xFF) ∈ c.rf) (hk : c.over w k = true) (hbytes : (c.event k).bytes = 0xFF) : c.fr r k = true :=
  List.any_eq_true.2 ⟨_, hrf, by simp [hk, hbytes]⟩

theorem conflict_of_reads (h : c.reads i j = true) : c.conflict i j = true := by
  simp only [conflict, h, Bool.true_or]

theorem conflict_of_over (h : c.over i j = true) : c.conflict i j = true := by
  simp only [conflict, h, Bool.or_true, Bool.true_or]

theorem conflict_of_fr (h : c.fr i j = true) : c.conflict i j = true := by
  simp only [conflict, h, Bool.or_true]

/-! ## The choices of an outcome (R217) -/

/-- The candidate with co and S chosen. -/
def chosen (c : Candidate) (co s : List Nat) : Candidate := { c with co := co, s := s }

theorem outcomeAllowed_iff {final : List Nat} :
    outcomeAllowed c final ↔ ∃ co s, (c.chosen co s).allowed = true ∧ ∀ w ∈ final, ∀ u, (c.chosen co s).over w u = false := Iff.rfl

/-- An outcome is allowed by the co and the S that show it. -/
theorem outcomeAllowed_of_chosen {final : List Nat} (co s : List Nat) (hallowed : (c.chosen co s).allowed = true)
    (hlast : final.all (c.chosen co s).last = true) : outcomeAllowed c final :=
  outcomeAllowed_iff.2 ⟨co, s, hallowed, fun w hw => last_iff.1 (List.all_eq_true.1 hlast w hw)⟩

/-! ## What an allowed candidate keeps -/

theorem allowed_iff : c.allowed = true ↔ c.wf = true ∧ c.coherence = true ∧ c.atomicity = true ∧ c.plainOrder = true ∧
    c.causality = true ∧ c.landing = true := by
  simp only [allowed, Bool.and_eq_true, and_assoc]

theorem mem_co_of_wf (h : c.wf = true) (hw : c.isWrite i = true) : i ∈ c.co := by
  have hi : i < c.size := lt_size_of_isAccess (isAccess_of_isWrite hw)
  simp only [wf, Bool.and_eq_true] at h
  obtain ⟨⟨⟨⟨⟨-, hco⟩, -⟩, -⟩, -⟩, -⟩ := h
  simpa [hw] using List.all_eq_true.1 hco i (List.mem_range.2 hi)

theorem mem_s_of_wf (h : c.wf = true) (hm : c.member i = true) : i ∈ c.s := by
  have hi : i < c.size := by
    simp only [member, Bool.and_eq_true, decide_eq_true_eq] at hm
    obtain ⟨⟨⟨hi, -⟩, -⟩, -⟩ := hm
    exact hi
  simp only [wf, Bool.and_eq_true] at h
  obtain ⟨-, hs⟩ := h
  simpa [hm] using List.all_eq_true.1 hs i (List.mem_range.2 hi)

/-- An initial write of a word is co-before every other write of it. -/
theorem over_of_start (h : c.allowed = true) (hj : c.isWrite j = true) (hsi : ((c.event i).who == .start) = true)
    (hsj : ((c.event j).who != .start) = true) (hloc : c.sameLoc i j = true) : c.over i j = true := by
  obtain ⟨hi, hj'⟩ := lt_size_of_sameLoc hloc
  have hwf := (allowed_iff.1 h).1
  simp only [wf, Bool.and_eq_true] at hwf
  obtain ⟨⟨⟨⟨-, hstart⟩, -⟩, -⟩, -⟩ := hwf
  have hij := List.all_eq_true.1 (List.all_eq_true.1 hstart i (List.mem_range.2 hi)) j (List.mem_range.2 hj')
  rwa [hsi, hsj, hloc, hj, Bool.and_self, Bool.and_self, Bool.and_self, Bool.not_true, Bool.false_or] at hij

/-- co is total on the writes of one word. -/
theorem over_total (h : c.allowed = true) (hi : c.isWrite i = true) (hj : c.isWrite j = true) (hloc : (c.event i).loc = (c.event j).loc)
    (hne : i ≠ j) : c.over i j = true ∨ c.over j i = true := by
  have hwf := (allowed_iff.1 h).1
  simpa [Candidate.over, sameLoc, isAccess, hi, hj, hloc] using listed_total (mem_co_of_wf hwf hi) (mem_co_of_wf hwf hj) hne

theorem over_of_not_over (h : c.allowed = true) (hij : c.over i j = false) (hi : c.isWrite i = true) (hj : c.isWrite j = true)
    (hloc : (c.event i).loc = (c.event j).loc) (hne : i ≠ j) : c.over j i = true :=
  (over_total h hi hj hloc hne).resolve_left (Bool.eq_false_iff.1 hij)

theorem listed_s_of_plainOrder (h : c.allowed = true) (hi : c.member i = true) (hj : c.member j = true)
    (hr : ((c.po i j && ((c.event i).ordered || c.isFence i) && ((c.event j).ordered || c.isFence j)) ||
      (c.fo i j && (if c.isFence i then c.counts i else c.counts j)) || c.conflict i j) = true) : listed c.s i j = true := by
  obtain ⟨hwf, -, -, hplain, -⟩ := allowed_iff.1 h
  have hij := List.all_eq_true.1 (List.all_eq_true.1 hplain i (mem_s_of_wf hwf hi)) j (mem_s_of_wf hwf hj)
  rwa [hr, Bool.not_true, Bool.false_or] at hij

/-- S keeps rf, co and fr between its members (R214). -/
theorem listed_s_of_conflict (h : c.allowed = true) (hi : c.member i = true) (hj : c.member j = true) (hc : c.conflict i j = true) :
    listed c.s i j = true := listed_s_of_plainOrder h hi hj (by rw [hc, Bool.or_true])

/-- S keeps the program order of ordered accesses (R214). -/
theorem listed_s_of_po (h : c.allowed = true) (hi : c.member i = true) (hj : c.member j = true) (hpo : c.po i j = true)
    (hoi : (c.event i).ordered = true) (hoj : (c.event j).ordered = true) : listed c.s i j = true :=
  listed_s_of_plainOrder h hi hj (by simp only [hpo, hoi, hoj, Bool.true_or, Bool.and_true])

/-- No write of another party falls between the read and the write of a read-modify-write (R213). -/
theorem over_eq_false_of_atomicity (h : c.allowed = true) (hr : c.isRead r = true) (hp : (c.event r).pair = some w) (hfr : c.fr r k = true)
    (hrk : c.ext r k = true) (hkw : c.ext k w = true) : c.over k w = false := by
  refine Bool.eq_false_iff.2 fun hover => ?_
  obtain ⟨-, -, hatom, -⟩ := allowed_iff.1 h
  have hsize : r < c.size := lt_size_of_isAccess (isAccess_of_isRead hr)
  have hrow := List.all_eq_true.1 hatom r (List.mem_range.2 hsize)
  rw [hr, hp, Bool.not_true, Bool.false_or, Option.all_some] at hrow
  simpa [hfr, hrk, hkw, hover] using List.all_eq_true.1 hrow k (List.mem_range.2 (lt_size_of_over hover).1)

end Candidate

end Sys2Proof.Machine
end

section
/-! The verdicts on a release sequence with a plain store (R227): a plain C1 which is co-after A2 closes a cycle of S, and the choices
of co and S that show each allowed outcome. -/

namespace Sys2Proof.Machine

open Candidate

/-- Plain order forbids that C1 (6) is co-after A2 (3) while D reads cnt from C1 (7) and the initial x (8): A1 (2) S A2 S C1 S Dr S Dx
and, by fr, Dx S A1. -/
theorem releaseSequence_A2_not_over_C1 {b : Nat} {co s : List Nat} (h : ((releaseSequenceRun true b 0).chosen co s).allowed = true) :
    ((releaseSequenceRun true b 0).chosen co s).over 3 6 = false := by
  refine Bool.eq_false_iff.2 fun hover => ?_
  have hrfDr : (6, 7, 0xFF) ∈ ((releaseSequenceRun true b 0).chosen co s).rf := by simp [chosen, releaseSequenceRun]
  have hrfDx : (0, 8, 0xFF) ∈ ((releaseSequenceRun true b 0).chosen co s).rf := by simp [chosen, releaseSequenceRun]
  have hA1A2 : listed s 2 3 = true := listed_s_of_po h rfl rfl rfl rfl rfl
  have hA2C1 : listed s 3 6 = true := listed_s_of_conflict h rfl rfl (conflict_of_over hover)
  have hC1Dr : listed s 6 7 = true := listed_s_of_conflict h rfl rfl (conflict_of_reads (reads_of_rf hrfDr))
  have hDrDx : listed s 7 8 = true := listed_s_of_po h rfl rfl rfl rfl rfl
  have hx : ((releaseSequenceRun true b 0).chosen co s).over 0 2 = true := over_of_start h rfl rfl rfl rfl
  have hDxA1 : listed s 8 2 = true := listed_s_of_conflict h rfl rfl (conflict_of_fr (fr_of_rf hrfDx hx rfl))
  exact listed_irrefl s 2 (listed_trans hA1A2 (listed_trans hA2C1 (listed_trans hC1Dr (listed_trans hDrDx hDxA1))))

/-- C1 (6) is not the last write of cnt: A2 (3) would be co-before it. -/
theorem releaseSequence_C1_not_last (b : Nat) : ¬ outcomeAllowed (releaseSequenceRun true b 0) [6] := by
  rw [outcomeAllowed_iff]
  rintro ⟨co, s, h, hlast⟩
  have hA2C1 := over_of_not_over h (hlast 6 (List.mem_singleton.2 rfl) 3) rfl rfl rfl (by decide)
  exact Bool.eq_false_iff.1 (releaseSequence_A2_not_over_C1 h) hA2C1

/-- B's increment of C1's 3 (4 and 5) is not the last write of cnt: A2 (3), co-after C1 (6), would fall between its read and its write. -/
theorem releaseSequence_increment_of_C1_not_last : ¬ outcomeAllowed (releaseSequenceRun true 6 0) [5] := by
  rw [outcomeAllowed_iff]
  rintro ⟨co, s, h, hlast⟩
  have hC1A2 := over_of_not_over h (releaseSequence_A2_not_over_C1 h) rfl rfl rfl (by decide)
  have hA2B := over_of_not_over h (hlast 5 (List.mem_singleton.2 rfl) 3) rfl rfl rfl (by decide)
  have hfr : ((releaseSequenceRun true 6 0).chosen co s).fr 4 3 = true := fr_of_rf List.mem_cons_self hC1A2 rfl
  exact Bool.eq_false_iff.1 (over_eq_false_of_atomicity h rfl rfl hfr rfl rfl) hA2B

/-- Settles O60: each allowed outcome by a co and an S that show it (with C1 relaxed, S holds A's stores after D's reads), each
forbidden one by the cycle that C1 closes in S, or by atomicity. -/
theorem releaseSequenceVerdicts : Obligations.ReleaseSequenceVerdicts := by
  unfold Obligations.ReleaseSequenceVerdicts
  refine ⟨?finalA2, ?finalB, releaseSequence_C1_not_last, releaseSequence_increment_of_C1_not_last, ?readsA1,
    ?relaxedFinalA2, ?relaxedFinalB, ?relaxedFinalC1, ?relaxedFinalBofC1⟩
  case finalA2 => exact outcomeAllowed_of_chosen [0, 2, 1, 6, 5, 3] [6, 7, 8, 2, 3] (by decide +kernel) (by decide +kernel)
  case finalB => exact outcomeAllowed_of_chosen [0, 2, 1, 6, 3, 5] [6, 7, 8, 2, 3] (by decide +kernel) (by decide +kernel)
  case readsA1 => exact outcomeAllowed_of_chosen [0, 2, 1, 3, 6, 5] [2, 3, 6, 7, 8] (by decide +kernel) (by decide +kernel)
  case relaxedFinalA2 => exact outcomeAllowed_of_chosen [0, 2, 1, 6, 5, 3] [7, 8, 2, 3] (by decide +kernel) (by decide +kernel)
  case relaxedFinalB => exact outcomeAllowed_of_chosen [0, 2, 1, 6, 3, 5] [7, 8, 2, 3] (by decide +kernel) (by decide +kernel)
  case relaxedFinalC1 => exact outcomeAllowed_of_chosen [0, 2, 1, 3, 5, 6] [7, 8, 2, 3] (by decide +kernel) (by decide +kernel)
  case relaxedFinalBofC1 => exact outcomeAllowed_of_chosen [0, 2, 1, 3, 6, 5] [7, 8, 2, 3] (by decide +kernel) (by decide +kernel)

end Sys2Proof.Machine
end

section
/-! Segment descriptors (R229, R231): what well-formed asks by type, and the statement. -/

namespace Sys2Proof.Machine

open Sys2Proof

/-- One bit of a number (core Lean states this for `testBit` only). -/
theorem and_two_pow_eq (n i : Nat) : n &&& 2 ^ i = if n.testBit i then 2 ^ i else 0 := by
  refine Nat.eq_of_testBit_eq fun j => ?_
  rw [Nat.testBit_and, Nat.testBit_two_pow]
  cases bit : n.testBit i with
  | true =>
    rw [if_pos rfl, Nat.testBit_two_pow]
    by_cases same : i = j
    · rw [← same, bit, Bool.true_and]
    · rw [decide_eq_false same, Bool.and_false]
  | false =>
    rw [if_neg Bool.false_ne_true, Nat.zero_testBit]
    by_cases same : i = j
    · rw [← same, bit, Bool.false_and]
    · rw [decide_eq_false same, Bool.and_false]

/-- A right is absent when its bit is 0. -/
theorem hasRights_two_pow_eq_false {rights i : Nat} : hasRights rights (2 ^ i) = false ↔ rights &&& 2 ^ i = 0 := by
  have pos : 2 ^ i ≠ 0 := Nat.ne_of_gt (Nat.two_pow_pos i)
  rw [hasRights, beq_eq_false_iff_ne, and_two_pow_eq]
  split
  · exact ⟨fun h => absurd rfl h, fun h => absurd h pos⟩
  · exact ⟨fun _ => rfl, fun _ => pos.symm⟩

/-- Two rights are absent together when each of them is. -/
theorem and_rF_add_rA_eq_zero {rights : Nat} :
    rights &&& (rF + rA) = 0 ↔ hasRights rights rF = false ∧ hasRights rights rA = false :=
  calc rights &&& (rF + rA) = 0
    _ ↔ rights &&& 2 ^ 3 ||| rights &&& 2 ^ 4 = 0 := by rw [← Nat.and_or_distrib_left]; rfl
    _ ↔ rights &&& 2 ^ 3 = 0 ∧ rights &&& 2 ^ 4 = 0 := Nat.or_eq_zero_iff
    _ ↔ hasRights rights (2 ^ 3) = false ∧ hasRights rights (2 ^ 4) = false :=
      and_congr hasRights_two_pow_eq_false.symm hasRights_two_pow_eq_false.symm

/-- What a descriptor of any type needs: its reserved bits are 0 and its type is assigned. -/
def descPlain (d : Desc) : Prop := bitsN d.toNat 127 112 = 0 ∧ bitsN d.toNat 54 48 = 0 ∧ descType d ≤ 5

section
variable {d : Desc}

theorem descWf_none (ht : descType d = 0) : descWf d = true ↔ descPlain d := by
  simp [descWf, descPlain, ht]

theorem descWf_virtual (ht : descType d = 1) : descWf d = true ↔ descPlain d ∧ descBase d + descLimit d ≤ 2 ^ 48 := by
  simp [descWf, descPlain, ht]

theorem descWf_buffer (ht : 2 ≤ descType d) : descWf d = true ↔ descPlain d ∧
    (descBase d + descLimit d ≤ bufSize (descType d) ∧ hasRights (descRights d) rX = false) ∧
    (descType d = 4 → hasRights (descRights d) rF = false ∧ hasRights (descRights d) rA = false) := by
  have ht1 : descType d ≠ 1 := by omega
  simp [descWf, descPlain, ht, ht1, ← and_rF_add_rA_eq_zero, and_assoc, Decidable.imp_iff_not_or]

theorem descWf_iff : descWf d = true ↔ descPlain d ∧
    (2 ≤ descType d → descBase d + descLimit d ≤ bufSize (descType d) ∧ hasRights (descRights d) rX = false) ∧
    (descType d = 1 → descBase d + descLimit d ≤ 2 ^ 48) ∧
    (descType d = 4 → hasRights (descRights d) rF = false ∧ hasRights (descRights d) rA = false) := by
  obtain ht | ht | ht : descType d = 0 ∨ descType d = 1 ∨ 2 ≤ descType d := by omega
  · simp [descWf_none ht, ht]
  · simp [descWf_virtual ht, ht]
  · simp [descWf_buffer ht, ht, show descType d ≠ 1 by omega]

end

/-- Settles O48: by type, well-formed asks the clauses of the rule; a descriptor of type 0 is stopped by the first check of R231. -/
theorem wellFormedDescriptors : Obligations.WellFormedDescriptors := by
  unfold Obligations.WellFormedDescriptors
  refine ⟨fun d => descWf_iff, ⟨rfl, rfl, rfl, rfl⟩, ?none, ?worked⟩
  case none =>
    intro d off size need align ht high low
    exact ⟨(descWf_none ht).2 ⟨high, low, by omega⟩, by simp [segCheck, ht]⟩
  case worked => decide

end Sys2Proof.Machine
end

section
/-! SUPPORT. What the curator's events do (R247, R248, R408, R409, R411): a service call taken, the end of a firmware switch, an
invalidation, and an error that no access met. -/

namespace Sys2Proof.Machine

open Sys2Proof

/-! ## Service calls (R408) -/

section
variable {s s1 : State} {core slot n : Nat} {x : SvcCall} {ws : List Word}

/-- A call that is taken is acted on with its argument words. -/
theorem State.svcTake_taken (h : svcTaken s core slot n x s1 ws) (act : State → SvcCall → List Word → State) :
    s.svcTake core slot n act = act s1 x ws := by
  obtain ⟨found, sound, up, noSwitch, arg, res⟩ := h
  simp only [State.svcTake, found, sound, up, noSwitch, arg, res, Option.isSome_none, Bool.not_true, Bool.false_and, Bool.or_self,
    Bool.false_eq_true, if_false]

theorem exec_svcVersion (h : svcTaken s core slot 0 x s1 ws) : exec (.svcVersion core slot) s = .next (
    if ws.getD 0 0 != 0 then s1.svcAnswer (clusterOf core) x 2 []
    else s1.svcAnswer (clusterOf core) x 0 [(if x.rd.isSome then x.ver else (s1.cluster (clusterOf core)).ver).setWidth 64]) :=
  congrArg Host.Outcome.next (State.svcTake_taken h _)

theorem exec_svcResume (h : svcTaken s core slot 1 x s1 ws) {pa : Nat} (h63 : (ws.getD 0 0).getLsbD 63 = false)
    (h61 : (ws.getD 0 0).getLsbD 61 = false) (hz : fld (ws.getD 0 0) 60 48 = 0) (own : s1.ownFaulted x.vol (fld (ws.getD 0 0) 47 0) = some pa) :
    exec (.svcResume core slot) s = .next ((s1.resumeSlip x.vol pa ((ws.getD 0 0).getLsbD 62)).svcAnswer (clusterOf core) x 0 []) := by
  refine congrArg Host.Outcome.next ((State.svcTake_taken h _).trans ?_)
  simp only [h63, h61, hz, own, bne_self_eq_false, Bool.or_self, Bool.false_eq_true, if_false]

theorem exec_svcKill_own (h : svcTaken s core slot 2 x s1 ws) (hz : fld (ws.getD 0 0) 63 48 = 0) {pa : Nat}
    (own : s1.ownFaulted x.vol (fld (ws.getD 0 0) 47 0) = some pa) :
    exec (.svcKill core slot) s = .next ((s1.endSlip x.vol pa).svcAnswer (clusterOf core) x 0 []) := by
  refine congrArg Host.Outcome.next ((State.svcTake_taken h _).trans ?_)
  simp only [hz, own, bne_self_eq_false, Bool.false_eq_true, if_false]

theorem exec_svcKill_other (h : svcTaken s core slot 2 x s1 ws) (hz : fld (ws.getD 0 0) 63 48 = 0)
    (other : s1.ownFaulted x.vol (fld (ws.getD 0 0) 47 0) = none) :
    exec (.svcKill core slot) s = .next (s1.svcAnswer (clusterOf core) x 2 []) := by
  refine congrArg Host.Outcome.next ((State.svcTake_taken h _).trans ?_)
  simp only [hz, other, bne_self_eq_false, Bool.false_eq_true, if_false]

theorem exec_svcPage (h : svcTaken s core slot 3 x s1 ws) (hz : fld (ws.getD 0 0) 63 48 = 0) {s2 : State}
    (joined : s1.joinPage (clusterOf core) x.vol (fld (ws.getD 0 0) 47 12 * 4096) core slot (((s1.strand core slot).map Strand.gidx).getD 0)
      { core := core, lane := 0, res := none, svc := some x.id } = some s2) :
    exec (.svcPage core slot) s = .next (s2.setCluster (clusterOf core) { s2.cluster (clusterOf core) with
      svcs := mapIf (·.id == x.id) (fun y => { y with taken := true, waits := true }) (s2.cluster (clusterOf core)).svcs }) := by
  refine congrArg Host.Outcome.next ((State.svcTake_taken h _).trans ?_)
  simp only [hz, joined, bne_self_eq_false, Bool.false_eq_true, if_false]

end

/-! ## The fence map of SVC_COUNTS (R408) -/

/-- The functions of a cluster in the order of their bits. -/
def countedFuncs (k : Nat) : List Func :=
  ⟨.sfu, k⟩ :: (List.range 8).map (fun i => ⟨.core, 8 * k + i⟩) ++ [⟨.copy, k⟩, ⟨.sel, k⟩, ⟨.red, k⟩, ⟨.bind, k⟩, ⟨.slice, k⟩]

/-- The number whose bits are these, the lowest first. -/
def maskOf : List Bool → Nat
  | [] => 0
  | b :: r => b.toNat + 2 * maskOf r

theorem maskOf_testBit (bs : List Bool) (i : Nat) : (maskOf bs).testBit i = (bs[i]?).getD false := by
  induction bs generalizing i with
  | nil => exact Nat.zero_testBit i
  | cons b r ih =>
    cases i with
    | zero => cases b <;> simp only [maskOf, Nat.testBit_zero, Bool.toNat_true, Bool.toNat_false, List.getElem?_cons_zero,
        Option.getD_some, decide_eq_true_eq, decide_eq_false_iff_not] <;> omega
    | succ i =>
      have half : maskOf (b :: r) / 2 = maskOf r := by cases b <;> simp only [maskOf, Bool.toNat_true, Bool.toNat_false] <;> omega
      rw [Nat.testBit_succ, half, ih, List.getElem?_cons_succ]

/-- Bit i is set when function i is fenced. -/
def State.fenceMap (s : State) (k : Nat) : Word := ofN (maskOf ((countedFuncs k).map s.root.fenced.contains))

theorem countedFuncs_core (k : Nat) {i : Nat} (hi : i < 8) : (countedFuncs k)[1 + i]? = some { kind := .core, index := 8 * k + i } := by
  rw [Nat.add_comm, countedFuncs, List.cons_append, List.getElem?_cons_succ, List.getElem?_append_left (by rwa [List.length_map, List.length_range]),
    List.getElem?_map, List.getElem?_range hi, Option.map_some]

theorem countedFuncs_above (k : Nat) {i : Nat} (hi : 14 ≤ i) : (countedFuncs k)[i]? = none := List.getElem?_eq_none hi

theorem State.fenceMap_bit (s : State) (k i : Nat) :
    (s.fenceMap k).getLsbD i = (((countedFuncs k)[i]?).map s.root.fenced.contains).getD false := by
  rw [State.fenceMap, ofN, BitVec.getLsbD_ofNat, maskOf_testBit, List.getElem?_map]
  by_cases hi : i < 64
  · rw [decide_eq_true hi, Bool.true_and]
  · rw [decide_eq_false hi, Bool.false_and, countedFuncs_above k (by omega), Option.map_none, Option.getD_none]

/-- The model adds a power of two for each function that is fenced. -/
theorem ite_two_pow_eq (b : Bool) (i : Nat) : (if b then 2 ^ i else 0) = 2 ^ i * b.toNat := by
  cases b with
  | false => exact (Nat.mul_zero _).symm
  | true => exact (Nat.mul_one _).symm

theorem exec_svcCounts {s s1 : State} {core slot : Nat} {x : SvcCall} {ws : List Word} (h : svcTaken s core slot 4 x s1 ws)
    (hz : ws.getD 0 0 = 0) : exec (.svcCounts core slot) s =
      .next (s1.svcAnswer (clusterOf core) x 0 [ofN (s1.core core).corrected, s1.fenceMap (clusterOf core)]) := by
  refine congrArg Host.Outcome.next ((State.svcTake_taken h _).trans ?_)
  simp only [hz, bne_self_eq_false, Bool.false_eq_true, if_false, ite_two_pow_eq, State.fenceMap]
  refine congrArg (fun m => s1.svcAnswer (clusterOf core) x 0 [ofN (s1.core core).corrected, ofN m]) ?_
  simp only [State.isFenced, countedFuncs, maskOf, List.range_succ, List.range_zero, List.nil_append, List.cons_append,
    List.map_cons, List.map_nil, List.foldl_cons, List.foldl_nil, Nat.add_zero]
  omega

/-! ## The end of a firmware switch (R409) -/

theorem State.foldl_push_eq (s : State) (is : List Instr) :
    is.foldl State.push s = { s with clk := { s.clk with due := s.clk.due ++ is } } := by
  induction is generalizing s with
  | nil => simp only [List.foldl_nil, List.append_nil]
  | cons i r ih => simp only [List.foldl_cons, ih, State.push, List.append_assoc, List.singleton_append]

/-- Releasing calls changes the calls that wait and the clock only. -/
theorem State.releaseCalls_eq (s : State) (which : Call → Bool) :
    ∃ ws k, s.releaseCalls which = { s with root := { s.root with waiting := ws }, clk := k } :=
  ⟨_, _, State.foldl_push_eq _ _⟩

@[simp] theorem State.releaseCalls_clusters (s : State) (which : Call → Bool) : (s.releaseCalls which).clusters = s.clusters := by
  obtain ⟨ws, k, h⟩ := s.releaseCalls_eq which
  rw [h]

@[simp] theorem State.releaseCalls_m (s : State) (which : Call → Bool) : (s.releaseCalls which).root.m = s.root.m := by
  obtain ⟨ws, k, h⟩ := s.releaseCalls_eq which
  rw [h]

@[simp] theorem State.checkUpdate_cluster (s : State) (k : Nat) : s.checkUpdate.cluster k = s.cluster k := by
  unfold State.checkUpdate State.cluster
  split
  · rfl
  · split
    · rfl
    · rw [State.releaseCalls_clusters]; rfl

@[simp] theorem State.checkUpdate_m (s : State) : s.checkUpdate.root.m = s.root.m := by
  unfold State.checkUpdate
  split
  · rfl
  · split
    · rfl
    · rw [State.releaseCalls_m]; rfl

/-- The cluster is under the new version, its supervisor program measured and replaced. -/
def State.underVersion (s : State) (k : Nat) (v : BitVec 32) : State :=
  ((s.measure .curator 2 (sha3 (Config.supervisorOf v))).setCluster k { s.cluster k with ver := v, switch := none }).installSup k
    (Config.supervisorOf v)

/-- Messages to slot 63 of cores change the network and the clock only. -/
theorem State.foldl_supMsg_eq (s : State) (cores : List Nat) :
    ∃ fab clk, cores.foldl (fun s c => s.supMsg (some c) c 7 3 0) s = { s with fab := fab, clk := clk } := by
  induction cores generalizing s with
  | nil => exact ⟨s.fab, s.clk, rfl⟩
  | cons c r ih =>
    obtain ⟨fab, clk, h⟩ := ih (s.supMsg (some c) c 7 3 0)
    exact ⟨fab, clk, h⟩

theorem exec_curatorSwitchEnd (k : Nat) (s : State) : exec (.curatorSwitchEnd k) s = execCuratorSwitchEnd k s := rfl

section
variable {s : State} {k : Nat} {v : BitVec 32} (hsw : (s.cluster k).switch = some v) (hcur : s.isFenced .curator k = false)
  (hcl : s.clusterFenced k = false)
include hsw hcur hcl

/-- A curator whose supervisor program verifies installs it, tells its cores, and takes the calls that waited. -/
theorem exec_curatorSwitchEnd_verified (verified : verifyImage (Config.supervisorOf v) (Config.supervisorSig v) = true) :
    ∃ cores : List Nat, exec (.curatorSwitchEnd k) s = .next (((s.cluster k).svcs.filter fun x => !x.taken).foldl
      (fun s x => s.pushNew (svcEvent x.n x.core x.slot))
      (cores.foldl (fun s c => s.supMsg (some c) c 7 3 0) (s.underVersion k v))).checkUpdate := by
  rw [exec_curatorSwitchEnd]
  simp only [execCuratorSwitchEnd, hsw, hcur, hcl, verified, Bool.or_self, Bool.not_true, Bool.false_eq_true, if_false]
  exact ⟨_, rfl⟩

/-- Telling the cores and taking calls leaves the cluster and the measurements as the switch made them. -/
theorem exec_curatorSwitchEnd_keeps (verified : verifyImage (Config.supervisorOf v) (Config.supervisorSig v) = true) :
    ∃ t, exec (.curatorSwitchEnd k) s = .next t ∧ t.cluster k = { s.cluster k with ver := v, switch := none } ∧
      t.root.m = (s.measure .curator 2 (sha3 (Config.supervisorOf v))).root.m := by
  obtain ⟨cores, h⟩ := exec_curatorSwitchEnd_verified hsw hcur hcl verified
  obtain ⟨fab, clk, told⟩ := State.foldl_supMsg_eq (s.underVersion k v) cores
  obtain ⟨clk', taken⟩ := State.foldl_pushNew_eq (fun x : SvcCall => svcEvent x.n x.core x.slot)
    { s.underVersion k v with fab := fab, clk := clk } ((s.cluster k).svcs.filter fun x => !x.taken)
  rw [told, taken] at h
  exact ⟨_, h, (State.checkUpdate_cluster ..).trans (State.cluster_setCluster ..), State.checkUpdate_m _⟩

/-- A curator whose supervisor program does not verify fails. -/
theorem exec_curatorSwitchEnd_unverified (bad : verifyImage (Config.supervisorOf v) (Config.supervisorSig v) = false) :
    exec (.curatorSwitchEnd k) s =
      .next (State.failed (s.setCluster k { s.cluster k with switch := none }) { kind := .curator, index := k } 2) := by
  rw [exec_curatorSwitchEnd]
  simp only [execCuratorSwitchEnd, hsw, hcur, hcl, bad, Bool.or_self, Bool.not_false, Bool.false_eq_true, if_false, if_true]

end

/-! ## Invalidation (R247, R248) -/

/-- What an invalidation does at a cluster. -/
def State.invalidate (x : Tlbi) (s : State) (k : Nat) : State :=
  s.setCluster k { s.cluster k with
    tlb := (s.cluster k).tlb.filter fun e => !x.hits e, epoch := (s.cluster k).epoch + 1,
    walks := mapIf (x.hits ·.page) (fun w => w.again (((s.spaceOf w.vol).root).getD 0)) (s.cluster k).walks }

theorem State.foldl_invalidate_eq (x : Tlbi) (s : State) (ks : List Nat) :
    ∃ cs, ks.foldl (State.invalidate x) s = { s with clusters := cs } := by
  induction ks generalizing s with
  | nil => exact ⟨s.clusters, rfl⟩
  | cons k r ih =>
    obtain ⟨cs, h⟩ := ih (s.invalidate x k)
    exact ⟨cs, h⟩

theorem State.invalidates_other {x : Tlbi} {s : State} {ks : List Nat} {k : Nat} (hk : k ∉ ks) :
    (ks.foldl (State.invalidate x) s).cluster k = s.cluster k := by
  induction ks generalizing s with
  | nil => rfl
  | cons j r ih =>
    exact (ih (List.not_mem_of_not_mem_cons hk)).trans (State.cluster_setCluster_ne s _ (List.ne_of_not_mem_cons hk))

/-- Each cluster of a list without repetition drops the entries, and raises its epoch once. -/
theorem State.invalidates_cluster {x : Tlbi} {s : State} {ks : List Nat} (nodup : ks.Nodup) {k : Nat} (hk : k ∈ ks) :
    ((ks.foldl (State.invalidate x) s).cluster k).tlb = (s.cluster k).tlb.filter (fun e => !x.hits e) ∧
      ((ks.foldl (State.invalidate x) s).cluster k).epoch = (s.cluster k).epoch + 1 := by
  induction ks generalizing s with
  | nil => exact absurd hk List.not_mem_nil
  | cons j r ih =>
    obtain ⟨hj, hr⟩ := List.nodup_cons.1 nodup
    by_cases same : k = j
    · subst same
      rw [List.foldl_cons, State.invalidates_other hj, State.invalidate, State.cluster_setCluster]
      exact ⟨rfl, rfl⟩
    · have later := ih (s := s.invalidate x j) hr ((List.mem_cons.1 hk).resolve_left same)
      rwa [State.invalidate, State.cluster_setCluster_ne s _ same] at later

theorem exec_tlbiTakesEffect (id : Nat) (s : State) : exec (.tlbiTakesEffect id) s = execTlbiTakesEffect id s := rfl

/-- What an invalidation does: at every cluster, at the caches of the devices, and to its own record. -/
def State.afterInvalidation (s : State) (x : Tlbi) : State :=
  let s1 := (List.range Config.clusters).foldl (State.invalidate x) s
  { s1 with
    devTlb := s1.devTlb.filter fun e => !x.hits e, devEpoch := s1.devEpoch + 1,
    tlbis := mapIf (·.id == x.id) (fun y => { y with done := true, old := s.translated }) s1.tlbis }

theorem exec_tlbiTakesEffect_fresh {s : State} {x : Tlbi} (found : s.tlbis.find? (·.id == x.id) = some x) (fresh : x.done = false) :
    exec (.tlbiTakesEffect x.id) s =
      .next (if x.host.isSome then (s.afterInvalidation x).push (.tlbiTakesEffect x.id) else s.afterInvalidation x) := by
  rw [exec_tlbiTakesEffect, execTlbiTakesEffect, found]
  exact if_neg (Bool.eq_false_iff.1 fresh)

/-- Every cache drops the entries; memory and strands are as they were. -/
theorem exec_tlbiTakesEffect_drops {s : State} {x : Tlbi} (found : s.tlbis.find? (·.id == x.id) = some x) (fresh : x.done = false) :
    ∃ t, exec (.tlbiTakesEffect x.id) s = .next t ∧ t.mem = s.mem ∧ t.strands = s.strands ∧
      t.devTlb = s.devTlb.filter (fun e => !x.hits e) ∧
      t.clusters = ((List.range Config.clusters).foldl (State.invalidate x) s).clusters := by
  refine ⟨_, exec_tlbiTakesEffect_fresh found fresh, ?_⟩
  have drops : (s.afterInvalidation x).mem = s.mem ∧ (s.afterInvalidation x).strands = s.strands ∧
      (s.afterInvalidation x).devTlb = s.devTlb.filter (fun e => !x.hits e) ∧
      (s.afterInvalidation x).clusters = ((List.range Config.clusters).foldl (State.invalidate x) s).clusters := by
    obtain ⟨cs, h⟩ := State.foldl_invalidate_eq x s (List.range Config.clusters)
    rw [State.afterInvalidation, h]
    exact ⟨rfl, rfl, rfl, rfl⟩
  split
  · simpa only [State.push_mem, State.push_strands, State.push_devTlb, State.push_clusters] using drops
  · exact drops

/-! ## Errors (R411) -/

/-- An error that no access met ends no `kgath` at its header. -/
theorem State.headerError_none (s : State) (f : Func) : s.headerError f none = s := by
  have noneMet {met : Nat × Cluster → Option (Nat × SelOp)} (hmet : ∀ c, met c = none) : s.clusters.findSome? met = none :=
    List.findSome?_eq_none_iff.2 fun c _ => hmet c
  rw [State.headerError, noneMet]
  intro c
  cases c.2.sels.head? <;> rfl

/-- Nor does it end a service call. -/
theorem State.noCall_met (s : State) (p : Nat → SvcCall → Bool) : (s.clusters.findSome? fun (c : Nat × Cluster) =>
    (c.2.svcs.find? fun (y : SvcCall) => none == some y.id && !y.taken && p c.1 y).map fun (y : SvcCall) => (c.1, y)) = none := by
  refine List.findSome?_eq_none_iff.2 fun c _ => ?_
  rw [Option.map_eq_none_iff, List.find?_eq_none]
  exact fun _ _ => Bool.false_ne_true

theorem State.fence_fenced {s : State} {f : Func} (h : s.root.fenced.contains f = true) (flight : Option Nat) : s.fence f flight = s :=
  if_pos h

/-- The function is on the list of those that are fenced. -/
def State.withFenced (s : State) (f : Func) : State := { s with root := { s.root with fenced := s.root.fenced ++ [f] } }

section
variable {s : State} {k : Nat}

theorem State.fence_slice (sound : s.root.fenced.contains { kind := .slice, index := k } = false) :
    s.fence { kind := .slice, index := k } none =
      (s.withFenced { kind := .slice, index := k }).fenceWaiters.fencePorts.checkUpdate.extendMicro := by
  rw [State.fence, if_neg (Bool.eq_false_iff.1 sound), State.headerError_none]
  dsimp only [Option.bind_none]
  rw [State.noCall_met]
  rfl

theorem State.fence_core (sound : s.root.fenced.contains { kind := .core, index := k } = false) :
    s.fence { kind := .core, index := k } none =
      ((s.withFenced { kind := .core, index := k }).fenceCore k).fenceWaiters.fencePorts.checkUpdate.extendMicro := by
  rw [State.fence, if_neg (Bool.eq_false_iff.1 sound), State.headerError_none]
  dsimp only [Option.bind_none]
  rw [State.noCall_met]
  rfl

end

theorem exec_uncorrectableError (f : Func) (flight : Option Nat) (s : State) :
    exec (.uncorrectableError f flight) s = .next (s.fence f flight) := rfl

end Sys2Proof.Machine
end

section
/-! The curator (R247, R248, R250, R408 to R411): the statement. -/

namespace Sys2Proof.Machine

open Sys2Proof

/-- Settles O44: a taken call does what the lemma of its service says; each other clause is a lemma above on the curator's events. -/
theorem curatorWork : Obligations.CuratorWork := by
  unfold Obligations.CuratorWork
  refine ⟨?version, ?badVersion, ?resume, ?killOwn, ?killOther, ?page, ?counts, ?forward, ?switchEnd, ?invalidation, ?fencedBefore,
    ?fences, ?slice, ?core⟩
  case version =>
    intro s core slot x s1 ws h direct zero
    rw [exec_svcVersion h, zero, direct]; rfl
  case badVersion =>
    intro s core slot x s1 ws h nonzero
    rw [exec_svcVersion h, if_pos (bne_iff_ne.2 nonzero)]
  case resume => exact fun s core slot x s1 ws pa h h63 h61 zero own => exec_svcResume h h63 h61 zero own
  case killOwn => exact fun s core slot x s1 ws pa h zero own => exec_svcKill_own h zero own
  case killOther => exact fun s core slot x s1 ws h zero other => exec_svcKill_other h zero other
  case page => exact fun s core slot x s1 ws s2 h zero joined => exec_svcPage h zero joined
  case counts =>
    intro s core slot x s1 ws h zero
    have bit := s1.fenceMap_bit (clusterOf core)
    refine ⟨_, exec_svcCounts h zero, bit 0, fun i hi => ?cores, bit 9, bit 10, bit 11, bit 12, bit 13, fun i hi => ?above⟩
    case cores => rw [bit, countedFuncs_core _ hi]; rfl
    case above => rw [bit, countedFuncs_above _ hi, Option.map_none, Option.getD_none]
  case forward => exact fun s k => rfl
  case switchEnd =>
    intro s k v hsw hcur hcl
    cases verified : verifyImage (Config.supervisorOf v) (Config.supervisorSig v) with
    | true =>
      obtain ⟨t, ht, cluster, measured⟩ := exec_curatorSwitchEnd_keeps hsw hcur hcl verified
      exact ⟨t, ht, fun _ => by rw [cluster]; exact ⟨rfl, rfl, measured⟩, fun bad => absurd bad (by decide)⟩
    | false => exact ⟨_, exec_curatorSwitchEnd_unverified hsw hcur hcl verified, fun good => absurd good (by decide), fun _ => rfl⟩
  case invalidation =>
    intro s x found fresh
    obtain ⟨t, ht, mem, strands, devTlb, clusters⟩ := exec_tlbiTakesEffect_drops found fresh
    refine ⟨t, ht, mem, strands, devTlb, fun k hk => ?_⟩
    rw [State.cluster, clusters]
    exact State.invalidates_cluster List.nodup_range (List.mem_range.2 hk)
  case fencedBefore =>
    intro s f flight fenced
    rw [exec_uncorrectableError, State.fence_fenced fenced]
  case fences => exact fun s f flight _ => exec_uncorrectableError f flight s
  case slice =>
    intro s k sound
    rw [exec_uncorrectableError, State.fence_slice sound, State.withFenced]
  case core =>
    intro s k sound
    rw [exec_uncorrectableError, State.fence_core sound, State.withFenced]

end Sys2Proof.Machine
end

section
/-! Engine instructions (R180, R260, R280, R283, R305, R319, R337, R352, R384): the refutation of the statement about what is sent, by a
`tenq` whose records are named in a W buffer. -/

namespace Sys2Proof.Machine

open Sys2Proof

/-- `tenq g3, g1, g2`, unpredicated. -/
def tenqWord : Instr := .tenq { sw := false, emA := false, emB := false, emC := false, pr := 0, pn := false } (.g 3) (.g 1) (.g 2)

/-- Slot 0 of core 0 at its turn: g1 points at the start of segment 1, a W buffer with the R and E rights, and g2 counts one record. -/
def tenqOfWBuffer : State :=
  let t := ((placedStrand 1 0).putG 1 (ofN (2 ^ 61))).putG 2 1
  ((State.reset.placeWord 0).setStrand 0 0 { t with sregs := setAt t.sregs 1 (mkDesc 2 (rR + rE) 0 0x40000) }).atTurn 0 0

/-- The instruction executes there with one record, its pointer passes the checks of its segment (R231), and where its request is sent,
cluster 0 has a request. -/
theorem tenqOfWBuffer_enters : ∃ c r, enters (formOf tenqWord) tenqOfWBuffer = some c ∧ c.g (.g 2) = 1 ∧
    c.enginePtr (c.g (.g 1)) 64 (rR + rE) 64 = .ok r ∧ ((c.unitSent (.g 3) .tenq (c.g (.g 1)) none 1).cluster 0).reqs ≠ [] := by
  have met : (enters (formOf tenqWord) tenqOfWBuffer).any (fun c => c.g (.g 2) == 1 &&
      (c.enginePtr (c.g (.g 1)) 64 (rR + rE) 64).isOk &&
      !((c.unitSent (.g 3) .tenq (c.g (.g 1)) none 1).cluster 0).reqs.isEmpty) = true := by decide +kernel
  obtain ⟨entered, met⟩ := (Option.any_eq_true_iff_get _ _).1 met
  simp only [Bool.and_eq_true, beq_iff_eq, Bool.not_eq_true', List.isEmpty_eq_false_iff] at met
  obtain ⟨⟨count, passes⟩, request⟩ := met
  generalize pointer : Ctx.enginePtr _ _ _ _ _ = x at passes
  cases x with
  | error e => cases passes
  | ok r => exact ⟨_, r, (Option.some_get entered).symm, count, pointer, request⟩

/-- No request is sent: the bindery reads no record of a W buffer, which is a segment fault at issue (R180). -/
theorem tenqOfWBuffer_sends_none : ∃ s, exec tenqWord tenqOfWBuffer = .next s ∧ (s.cluster 0).reqs = [] := by
  have met : (match exec tenqWord tenqOfWBuffer with
    | .next s => (s.cluster 0).reqs.isEmpty
    | _ => false) = true := by decide +kernel
  split at met
  · rename_i s executed
    exact ⟨s, executed, List.isEmpty_iff.1 met⟩
  · cases met

/-- Refutes O24: its clause for `tenq` leaves out the segment types in which the bindery reads no records (R180). With a
pointer into a W buffer its premises hold, and the model takes SEG_TYPE and sends nothing. -/
theorem not_engineRequestsAreSent : ¬ Obligations.EngineRequestsAreSent := by
  unfold Obligations.EngineRequestsAreSent
  rintro ⟨-, -, -, -, -, -, -, -, -, -, -, tenqSent, -⟩
  obtain ⟨c, r, entered, count, pointer, request⟩ := tenqOfWBuffer_enters
  obtain ⟨s, executed, unsent⟩ := tenqOfWBuffer_sends_none
  have sent := tenqSent _ _ _ _ r _ c entered (by simpa [count] using pointer)
  obtain rfl : s = c.unitSent (.g 3) .tenq (c.g (.g 1)) none 1 := by simpa [count] using executed.symm.trans sent
  exact request unsent

end Sys2Proof.Machine
end

section
/-! Tile instructions (R252, R254, R274 to R279, R281): the checks of R254, direct operations, configuration, release, and
the statement. -/

namespace Sys2Proof.Machine

open Sys2Proof

/-! ## The checks of R254 -/

section
variable {c : Ctx} {mask : Nat}

theorem Ctx.tileForeign_iff : c.tileForeign mask ↔ c.t.free = true ∨ (((List.range 16).filter (bitN mask)).any fun i =>
    ((c.s.core c.core).tile i).conf && !((c.s.core c.core).tile i).ownedBy c.t) = true := by
  simp [Ctx.tileForeign]

theorem Ctx.tileUnset_iff :
    c.tileUnset mask ↔ (((List.range 16).filter (bitN mask)).any fun i => !((c.s.core c.core).tile i).conf) = true := by
  simp [Ctx.tileUnset]

/-- A free strand, or another strand's tile in the mask, is TILE_OWNER. -/
theorem Ctx.tileFault_foreign (foreign : c.tileForeign mask) (need : Bool) : c.tileFault mask need = some (taskFault 0x20) := by
  unfold Ctx.tileFault
  rcases Ctx.tileForeign_iff.1 foreign with free | owned
  · simp only [free, if_true]
  · simp only [owned, if_true, ite_self]

/-- Where the checks of the owner pass, that of the state is left. -/
theorem Ctx.tileFault_own (own : ¬ c.tileForeign mask) (need : Bool) : c.tileFault mask need =
    if need && ((List.range 16).filter (bitN mask)).any fun i => !((c.s.core c.core).tile i).conf then some (taskFault 0x21) else none := by
  obtain ⟨bound, owned⟩ := not_or.1 ((not_congr Ctx.tileForeign_iff).1 own)
  simp only [Ctx.tileFault, bound, owned, Bool.false_eq_true, if_false]

/-- A tile that is not configured is TILE_STATE. -/
theorem Ctx.tileFault_unset (own : ¬ c.tileForeign mask) (unset : c.tileUnset mask) : c.tileFault mask true = some (taskFault 0x21) := by
  simp only [Ctx.tileFault_own own, Ctx.tileUnset_iff.1 unset, Bool.and_self, if_true]

/-- Where no check fails, there is no fault. -/
theorem Ctx.tileFault_none (own : ¬ c.tileForeign mask) (configured : ¬ c.tileUnset mask) : c.tileFault mask true = none := by
  simp only [Ctx.tileFault_own own, Bool.true_and, (not_congr Ctx.tileUnset_iff).1 configured, Bool.false_eq_true, if_false]

end

/-! ## Direct operations (R276, R277, R279) -/

/-- Instruction `i` is a direct operation on one tile. -/
def Directs (i : Instr) (tile : Nat) (dest : Ctx → Dest) (more : Ctx → Tile → Option FaultInfo) (act : Ctx → TileAct) : Prop :=
  ∀ s, exec i s = direct (formOf i) tile dest more act s

section
variable {i : Instr} {tile : Nat} {dest : Ctx → Dest} {more : Ctx → Tile → Option FaultInfo} {act : Ctx → TileAct}

/-- Where its checks pass and no task is pending, the operation is sent to its tile. -/
theorem Directs.sent (h : Directs i tile dest more act) {p : Ctx → Prop}
    (passes : ∀ c, p c → c.tileFault (2 ^ tile) true = none ∧ more c ((c.s.core c.core).tile tile) = none ∧
      c.s.tilePending c.core c.t.uid (2 ^ tile) = false) :
    Completes i p fun c => c.tileSent (dest c) tile (act c) := by
  refine .of_go h fun c hp => ?_
  obtain ⟨own, fits, idle⟩ := passes c hp
  simp only [own, fits, idle, Bool.false_eq_true, if_false]

/-- A fault of R254 is taken at issue. -/
theorem Directs.refused (h : Directs i tile dest more act) {p : Ctx → Prop} {e : FaultInfo}
    (fails : ∀ c, p c → c.tileFault (2 ^ tile) true = some e) : FaultsAtIssue i p fun _ => e :=
  .of_fault h fun c hp => by simp only [fails c hp]

/-- A fault of the instruction's own check, after those of R254. -/
theorem Directs.misfits (h : Directs i tile dest more act) {p : Ctx → Prop} {e : FaultInfo}
    (fails : ∀ c, p c → c.tileFault (2 ^ tile) true = none ∧ more c ((c.s.core c.core).tile tile) = some e) :
    FaultsAtIssue i p fun _ => e := by
  refine .of_fault h fun c hp => ?_
  obtain ⟨own, misfit⟩ := fails c hp
  simp only [own, misfit]

/-- The operation by a free strand, or on another strand's tile (R254). -/
theorem Directs.foreign (h : Directs i tile dest more act) : FaultsAtIssue i (fun c => c.tileForeign (2 ^ tile)) fun _ => taskFault 0x20 :=
  h.refused fun _ foreign => Ctx.tileFault_foreign foreign true

/-- The operation on a tile that is not configured (R254). -/
theorem Directs.unset (h : Directs i tile dest more act) :
    FaultsAtIssue i (fun c => ¬ c.tileForeign (2 ^ tile) ∧ c.tileUnset (2 ^ tile)) fun _ => taskFault 0x21 :=
  h.refused fun _ ⟨own, unset⟩ => Ctx.tileFault_unset own unset

end

theorem tld_directs (h : Hdr) (f : Fmt) (t : Fin 16) (a b : GOp) : Directs (.tld h f t a b) t.val (fun _ => .none) (fun _ _ => none)
    fun c => .tld f (c.g a) (c.g b) := fun _ => rfl

theorem tst_directs (h : Hdr) (f : Fmt) (rm : Rm) (t : Fin 16) (a b : GOp) : Directs (.tst h f rm t a b) t.val (fun _ => .none)
    (fun _ _ => none) fun c => .tst f rm (c.g a) (c.g b) := fun _ => rfl

theorem tget_directs (h : Hdr) (err : Bool) (t : Fin 16) (d a : GOp) : Directs (.tget h err t d a) t.val (·.dest d)
    (fun c x => indexBad x (c.g a)) fun c => .tget err (c.g a).toNat := fun _ => rfl

theorem tset_directs (h : Hdr) (err : Bool) (t : Fin 16) (a b : GOp) : Directs (.tset h err t a b) t.val (fun _ => .none)
    (fun c x => indexBad x (c.g a)) fun c => .tset err (c.g a).toNat (c.g b) := fun _ => rfl

theorem mmar_directs (h : Hdr) (f : Fmt) (t a b : Fin 16) : Directs (.mmar h f t a b) t.val (fun _ => .none)
    (fun _ x => if x.modeK != kFormat f then some (taskFault 0x22) else none)
    fun c => .mmar f ((quad a).flatMap fun v => (List.range 8).map fun j => c.t.g (8 * v.val + j))
      ((quad b).flatMap fun v => (List.range 8).map fun j => c.t.g (8 * v.val + j)) := fun _ => rfl

/-- An element within the tile. -/
theorem indexBad_within {x : Tile} {i : Word} (within : i.toNat < x.rows * x.cols) : indexBad x i = none :=
  if_neg (Nat.not_le_of_lt within)

/-- An element beyond the tile is TILE_STATE (R277). -/
theorem indexBad_beyond {x : Tile} {i : Word} (beyond : x.rows * x.cols ≤ i.toNat) : indexBad x i = some (taskFault 0x21) :=
  if_pos beyond

/-! ## Configuration (R252, R274) -/

/-- The new tiles of a mask, from the entries of a block, each with its slot (R252). -/
def Ctx.newTiles (c : Ctx) (m : Nat) (ws : List Word) : List (Nat × Tile) :=
  ((List.range 16).filter (bitN m)).map fun i => (i, tileOfEntry (ws.getD i 0) c.t.vol c.t.gidx c.t.lane)

/-- The status of a configuration, and what it leaves (R274). -/
def Ctx.configured (c : Ctx) (m : Nat) (ws : List Word) : State × Nat := c.s.configure c.core c.t.vol c.t.gidx c.t.lane m ws

section
variable {c : Ctx} {m : Nat} {ws : List Word}

theorem Ctx.configured_empty (c : Ctx) (ws : List Word) : c.configured 0 ws = (c.s, 3) := rfl

theorem Ctx.configured_bad (named : m ≠ 0) (bad : ((List.range 16).filter (bitN m)).any (fun i => badTileEntry (ws.getD i 0)) = true) :
    c.configured m ws = (c.s, 1) := by
  simp only [Ctx.configured, State.configure, beq_iff_eq, named, bad, if_true, if_false]

theorem Ctx.configured_clash (named : m ≠ 0) (good : ((List.range 16).filter (bitN m)).any (fun i => badTileEntry (ws.getD i 0)) = false)
    (clash : c.tilesClash m (c.newTiles m ws) = true) : c.configured m ws = (c.s, 2) := by
  simp only [Ctx.configured, State.configure, beq_iff_eq, named, good, Bool.false_eq_true, if_false]
  exact if_pos clash

theorem Ctx.configured_done (named : m ≠ 0) (good : ((List.range 16).filter (bitN m)).any (fun i => badTileEntry (ws.getD i 0)) = false)
    (apart : c.tilesClash m (c.newTiles m ws) = false) : c.configured m ws =
      (c.s.setCore c.core ((c.newTiles m ws).foldl (fun (k : Core) x => (k.zeroUnits x.2).setTile x.1 x.2) (c.s.core c.core)), 0) := by
  simp only [Ctx.configured, State.configure, beq_iff_eq, named, good, Bool.false_eq_true, if_false]
  exact if_neg (Bool.eq_false_iff.1 apart)

end

/-- A `tcfg` passes its checks, and its block is read (R274). -/
def Ctx.readsBlock (c : Ctx) (a : GOp) (m : Nat) (l : Loc) (ws : List Word) : Prop :=
  c.placePtr (c.g a) 128 rR 64 = .ok l ∧ c.tileFault m false = none ∧ c.s.tilePending c.core c.t.uid m = false ∧
    c.walk l 128 .read = none ∧ c.s.readRec (clusterOf c.core) l 16 = .ok ws

/-- A `tcfg` whose block is read answers the status of its configuration. -/
theorem Completes.of_configured {h : Hdr} {d a : GOp} {mask : BitVec 16} (l : Loc) (ws : List Word) {p : Ctx → Prop}
    {out : Ctx → State × Nat}
    (reads : ∀ c, p c → c.readsBlock a mask.toNat l ws ∧ c.configured mask.toNat ws = out c) :
    Completes (.tcfg h d a mask) p fun c => (Ctx.result { c with s := (out c).1 } d (ofN (out c).2)).done := by
  refine .of_go (fun _ => rfl) fun c hp => ?_
  obtain ⟨⟨place, own, idle, walked, block⟩, configured⟩ := reads c hp
  simp only [place, own, idle, walked, block, Bool.false_eq_true, if_false, ← configured]
  rfl

theorem toNat_ne_zero {n : Nat} {mask : BitVec n} (named : mask ≠ 0) : mask.toNat ≠ 0 := by
  simpa [BitVec.toNat_eq] using named

/-! ## Release and zeroing (R275, R278) -/

/-- What `trel` and `tzero` do once they execute. -/
def releaseOut (mask : Nat) (need : Bool) (act : Core → Nat → Core) (c : Ctx) : Out :=
  match c.tileFault mask need with
  | some e => .fault e
  | none =>
    if c.s.tilePending c.core c.t.uid mask || c.s.tileBusy c.core mask then .park (.tiles mask)
    else .go { c with
      s := (c.s.setCore c.core (((List.range 16).filter (bitN mask)).foldl (fun (k : Core) i => if (k.tile i).conf then act k i else k)
        (c.s.core c.core))).pushNew (.taskStart (clusterOf c.core))
      t := { c.t with prog := 0 } }

/-- Without a pending task, neither is a switch point (R275). -/
theorem releasing_eq {s : State} {mask : BitVec 24} (idle : noTaskPending s mask.toNat) (i : Instr) (h : Hdr) (need : Bool)
    (act : Core → Nat → Core) : releasing i h mask need act s = issue { h := h, word := wordOf i } s (releaseOut mask.toNat need act) := by
  obtain ⟨core, slot, t, cur, strand, fresh, free, behind⟩ := idle
  have unparked : (s.predTrue { h := h, word := wordOf i } t &&
      (decide (t.prog = 2) || s.tilePending core t.uid mask.toNat || s.tilePutBack core mask.toNat)) = false := by
    simp [fresh, free, behind]
  simp only [releasing, cur, strand, Option.bind_some, Option.map_some, Option.getD_some, unparked, Bool.false_eq_true, if_false]
  rfl

section
variable {i : Instr} {h : Hdr} {mask : BitVec 24} {need : Bool} {act : Core → Nat → Core} {s : State} {c : Ctx}
  (form : formOf i = { h := h, word := wordOf i }) (issued : exec i s = releasing i h mask need act s)
  (enters : enters (formOf i) s = some c) (idle : noTaskPending s mask.toNat)
include form issued enters idle

/-- A release acts on every configured tile of its mask where no task is pending and no direct operation is being performed. -/
theorem releasing_done (own : c.tileFault mask.toNat need = none) (free : c.s.tilePending c.core c.t.uid mask.toNat = false)
    (quiet : c.s.tileBusy c.core mask.toNat = false) : exec i s = .next (c.tilesDone mask.toNat act) := by
  rw [issued, releasing_eq idle, ← form]
  refine issue_go enters ?_
  simp only [releaseOut, own, free, quiet, Bool.or_self, Bool.false_eq_true, if_false]

/-- A release takes a fault of R254 at issue. -/
theorem releasing_fault {e : FaultInfo} (fault : c.tileFault mask.toNat need = some e) :
    exec i s = .next (c.s.faultAtIssue c.core c.slot c.t e c.word) := by
  rw [issued, releasing_eq idle, ← form]
  obtain ⟨c0, -, -, -, same, faulted⟩ := issue_fault (e := e) (body := releaseOut mask.toNat need act) enters
    (by simp only [releaseOut, fault])
  rw [faulted, same (by rw [form]; rfl)]

end

/-- Settles O23: each instruction by the first of its checks that fails, or by what it does where all pass. No clause is about slot 63,
of which R254 says nothing. -/
theorem tileInstructions : Obligations.TileInstructions := by
  unfold Obligations.TileInstructions
  refine ⟨?tcfgEmpty, ?tcfgBad, ?tcfgClash, ?tcfgDone, ?trel, ?tzero, ?twait, ?tld, ?tst, ?tget, ?tset, ?mmar, ?mmarMode, ?msset, ?msrd,
    ?tldForeign, ?tstForeign, ?tgetForeign, ?tsetForeign, ?mmarForeign, ?tldUnset, ?tstUnset, ?tgetUnset, ?tsetUnset, ?mmarUnset,
    ?tgetBeyond, ?tsetBeyond, ?twaitForeign, ?tcfgForeign, ?tcfgPointer, ?trelForeign, ?tzeroForeign, ?tzeroUnset,
    ?mssetNone, ?mssetType, ?mssetRights, ?mssetOdd, ?mssetLength⟩
  case tcfgEmpty =>
    refine fun h d a mask l ws => .of_configured l ws (out := fun c => (c.s, 3))
      fun c ⟨place, own, idle, walked, block, empty⟩ => ?_
    exact ⟨⟨place, own, idle, walked, block⟩, empty ▸ c.configured_empty ws⟩
  case tcfgBad =>
    refine fun h d a mask l ws => .of_configured l ws (out := fun c => (c.s, 1))
      fun c ⟨place, own, idle, walked, block, named, bad⟩ => ?_
    exact ⟨⟨place, own, idle, walked, block⟩, Ctx.configured_bad (toNat_ne_zero named) bad⟩
  case tcfgClash =>
    refine fun h d a mask l ws => .of_configured l ws (out := fun c => (c.s, 2))
      fun c ⟨place, own, idle, walked, block, named, good, clash⟩ => ?_
    exact ⟨⟨place, own, idle, walked, block⟩, Ctx.configured_clash (toNat_ne_zero named) good clash⟩
  case tcfgDone =>
    refine fun h d a mask l ws => .of_configured l ws (out := fun c => (_, 0))
      fun c ⟨place, own, idle, walked, block, named, good, apart⟩ => ?_
    exact ⟨⟨place, own, idle, walked, block⟩, Ctx.configured_done (toNat_ne_zero named) good apart⟩
  case trel => exact fun h mask s c enters idle => releasing_done rfl rfl enters idle
  case tzero => exact fun h mask s c enters idle => releasing_done rfl rfl enters idle
  case twait =>
    refine fun h mask => .of_go (fun _ => rfl) fun c ⟨own, idle⟩ => ?_
    simp only [own, idle, Bool.false_eq_true, if_false]
  case tld => exact fun h f t a b => (tld_directs h f t a b).sent fun c ⟨own, idle⟩ => ⟨own, rfl, idle⟩
  case tst => exact fun h f rm t a b => (tst_directs h f rm t a b).sent fun c ⟨own, idle⟩ => ⟨own, rfl, idle⟩
  case tget =>
    exact fun h err t d a => (tget_directs h err t d a).sent fun c ⟨own, idle, within⟩ => ⟨own, indexBad_within within, idle⟩
  case tset =>
    exact fun h err t a b => (tset_directs h err t a b).sent fun c ⟨own, idle, within⟩ => ⟨own, indexBad_within within, idle⟩
  case mmar => exact fun h f t a b => (mmar_directs h f t a b).sent fun c ⟨own, idle, mode⟩ => ⟨own, if_neg (by simp [mode]), idle⟩
  case mmarMode => exact fun h f t a b => (mmar_directs h f t a b).misfits fun c ⟨own, mode⟩ => ⟨own, if_pos (by simpa using mode)⟩
  case msset =>
    refine fun h m a b n off => .of_go (fun _ => rfl) fun c ⟨ptr, type, read, even, nonempty, fits, idle⟩ => ?_
    simp [ptr, type, read, even, nonempty, Nat.not_lt.2 fits, idle]
  case msrd => exact fun h m d => .of_go (fun _ => rfl) fun c idle => by simp only [idle, Bool.false_eq_true, if_false]
  case tldForeign => exact fun h f t a b => (tld_directs h f t a b).foreign
  case tstForeign => exact fun h f rm t a b => (tst_directs h f rm t a b).foreign
  case tgetForeign => exact fun h err t d a => (tget_directs h err t d a).foreign
  case tsetForeign => exact fun h err t a b => (tset_directs h err t a b).foreign
  case mmarForeign => exact fun h f t a b => (mmar_directs h f t a b).foreign
  case tldUnset => exact fun h f t a b => (tld_directs h f t a b).unset
  case tstUnset => exact fun h f rm t a b => (tst_directs h f rm t a b).unset
  case tgetUnset => exact fun h err t d a => (tget_directs h err t d a).unset
  case tsetUnset => exact fun h err t a b => (tset_directs h err t a b).unset
  case mmarUnset => exact fun h f t a b => (mmar_directs h f t a b).unset
  case tgetBeyond =>
    exact fun h err t d a => (tget_directs h err t d a).misfits fun c ⟨own, configured, beyond⟩ =>
      ⟨Ctx.tileFault_none own configured, indexBad_beyond beyond⟩
  case tsetBeyond =>
    exact fun h err t a b => (tset_directs h err t a b).misfits fun c ⟨own, configured, beyond⟩ =>
      ⟨Ctx.tileFault_none own configured, indexBad_beyond beyond⟩
  case twaitForeign =>
    exact fun h mask => .of_fault (fun _ => rfl) fun c foreign => by simp only [Ctx.tileFault_foreign foreign]
  case tcfgForeign =>
    exact fun h d a mask l => .of_fault (fun _ => rfl) fun c ⟨place, foreign⟩ => by simp only [place, Ctx.tileFault_foreign foreign]
  case tcfgPointer => exact fun h d a mask e => .of_fault (fun _ => rfl) fun c fails => by simp only [fails]
  case trelForeign => exact fun h mask s c enters idle foreign => releasing_fault rfl rfl enters idle (Ctx.tileFault_foreign foreign _)
  case tzeroForeign => exact fun h mask s c enters idle foreign => releasing_fault rfl rfl enters idle (Ctx.tileFault_foreign foreign _)
  case tzeroUnset => exact fun h mask s c enters idle own unset => releasing_fault rfl rfl enters idle (Ctx.tileFault_unset own unset)
  case mssetNone => exact fun h m a b n off => .of_fault (fun _ => rfl) fun c ⟨ptr, invalid⟩ => by simp [ptr, invalid]
  case mssetType => exact fun h m a b n off => .of_fault (fun _ => rfl) fun c ⟨ptr, valid, other⟩ => by simp [ptr, valid, other]
  case mssetRights =>
    exact fun h m a b n off => .of_fault (fun _ => rfl) fun c ⟨ptr, type, noRead⟩ => by simp [ptr, type, noRead]
  case mssetOdd =>
    exact fun h m a b n off => .of_fault (fun _ => rfl) fun c ⟨ptr, type, read, odd⟩ => by simp [ptr, type, read, odd]
  case mssetLength =>
    exact fun h m a b n off => .of_fault (fun _ => rfl) fun c ⟨ptr, type, read, even, long⟩ => by simp [ptr, type, read, even, long]

end Sys2Proof.Machine
end

section
/-! The bindery (R260 to R267, R280): how a `tenq` is answered, how a task starts, how a part completes, and the statement. -/

namespace Sys2Proof.Machine

open Sys2Proof

/-! ## Answers to `tenq` (R260, R262, R280) -/

theorem exec_binderyEnqueue (k id : Nat) (s : State) : exec (.binderyEnqueue k id) s = execBinderyEnqueue k id s := rfl

section
variable {s : State} {k b : Nat} {r : Req}

/-- A fenced bindery answers 4 (assumption 30). -/
theorem exec_binderyEnqueue_fenced (takes : takesTask s k b r) (fenced : s.unitFenced .bind b = true) :
    exec (.binderyEnqueue k r.id) s = .next ((s.tookReq k r.id).tenqEnd r b 4) := by
  obtain ⟨found, ready, rfl, up⟩ := takes
  simp only [exec_binderyEnqueue, execBinderyEnqueue, found, ready, up, fenced, Bool.not_true, Bool.false_eq_true, if_false, if_true]
  rfl

/-- A list of records has no first one that fails where all pass. -/
theorem State.no_record_fails {g : Gathering} {recs : List (List Word)}
    (pass : ∀ d ∈ recs, s.recordStatus r.iss g (fun i => d.getD i 0) = 0) :
    (recs.map fun d => s.recordStatus r.iss g fun i => d.getD i 0).zipIdx.find? (·.1 != 0) = none := by
  refine List.find?_eq_none.2 fun x hx => ?_
  obtain ⟨d, hd, status⟩ := List.mem_map.1 (List.fst_mem_of_mem_zipIdx hx)
  simp only [← status, pass d hd, bne_self_eq_false, Bool.false_eq_true, not_false_eq_true]

section
variable {ty : Nat} {l : Loc} {ws : List Word} {g : Gathering} (takes : takesTask s k b r) (sound : s.unitFenced .bind b = false)
  (placed : r.iss.place r.a (64 * r.imm) (rR + rE) 64 = .ok (ty, l))
  (read : (s.tookReq k r.id).reqRecord k r l (8 * r.imm) = .words ws)
  (live : (s.tookReq k r.id).gathering r.iss.vol r.iss.gidx = some g)
include takes sound placed read live

/-- The first record that fails is answered by its position and status (R260). -/
theorem exec_binderyEnqueue_fails {v i : Nat} (first : ((recordsOf ws r.imm).map fun d =>
      (s.tookReq k r.id).recordStatus r.iss g fun i => d.getD i 0).zipIdx.find? (·.1 != 0) = some (v, i)) :
    exec (.binderyEnqueue k r.id) s = .next ((s.tookReq k r.id).tenqEnd r b (i * 256 + v)) := by
  obtain ⟨found, ready, rfl, up⟩ := takes
  generalize took : s.tookReq k r.id = s1 at read live first ⊢
  dsimp only [State.tookReq] at took
  simp only [exec_binderyEnqueue, execBinderyEnqueue, found, ready, up, sound, took, placed, read, live, first, Bool.not_true,
    Bool.false_eq_true, if_false]

/-- Where every record passes, the room in the queue decides (R262; assumption 30). -/
theorem exec_binderyEnqueue_passes
    (pass : ∀ d ∈ recordsOf ws r.imm, (s.tookReq k r.id).recordStatus r.iss g (fun i => d.getD i 0) = 0) :
    exec (.binderyEnqueue k r.id) s = .next (
      if 1024 < ((s.tookReq k r.id).cluster b).tasks.length + (s.tookReq k r.id).held b 2 + (recordsOf ws r.imm).length
      then (s.tookReq k r.id).tenqEnd r b 1 else ((s.tookReq k r.id).enqueued b r g (recordsOf ws r.imm)).tenqEnd r b 0) := by
  obtain ⟨found, ready, rfl, up⟩ := takes
  have first := State.no_record_fails pass
  generalize took : s.tookReq k r.id = s1 at read live first ⊢
  dsimp only [State.tookReq] at took
  simp only [exec_binderyEnqueue, execBinderyEnqueue, found, ready, up, sound, took, placed, read, live, first, Bool.not_true,
    Bool.false_eq_true, if_false]
  exact (apply_ite Host.Outcome.next _ _ _).symm

end

end

/-- Where the strand has no other request, the answer is its status, and the bindery goes on (R263). -/
theorem State.tenqEnd_alone {s : State} {r : Req} {b v : Nat} (alone : (s.status r.iss r.id (ofN v)).requestEvents r.iss.uid = []) :
    s.tenqEnd r b v = (s.status r.iss r.id (ofN v)).pushNew (.taskStart b) := by
  simp only [State.tenqEnd, alone, List.foldl_nil]

/-! ## Starting tasks (R263 to R265) -/

/-- The engine of a core takes its next record, unless a part runs on it. -/
def State.engineTakes (s : State) (k core : Nat) : State :=
  if ((s.cluster k).tasks.any fun t => (t.cores.zip t.parts).any fun p => p.1 == core && p.2 == .started) then s
  else match s.nextTask k core with
    | none => s
    | some t => (s.putTask k { t.mark core .started with met := true }).push
        (.taskPartComplete k t.id (((t.cores.zipIdx.find? (·.1 == core)).map (·.2)).getD 0))

theorem exec_taskStart (k : Nat) (s : State) :
    exec (.taskStart k) s = .next (((List.range 8).map (8 * k + ·)).foldl (fun s core => s.engineTakes k core) s) := rfl

/-- A fold in which one element changes the value once, and the others change neither the old nor the new value. -/
theorem foldl_once {α β : Type} {f : β → α → β} {b b' : β} {x : α} (before : ∀ y, y ≠ x → f b y = b) (change : f b x = b')
    (after : ∀ y, y ≠ x → f b' y = b') {l : List α} (nodup : l.Nodup) (hx : x ∈ l) : l.foldl f b = b' := by
  have keeps : ∀ (c : β), (∀ y, y ≠ x → f c y = c) → ∀ l : List α, x ∉ l → l.foldl f c = c := by
    intro c same l
    induction l with
    | nil => exact fun _ => rfl
    | cons y ys ih =>
      intro out
      obtain ⟨hy, hys⟩ := List.ne_and_not_mem_of_not_mem_cons out
      rw [List.foldl_cons, same y hy.symm, ih hys]
  obtain ⟨l1, l2, rfl⟩ := List.append_of_mem hx
  obtain ⟨-, tail, apart⟩ := List.nodup_append.1 nodup
  have out1 : x ∉ l1 := fun h => apart x h x List.mem_cons_self rfl
  rw [List.foldl_append, keeps b before l1 out1, List.foldl_cons, change, keeps b' after l2 (List.nodup_cons.1 tail).1]

/-- A priority is a field of three bits (R260). -/
theorem recPrio_lt (d : Nat → Word) : recPrio d < 8 := Nat.mod_lt _ (by decide)

/-- A record waits on its own cores only. -/
theorem Task.waitsOn_off {t : Task} {core : Nat} (off : core ∉ t.cores) : t.waitsOn core = false := by
  refine Bool.eq_false_iff.2 fun waits => off ?_
  obtain ⟨p, hp, here⟩ := List.any_eq_true.1 waits
  obtain ⟨rfl, -⟩ := by simpa using here
  exact (List.of_mem_zip hp).1

section
variable {s : State} {k core : Nat} {t : Task}

/-- Where the only record of a queue has no part on a core, its engine takes none. -/
theorem State.engineTakes_off (only : (s.cluster k).tasks = [t]) (off : core ∉ t.cores) : s.engineTakes k core = s := by
  have nothing : s.nextTask k core = none := by
    simp [State.nextTask, only, Task.waitsOn_off off]
  simp only [State.engineTakes, nothing, ite_self]

/-- The only record of a queue, whose part waits on a core and may start there, is the one that the core's engine takes next. -/
theorem State.nextTask_only (only : (s.cluster k).tasks = [t]) (waits : t.waitsOn core = true)
    (starts : s.startable k core [] t = true) : s.nextTask k core = some t := by
  have first : earlier [t] t = [] := by simp [earlier]
  have alone : s.nextTask k core = (List.range 8).findSome? fun i => [t].find? fun t => recPrio t.dw == 7 - i := by
    simp [State.nextTask, only, first, waits, starts]
  rw [alone]
  cases found : (List.range 8).findSome? fun i => [t].find? fun t => recPrio t.dw == 7 - i with
  | none =>
    have passed := List.findSome?_eq_none_iff.1 found (7 - recPrio t.dw) (List.mem_range.2 (by omega))
    have level : recPrio t.dw = 7 - (7 - recPrio t.dw) := by have := recPrio_lt t.dw; omega
    simp [← level] at passed
  | some x =>
    obtain ⟨i, -, hx⟩ := List.exists_of_findSome?_eq_some found
    rw [List.mem_singleton.1 (List.mem_of_find?_eq_some hx)]

end

/-- The mark on the only part of a task. -/
theorem Task.mark_parts {t : Task} {core : Nat} {old : PartState} (one : t.cores = [core]) (part : t.parts = [old]) (p : PartState) :
    (t.mark core p).parts = [p] := by
  simp [Task.mark, one, part]

/-- The only record of a queue is replaced where it stands. -/
theorem State.putTask_only {s : State} {k : Nat} {t : Task} (only : (s.cluster k).tasks = [t]) {t' : Task} (same : t'.id = t.id) :
    ((s.putTask k t').cluster k).tasks = [t'] := by
  simp [State.putTask, only, replaceBy, same]

/-- The engine of a free core takes the only record of the queue. -/
theorem State.engineTakes_only {s : State} {k core : Nat} {t : Task} (only : (s.cluster k).tasks = [t]) (one : t.cores = [core])
    (part : t.parts = [.waiting]) (starts : s.startable k core [] t = true) : s.engineTakes k core =
      (s.putTask k { t.mark core .started with met := true }).push (.taskPartComplete k t.id 0) := by
  have waits : t.waitsOn core = true := by simp [Task.waitsOn, one, part]
  have next := State.nextTask_only only waits starts
  simp [State.engineTakes, only, one, part, next]

/-- A `TASK_START` starts the only record of the queue on its free core, and no other engine takes anything (R263). -/
theorem exec_taskStart_only {s : State} {k c : Nat} {t : Task} (only : (s.cluster k).tasks = [t]) (one : t.cores = [8 * k + c]) (lt : c < 8)
    (part : t.parts = [.waiting]) (starts : s.startable k (8 * k + c) [] t = true) : exec (.taskStart k) s =
      .next ((s.putTask k { t.mark (8 * k + c) .started with met := true }).push (.taskPartComplete k t.id 0)) := by
  have off : ∀ y, y ≠ 8 * k + c → y ∉ t.cores := fun y other => by simpa [one] using other
  have started := State.putTask_only only (t' := { t.mark (8 * k + c) .started with met := true }) rfl
  refine (exec_taskStart k s).trans (congrArg Host.Outcome.next ?_)
  refine foldl_once (x := 8 * k + c) ?before (State.engineTakes_only only one part starts) ?after ?nodup ?mem
  case before => exact fun y other => State.engineTakes_off only (off y other)
  case after => exact fun y other => State.engineTakes_off (t := { t.mark (8 * k + c) .started with met := true }) started (off y other)
  case nodup => exact List.Pairwise.map _ (fun _ _ other same => other (Nat.add_left_cancel same)) List.nodup_range
  case mem => exact List.mem_map.2 ⟨c, List.mem_range.2 lt, rfl⟩

/-! ## Parts that complete (R261, R266, R267) -/

theorem exec_taskPartComplete (k task part : Nat) (s : State) :
    exec (.taskPartComplete k task part) s = execTaskPartComplete k task part s := rfl

section
variable {s s1 : State} {k core : Nat} {t : Task} (found : (s.cluster k).tasks.find? (·.id == t.id) = some t) (one : t.cores = [core])
  (part : t.parts = [.started]) (live : ((s.core core).tile t.tile).halted = false) (sound : s.coreFenced core = false)
include found one part live sound

/-- The only part of a task runs without a fault, and the task is over. -/
theorem exec_taskPartComplete_done (ran : s.runPart k core t 0 = (s1, none)) : exec (.taskPartComplete k t.id 0) s =
    .next ((s1.putTask k (t.mark core (.ended 0))).finishTask k (t.mark core (.ended 0))) := by
  simp [exec_taskPartComplete, execTaskPartComplete, found, one, part, live, sound, ran, Task.mark_parts one part]

/-- The only part of a task runs into a fault: its tile halts, its errata record is written, and the task is over (R267). -/
theorem exec_taskPartComplete_fault {code chunk : Nat} (ran : s.runPart k core t 0 = (s1, some (code, chunk))) :
    exec (.taskPartComplete k t.id 0) s = .next ((((s1.setCore core ((s1.core core).setTile t.tile
      { (s1.core core).tile t.tile with halted := true })).taskErrata t code 0 chunk).putTask k (t.mark core (.ended 1))).finishTask k
        (t.mark core (.ended 1))) := by
  simp [exec_taskPartComplete, execTaskPartComplete, found, one, part, live, sound, ran, Task.mark_parts one part]

end

/-- A zeroing part always runs through (R260). -/
theorem State.runPart_zeroes {t : Task} (zeroes : t.kind = 2) (s : State) (k core q : Nat) :
    s.runPart k core t q = (s.setCore core ((s.core core).zeroTile t.tile), none) := by
  simp only [State.runPart, zeroes]

/-- Settles O39: a `tenq` is judged by its records and the room, the only record of a queue is started on its core alone, and its only part
ends the task, run through or halted by a fault. -/
theorem binderyTasks : Obligations.BinderyTasks := by
  unfold Obligations.BinderyTasks
  refine ⟨?fenced, ?failing, ?full, ?starts, ?zeroed, ?faulted, ?joins, ?completes, ?alone⟩
  case fenced => exact fun s k b r takes fenced => exec_binderyEnqueue_fenced takes fenced
  case failing =>
    exact fun s k b r ty l ws g v i takes sound placed read live first =>
      exec_binderyEnqueue_fails takes sound placed read live first
  case full =>
    intro s k b r ty l ws g takes sound placed read live pass full
    rw [exec_binderyEnqueue_passes takes sound placed read live pass, if_pos full]
  case starts => exact fun s k c t only one lt part starts => exec_taskStart_only only one lt part starts
  case zeroed =>
    exact fun s k t core found one part live sound zeroes =>
      exec_taskPartComplete_done found one part live sound (State.runPart_zeroes zeroes s k core 0)
  case faulted =>
    exact fun s k t core s1 code chunk found one part live sound ran => exec_taskPartComplete_fault found one part live sound ran
  case joins =>
    intro s k b r ty l ws g takes sound placed read live pass room
    rw [exec_binderyEnqueue_passes takes sound placed read live pass, if_neg (Nat.not_lt.2 room)]
  case completes => exact fun s k t core s1 found one part live sound ran => exec_taskPartComplete_done found one part live sound ran
  case alone => exact fun s r b v alone => State.tenqEnd_alone alone

end Sys2Proof.Machine
end

section
/-! Patterns and queries (R290, R297, R335, R385): what each answers, and the statement. -/

namespace Sys2Proof.Machine

open Sys2Proof

/-- Settles O25: each body falls through with the result its clause names, which its query number or its handle selects. -/
theorem engineQueries : Obligations.EngineQueries := by
  unfold Obligations.EngineQueries
  refine ⟨?dpat, ?free, ?progress, ?low, ?high, ?noPeer, ?peer, ?requests, ?payload, ?left, ?current, ?other⟩
  case dpat => exact fun h a b => .of_go (fun _ => rfl) fun _ _ => rfl
  case free => exact fun h d a q => .of_go (fun _ => rfl) fun _ number => by subst number; rfl
  case progress => exact fun h d a q => .of_go (fun _ => rfl) fun _ number => by subst number; rfl
  case low => exact fun h d a q => .of_go (fun _ => rfl) fun _ number => by subst number; rfl
  case high => exact fun h d a q => .of_go (fun _ => rfl) fun _ number => by subst number; rfl
  case noPeer => exact fun h d a item => .of_go (fun _ => rfl) fun _ beyond => by simp only [bne_iff_ne.2 beyond, if_true]
  case peer => exact fun h d a item => .of_go (fun _ => rfl) fun _ ⟨within, number⟩ => by subst number; simp [within]
  case requests => exact fun h d a item => .of_go (fun _ => rfl) fun _ ⟨within, number⟩ => by subst number; simp [within]
  case payload => exact fun h d a item => .of_go (fun _ => rfl) fun _ ⟨within, number⟩ => by subst number; simp [within]
  case left => exact fun h d a item => .of_go (fun _ => rfl) fun _ ⟨within, number⟩ => by subst number; simp [within]
  case current => exact fun h item d a => .of_go (fun _ => rfl) fun _ handle => by simp [handle]
  case other => exact fun h item d a => .of_go (fun _ => rfl) fun _ ⟨notHandle, notLink⟩ => by simp [notHandle, notLink]

end Sys2Proof.Machine
end

section
/-! Calls between routines and reference counts (R332, R333, R334): what `aref` and `arel` share, and the statement. -/

namespace Sys2Proof.Machine

open Sys2Proof

/-- Instruction `i` adds `by_` to the reference count that its handle names; it faults where the count is `bad` (R334). -/
def CountsRefs (i : Instr) (a : GOp) (bad : Nat) (by_ : Int) : Prop :=
  ∀ s, exec i s = issue (formOf i) s fun c =>
    match c.s.currentHandle c.t.vol (c.g a) with
    | none => .fault (taskFault 0x24)
    | some k =>
      if ((c.s.spaceOf c.t.vol).entry k).refs == bad then .fault (taskFault 0x25)
      else .go { c with s := c.s.setSpace ((c.s.spaceOf c.t.vol).bump k by_ 0) }

theorem aref_countsRefs (h : Hdr) (a : GOp) : CountsRefs (.aref h a) a (2 ^ 32 - 1) 1 := fun _ => rfl

theorem arel_countsRefs (h : Hdr) (a : GOp) : CountsRefs (.arel h a) a 0 (-1) := fun _ => rfl

section
variable {i : Instr} {a : GOp} {bad : Nat} {by_ : Int}

theorem CountsRefs.counts (h : CountsRefs i a bad by_) (k : Nat) :
    Completes i (fun c => c.s.currentHandle c.t.vol (c.g a) = some k ∧ ((c.s.spaceOf c.t.vol).entry k).refs ≠ bad)
      fun c => Ctx.done { c with s := c.s.setSpace ((c.s.spaceOf c.t.vol).bump k by_ 0) } :=
  .of_go h fun c ⟨current, room⟩ => by simp only [current, beq_eq_false_iff_ne.2 room, Bool.false_eq_true, if_false]

theorem CountsRefs.stale (h : CountsRefs i a bad by_) :
    FaultsAtIssue i (fun c => c.s.currentHandle c.t.vol (c.g a) = none) fun _ => taskFault 0x24 :=
  .of_fault h fun c stale => by simp only [stale]

theorem CountsRefs.atEnd (h : CountsRefs i a bad by_) (k : Nat) :
    FaultsAtIssue i (fun c => c.s.currentHandle c.t.vol (c.g a) = some k ∧ ((c.s.spaceOf c.t.vol).entry k).refs = bad)
      fun _ => taskFault 0x25 :=
  .of_fault h fun c ⟨current, full⟩ => by simp only [current, full, BEq.rfl, if_true]

end

/-- Settles O26: `acall` by whether its value names a call's target, `aref` and `arel` as the counting of references by 1 and by −1. -/
theorem accessionCalls : Obligations.AccessionCalls := by
  unfold Obligations.AccessionCalls
  refine ⟨?call, ?callStale, ?ref, ?rel, ?refStale, ?relStale, ?refFull, ?relNone⟩
  case call =>
    refine fun h d a i e off link => .of_jump (fun _ => rfl) fun c ⟨alone, target⟩ => ?_
    simp only [formOf, Bool.not_eq_true] at alone
    simp only [alone, Bool.false_eq_true, if_false, target]
    rfl
  case callStale =>
    refine fun h d a => .of_fault (fun _ => rfl) fun c ⟨alone, noTarget⟩ => ?_
    simp only [formOf, Bool.not_eq_true] at alone
    simp only [alone, Bool.false_eq_true, if_false, noTarget]
  case ref => exact fun h a k => (aref_countsRefs h a).counts k
  case rel => exact fun h a k => (arel_countsRefs h a).counts k
  case refStale => exact fun h a => (aref_countsRefs h a).stale
  case relStale => exact fun h a => (arel_countsRefs h a).stale
  case refFull => exact fun h a k => (aref_countsRefs h a).atEnd k
  case relNone => exact fun h a k => (arel_countsRefs h a).atEnd k

end Sys2Proof.Machine
end

section
/-! Holds and range deques (R365, R366, R370, R371, R372): each clause selects a branch of its instruction's body. -/

namespace Sys2Proof.Machine

open Sys2Proof

/-- A count that `hold` takes (R365). -/
theorem holdCount_good {n : Nat} (nonzero : n ≠ 0) (small : n < 2 ^ 31) : ¬ (n == 0 || decide (2 ^ 31 ≤ n)) = true := by
  rw [Bool.or_eq_true, beq_iff_eq, decide_eq_true_eq]
  omega

/-- Settles O27: each clause selects one branch of its instruction's body, by the count, the hold, the range or the deque. -/
theorem holdsAndDeques : Obligations.HoldsAndDeques := by
  unfold Obligations.HoldsAndDeques
  refine ⟨?holdCount, ?holdNone, ?hold, ?dech, ?dechBad, ?pushEmpty, ?pushFull, ?push, ?popNone, ?pop, ?splitNone, ?splitOne, ?split,
    ?stealBad, ?steal⟩
  case holdCount => exact fun h d a imm => .of_go (fun _ => rfl) fun c outOfRange => if_pos (by simpa using outOfRange)
  case holdNone =>
    refine fun h d a imm => .of_go (fun _ => rfl) fun c ⟨nonzero, small, taken⟩ => ?_
    exact (if_neg (holdCount_good nonzero small)).trans (by simp only [taken])
  case hold =>
    refine fun h d a imm i r => .of_go (fun _ => rfl) fun c ⟨nonzero, small, free⟩ => ?_
    exact (if_neg (holdCount_good nonzero small)).trans (by simp only [free])
  case dech =>
    refine fun h a imm => .of_go (fun _ => rfl) fun c ⟨positive, valid⟩ => if_neg ?_
    simp [valid, Int.not_lt.2 positive]
  case dechBad => exact fun h a imm => .of_fault (fun _ => rfl) fun c bad => if_pos (by simpa using bad)
  case pushEmpty => exact fun h d a => .of_go (fun _ => rfl) fun c empty => if_pos empty
  case pushFull =>
    exact fun h d a => .of_go (fun _ => rfl) fun c ⟨range, full⟩ => (if_neg (Nat.not_le.2 range)).trans (if_pos full)
  case push =>
    exact fun h d a => .of_go (fun _ => rfl) fun c ⟨range, room⟩ => (if_neg (Nat.not_le.2 range)).trans (if_neg (Nat.not_le.2 room))
  case popNone => exact fun h d => .of_go (fun _ => rfl) fun c none => by simp only [none]
  case pop => exact fun h d w l => .of_go (fun _ => rfl) fun c bottom => by simp only [bottom]
  case splitNone => exact fun h d => .of_go (fun _ => rfl) fun c none => by simp only [none]
  case splitOne =>
    exact fun h d w l => .of_go (fun _ => rfl) fun c ⟨bottom, short⟩ => by simp only [bottom, if_pos short]
  case split =>
    exact fun h d w l => .of_go (fun _ => rfl) fun c ⟨bottom, long⟩ => by simp only [bottom, if_neg (Nat.not_lt.2 long)]
  case stealBad => exact fun h d a => .of_go (fun _ => rfl) fun c bad => if_pos (bne_iff_ne.2 bad)
  case steal => exact fun h d a => .of_go (fun _ => rfl) fun c core => if_neg (by simp [core])

end Sys2Proof.Machine
end

section
/-! Barriers (R364): the checks by shape and by class, the arrival, and the statement. -/

namespace Sys2Proof.Machine

open Sys2Proof

@[simp] theorem State.setMember_clk (s : State) (vol gidx role lane : Nat) (f : Member → Member) :
    (s.setMember vol gidx role lane f).clk = s.clk := by
  unfold State.setMember
  split <;> rfl

section
variable {c : Ctx} {b : Nat}

/-- A barrier that the shape does not have is BARRIER before anything else (assumption 62). -/
theorem Ctx.barrierBad_barrier (noBarrier : c.barrierNone b) : c.barrierBad b = some (taskFault 0x28) := by
  obtain ⟨g, gathering, beyond⟩ := noBarrier
  simp only [Ctx.barrierBad, gathering, if_pos beyond]

/-- A strand that has no gathering's class is CLASS, once the barrier is one of the shape's or there is no shape (assumption 62). -/
theorem Ctx.barrierBad_class (barrier : ¬ c.barrierNone b)
    (noClass : c.t.free = true ∨ c.slot = 63 ∨ c.s.gathering c.t.vol c.t.gidx = none) : c.barrierBad b = some (taskFault 0x2A) := by
  unfold Ctx.barrierBad
  cases gathering : c.s.gathering c.t.vol c.t.gidx with
  | none => rfl
  | some g =>
    have within : ¬ shapeNbar g.shape ≤ b := fun beyond => barrier ⟨g, gathering, beyond⟩
    have unbound : (c.t.free || c.slot == 63) = true := by simpa [gathering] using noClass
    simp only [if_neg within, unbound, if_true]

end

/-- `bara` counts and sends its arrival, or parks while its last one has not been met. -/
theorem exec_bara (h : Hdr) (n : BitVec 24) (s : State) : exec (.bara h n) s = issue (formOf (.bara h n)) s fun c =>
    match c.barrierBad n.toNat with
    | some e => .fault e
    | none =>
      if (c.s.barrierOf c.t n.toNat).2 < (c.s.barrierOf c.t n.toNat).1 then .park (.bara n.toNat)
      else .go { c with
        s := (c.s.setMember c.t.vol c.t.gidx c.t.role c.t.lane (fun m => { m with arr := bumpAt m.arr n.toNat })).sendAt
          (c.s.clk.frame + 2) c.core c.slot c.core (.bar c.t.vol c.t.gidx c.t.role c.t.lane n.toNat) } := by
  have arm : exec (.bara h n) s = execBara h n s := rfl
  simp only [arm, execBara, State.setMember_clk]
  rfl

/-- `barw` goes on, or parks while the strand's arrivals have not been met. -/
theorem exec_barw (h : Hdr) (n : BitVec 24) (s : State) : exec (.barw h n) s = issue (formOf (.barw h n)) s fun c =>
    match c.barrierBad n.toNat with
    | some e => .fault e
    | none => if (c.s.barrierOf c.t n.toNat).2 < (c.s.barrierOf c.t n.toNat).1 then .park (.barw n.toNat) else .go c := rfl

/-- Settles O15: `bara` and `barw` by their shared checks, and by whether the strand's arrivals have been met. -/
theorem barrierInstructions : Obligations.BarrierInstructions := by
  unfold Obligations.BarrierInstructions
  refine ⟨?bara, ?barw, ?baraNone, ?barwNone, ?baraClass, ?barwClass, ?baraParks⟩
  case bara => exact fun h n => .of_go (exec_bara h n) fun c ⟨good, met⟩ => by simp only [good, if_neg (Nat.not_lt.2 met)]
  case barw => exact fun h n => .of_go (exec_barw h n) fun c ⟨good, met⟩ => by simp only [good, if_neg (Nat.not_lt.2 met)]
  case baraNone => exact fun h n => .of_fault (exec_bara h n) fun c noBarrier => by simp only [Ctx.barrierBad_barrier noBarrier]
  case barwNone => exact fun h n => .of_fault (exec_barw h n) fun c noBarrier => by simp only [Ctx.barrierBad_barrier noBarrier]
  case baraClass =>
    exact fun h n => .of_fault (exec_bara h n) fun c ⟨barrier, noClass⟩ => by simp only [Ctx.barrierBad_class barrier noClass]
  case barwClass =>
    exact fun h n => .of_fault (exec_barw h n) fun c ⟨barrier, noClass⟩ => by simp only [Ctx.barrierBad_class barrier noClass]
  case baraParks =>
    intro h n s c core slot t turn resident entered good unmet
    refine (exec_bara h n s).trans (issue_park turn resident rfl entered ?_)
    simp only [good, if_pos unmet]

end Sys2Proof.Machine
end

section
/-! Retirement (R373, R374): the checks in their order, each outcome, and the statement. -/

namespace Sys2Proof.Machine

open Sys2Proof

/-! ## The checks of a bequest (R374) -/

/-- A tile that the successor takes over does not agree with the bequest: one of the strand's own with another entry, or one that
nobody has configured when the last live lane of the role retires. -/
def Ctx.bequestTileBad (c : Ctx) (g : Gathering) (hd blk : List Word) : Bool :=
  (List.range 16).any fun k =>
    (hd.getD 2 0).getLsbD (16 + k) &&
      ((((c.s.core c.core).tiles.getD k {}).conf && ((c.s.core c.core).tiles.getD k {}).vol == c.t.vol &&
          ((c.s.core c.core).tiles.getD k {}).gidx == c.t.gidx && ((c.s.core c.core).tiles.getD k {}).lane == c.t.lane &&
          !tileEntryOk blk k ((c.s.core c.core).tiles.getD k {})) ||
        ((g.members.all fun m => m.role != c.t.role || m.lane == c.t.lane || m.st != .live) &&
          !((c.s.core c.core).tiles.getD k {}).conf))

/-- The checks of the header and the block, in their order. -/
def Ctx.bequeath (c : Ctx) (g : Gathering) (w : Word) (hd blk : List Word) : Out :=
  if shapeBad g hd c.t.wgr then .fault (taskFault 0x2D)
  else if blk.getD 0 0 != hd.getD 2 0 then .fault (taskFault 0x2B)
  else if c.bequestTileBad g hd blk then .fault (taskFault 0x2C)
  else c.retired g (some w) (hd ++ blk)

section
variable {c : Ctx} {g : Gathering} {hd blk : List Word}

theorem Ctx.bequestTileBad_agrees (agrees : ∀ k < 16, (hd.getD 2 0).getLsbD (16 + k) = true → ∃ x, x = (c.s.core c.core).tiles.getD k {} ∧
    x.conf = true ∧ (x.vol = c.t.vol → x.gidx = c.t.gidx → x.lane = c.t.lane → tileEntryOk blk k x = true)) :
    c.bequestTileBad g hd blk = false := by
  refine List.any_eq_false.2 fun k hk => ?_
  rintro bad
  obtain ⟨named, bad⟩ := (Bool.and_eq_true _ _).mp bad
  obtain ⟨x, rfl, conf, entry⟩ := agrees k (List.mem_range.1 hk) named
  simp only [conf, Bool.not_true, Bool.and_false, Bool.or_false, Bool.true_and, Bool.and_eq_true, beq_iff_eq, Bool.not_eq_true'] at bad
  obtain ⟨⟨⟨vol, gidx⟩, lane⟩, other⟩ := bad
  exact Bool.false_ne_true (other.symm.trans (entry vol gidx lane))

theorem Ctx.bequestTileBad_own {k : Nat} (lt : k < 16) (named : (hd.getD 2 0).getLsbD (16 + k) = true)
    (conf : ((c.s.core c.core).tiles.getD k {}).conf = true) (own : ((c.s.core c.core).tiles.getD k {}).ownedBy c.t = true)
    (other : tileEntryOk blk k ((c.s.core c.core).tiles.getD k {}) = false) : c.bequestTileBad g hd blk = true := by
  simp only [Tile.ownedBy, Bool.and_eq_true] at own
  obtain ⟨⟨vol, gidx⟩, lane⟩ := own
  refine List.any_eq_true.2 ⟨k, List.mem_range.2 lt, ?_⟩
  simp only [named, conf, vol, gidx, lane, other, Bool.and_self, Bool.not_false, Bool.true_or]

theorem Ctx.bequestTileBad_unset {k : Nat} (last : ∀ m ∈ g.members, m.role = c.t.role → m.lane ≠ c.t.lane → m.st ≠ .live) (lt : k < 16)
    (named : (hd.getD 2 0).getLsbD (16 + k) = true) (unset : ((c.s.core c.core).tiles.getD k {}).conf = false) :
    c.bequestTileBad g hd blk = true := by
  have spent : (g.members.all fun m => m.role != c.t.role || m.lane == c.t.lane || m.st != .live) = true := by
    refine List.all_eq_true.2 fun m hm => ?_
    have := last m hm
    simp only [Bool.or_eq_true, bne_iff_ne, beq_iff_eq]
    tauto
  refine List.any_eq_true.2 ⟨k, List.mem_range.2 lt, ?_⟩
  simp only [named, spent, unset, Bool.not_false, Bool.and_self, Bool.or_true]

end

/-! ## The body -/

/-- A retirement without a successor. -/
def Ctx.retireAlone (c : Ctx) (g : Gathering) (b : GOp) : Out :=
  if g.retires && g.succ.isSome then .fault (taskFault 0x2E)
  else match (if b == .z then .ok (Loc.buf 0) else c.placePtr (c.g b) 64 rR 64) with
    | .error e => .fault e
    | .ok _ => c.retired g none []

/-- A retirement to the code point that `a` holds. -/
def Ctx.retireInto (c : Ctx) (g : Gathering) (a b : GOp) : Out :=
  match c.s.codePoint c.t.vol (c.g a) with
  | none => .fault (taskFault 0x24)
  | some (i, off) =>
    if off < 8 then .fault (taskFault 0x24)
    else if g.retires && g.succ != some (c.g a) then .fault (taskFault 0x2E)
    else
      let hva := ((c.s.spaceOf c.t.vol).entry i).base + 8 * (off - 8)
      match c.s.readWords (clusterOf c.core) (.va c.t.vol hva) .fetch 8 with
      | .error x => .fault (blockFault x hva 3)
      | .ok hd => match c.placePtr (c.g b) 64 rR 64 with
        | .error x => .fault x
        | .ok l => match c.s.readWords (clusterOf c.core) l .read 8 with
          | .error x => .fault (blockFault x l.shown 6)
          | .ok blk => c.bequeath g (c.g a) hd blk

/-- What `retire` does. -/
def Ctx.retireOut (c : Ctx) (a b : GOp) : Out :=
  match c.s.gathering c.t.vol c.t.gidx with
  | none => .fault (taskFault 0x2A)
  | some g =>
    if c.t.free || c.slot == 63 then .fault (taskFault 0x2A)
    else if a == .z then c.retireAlone g b else c.retireInto g a b

theorem exec_retire (h : Hdr) (a b : GOp) (s : State) : exec (.retire h a b) s = issue (formOf (.retire h a b)) s (·.retireOut a b) := rfl

section
variable {c : Ctx} {a b : GOp} {g : Gathering}

/-- A strand that has no gathering, a free one and slot 63 cannot retire (R373). -/
theorem Ctx.retireOut_class (noClass : c.s.gathering c.t.vol c.t.gidx = none ∨ c.t.free = true ∨ c.slot = 63) :
    c.retireOut a b = .fault (taskFault 0x2A) := by
  unfold Ctx.retireOut
  cases gathering : c.s.gathering c.t.vol c.t.gidx with
  | none => rfl
  | some g =>
    have unbound : (c.t.free || c.slot == 63) = true := by simpa [gathering] using noClass
    exact if_pos unbound

variable (gathering : c.s.gathering c.t.vol c.t.gidx = some g) (bound : c.t.free = false) (user : c.slot ≠ 63)
include gathering bound user

theorem Ctx.retireOut_alone : c.retireOut .z b = c.retireAlone g b := by
  simp only [Ctx.retireOut, gathering, bound, beq_eq_false_iff_ne.2 user, Bool.or_self, Bool.false_eq_true, if_false, BEq.rfl, if_true]

theorem Ctx.retireOut_into (succ : a ≠ .z) : c.retireOut a b = c.retireInto g a b := by
  simp only [Ctx.retireOut, gathering, bound, beq_eq_false_iff_ne.2 user, Bool.or_self, Bool.false_eq_true, if_false,
    beq_eq_false_iff_ne.2 succ]

end

section
variable {c : Ctx} {a b : GOp} {g : Gathering}

/-- Without a successor named before, only the bequest block is checked (R373). -/
theorem Ctx.retireAlone_unnamed (unnamed : g.retires = true → g.succ = none) : c.retireAlone g b =
    match (if b == .z then .ok (Loc.buf 0) else c.placePtr (c.g b) 64 rR 64) with
    | .error e => .fault e
    | .ok _ => c.retired g none [] := by
  refine if_neg ?_
  rw [Bool.and_eq_true]
  rintro ⟨earlier, named⟩
  exact absurd (unnamed earlier) (Option.isSome_iff_ne_none.1 named)

theorem Ctx.retireAlone_passes (unnamed : g.retires = true → g.succ = none) (block : b = .z ∨ ∃ l, c.placePtr (c.g b) 64 rR 64 = .ok l) :
    c.retireAlone g b = c.retired g none [] := by
  rw [Ctx.retireAlone_unnamed unnamed]
  by_cases zero : b = .z
  · simp only [zero, BEq.rfl, if_true]
  · obtain ⟨l, place⟩ := block.resolve_left zero
    simp only [beq_eq_false_iff_ne.2 zero, Bool.false_eq_true, if_false, place]

theorem Ctx.retireAlone_fault {e : FaultInfo} (unnamed : g.retires = true → g.succ = none) (named : b ≠ .z)
    (bad : c.placePtr (c.g b) 64 rR 64 = .error e) : c.retireAlone g b = .fault e := by
  rw [Ctx.retireAlone_unnamed unnamed]
  simp only [beq_eq_false_iff_ne.2 named, Bool.false_eq_true, if_false, bad]

/-- A value that is no code point at offset 8 or beyond is STALE (R373). -/
theorem Ctx.retireInto_stale (stale : ∀ i off, c.s.codePoint c.t.vol (c.g a) = some (i, off) → off < 8) :
    c.retireInto g a b = .fault (taskFault 0x24) := by
  unfold Ctx.retireInto
  cases point : c.s.codePoint c.t.vol (c.g a) with
  | none => rfl
  | some p => exact if_pos (stale p.1 p.2 point)

variable {i off : Nat} (point : c.s.codePoint c.t.vol (c.g a) = some (i, off)) (beyond : 8 ≤ off)
include point beyond

/-- A gathering has one successor (R374). -/
theorem Ctx.retireInto_other (earlier : g.retires = true) (other : g.succ ≠ some (c.g a)) :
    c.retireInto g a b = .fault (taskFault 0x2E) := by
  simp only [Ctx.retireInto, point, if_neg (Nat.not_lt.2 beyond), earlier, bne_iff_ne.2 other, Bool.and_self, if_true]

/-- With the named successor's header and the block read, they are checked (R374). -/
theorem Ctx.retireInto_read {hd blk : List Word} {l : Loc} (named : g.retires = true → g.succ = some (c.g a))
    (header : c.s.readWords (clusterOf c.core) (.va c.t.vol (((c.s.spaceOf c.t.vol).entry i).base + 8 * (off - 8))) .fetch 8 = .ok hd)
    (place : c.placePtr (c.g b) 64 rR 64 = .ok l) (block : c.s.readWords (clusterOf c.core) l .read 8 = .ok blk) :
    c.retireInto g a b = c.bequeath g (c.g a) hd blk := by
  have same : (g.retires && g.succ != some (c.g a)) = false := by
    cases earlier : g.retires with
    | false => rfl
    | true => rw [named earlier, bne_self_eq_false]; rfl
  simp only [Ctx.retireInto, point, if_neg (Nat.not_lt.2 beyond), same, Bool.false_eq_true, if_false, header, place, block]

end

/-- Settles O16: each clause follows `retire` to the check that it names, or past all of them. -/
theorem retireOutcomes : Obligations.RetireOutcomes := by
  unfold Obligations.RetireOutcomes
  refine ⟨?alone, ?succeeded, ?unbound, ?aloneNamed, ?intoOther, ?stale, ?shape, ?mask, ?tileOwn, ?tileUnset, ?block⟩
  case alone =>
    refine fun h b g s c entered gathering bound user unnamed block => (exec_retire h .z b s).trans (issue_left entered ?_)
    rw [Ctx.retireOut_alone gathering bound user, Ctx.retireAlone_passes unnamed block]
    rfl
  case succeeded =>
    intro h a b g i off hd l blk s c entered gathering bound user succ point beyond named header place block shape mask tiles
    refine (exec_retire h a b s).trans (issue_left entered ?_)
    rw [Ctx.retireOut_into gathering bound user succ, Ctx.retireInto_read point beyond named header place block]
    simp only [Ctx.bequeath, shape, mask, Ctx.bequestTileBad_agrees tiles, bne_self_eq_false, Bool.false_eq_true, if_false]
    rfl
  case unbound => exact fun h a b => .of_fault (exec_retire h a b) fun c noClass => Ctx.retireOut_class noClass
  case aloneNamed =>
    refine fun h a b => .of_fault (exec_retire h a b) fun c ⟨g, gathering, bound, user, noSucc, earlier, named⟩ => ?_
    subst noSucc
    rw [Ctx.retireOut_alone gathering bound user]
    exact if_pos (by rw [earlier, Bool.true_and, Option.isSome_iff_ne_none]; exact named)
  case intoOther =>
    refine fun h a b => .of_fault (exec_retire h a b) fun c ⟨g, i, off, gathering, bound, user, succ, point, beyond, earlier, other⟩ => ?_
    rw [Ctx.retireOut_into gathering bound user succ, Ctx.retireInto_other point beyond earlier other]
  case stale =>
    refine fun h a b => .of_fault (exec_retire h a b) fun c ⟨⟨g, gathering⟩, bound, user, succ, stale⟩ => ?_
    rw [Ctx.retireOut_into gathering bound user succ, Ctx.retireInto_stale stale]
  case shape =>
    refine fun h a b g i off hd l blk => .of_fault (exec_retire h a b)
      fun c ⟨gathering, bound, user, succ, point, beyond, named, header, place, block, shape⟩ => ?_
    rw [Ctx.retireOut_into gathering bound user succ, Ctx.retireInto_read point beyond named header place block]
    exact if_pos shape
  case mask =>
    refine fun h a b g i off hd l blk => .of_fault (exec_retire h a b)
      fun c ⟨gathering, bound, user, succ, point, beyond, named, header, place, block, shape, mask⟩ => ?_
    rw [Ctx.retireOut_into gathering bound user succ, Ctx.retireInto_read point beyond named header place block]
    simp only [Ctx.bequeath, shape, bne_iff_ne.2 mask, Bool.false_eq_true, if_false, if_true]
  case tileOwn =>
    refine fun h a b g i off hd l blk => .of_fault (exec_retire h a b)
      fun c ⟨gathering, bound, user, succ, point, beyond, named, header, place, block, shape, mask, k, lt, tile, conf, own, other⟩ => ?_
    rw [Ctx.retireOut_into gathering bound user succ, Ctx.retireInto_read point beyond named header place block]
    simp only [Ctx.bequeath, shape, mask, Ctx.bequestTileBad_own lt tile conf own other, bne_self_eq_false, Bool.false_eq_true, if_false,
      if_true]
  case tileUnset =>
    refine fun h a b g i off hd l blk => .of_fault (exec_retire h a b)
      fun c ⟨gathering, bound, user, succ, point, beyond, named, header, place, block, shape, mask, last, k, lt, tile, unset⟩ => ?_
    rw [Ctx.retireOut_into gathering bound user succ, Ctx.retireInto_read point beyond named header place block]
    simp only [Ctx.bequeath, shape, mask, Ctx.bequestTileBad_unset last lt tile unset, bne_self_eq_false, Bool.false_eq_true, if_false,
      if_true]
  case block =>
    refine fun h a b g e => .of_fault (exec_retire h a b) fun c ⟨gathering, bound, user, noSucc, unnamed, named, bad⟩ => ?_
    subst noSucc
    rw [Ctx.retireOut_alone gathering bound user, Ctx.retireAlone_fault unnamed named bad]

end Sys2Proof.Machine
end

section
/-! Spawned strands, posted messages and pre-emption requests (R363, R368, R369, R175): the fields of a destination, and the statement. -/

namespace Sys2Proof.Machine

open Sys2Proof

/-- A field is 0 when each of its bits is. -/
theorem fld_eq_zero_iff {w : Word} {hi lo : Nat} : fld w hi lo = 0 ↔ ∀ i, lo ≤ i → i ≤ hi → w.getLsbD i = false := by
  have bit (j : Nat) : (fld w hi lo).testBit j = (decide (j < hi + 1 - lo) && w.getLsbD (lo + j)) := by
    simp only [fld, bitsN, Nat.testBit_mod_two_pow, Nat.testBit_div_two_pow, BitVec.getLsbD, Nat.add_comm]
  constructor
  · intro zero i low high
    have := bit (i - lo)
    rwa [zero, Nat.zero_testBit, Nat.add_sub_cancel' low, decide_eq_true (by omega), Bool.true_and, eq_comm] at this
  · intro bits
    refine Nat.eq_of_testBit_eq fun j => ?_
    rw [bit, Nat.zero_testBit]
    by_cases within : j < hi + 1 - lo
    · rw [bits _ (by omega) (by omega), Bool.and_false]
    · rw [decide_eq_false within, Bool.false_and]

/-- A field within one that is 0 is 0. -/
theorem fld_zero_within {w : Word} {hi lo hi' lo' : Nat} (zero : fld w hi lo = 0) (low : lo ≤ lo') (high : hi' ≤ hi) : fld w hi' lo' = 0 :=
  fld_eq_zero_iff.2 fun i hlo hhi => fld_eq_zero_iff.1 zero i (Nat.le_trans low hlo) (Nat.le_trans hhi high)

/-! ## post (R175) -/

/-- The destination of a `post` is malformed. -/
def Ctx.postBad (c : Ctx) (w : Word) : Bool :=
  fld w 63 32 != 0 || fld w 30 27 != 0 || fld w 15 11 != 0 ||
    (w.getLsbD 31 && (c.t.free || c.slot == 63 || decide (c.s.coreCount c.t ≤ fld w 26 24) || fld w 10 0 != 0))

/-- The core that a `post` goes to. -/
def Ctx.postTo (c : Ctx) (w : Word) : Nat :=
  if c.postBad w then c.core
  else if w.getLsbD 31 then ((c.s.gathering c.t.vol c.t.gidx).bind (·.cores[fld w 26 24]?)).getD c.core
  else fld w 10 0

/-- `post` sends its message to the core that its destination names. -/
theorem post_sends (h : Hdr) (d a b : GOp) (tag : BitVec 16) : Completes (.post h d a b tag) anyCtx fun c =>
    c.messageSent d (c.postTo (c.g a)) (.post c.t.vol (fld (c.g a) 23 16) ((c.g a).getLsbD 31)
      (ofN (tag.toNat * 2 ^ 48 + (c.g b).toNat % 2 ^ 44)) c.t.gidx (if c.postBad (c.g a) then 2 else 0)) :=
  .of_go (fun _ => rfl) fun _ _ => rfl

section
variable {c : Ctx} {w : Word}

theorem Ctx.postBad_core (high : fld w 63 27 = 0) (low : fld w 15 11 = 0) : c.postBad w = false := by
  have upper : fld w 63 32 = 0 := fld_zero_within high (by decide) (by decide)
  have middle : fld w 30 27 = 0 := fld_zero_within high (by decide) (by decide)
  have byCore : w.getLsbD 31 = false := fld_eq_zero_iff.1 high 31 (by decide) (by decide)
  simp only [Ctx.postBad, upper, middle, low, byCore, bne_self_eq_false, Bool.false_and, Bool.or_self]

theorem Ctx.postBad_role {g : Gathering} {k : Nat} (high : fld w 63 32 = 0) (mid : fld w 30 27 = 0) (low : fld w 15 0 = 0)
    (bound : c.t.free = false) (user : c.slot ≠ 63) (gathering : c.s.gathering c.t.vol c.t.gidx = some g)
    (role : g.cores[fld w 26 24]? = some k) : c.postBad w = false := by
  have within : ¬ c.s.coreCount c.t ≤ fld w 26 24 := by
    simpa [State.coreCount, gathering] using (List.getElem?_eq_some_iff.1 role).1
  have upper : fld w 15 11 = 0 := fld_zero_within low (by decide) (by decide)
  have lower : fld w 10 0 = 0 := fld_zero_within low (by decide) (by decide)
  simp only [Ctx.postBad, high, mid, upper, lower, bound, beq_eq_false_iff_ne.2 user, decide_eq_false within, bne_self_eq_false, Bool.or_self,
    Bool.and_false]

theorem Ctx.postBad_malformed (bad : fld w 63 32 ≠ 0 ∨ fld w 30 27 ≠ 0 ∨ fld w 15 11 ≠ 0 ∨
    (w.getLsbD 31 = true ∧ (c.t.free = true ∨ c.slot = 63 ∨ c.s.coreCount c.t ≤ fld w 26 24 ∨ fld w 10 0 ≠ 0))) : c.postBad w = true := by
  simpa [Ctx.postBad, or_assoc] using bad

end

/-- Settles O28: `spawn` by its code point, its hold and the room of the run list, `post` by whether its destination is malformed, `pmt` by
the bits of its operand. -/
theorem spawnPostAndPreempt : Obligations.SpawnPostAndPreempt := by
  unfold Obligations.SpawnPostAndPreempt
  refine ⟨?spawn, ?full, ?stale, ?badHold, ?postCore, ?postRole, ?postBad, ?pmtBad, ?preempt, ?resume, ?behind⟩
  case spawn =>
    intro h d a imm i off v s c entered point volume room
    refine issue_go entered ?_
    simp only [point, volume, bne_self_eq_false, Bool.false_and, Bool.false_eq_true, if_false, if_neg (Nat.not_le.2 room)]
    rfl
  case full =>
    intro h d a b imm i off v s c entered point hold volume full
    refine issue_go entered ?_
    have good : (b != .z && holdBad (c.g b)) = false := by
      obtain rfl | good := hold
      · rfl
      · rw [good, Bool.and_false]
    simp only [point, good, Bool.false_eq_true, if_false, volume, if_pos full]
  case stale => exact fun h d a b imm => .of_fault (fun _ => rfl) fun c stale => by simp only [stale]
  case badHold =>
    exact fun h d a b imm r => .of_fault (fun _ => rfl) fun c ⟨point, named, bad⟩ => by
      simp only [point, bne_iff_ne.2 named, bad, Bool.and_self, if_true]
  case postCore =>
    intro h d a b tag s c entered ⟨high, low⟩
    have byCore : (c.g a).getLsbD 31 = false := fld_eq_zero_iff.1 high 31 (by decide) (by decide)
    refine (post_sends h d a b tag s c entered trivial).trans ?_
    simp only [Ctx.postTo, Ctx.postBad_core high low, byCore, Bool.false_eq_true, if_false]
  case postRole =>
    intro h d a b tag g k s c entered ⟨⟨high, mid, low, byRole⟩, bound, user, gathering, role⟩
    refine (post_sends h d a b tag s c entered trivial).trans ?_
    simp only [Ctx.postTo, Ctx.postBad_role high mid low bound user gathering role, byRole, gathering, Option.bind_some, role,
      Option.getD_some, Bool.false_eq_true, if_false, if_true]
  case postBad =>
    intro h d a b tag s c entered bad
    refine (post_sends h d a b tag s c entered trivial).trans ?_
    simp only [Ctx.postTo, Ctx.postBad_malformed bad, if_true]
  case pmtBad => exact fun h d a => .of_go (fun _ => rfl) fun c bad => if_pos (bne_iff_ne.2 bad)
  case preempt => exact fun h d a => .of_go (fun _ => rfl) fun c ⟨core, save⟩ => (if_neg (by simp [core])).trans (by simp only [save]; rfl)
  case resume => exact fun h d a => .of_go (fun _ => rfl) fun c ⟨core, back⟩ => (if_neg (by simp [core])).trans (by simp only [back]; rfl)
  case behind =>
    intro h d a b imm i off v s c entered point named good volume room
    refine issue_go entered ?_
    simp only [point, good, Bool.and_false, Bool.false_eq_true, if_false, volume, if_neg (Nat.not_le.2 room), beq_eq_false_iff_ne.2 named]
    cases c.s.liveHold v.id (handleCore (c.g b)) (handleGen (c.g b)) (handleIdx (c.g b)) with
    | none => rfl
    | some x => rfl

end Sys2Proof.Machine
end

section
/-! The supervisor's instructions on strands (R406): what each body does by what the handle names, and the statement. -/

namespace Sys2Proof.Machine

open Sys2Proof

/-! ## Reading a register -/

/-- A register of a halted strand that does not fail is read as it is (R107, R406). -/
theorem State.readHalted_sound (s : State) (core slot n : Nat) {t : Strand} (reg : n < 128 → t.failing.contains n = false)
    (pred : n = 128 → t.predBad = false) (special : 128 < n → t.sregBad.contains (n - 256) = false) :
    s.readHalted core slot n t = .ok (if n < 128 then (if t.size ≤ n then 0xFFFFFFFFFFFFFFFF else t.g n)
      else if n = 128 then t.pred.setWidth 64 else s.special core slot t (n - 256), s) := by
  unfold State.readHalted
  rcases Nat.lt_trichotomy n 128 with lt | eq | gt
  · simp only [if_pos lt, reg lt, Bool.not_false, if_true]
    split <;> rfl
  · subst eq
    simp [pred]
  · simp only [if_neg (Nat.not_lt.2 (Nat.le_of_lt gt)), beq_eq_false_iff_ne.2 (Nat.ne_of_gt gt), special gt, Bool.false_eq_true,
      if_neg (Nat.ne_of_gt gt), if_false]

/-- What `emr` reads where its handle points: the value and the state, or the fault of a lost register and the state. -/
def Ctx.emrRead (c : Ctx) (a : GOp) (n : Nat) : Except (FaultInfo × State) (Word × State) :=
  match c.s.target c.core (c.g a) with
  | .halted core slot t => c.s.readHalted core slot n t
  | .slip vol pa => .ok
    (if n < 128 then (if 8 * (fld (c.s.slipDw pa 0) 58 55 + 1) ≤ n then 0xFFFFFFFFFFFFFFFF else c.s.saveDw vol pa (0x540 + 8 * n))
     else if n == 128 then ofN (fld (c.s.slipDw pa 1) 15 0)
     else c.s.slipSpecial c.core vol pa (n - 256), c.s)
  | .none => .ok (0xFFFFFFFFFFFFFFFF, c.s)

theorem exec_emr (h : Hdr) (d a : GOp) (rs : BitVec 24) (s : State) : exec (.emr h d a rs) s = issue (formOf (.emr h d a rs)) s fun c =>
    match c.emrRead a rs.toNat with
    | .error (f, s1) => .faultAfter { c with s := s1 } f
    | .ok (v, s1) =>
      let r := Ctx.op { c with s := s1 } (Ctx.dest { c with s := s1 } d)
      .go (r.2.setOp r.1 fun o => { o with stage := .held, val := v.setWidth 512 }) := rfl

/-- `emr` completes with the value that it reads, held. -/
theorem emr_reads {h : Hdr} {d a : GOp} {rs : BitVec 24} {p : Ctx → Prop} {v : Ctx → Word}
    (reads : ∀ c, p c → c.emrRead a rs.toNat = .ok (v c, c.s)) : Completes (.emr h d a rs) p fun c => c.heldDone d (v c) :=
  .of_go (exec_emr h d a rs) fun c hp => by simp only [reads c hp]

section
variable {c : Ctx} {a : GOp} {n core slot vol pa : Nat} {t : Strand}

theorem Ctx.emrRead_halted (names : c.s.target c.core (c.g a) = .halted core slot t) : c.emrRead a n = c.s.readHalted core slot n t := by
  simp only [Ctx.emrRead, names]

theorem Ctx.emrRead_none (names : c.s.target c.core (c.g a) = .none) : c.emrRead a n = .ok (0xFFFFFFFFFFFFFFFF, c.s) := by
  simp only [Ctx.emrRead, names]

variable (names : c.s.target c.core (c.g a) = .slip vol pa)
include names

theorem Ctx.emrRead_slip (reg : n < 128) (within : n < 8 * (fld (c.s.slipDw pa 0) 58 55 + 1)) :
    c.emrRead a n = .ok (c.s.saveDw vol pa (0x540 + 8 * n), c.s) := by
  simp only [Ctx.emrRead, names, if_pos reg, if_neg (Nat.not_le.2 within)]

theorem Ctx.emrRead_slip_beyond (reg : n < 128) (beyond : 8 * (fld (c.s.slipDw pa 0) 58 55 + 1) ≤ n) :
    c.emrRead a n = .ok (0xFFFFFFFFFFFFFFFF, c.s) := by
  simp only [Ctx.emrRead, names, if_pos reg, if_pos beyond]

theorem Ctx.emrRead_slip_pred (pred : n = 128) : c.emrRead a n = .ok (ofN (fld (c.s.slipDw pa 1) 15 0), c.s) := by
  subst pred
  simp only [Ctx.emrRead, names, Nat.lt_irrefl, if_false, BEq.rfl, if_true]

theorem Ctx.emrRead_slip_special (special : 256 ≤ n) : c.emrRead a n = .ok (c.s.slipSpecial c.core vol pa (n - 256), c.s) := by
  simp only [Ctx.emrRead, names, if_neg (show ¬ n < 128 by omega), beq_eq_false_iff_ne.2 (show n ≠ 128 by omega), Bool.false_eq_true, if_false]

end

/-! ## Writing a register -/

/-- The strand that `emw` leaves where it writes register `n` of a halted one. -/
def Strand.emwritten (t : Strand) (n : Nat) (v : Word) : Strand :=
  if n < 128 then (if t.size ≤ n then t else t.setG n v) else if n == 128 then t.setPred v else t.setSpecial (n - 256) v

/-- The state after `emw` has written register `n` of a saved strand. -/
def State.slipWritten (s : State) (vol pa n : Nat) (v : Word) : State :=
  if n < 128 then (if 8 * (fld (s.slipDw pa 0) 58 55 + 1) ≤ n then s else s.setSaveDw vol pa (0x540 + 8 * n) v)
  else if n == 128 then s.setSlipDw pa 1 (putBits (s.slipDw pa 1).toNat 15 0 (v.toNat / 2 * 2 + 1))
  else s.setSlipSpecial pa (n - 256) v

theorem exec_emw (h : Hdr) (d a : GOp) (rs : BitVec 24) (s : State) : exec (.emw h d a rs) s = issue (formOf (.emw h d a rs)) s fun c =>
    match c.s.target c.core (c.g a) with
    | .halted core slot t => .go { c with s := c.s.setStrand core slot (t.emwritten rs.toNat (c.g d)) }
    | .slip vol pa => .go { c with s := c.s.slipWritten vol pa rs.toNat (c.g d) }
    | .none => .go c := rfl

/-- `emw` on a halted strand writes the register that it names. -/
theorem emw_halted {h : Hdr} {d a : GOp} {rs : BitVec 24} {core slot : Nat} {t : Strand} {q : Prop} {u : Word → Strand}
    (writes : q → ∀ v, t.emwritten rs.toNat v = u v) :
    Completes (.emw h d a rs) (fun c => c.s.target c.core (c.g a) = .halted core slot t ∧ q)
      fun c => Ctx.done { c with s := c.s.setStrand core slot (u (c.g d)) } :=
  .of_go (exec_emw h d a rs) fun c ⟨names, hq⟩ => by simp only [names, writes hq]

/-- `emw` on a saved strand writes its save area or its slip. -/
theorem emw_slip {h : Hdr} {d a : GOp} {rs : BitVec 24} {vol pa : Nat} {q : Ctx → Prop} {r : Ctx → State}
    (writes : ∀ c, q c → c.s.slipWritten vol pa rs.toNat (c.g d) = r c) :
    Completes (.emw h d a rs) (fun c => c.s.target c.core (c.g a) = .slip vol pa ∧ q c) fun c => Ctx.done { c with s := r c } :=
  .of_go (exec_emw h d a rs) fun c ⟨names, hq⟩ => by simp only [names, writes c hq]

/-! ## Going on -/

/-- With no access of it to perform again, a halted strand goes on at once (R76, R406). -/
theorem State.continueHalted_none {s : State} {core : Nat} {t : Strand} (none : s.redoOf core t = []) (slot pc : Nat) :
    s.continueHalted core slot t pc = (s.dropFailed core t.uid).setStrand core slot
      { t with run := .ready, pc := pc, atSwitch := t.atSwitch && pc == t.pc } := by
  simp [State.continueHalted, none]

/-- A halted strand whose registers are all saved parks as a FAULTED slip of class 1 (R406). -/
theorem State.parkHalted_saved {s r : State} {core slot : Nat} {t : Strand} {pc : Nat}
    (saved : ((s.settle core t (List.range t.regs.length)).1.dropFailed core (s.settle core t (List.range t.regs.length)).2.uid).saveSettled
      core slot (s.settle core t (List.range t.regs.length)).2 pc 3 1 0
      { vol := (s.settle core t (List.range t.regs.length)).2.vol, pa := (s.settle core t (List.range t.regs.length)).2.slip - Config.areaVA,
        redo := (s.settle core t (List.range t.regs.length)).1.redoOf core (s.settle core t (List.range t.regs.length)).2 } = (r, none)) :
    s.parkHalted core slot t pc = r.pushNew .placement := by
  simp only [State.parkHalted, State.parkSettled, saved]

/-- Settles O29: each instruction by what its handle names, and for a register by its number. -/
theorem supervisorInstructions : Obligations.SupervisorInstructions := by
  unfold Obligations.SupervisorInstructions
  refine ⟨?emr, ?emrSlip, ?emrNone, ?emw, ?emwPred, ?emwSpecial, ?emwSlip, ?emwNone, ?resume, ?resumeStays, ?resumeSlip, ?resumeNone,
    ?kill, ?killSlip, ?killNone, ?park, ?parkSlip, ?emrSlipBeyond, ?emrSlipPred, ?emrSlipSpecial, ?emwSlipBeyond, ?emwSlipPred,
    ?emwSlipSpecial, ?emwBeyond, ?emrRepaired, ?emrLost, ?continues, ?parks⟩
  case emr =>
    exact fun h d a rs core slot t => emr_reads fun c ⟨names, reg, pred, special⟩ =>
      (Ctx.emrRead_halted names).trans (c.s.readHalted_sound core slot rs.toNat reg pred special)
  case emrSlip => exact fun h d a rs vol pa => emr_reads fun c ⟨names, reg, within⟩ => Ctx.emrRead_slip names reg within
  case emrNone => exact fun h d a rs => emr_reads fun c names => Ctx.emrRead_none names
  case emw =>
    exact fun h d a rs core slot t => emw_halted fun ⟨reg, within⟩ v => by simp only [Strand.emwritten, if_pos reg, if_neg (Nat.not_le.2 within)]
  case emwPred => exact fun h d a rs core slot t => emw_halted fun pred v => by simp [Strand.emwritten, pred]
  case emwSpecial =>
    exact fun h d a rs core slot t => emw_halted fun special v => by
      simp [Strand.emwritten, show ¬ rs.toNat < 128 by omega, show rs.toNat ≠ 128 by omega]
  case emwSlip =>
    exact fun h d a rs vol pa => emw_slip fun c ⟨reg, within⟩ => by
      simp only [State.slipWritten, if_pos reg, if_neg (Nat.not_le.2 within)]
  case emwNone => exact fun h d a rs => .of_go (exec_emw h d a rs) fun c names => by simp only [names]
  case resume =>
    exact fun h a core slot t => .of_go (fun _ => rfl) fun c ⟨names, stay⟩ => by simp only [names, stay, Bool.not_false, if_true]
  case resumeStays =>
    refine fun h a core slot t => .of_go (fun _ => rfl) fun c ⟨names, park, noSlip⟩ => ?_
    simp only [names, park, Bool.not_true, Bool.false_eq_true, if_false]
    exact if_pos (by simpa using noSlip)
  case resumeSlip =>
    exact fun h a vol pa => .of_go (fun _ => rfl) fun c ⟨names, stay⟩ => by simp only [names, stay, Bool.false_eq_true, if_false]
  case resumeNone => exact fun h a => .of_go (fun _ => rfl) fun c names => by simp only [names]
  case kill => exact fun h a core slot t => .of_go (fun _ => rfl) fun c names => by simp only [names]
  case killSlip => exact fun h a vol pa => .of_go (fun _ => rfl) fun c names => by simp only [names]
  case killNone => exact fun h a => .of_go (fun _ => rfl) fun c names => by simp only [names]
  case park =>
    refine fun h a core slot t => .of_go (fun _ => rfl) fun c ⟨names, park, user, own⟩ => ?_
    simp only [names, park, Bool.not_true, Bool.false_eq_true, if_false]
    exact if_neg (by simp [user, own])
  case parkSlip => exact fun h a vol pa => .of_go (fun _ => rfl) fun c ⟨names, park⟩ => by simp only [names, park, if_true]
  case emrSlipBeyond => exact fun h d a rs vol pa => emr_reads fun c ⟨names, reg, beyond⟩ => Ctx.emrRead_slip_beyond names reg beyond
  case emrSlipPred => exact fun h d a rs vol pa => emr_reads fun c ⟨names, pred⟩ => Ctx.emrRead_slip_pred names pred
  case emrSlipSpecial => exact fun h d a rs vol pa => emr_reads fun c ⟨names, special⟩ => Ctx.emrRead_slip_special names special
  case emwSlipBeyond =>
    exact fun h d a rs vol pa => emw_slip (r := (·.s)) fun c ⟨reg, beyond⟩ => by
      simp only [State.slipWritten, if_pos reg, if_pos beyond]
  case emwSlipPred =>
    exact fun h d a rs vol pa => emw_slip fun c pred => by simp [State.slipWritten, pred]
  case emwSlipSpecial =>
    exact fun h d a rs vol pa => emw_slip fun c special => by
      simp [State.slipWritten, show ¬ rs.toNat < 128 by omega, show rs.toNat ≠ 128 by omega]
  case emwBeyond =>
    exact fun h d a rs core slot t => emw_halted (u := fun _ => t) fun ⟨reg, beyond⟩ v => by simp only [Strand.emwritten, if_pos reg, if_pos beyond]
  case emrRepaired =>
    refine fun h d a rs core slot t v s1 => .of_go (exec_emr h d a rs) fun c ⟨names, reads⟩ => ?_
    simp only [Ctx.emrRead_halted names, reads]
  case emrLost =>
    refine fun h d a rs core slot t e s1 => .of_faultAfter (exec_emr h d a rs) fun c ⟨names, lost⟩ => ?_
    simp only [Ctx.emrRead_halted names, lost]
  case continues => exact fun s core slot t pc none => State.continueHalted_none none slot pc
  case parks =>
    intro s core slot t pc r x settled saved
    subst settled
    exact State.parkHalted_saved saved

end Sys2Proof.Machine
end

section
/-! Barrier arrivals, hold decrements and steals arrive (R355, R364, R367, R368, R372): each by what its message meets, and the statement. -/

namespace Sys2Proof.Machine

open Sys2Proof

theorem exec_barrierArrival (msg : Nat) (s : State) : exec (.barrierArrival msg) s = execBarrierArrival msg s := rfl

theorem exec_holdDecrement (msg : Nat) (s : State) : exec (.holdDecrement msg) s = execHoldDecrement msg s := rfl

section
variable {s : State} {m : Msg} (due : dueMsg s m)
include due

/-! ## Barrier arrivals and decrements (R364, R367, R368) -/

theorem exec_barrierArrival_due {vol gidx role lane b : Nat} (kind : m.kind = .bar vol gidx role lane b) :
    exec (.barrierArrival m.id) s =
      .next (((s.took m.id).setMember vol gidx role lane fun x => { x with seen := bumpAt x.seen b }).pokeBarriers vol gidx) := by
  obtain ⟨found, come⟩ := due
  simp only [exec_barrierArrival, execBarrierArrival, found, kind, if_neg (Nat.not_lt.2 come)]
  rfl

variable {vol gen idx n gidx : Nat} {e : Bool} {w : Word} (kind : m.kind = .dec vol gen idx n e gidx w)
include kind

/-- A due decrement of a hold that is not live is reported (R367). -/
theorem exec_holdDecrement_dead (dead : s.liveHold vol m.dst gen idx = none) : exec (.holdDecrement m.id) s =
    .next ((s.took m.id).errata vol 4 0 m.core m.slot gidx
      [w, ofN (0x41 * 2 ^ 56 + 0x71 * 2 ^ 48 + n % 2 ^ 32), ofN (m.core * 2 ^ 16 + m.slot)]) := by
  obtain ⟨found, come⟩ := due
  have dead : (s.took m.id).liveHold vol m.dst gen idx = none := dead
  simp only [State.took] at dead
  simp only [exec_holdDecrement, execHoldDecrement, found, kind, if_neg (Nat.not_lt.2 come), dead]
  rfl

/-- A due decrement of a live hold is reported where it would fall below zero, frees the hold at zero, and else lowers it (R367, R368). -/
theorem exec_holdDecrement_live {h : Hold} (live : s.liveHold vol m.dst gen idx = some h) : exec (.holdDecrement m.id) s = .next (
    if h.count < n then (s.took m.id).errata vol 4 0 m.core m.slot gidx
      [w, ofN (0x41 * 2 ^ 56 + 0x72 * 2 ^ 48 + n % 2 ^ 32), ofN (m.core * 2 ^ 16 + m.slot)]
    else if h.count = n then (s.took m.id).holdZero m.dst h
    else (s.took m.id).setCore m.dst { s.core m.dst with
      holds := mapIf (·.idx == idx) (fun x => { x with count := x.count - n }) (s.core m.dst).holds }) := by
  obtain ⟨found, come⟩ := due
  have live : (s.took m.id).liveHold vol m.dst gen idx = some h := live
  simp only [State.took] at live
  simp only [exec_holdDecrement, execHoldDecrement, found, kind, if_neg (Nat.not_lt.2 come), live, beq_iff_eq]
  rw [apply_ite Host.Outcome.next, apply_ite Host.Outcome.next]
  rfl

end

/-! ## Steals (R372) -/

/-- Where a steal splits a range: its low half, rounded up, goes. -/
def stealMid (w : Word) : Nat := rangeLo w + (rangeHi w - rangeLo w + 1) / 2

/-- What a steal leaves of a core's deques: the top range of the volume loses its low half, or goes if nothing is left of it. -/
def stealLeaves (vol : Nat) (w : Word) (l : List (Nat × Word)) : List (Nat × Word) :=
  if rangeHi w ≤ stealMid w then removeFirst (·.1 == vol) l else replaceBy (·.1 == vol) (vol, mkRange (stealMid w) (rangeHi w)) l

theorem exec_stealPerform (msg : Nat) (s : State) : exec (.stealPerform msg) s = execStealPerform msg s := rfl

section
variable {s : State} {m : Msg} (due : dueMsg s m) {vol op : Nat} (kind : m.kind = .steal vol op)
include due kind

theorem exec_stealPerform_none (none : (s.core m.dst).deques.find? (·.1 == vol) = none) :
    exec (.stealPerform m.id) s = .next ((s.took m.id).replyOp m.core m.slot op (s.clk.frame + hops m.core m.dst + 1) 0) := by
  obtain ⟨found, come⟩ := due
  have none : ((s.took m.id).core m.dst).deques.find? (·.1 == vol) = Option.none := none
  simp only [State.took] at none
  simp only [exec_stealPerform, execStealPerform, found, kind, if_neg (Nat.not_lt.2 come), none]
  rfl

/-- A steal takes the low half of the top range; when the volume's deque on the core is empty then, placement may run (R355). -/
theorem exec_stealPerform_top {w : Word} (top : (s.core m.dst).deques.find? (·.1 == vol) = some (vol, w)) {l : List (Nat × Word)}
    (leaves : l = stealLeaves vol w (s.core m.dst).deques) : exec (.stealPerform m.id) s =
      .next ((if l.any (·.1 == vol) then (s.took m.id).setCore m.dst { s.core m.dst with deques := l }
        else ((s.took m.id).setCore m.dst { s.core m.dst with deques := l }).roomFreed).replyOp
          m.core m.slot op (s.clk.frame + hops m.core m.dst + 1) (mkRange (rangeLo w) (stealMid w))) := by
  obtain ⟨found, come⟩ := due
  subst leaves
  have top : ((s.took m.id).core m.dst).deques.find? (·.1 == vol) = some (vol, w) := top
  simp only [State.took] at top
  simp only [exec_stealPerform, execStealPerform, found, kind, if_neg (Nat.not_lt.2 come), top]
  rfl

end

/-- Placement is to run where a volume waits for it (R355). -/
theorem State.roomFreed_waiting {s : State} (waiting : ∃ v ∈ s.circ.volumes, v.next < v.count) : s.roomFreed = s.pushNew .placement := by
  obtain ⟨v, listed, waits⟩ := waiting
  exact if_pos (List.any_eq_true.2 ⟨v, listed, decide_eq_true waits⟩)

/-- Settles O34: an arrival, a decrement by what its hold holds, and a steal by what it leaves of the deque. -/
theorem barriersHoldsAndSteals : Obligations.BarriersHoldsAndSteals := by
  unfold Obligations.BarriersHoldsAndSteals
  refine ⟨?arrival, ?lowered, ?zero, ?below, ?dead, ?empty, ?halved, ?taken, ?last⟩
  case arrival => exact fun s m vol gidx role lane b due kind => exec_barrierArrival_due due kind
  case lowered =>
    intro s m vol gen idx n e gidx w h due kind live less
    rw [exec_holdDecrement_live due kind live, if_neg (Nat.lt_asymm less), if_neg (Nat.ne_of_gt less)]
  case zero =>
    intro s m vol gen idx n e gidx w h due kind live equal
    rw [exec_holdDecrement_live due kind live, if_neg (Nat.not_lt.2 (Nat.le_of_eq equal)), if_pos equal.symm]
  case below =>
    intro s m vol gen idx n e gidx w h due kind live more
    rw [exec_holdDecrement_live due kind live, if_pos more]
  case dead => exact fun s m vol gen idx n e gidx w due kind dead => exec_holdDecrement_dead due kind dead
  case empty => exact fun s m vol op due kind none => exec_stealPerform_none due kind none
  case halved =>
    intro s m vol op w due kind top left
    have leaves : stealLeaves vol w (s.core m.dst).deques = replaceBy (·.1 == vol) (vol, mkRange (stealMid w) (rangeHi w)) (s.core m.dst).deques :=
      if_neg (Nat.not_le.2 left)
    have stays : (replaceBy (·.1 == vol) (vol, mkRange (stealMid w) (rangeHi w)) (s.core m.dst).deques).any (·.1 == vol) = true :=
      List.any_eq_true.2 ⟨_, List.mem_of_find?_eq_some (find?_replaceBy BEq.rfl top), BEq.rfl⟩
    rw [exec_stealPerform_top due kind top leaves.symm, if_pos stays]
    rfl
  case taken =>
    intro s m vol op w l due kind top spent leaves more
    obtain ⟨e, listed, own⟩ := more
    have stays : l.any (·.1 == vol) = true := List.any_eq_true.2 ⟨e, listed, beq_iff_eq.2 own⟩
    rw [exec_stealPerform_top due kind top (leaves.trans (if_pos spent).symm), if_pos stays]
    rfl
  case last =>
    intro s m vol op w l due kind top spent leaves none waiting
    have gone : ¬ l.any (·.1 == vol) = true := by
      rw [List.any_eq_true]
      rintro ⟨e, listed, own⟩
      exact none e listed (beq_iff_eq.1 own)
    have freed (c : Core) : ((s.took m.id).setCore m.dst c).roomFreed = ((s.took m.id).setCore m.dst c).pushNew .placement :=
      State.roomFreed_waiting waiting
    rw [exec_stealPerform_top due kind top (leaves.trans (if_pos spent).symm), if_neg gone, freed]
    rfl

end Sys2Proof.Machine
end

section
/-! The copy engine (R283, R284, R286, R288, R295): how a request is answered, how a chunk is written, how an operation ends, and the
statement. -/

namespace Sys2Proof.Machine

open Sys2Proof

/-! ## Answers (R283, R284) -/

/-- The state after a copy request has been judged by its record. -/
def State.copyJudged (s : State) (k : Nat) (r : Req) : CopyRec → State
  | .ask as => s.askRecord k r as
  | .bad dw => (s.tookReq k r.id).status r.iss r.id (badRec dw)
  | .op o => (((s.tookReq k r.id).setCluster k { (s.tookReq k r.id).cluster k with
      copies := ((s.tookReq k r.id).cluster k).copies ++ [o] }).status r.iss r.id 0).startCopies k

theorem exec_copyAccept (cluster req : Nat) (s : State) : exec (.copyAccept cluster req) s = execCopyAccept cluster req s := rfl

/-- A request that the engine takes is answered by the fence, then the room, then the record (assumption 39). -/
theorem exec_copyAccept_takes {s : State} {k : Nat} {r : Req} (takes : takesReq s k .copy r) : exec (.copyAccept k r.id) s =
    .next (if s.unitFenced .copy k then (s.tookReq k r.id).status r.iss r.id 3
      else if 256 ≤ (s.cluster k).copies.length + s.held k 1 then (s.tookReq k r.id).status r.iss r.id 1
      else s.copyJudged k r ((s.tookReq k r.id).copyRecord k r)) := by
  obtain ⟨found, ready, up⟩ := takes
  simp only [exec_copyAccept, execCopyAccept, found, ready, up, Bool.not_true, Bool.false_eq_true, if_false]
  rw [apply_ite Host.Outcome.next, apply_ite Host.Outcome.next]
  refine if_congr Iff.rfl rfl (if_congr Iff.rfl rfl ?_)
  unfold State.tookReq
  cases State.copyRecord _ k r <;> rfl

/-! ## Chunks (R286, R295) -/

theorem exec_copyChunk (cluster op : Nat) (s : State) : exec (.copyChunk cluster op) s = execCopyChunk cluster op s := rfl

theorem exec_copyComplete (cluster op : Nat) (s : State) : exec (.copyComplete cluster op) s = execCopyComplete cluster op s := rfl

section
variable {s : State} {k op : Nat} {o : CopyOp} (found : (s.cluster k).copies.find? (·.id == op) = some o) (free : s.copyBlocked o = false)
include found free

/-- A chunk whose reads have all come is written. -/
theorem exec_copyChunk_writes (started : o.started = true) (more : o.chunk < o.chunks) (here : ∀ a ∈ o.far, a.res ≠ none)
    (unsent : o.sent = none) (read : (s.copyScan k o).wait = false) :
    exec (.copyChunk k op) s = .next (s.copyWrites k { o with far := [] } (s.copyScan k o)) := by
  have come : (o.far.any (·.res.isNone)) = false :=
    List.any_eq_false.2 fun a listed waits => here a listed (Option.isNone_iff_eq_none.1 waits)
  simp only [exec_copyChunk, execCopyChunk, found, started, free, come, unsent, read, if_neg (Nat.not_le.2 more), Bool.not_true, Bool.false_eq_true,
    if_false]

/-! ## The end of an operation (R288) -/

/-- An operation without faults that asks for no message leaves the queue with no errata record. -/
theorem exec_copyComplete_clean (done : o.chunks ≤ o.chunk) (marks : o.marks = []) (extra : o.extra = [])
    (silent : (o.dws.getD 6 0).getLsbD 63 = false) : exec (.copyComplete k op) s =
      .next ((s.setCluster k { s.cluster k with copies := (s.cluster k).copies.filter (·.id != op) }).nextCopies k o.iss) := by
  have clean : o.errataList = [] := by simp only [CopyOp.errataList, marks, extra, List.map_nil, List.append_nil, List.foldl_nil, List.flatMap_nil]
  simp only [exec_copyComplete, execCopyComplete, found, free, decide_eq_false (Nat.not_lt.2 done), silent, clean, Bool.or_self, Bool.false_eq_true,
    if_false, List.foldl_nil]

end

theorem exec_copyComplete_early {s : State} {k op : Nat} {o : CopyOp} (found : (s.cluster k).copies.find? (·.id == op) = some o)
    (more : o.chunk < o.chunks) : exec (.copyComplete k op) s = .next s := by
  simp only [exec_copyComplete, execCopyComplete, found, decide_eq_true more, Bool.true_or, if_true]

/-- Outside determinism volumes the queue goes on in the order of acceptance (R294). -/
theorem State.nextCopies_plain {s : State} {iss : Issuer} (plain : s.det iss.vol = false) (k : Nat) : s.nextCopies k iss = s.startCopies k := by
  simp only [State.nextCopies, plain, Bool.false_and, Bool.false_eq_true, if_false]

/-- Settles O38: a request by the three checks of its answer, a chunk by its reads, an operation by its last chunk. -/
theorem copyOperations : Obligations.CopyOperations := by
  unfold Obligations.CopyOperations
  refine ⟨?fenced, ?full, ?bad, ?queued, ?chunk, ?clean, ?next, ?early, ?asks⟩
  case fenced =>
    intro s k r takes fenced
    rw [exec_copyAccept_takes takes, if_pos fenced]
  case full =>
    intro s k r takes sound full
    rw [exec_copyAccept_takes takes, if_neg (Bool.eq_false_iff.1 sound), if_pos full]
  case bad =>
    intro s k r dw takes sound room bad
    rw [exec_copyAccept_takes takes, if_neg (Bool.eq_false_iff.1 sound), if_neg (Nat.not_le.2 room), bad, State.copyJudged]
  case queued =>
    intro s k r o takes sound room good
    rw [exec_copyAccept_takes takes, if_neg (Bool.eq_false_iff.1 sound), if_neg (Nat.not_le.2 room), good, State.copyJudged]
  case chunk => exact fun s k op o found started more free here unsent read => exec_copyChunk_writes found free started more here unsent read
  case clean => exact fun s k op o found done free marks extra silent => exec_copyComplete_clean found free done marks extra silent
  case next => exact fun s k iss plain => State.nextCopies_plain plain k
  case early => exact fun s k op o found more => exec_copyComplete_early found more
  case asks =>
    intro s k r as takes sound room asks
    rw [exec_copyAccept_takes takes, if_neg (Bool.eq_false_iff.1 sound), if_neg (Nat.not_le.2 room), asks, State.copyJudged]

end Sys2Proof.Machine
end

section
/-! Selection and gathering (R295, R305, R307, R311, R313, R314): how a request is answered, the steps of a `ksel` and of a `kgath`, and
the statement. -/

namespace Sys2Proof.Machine

open Sys2Proof

/-! ## Answers (R305) -/

/-- The operation of an accepted request whose record holds `ws`. -/
def Req.selOp (r : Req) (ws : List Word) : SelOp :=
  { id := r.id, iss := r.iss, kind := r.kind, ptr := r.a, dws := ws, sync := r.b, note := r.imm == 1 }

/-- The failing doubleword of a record that holds `ws`. -/
def Req.selBad (r : Req) (ws : List Word) : Option Nat :=
  lowestBad (if r.kind == .ksel then kselChecks r.iss fun i => ws.getD i 0 else kgathChecks r.iss fun i => ws.getD i 0)

/-- A selection request has been accepted: it joins the queue, and its head runs. -/
def State.takeSel (s : State) (k : Nat) (r : Req) (o : SelOp) : State :=
  (((s.tookReq k r.id).setCluster k { (s.tookReq k r.id).cluster k with
    sels := ((s.tookReq k r.id).cluster k).sels ++ [o] }).status r.iss r.id 0).startSel k

/-- The state after a selection request has been judged by what its record gives. -/
def State.selJudged (s : State) (k : Nat) (r : Req) : RecRead → State
  | .ask as => s.askRecord k r as
  | .bad _ => (s.tookReq k r.id).status r.iss r.id (badRec 0)
  | .words ws => match r.selBad ws with
    | some dw => (s.tookReq k r.id).status r.iss r.id (badRec dw)
    | none => s.takeSel k r (r.selOp ws)

theorem exec_selectionAccept (cluster req : Nat) (s : State) : exec (.selectionAccept cluster req) s = execSelectionAccept cluster req s := rfl

section
variable {s : State} {k : Nat} {r : Req} (takes : takesReq s k .sel r)
include takes

theorem exec_selectionAccept_fenced (fenced : s.unitFenced .sel k = true) :
    exec (.selectionAccept k r.id) s = .next ((s.tookReq k r.id).status r.iss r.id 3) := by
  obtain ⟨found, ready, up⟩ := takes
  simp only [exec_selectionAccept, execSelectionAccept, found, ready, up, fenced, Bool.not_true, Bool.false_eq_true, if_false, if_true]
  rfl

variable (sound : s.unitFenced .sel k = false)
include sound

theorem exec_selectionAccept_full (full : 64 ≤ (s.cluster k).sels.length + s.held k 3) :
    exec (.selectionAccept k r.id) s = .next ((s.tookReq k r.id).status r.iss r.id 1) := by
  obtain ⟨found, ready, up⟩ := takes
  simp only [exec_selectionAccept, execSelectionAccept, found, ready, up, sound, if_pos full, Bool.not_true, Bool.false_eq_true, if_false]
  rfl

/-- With room in the queue, the record decides. -/
theorem exec_selectionAccept_judged (room : (s.cluster k).sels.length + s.held k 3 < 64) {ty : Nat} {l : Loc}
    (placed : r.iss.place r.a 64 (rR + rE) 64 = .ok (ty, l)) {rec_ : RecRead} (read : (s.tookReq k r.id).reqRecord k r l 8 = rec_) :
    exec (.selectionAccept k r.id) s = .next (s.selJudged k r rec_) := by
  obtain ⟨found, ready, up⟩ := takes
  unfold State.tookReq at read
  simp only [exec_selectionAccept, execSelectionAccept, found, ready, up, sound, if_neg (Nat.not_le.2 room), placed, read, Bool.not_true, Bool.false_eq_true,
    if_false]
  cases rec_ with
  | ask as => rfl
  | bad c => rfl
  | words ws =>
    simp only [State.selJudged, Req.selBad]
    cases lowestBad (if r.kind == .ksel then kselChecks r.iss fun i => ws.getD i 0 else kgathChecks r.iss fun i => ws.getD i 0) <;> rfl

end

theorem Req.selBad_ksel {r : Req} (kind : r.kind = .ksel) (ws : List Word) :
    r.selBad ws = lowestBad (kselChecks r.iss fun i => ws.getD i 0) := by
  simp only [Req.selBad, kind, BEq.rfl, if_true]

theorem Req.selBad_kgath {r : Req} (kind : r.kind = .kgath) (ws : List Word) :
    r.selBad ws = lowestBad (kgathChecks r.iss fun i => ws.getD i 0) := by
  simp only [Req.selBad, kind]
  rfl

/-! ## The steps of a ksel (R307, R314) -/

section
variable {s : State} {k : Nat} {o : SelOp}

/-- A `ksel` reads its query first. -/
theorem State.runKsel_query {qs : Nat → Nat} (unread : o.qry = none) (reads : ∀ c < selC (fun i => o.dws.getD i 0),
      s.engRead k (o.iss.at_ (o.dws.getD 0 0) (c * selQ fun i => o.dws.getD i 0)) (selQ fun i => o.dws.getD i 0) = .ok (qs c)) :
    s.runKsel k o = (s.putSel k { o with qry := some ((List.range (selC fun i => o.dws.getD i 0)).map qs) }).push (.selectRun k o.id) := by
  have read : ((List.range (selC fun i => o.dws.getD i 0)).map fun c =>
      s.engRead k (o.iss.at_ (o.dws.getD 0 0) (c * selQ fun i => o.dws.getD i 0)) (selQ fun i => o.dws.getD i 0)) =
      (List.range (selC fun i => o.dws.getD i 0)).map fun c => Mem.ok (qs c) :=
    List.map_congr_left fun c hc => reads c (List.mem_range.1 hc)
  simp only [State.runKsel, unread, read, List.any_map, List.map_map]
  rw [if_neg (by simp [Function.comp_def])]
  rfl

variable {q : List Nat} (known : o.qry = some q)
include known

/-- After its last descriptor a `ksel` ends. -/
theorem State.runKsel_ends (last : selN (fun i => o.dws.getD i 0) ≤ o.e) : s.runKsel k o = s.endKsel k o := by
  simp only [State.runKsel, known, if_pos last]

variable (more : o.e < selN (fun i => o.dws.getD i 0)) {w : Nat}
  (read : s.engRead k (o.iss.at_ (o.dws.getD 1 0) (16 * o.e)) 8 = .ok w)
include more read

/-- A descriptor's bound is kept. -/
theorem State.runKsel_bound {b va : Nat}
    (bound : s.descBound k o (q.map (if selQ (fun i => o.dws.getD i 0) == 4 then fpF32 else fpBf16).value) (ofN w) = .ok (b, va)) :
    s.runKsel k o =
      ((s.cacheFill k (.va o.iss.vol va) 8).putSel k { o with e := o.e + 1, good := o.good ++ [(o.e, b, va)] }).push (.selectRun k o.id) := by
  simp only [State.runKsel, known, if_neg (Nat.not_le.2 more), read, bound]

/-- So is its fault. -/
theorem State.runKsel_fault {c va : Nat}
    (fault : s.descBound k o (q.map (if selQ (fun i => o.dws.getD i 0) == 4 then fpF32 else fpBf16).value) (ofN w) = .error (c, va)) :
    s.runKsel k o =
      ((s.cacheFill k (.va o.iss.vol va) 8).putSel k { o with e := o.e + 1, bad := o.bad ++ [(o.e, c, va)] }).push (.selectRun k o.id) := by
  simp only [State.runKsel, known, if_neg (Nat.not_le.2 more), read, fault]

end

/-! ## The head of the queue (R305, R311) -/

theorem exec_gatherEntry (cluster op : Nat) (s : State) : exec (.gatherEntry cluster op) s = execGatherEntry cluster op s := rfl

theorem exec_selectRun (cluster op : Nat) (s : State) : exec (.selectRun cluster op) s = execSelectRun cluster op s := rfl

section
variable {s : State} {k : Nat} {o : SelOp} (head : (s.cluster k).sels.head? = some o) (sound : s.unitFenced .sel k = false)
  (free : s.selBlocked o = false)
include head sound free

theorem exec_selectRun_ksel (fresh : o.hdr = none) (kind : o.kind = .ksel) : exec (.selectRun k o.id) s = .next (s.runKsel k o) := by
  simp only [exec_selectRun, execSelectRun, head, sound, free, fresh, kind, bne_self_eq_false, Option.isSome_none, Bool.or_self, Bool.false_eq_true,
    if_false, BEq.rfl, if_true]

/-- A `kgath` reads its header first; where it cannot, it is over (R311). -/
theorem exec_selectRun_kgath (fresh : o.hdr = none) (kind : o.kind = .kgath) : exec (.selectRun k o.id) s = .next (
    match s.engRead k o.header 8 with
    | .ok v => (s.putSel k { o with hdr := some (v % 2 ^ 13) }).push (.gatherEntry k o.id)
    | .bad _ => s.headerFails k o) := by
  have other : (o.kind == .ksel) = false := by rw [kind]; rfl
  simp only [exec_selectRun, execSelectRun, head, sound, free, fresh, other, bne_self_eq_false, Option.isSome_none, Bool.or_self, Bool.false_eq_true,
    if_false]
  cases s.engRead k o.header 8 <;> rfl

variable {h : Nat} (header : o.hdr = some h)
include header

/-- After its last entry a `kgath` ends. -/
theorem exec_gatherEntry_ends (last : gathM (fun i => o.dws.getD i 0) ≤ o.e) :
    exec (.gatherEntry k o.id) s = .next (s.endSel k o o.moved) := by
  simp only [exec_gatherEntry, execGatherEntry, head, header, sound, free, bne_self_eq_false, Bool.or_self, Bool.false_eq_true, if_false, if_pos last]

variable (more : o.e < gathM (fun i => o.dws.getD i 0))
include more

/-- An entry with no slot to move is not gathered (R311). -/
theorem exec_gatherEntry_fails {code idx va : Nat}
    (fails : s.gatherSlots k o (gathE0 (fun i => o.dws.getD i 0) + o.e) h = .error (code, idx, va, none)) :
    exec (.gatherEntry k o.id) s = .next (s.entryFails k o code idx va) := by
  simp only [exec_gatherEntry, execGatherEntry, head, header, sound, free, bne_self_eq_false, Bool.or_self, Bool.false_eq_true, if_false,
    if_neg (Nat.not_le.2 more), fails]

variable {idx : Nat} {kg vg : Nat × Geometry} (slots : s.gatherSlots k o (gathE0 (fun i => o.dws.getD i 0) + o.e) h = .ok (idx, kg, vg))
include slots

/-- An entry whose slots are moved names its tokens; without a sync word that is all (R311). -/
theorem exec_gatherEntry_moves (noSync : o.sync = none) : exec (.gatherEntry k o.id) s = .next (
    if (s.gathered k o kg vg).2 then (s.gathered k o kg vg).1.entryFails k o 0x58 idx 0
    else ((s.gathered k o kg vg).1.mapWords k o o.e fun t => idx * 64 + t).nextEntry k { o with moved := o.moved + 1 }) := by
  simp only [exec_gatherEntry, execGatherEntry, head, header, sound, free, bne_self_eq_false, Bool.or_self, Bool.false_eq_true, if_false,
    if_neg (Nat.not_le.2 more), slots, noSync]
  exact (apply_ite Host.Outcome.next _ _ _).symm

/-- With a sync word its arrival is made, and an entry whose arrival fails is not gathered (R311). -/
theorem exec_gatherEntry_arrives {w : Word} {r : State × Arrived} (sync : o.sync = some w) (moved : (s.gathered k o kg vg).2 = false)
    (arrives : ((s.gathered k o kg vg).1.mapWords k o o.e fun t => idx * 64 + t).arriveOnce k o.iss w (fld (o.dws.getD 7 0) 23 0) = r) :
    exec (.gatherEntry k o.id) s = .next (
      if r.2 = .done then r.1.nextEntry k { o with moved := o.moved + 1 }
      else r.1.entryFails k o (if r.2 = .fenced then 0x58 else 0x59) idx (o.iss.at_ w 0).vaOr0) := by
  simp only [exec_gatherEntry, execGatherEntry, head, header, sound, free, bne_self_eq_false, Bool.or_self, Bool.false_eq_true, if_false,
    if_neg (Nat.not_le.2 more), slots, moved, sync, arrives]
  cases r.2 <;> rfl

end

/-- Settles O40: a request by the checks of its answer, the head of the queue by its kind and its step. -/
theorem selectionOperations : Obligations.SelectionOperations := by
  unfold Obligations.SelectionOperations
  refine ⟨?fenced, ?full, ?kselBad, ?kselQueued, ?ksel, ?header, ?ends, ?fails, ?kgathQueued, ?moves, ?arrives, ?query, ?kselEnds, ?bound,
    ?fault, ?asks, ?headerFails⟩
  case fenced => exact fun s k r takes fenced => exec_selectionAccept_fenced takes fenced
  case full => exact fun s k r takes sound full => exec_selectionAccept_full takes sound full
  case kselBad =>
    intro s k r ty l ws dw takes sound room placed read kind bad
    rw [exec_selectionAccept_judged takes sound room placed read, State.selJudged, Req.selBad_ksel kind, bad]
  case kselQueued =>
    intro s k r ty l ws takes sound room placed read kind good
    rw [exec_selectionAccept_judged takes sound room placed read, State.selJudged, Req.selBad_ksel kind, good]
    rfl
  case ksel => exact fun s k o head sound fresh free kind => exec_selectRun_ksel head sound free fresh kind
  case header =>
    intro s k o v head sound fresh free kind read
    have read : s.engRead k o.header 8 = .ok v := read
    rw [exec_selectRun_kgath head sound free fresh kind, read]
    rfl
  case ends => exact fun s k o h head sound header free last => exec_gatherEntry_ends head sound free header last
  case fails =>
    exact fun s k o h code idx va head sound header free more fails => exec_gatherEntry_fails head sound free header more fails
  case kgathQueued =>
    intro s k r ty l ws takes sound room placed read kind good
    rw [exec_selectionAccept_judged takes sound room placed read, State.selJudged, Req.selBad_kgath kind, good]
    rfl
  case moves =>
    exact fun s k o h idx kg vg head sound header free more slots noSync =>
      exec_gatherEntry_moves head sound free header more slots noSync
  case arrives =>
    exact fun s k o h idx kg vg w s2 head sound header free more slots sync moved arrives =>
      exec_gatherEntry_arrives head sound free header more slots sync moved arrives.symm
  case query => exact fun s k o qs unread reads => State.runKsel_query unread reads
  case kselEnds => exact fun s k o q known last => State.runKsel_ends known last
  case bound => exact fun s k o q w b va known more read bound => State.runKsel_bound known more read bound
  case fault => exact fun s k o q w c va known more read fault => State.runKsel_fault known more read fault
  case asks =>
    intro s k r ty l as takes sound room placed read
    rw [exec_selectionAccept_judged takes sound room placed read, State.selJudged]
  case headerFails =>
    intro s k o c head sound fresh free kind read
    have read : s.engRead k o.header 8 = .bad c := read
    rw [exec_selectRun_kgath head sound free fresh kind, read]
    rfl

end Sys2Proof.Machine
end

section
/-! Pooling in the annex (R319, R322 to R325): how an `emb` is answered, a chip's partial, the next bag of an operation, and the
statement. -/

namespace Sys2Proof.Machine

open Sys2Proof

/-! ## Answers (R319, R324) -/

/-- The bags of an `emb` whose record holds `ws`, with the offsets that the annex holds. -/
def Req.bagOp (r : Req) (ws : List Word) (offs : Option (List Nat)) : BagOp :=
  { id := r.id, iss := r.iss, ptr := r.a, dws := ws, sync := r.b, note := r.imm == 1, offs := offs.getD [] }

/-- An accepted `emb` in its queue, with an entry for each of its bags at every chip. -/
def State.takeEmb (s : State) (k : Nat) (r : Req) (o : BagOp) : State :=
  (State.embStatus { (s.tookReq k r.id).setCluster k { (s.tookReq k r.id).cluster k with bags := ((s.tookReq k r.id).cluster k).bags ++ [o] }
    with chips := s.chips ++ (List.range (bagNb fun i => o.dws.getD i 0)).flatMap fun b => s.liveChips.map fun c => (c, r.id, b) } r 0).startBags k

/-- A chip has no room for so many bags more (R317). -/
def State.chipsFull (s : State) (nb : Nat) : Bool := s.liveChips.any fun c => decide (256 < (s.chips.filter (·.1 == c)).length + nb)

theorem State.chipsFull_iff {s : State} {nb : Nat} : s.chipsFull nb = true ↔ ∃ c ∈ s.liveChips, 256 < (s.chips.filter (·.1 == c)).length + nb := by
  simp only [State.chipsFull, List.any_eq_true, decide_eq_true_eq]

theorem State.chipsFull_room {s : State} {nb : Nat} (room : ∀ c ∈ s.liveChips, (s.chips.filter (·.1 == c)).length + nb ≤ 256) :
    ¬ s.chipsFull nb = true := fun full =>
  let ⟨c, live, more⟩ := State.chipsFull_iff.1 full
  Nat.not_lt.2 (room c live) more

theorem State.chipsReported {s : State} (known : ∀ c < 8, s.isReady .chip c = true ∨ s.isFenced .chip c = true) :
    ((List.range 8).any fun c => !(s.isReady .chip c || s.isFenced .chip c)) = false :=
  List.any_eq_false.2 fun c listed => by
    simpa only [Bool.not_eq_true', Bool.not_eq_false, Bool.or_eq_true] using known c (List.mem_range.1 listed)

theorem exec_embAccept (cluster req : Nat) (s : State) : exec (.embAccept cluster req) s = execEmbAccept cluster req s := rfl

section
variable {s : State} {k : Nat} {r : Req} (takes : takesReq s k .annexif r)
  (known : ∀ c < 8, s.isReady .chip c = true ∨ s.isFenced .chip c = true)
include takes known

/-- An `emb` that is taken up, once every chip has reported: a fenced interface answers 3 (R324, R416). -/
theorem exec_embAccept_fenced (fenced : s.unitFenced .annexif k = true) :
    exec (.embAccept k r.id) s = .next ((s.tookReq k r.id).embStatus r 3) := by
  obtain ⟨found, ready, up⟩ := takes
  have reported := State.chipsReported known
  simp only [exec_embAccept, execEmbAccept, found, ready, up, reported, fenced, Bool.not_true, Bool.or_self, Bool.false_eq_true, if_false, if_true]
  rfl

variable (sound : s.unitFenced .annexif k = false) {ty : Nat} {l : Loc} {ws : List Word}
  (placed : r.iss.place r.a 64 (rR + rE) 64 = .ok (ty, l)) (read : (s.tookReq k r.id).reqRecord k r l 8 = .words ws)
include sound placed read

/-- Else its record is checked, and then the room of the chips. -/
theorem exec_embAccept_read : exec (.embAccept k r.id) s = .next (
    match lowestBad (bagChecks r.iss (fun i => ws.getD i 0) ((s.tookReq k r.id).readOffs r.iss fun i => ws.getD i 0)) with
    | some dw => (s.tookReq k r.id).embStatus r (badRec dw)
    | none => if s.chipsFull (bagNb fun i => ws.getD i 0) then (s.tookReq k r.id).embStatus r 1
      else s.takeEmb k r (r.bagOp ws ((s.tookReq k r.id).readOffs r.iss fun i => ws.getD i 0))) := by
  obtain ⟨found, ready, up⟩ := takes
  have reported := State.chipsReported known
  unfold State.tookReq at read ⊢
  simp only [exec_embAccept, execEmbAccept, found, ready, up, reported, sound, placed, read, Bool.not_true, Bool.or_self, Bool.false_eq_true, if_false]
  cases lowestBad (bagChecks r.iss (fun i => ws.getD i 0) (State.readOffs _ r.iss fun i => ws.getD i 0)) with
  | some dw => rfl
  | none => exact (apply_ite Host.Outcome.next _ _ _).symm

end

/-! ## Partials (R322, R325) -/

/-- The operation after a chip has reached a bag's rows, or has failed to. -/
def State.afterRows (s : State) (o : BagOp) (bag chip : Nat) : Except (Nat × Nat × Nat) (List BagRow) → BagOp
  | .error (c, j, va) => if o.bad.any (·.1 == bag) then o else { o with bad := o.bad ++ [(bag, c, j, va)] }
  | .ok rows =>
    let p := s.partialOf (fun i => o.dws.getD i 0) (rows.filter (·.chip == chip))
    { o with partials := o.partials ++ [(bag, chip, p.1)], flags := o.flags ||| p.2 }

/-- A chip's entry for a bag is released, and its partial or its fault joins the operation. -/
theorem exec_chipPartial {s : State} {k : Nat} {o : BagOp} {bag chip : Nat} (found : (s.cluster k).bags.find? (·.id == o.id) = some o)
    (started : o.started = true) (entry : (chip, o.id, bag) ∈ s.chips) : exec (.chipPartial k o.id bag chip) s =
      .next (((State.bagFill { s with chips := s.chips.filter (· != (chip, o.id, bag)) } o bag).putBag k
        (s.afterRows o bag chip (s.bagRows o bag))).pushNew (.bagWrite k o.id)) := by
  have runs : (!o.started || !s.chips.contains (chip, o.id, bag)) = false := by rw [started, List.contains_iff_mem.2 entry]; rfl
  have arm : exec (.chipPartial k o.id bag chip) s = execChipPartial k o.id bag chip s := rfl
  simp only [arm, execChipPartial, found, runs, Bool.false_eq_true, if_false]
  cases s.bagRows o bag <;> rfl

/-! ## Bags (R322, R323, R325) -/

theorem exec_bagWrite (cluster op : Nat) (s : State) : exec (.bagWrite cluster op) s = execBagWrite cluster op s := rfl

section
variable {s : State} {k : Nat} {o : BagOp} (found : (s.cluster k).bags.find? (·.id == o.id) = some o) (started : o.started = true)
  (sound : s.unitFenced .annexif k = false)
include found started sound

/-- After its last bag an operation ends. -/
theorem exec_bagWrite_ends (last : bagNb (fun i => o.dws.getD i 0) ≤ o.bag) :
    exec (.bagWrite k o.id) s = .next (s.endBag k o (if o.errata then 1 else 0)) := by
  simp only [exec_bagWrite, execBagWrite, found, started, sound, Bool.not_true, Bool.or_self, Bool.false_eq_true, if_false, if_pos last]

variable (more : o.bag < bagNb (fun i => o.dws.getD i 0)) (delivered : ∀ e ∈ s.chips, e.2.1 = o.id → e.2.2 ≠ o.bag)
include more delivered

/-- A faulted bag is not written. -/
theorem exec_bagWrite_lost {code pos va : Nat} (bad : o.bad.find? (·.1 == o.bag) = some (o.bag, code, pos, va)) :
    exec (.bagWrite k o.id) s = .next (s.bagLost k o code pos va) := by
  have none : (s.chips.any fun e => e.2.1 == o.id && e.2.2 == o.bag) = false := by simpa using delivered
  simp only [exec_bagWrite, execBagWrite, found, started, sound, none, bad, Bool.not_true, Bool.or_self, Bool.false_eq_true, if_false,
    if_neg (Nat.not_le.2 more)]

variable (good : o.bad.find? (·.1 == o.bag) = none)
  (writable : ∀ e < bagD (fun i => o.dws.getD i 0), s.outCode k (o.out e) (bagOb fun i => o.dws.getD i 0) = none)
include good writable

/-- A bag whose partials are complete and whose output can be written is written, and its arrival made. -/
theorem exec_bagWrite_stores {sync : Option Word} (hsync : o.sync = sync) : exec (.bagWrite k o.id) s = .next (
    match sync with
    | none => (s.bagStored k o).nextBag k o.pooled
    | some w =>
      let r := (s.bagStored k o).arriveOnce k o.iss w (bagD (fun i => o.dws.getD i 0) * bagOb fun i => o.dws.getD i 0)
      if r.2 != .done then (r.1.bagErrata o o.bag (r.2.code 0x67) 0 (o.iss.at_ w 0).vaOr0).nextBag k { o.pooled with errata := true }
      else r.1.nextBag k o.pooled) := by
  have none : (s.chips.any fun e => e.2.1 == o.id && e.2.2 == o.bag) = false := by simpa using delivered
  have clear : ((List.range (bagD fun i => o.dws.getD i 0)).findSome? fun e =>
      (s.outCode k (o.out e) (bagOb fun i => o.dws.getD i 0)).map fun c => (c, (o.out e).vaOr0)) = Option.none :=
    List.findSome?_eq_none_iff.2 fun e he => by rw [writable e (List.mem_range.1 he), Option.map_none]
  simp only [exec_bagWrite, execBagWrite, found, started, sound, none, good, clear, hsync, Bool.not_true, Bool.or_self, Bool.false_eq_true, if_false,
    if_neg (Nat.not_le.2 more)]
  cases sync <;> rfl

end

/-- Settles O41: an `emb` by the checks of its answer, a chip by its rows, the next bag by its faults and its partials. -/
theorem poolingOperations : Obligations.PoolingOperations := by
  unfold Obligations.PoolingOperations
  refine ⟨?fenced, ?bad, ?full, ?adds, ?faults, ?ends, ?lost, ?queued, ?stores, ?arrives⟩
  case fenced => exact fun s k r takes known fenced => exec_embAccept_fenced takes known fenced
  case bad =>
    intro s k r ty l ws dw takes known sound placed read bad
    rw [exec_embAccept_read takes known sound placed read, bad]
  case full =>
    intro s k r ty l ws takes known sound placed read good full
    rw [exec_embAccept_read takes known sound placed read, good]
    exact congrArg Host.Outcome.next (if_pos (State.chipsFull_iff.2 full))
  case adds =>
    intro s k o bag chip rows found started entry rows
    rw [exec_chipPartial found started entry, rows]
    rfl
  case faults =>
    intro s k o bag chip c j va found started entry first fault
    have none : ¬ (o.bad.any (·.1 == bag)) = true := fun listed =>
      let ⟨b, mem, same⟩ := List.any_eq_true.1 listed
      first b mem (beq_iff_eq.1 same)
    rw [exec_chipPartial found started entry, fault, State.afterRows, if_neg none]
  case ends => exact fun s k o found started sound last => exec_bagWrite_ends found started sound last
  case lost => exact fun s k o code pos va found started sound more delivered bad => exec_bagWrite_lost found started sound more delivered bad
  case queued =>
    intro s k r ty l ws takes known sound placed read good room
    rw [exec_embAccept_read takes known sound placed read, good]
    exact congrArg Host.Outcome.next (if_neg (State.chipsFull_room room))
  case stores =>
    exact fun s k o found started sound more delivered good writable noSync =>
      exec_bagWrite_stores found started sound more delivered good writable noSync
  case arrives =>
    intro s k o w s2 found started sound more delivered good writable sync arrives
    rw [exec_bagWrite_stores found started sound more delivered good writable sync]
    subst arrives
    dsimp only
    generalize State.arriveOnce _ _ _ _ _ = r
    obtain ⟨s2, a⟩ := r
    cases a <;> rfl

end Sys2Proof.Machine
end

section
/-! Specialisation (R326, R338 to R340, R345): how a `spec` is answered, the run of the head of the queue, its publication, and the
statement. -/

namespace Sys2Proof.Machine

open Sys2Proof

/-! ## Answers (R337, R338) -/

theorem exec_specAccept (cluster req : Nat) (s : State) : exec (.specAccept cluster req) s = execSpecAccept cluster req s := rfl

section
variable {s : State} {k : Nat} {r : Req} (takes : takesReq s k .red r)
include takes

theorem exec_specAccept_fenced (fenced : s.unitFenced .red k = true) :
    exec (.specAccept k r.id) s = .next ((s.tookReq k r.id).status r.iss r.id 3) := by
  obtain ⟨found, ready, up⟩ := takes
  simp only [exec_specAccept, execSpecAccept, found, ready, up, fenced, Bool.not_true, Bool.false_eq_true, if_false, if_true]
  rfl

variable (sound : s.unitFenced .red k = false)
include sound

theorem exec_specAccept_full (full : 32 ≤ (s.cluster k).specs.length + s.held k 5) :
    exec (.specAccept k r.id) s = .next ((s.tookReq k r.id).status r.iss r.id 1) := by
  obtain ⟨found, ready, up⟩ := takes
  simp only [exec_specAccept, execSpecAccept, found, ready, up, sound, if_pos full, Bool.not_true, Bool.false_eq_true, if_false]
  rfl

/-- With room in the queue, a block that is read and passes its checks leaves the source to decide (assumption 39). -/
theorem exec_specAccept_checked (room : (s.cluster k).specs.length + s.held k 5 < 32)
    (block : ∀ x ∈ (s.tookReq k r.id).specBlock k r, x ≠ none) (good : lowestBad (specChecks ((s.tookReq k r.id).specDws k r)) = none)
    (early : ∀ x ∈ (s.tookReq k r.id).specEarly k r, x ≠ none) : exec (.specAccept k r.id) s = .next (
      match (s.tookReq k r.id).currentHandle r.iss.vol r.a with
      | none => (s.tookReq k r.id).status r.iss r.id 4
      | some src => (s.tookReq k r.id).takeSpec k r src) := by
  obtain ⟨found, ready, up⟩ := takes
  have block : ((s.tookReq k r.id).specBlock k r).any (·.isNone) = false :=
    List.any_eq_false.2 fun x listed none => block x listed (Option.isNone_iff_eq_none.1 none)
  have early : ((s.tookReq k r.id).specEarly k r).findIdx? (·.isNone) = none :=
    List.findIdx?_eq_none_iff.2 fun x listed => Option.isNone_eq_false_iff.2 (Option.isSome_iff_ne_none.2 (early x listed))
  unfold State.specEarly State.specDws State.specBlock State.tookReq at early
  unfold State.specDws State.specBlock State.tookReq at good
  unfold State.specBlock State.tookReq at block
  unfold State.tookReq
  simp only [exec_specAccept, execSpecAccept, found, ready, up, sound, block, if_neg (Nat.not_le.2 room), Bool.not_true, Bool.false_eq_true, if_false,
    good, early]
  cases State.currentHandle _ r.iss.vol r.a <;> rfl

end

/-! ## The head of the queue (R339, R345) -/

theorem exec_specRun (k op : Nat) (s : State) : exec (.specRun k op) s = execSpecRun k op s := rfl

section
variable {s : State} {k : Nat} {o : SpecOp} (head : (s.cluster k).specs.head? = some o)
include head

/-- An operation with no residual yet is traced. -/
theorem exec_specRun_traces (untaken : o.taken = none) : exec (.specRun k o.id) s = .next (
    match s.specTrace k o with
    | .done t => s.specPublish k o ((s.spaceOf o.iss.vol).entry o.src) t (specLive fun i => o.dws.getD i 0)
    | .end_ t st => s.specFail k o t st
    | .on t => s.specFail k o t 1) := by
  rw [exec_specRun]
  unfold execSpecRun
  rw [head]
  simp only [bne_self_eq_false, Bool.false_eq_true, if_false, untaken]
  cases s.specTrace k o <;> rfl

/-- A residual that has been written is published. -/
theorem exec_specRun_ends {i gen base st : Nat} (taken : o.taken = some (i, gen, base, st)) :
    exec (.specRun k o.id) s = .next (s.specEnd k o i gen base st) := by
  rw [exec_specRun]
  unfold execSpecRun
  rw [head]
  simp only [bne_self_eq_false, Bool.false_eq_true, if_false, taken]

end

/-! ## The residual (R344, R345) -/

section
variable {s s1 : State} {k i gen base : Nat} {o : SpecOp} {src : Entry} {t : Trace} {live : List Nat} {ws : List Raw}

/-- A residual for which there is an entry and room holds a PENDING entry while its block is written. -/
theorem specPublish_placed (residual : ws = deadPass live (copyPass t.out.length t.out))
    (placed : s.placeCode o.iss.vol (ws.map Raw.toWord) = some (s1, i, gen, base)) : ∃ s2,
      s2 = s1.setSpace ((s1.spaceOf o.iss.vol).setEntry i { gen := gen, state := 2, base := base, sgen := src.gen, sidx := o.src, size := ws.length }) ∧
      s.specPublish k o src t live = (s2.setCluster k { s2.cluster k with
        specs := mapIf (·.id == o.id) (fun x => { x with taken := some (i, gen, base, specStats ws.length t) }) (s2.cluster k).specs }).push
          (.specRun k o.id) := by
  refine ⟨_, rfl, ?_⟩
  unfold State.specPublish
  rw [← residual]
  simp only [placed]

/-- A residual without an entry or without room ends its operation with result 7. -/
theorem specPublish_noRoom (residual : ws = deadPass live (copyPass t.out.length t.out))
    (noRoom : s.placeCode o.iss.vol (ws.map Raw.toWord) = none) :
    s.specPublish k o src t live = ((s.blockOut k o 0 (specStats ws.length t)).1).endSpec k o 7 := by
  unfold State.specPublish
  rw [← residual]
  simp only [noRoom]

end

/-- Settles O42: a request by the checks of its answer, the head of the queue by its trace, its residual by its room and its block. -/
theorem specialisationOperations : Obligations.SpecialisationOperations := by
  unfold Obligations.SpecialisationOperations
  refine ⟨?fenced, ?full, ?traced, ?fails, ?pending, ?noRoom, ?runs, ?published, ?returned, ?stale, ?queued⟩
  case fenced => exact fun s k r takes fenced => exec_specAccept_fenced takes fenced
  case full => exact fun s k r takes sound full => exec_specAccept_full takes sound full
  case traced =>
    intro s k o t head untaken traced
    rw [exec_specRun_traces head untaken, traced]
  case fails =>
    intro s k o t st head untaken ended
    rw [exec_specRun_traces head untaken, ended]
  case pending => exact fun s k o src t live ws s1 i gen base residual placed => specPublish_placed residual placed
  case noRoom => exact fun s k o src t live ws residual noRoom => specPublish_noRoom residual noRoom
  case runs => exact fun s k o i gen base st head taken => exec_specRun_ends head taken
  case published =>
    intro s k o i gen base st e s1 entry written
    subst entry
    simp only [State.specEnd, written]
  case returned =>
    intro s k o i gen base st e s1 entry lost
    subst entry
    simp only [State.specEnd, lost]
  case stale =>
    intro s k r takes sound room block good early stale
    rw [exec_specAccept_checked takes sound room block good early, stale]
  case queued =>
    intro s k r src takes sound room block good early current
    rw [exec_specAccept_checked takes sound room block good early, current]

end Sys2Proof.Machine
end

section
/-! Pre-emption and resumption of a core (R88, R176, R363): what a request answers, what a save clears and a resume brings back, and
the statement. -/

namespace Sys2Proof.Machine

open Sys2Proof

/-! ## The frame in which a request is answered -/

@[simp] theorem State.pushNew_frame (s : State) (i : Instr) : (s.pushNew i).clk.frame = s.clk.frame := by
  unfold State.pushNew
  split <;> rfl

@[simp] theorem State.wakeSpans_frame (s : State) (group : Nat) : (s.wakeSpans group).clk.frame = s.clk.frame := by
  unfold State.wakeSpans
  refine List.foldlRecOn _ _ (motive := fun t : State => t.clk.frame = s.clk.frame) rfl fun t kept p _ => ?_
  split
  · exact kept
  · exact kept

@[simp] theorem State.endCollation_frame (s : State) (t : Strand) : (s.endCollation t).clk.frame = s.clk.frame := by
  unfold State.endCollation
  split
  · rfl
  · rw [State.wakeSpans_frame]

@[simp] theorem State.preemptMsg_frame (s : State) (core from_ : Nat) : (s.preemptMsg core from_).clk.frame = s.clk.frame := by
  unfold State.preemptMsg
  split <;> rfl

@[simp] theorem State.startPreempt_frame (s : State) (core : Nat) (by_ : Option Nat) :
    (s.startPreempt core by_).2.clk.frame = s.clk.frame := by
  have stopped : ((s.users core).foldl (fun s e => ((s.strand core e.1).map s.endCollation).getD s) s).clk.frame = s.clk.frame := by
    refine List.foldlRecOn _ _ (motive := fun t : State => t.clk.frame = s.clk.frame) rfl fun t kept e _ => ?_
    cases t.strand core e.1 with
    | none => exact kept
    | some u => exact (t.endCollation_frame u).trans kept
  unfold State.startPreempt
  split_ifs
  · rfl
  · rfl
  · rfl
  · exact (State.pushNew_frame _ _).trans stopped

@[simp] theorem State.startResume_frame (s : State) (core : Nat) (by_ : Option Nat) :
    (s.startResume core by_).2.clk.frame = s.clk.frame := by
  unfold State.startResume
  split_ifs
  · rfl
  · rfl
  · exact State.pushNew_frame _ _

/-! ## Requests (R363) -/

theorem exec_preemptRequest (msg : Nat) (s : State) : exec (.preemptRequest msg) s = execPreemptRequest msg s := rfl

theorem exec_resumeRequest (msg : Nat) (s : State) : exec (.resumeRequest msg) s = execResumeRequest msg s := rfl

section
variable {s : State} {m : Msg} {op : Nat} (due : dueMsg s m)
include due

theorem exec_preemptRequest_due (asks : m.kind = .preempt op) : exec (.preemptRequest m.id) s =
    .next (((s.took m.id).preemptAsked m.dst (some m.core)).2.replyOp m.core m.slot op (s.clk.frame + hops m.core m.dst + 1)
      (ofN ((s.took m.id).preemptAsked m.dst (some m.core)).1)) := by
  obtain ⟨found, came⟩ := due
  have frame : ((s.took m.id).preemptAsked m.dst (some m.core)).2.clk.frame = s.clk.frame := by
    rw [State.preemptAsked, State.startPreempt_frame, State.preemptMsg_frame]
    rfl
  rw [← frame]
  simp only [exec_preemptRequest, execPreemptRequest, found, asks, if_neg (Nat.not_lt.2 came)]
  rfl

theorem exec_resumeRequest_due (asks : m.kind = .resume op) : exec (.resumeRequest m.id) s =
    .next (((s.took m.id).startResume m.dst (some m.core)).2.replyOp m.core m.slot op (s.clk.frame + hops m.core m.dst + 1)
      (ofN ((s.took m.id).startResume m.dst (some m.core)).1)) := by
  obtain ⟨found, came⟩ := due
  have frame : ((s.took m.id).startResume m.dst (some m.core)).2.clk.frame = s.clk.frame := State.startResume_frame _ _ _
  rw [← frame]
  simp only [exec_resumeRequest, execResumeRequest, found, asks, if_neg (Nat.not_lt.2 came)]
  rfl

end

section
variable {s : State} {core : Nat} (by_ : Option Nat)

theorem State.startPreempt_refused (barred : 2048 ≤ core ∨ s.coreFenced core = true) : s.startPreempt core by_ = (2, s) := by
  have barred : (decide (2048 ≤ core) || s.coreFenced core) = true := by simpa using barred
  rw [State.startPreempt, if_pos barred]

theorem State.startResume_refused (barred : 2048 ≤ core ∨ s.coreFenced core = true) : s.startResume core by_ = (2, s) := by
  have barred : (decide (2048 ≤ core) || s.coreFenced core) = true := by simpa using barred
  rw [State.startResume, if_pos barred]

theorem State.preemptMsg_refused (from_ : Nat) (barred : 2048 ≤ core ∨ s.coreFenced core = true) : s.preemptMsg core from_ = s := by
  have barred : (decide (2048 ≤ core) || s.coreFenced core) = true := by simpa using barred
  rw [State.preemptMsg, if_pos barred]

variable (real : core < 2048) (sound : s.coreFenced core = false)
include real sound

theorem State.core_admits : ¬(decide (2048 ≤ core) || s.coreFenced core) = true := by simp [sound, real]

theorem State.startPreempt_busy (busy : (s.core core).pre ≠ .none) : s.startPreempt core by_ = (1, s) := by
  rw [State.startPreempt, if_neg (State.core_admits real sound), if_pos (bne_iff_ne.2 busy)]

theorem State.startPreempt_idle (resident : (s.core core).pre = .none) (idle : s.users core = []) : s.startPreempt core by_ = (3, s) := by
  rw [State.startPreempt, if_neg (State.core_admits real sound), if_neg (by simp [resident]), if_pos (List.isEmpty_iff.2 idle)]

theorem State.startPreempt_starts {s1 : State} (resident : (s.core core).pre = .none) (used : s.users core ≠ [])
    (stopped : s1 = (s.users core).foldl (fun s e => ((s.strand core e.1).map s.endCollation).getD s) s) :
    s.startPreempt core by_ = (0, (s1.setCore core { s1.core core with pre := .saving by_ }).pushNew (.preemptSave core)) := by
  subst stopped
  rw [State.startPreempt, if_neg (State.core_admits real sound), if_neg (by simp [resident]), if_neg (by simpa using used)]

theorem State.startResume_notOut (resident : (s.core core).pre ≠ .out) : s.startResume core by_ = (1, s) := by
  rw [State.startResume, if_neg (State.core_admits real sound), if_pos (bne_iff_ne.2 resident)]

theorem State.startResume_starts (out : (s.core core).pre = .out) :
    s.startResume core by_ = (0, (s.setCore core { s.core core with pre := .resuming by_ }).pushNew (.coreResume core)) := by
  rw [State.startResume, if_neg (State.core_admits real sound), if_neg (by simp [out])]

/-- The request stands in slot 63's inbox of its core (R71), and nothing else of the machine's work has changed. -/
theorem State.preemptMsg_enters (from_ : Nat) : ∃ m, (s.preemptMsg core from_).fab.sup = s.fab.sup ++ [m] ∧ m.dst = some core ∧
    m.from_ = from_ ∧ (s.preemptMsg core from_).strands = s.strands ∧ (s.preemptMsg core from_).cores = s.cores ∧
    (s.preemptMsg core from_).mem = s.mem := by
  rw [State.preemptMsg, if_neg (State.core_admits real sound)]
  exact ⟨_, rfl, rfl, rfl, rfl, rfl, rfl⟩

end

/-! ## The save (R88, R363) -/

/-- A byte that a filter takes out of memory reads 0 (assumption 4). -/
theorem Memory.get_filter_out (m : Memory) (p : Nat → Bool) {a : Nat} (out : p a = false) : Memory.get (m.filter fun b => p b.1) a = 0 := by
  induction m with
  | nil => rfl
  | cons c r ih =>
    rw [List.filter_cons]
    split
    case isTrue kept =>
      have other : c.1 ≠ a := by rintro rfl; simp [out] at kept
      rw [Memory.get, if_neg other, ih]
    case isFalse => exact ih

/-- A word that a filter takes out of the empty ones is full. -/
theorem contains_filter_out (l : List Nat) (p : Nat → Bool) {w : Nat} (out : p w = false) : (l.filter p).contains w = false := by
  simp [out]

/-- A byte in a core's W and A buffers. -/
def inBuffers (core k : Nat) : Bool := decide (wKey core 0 ≤ k) && decide (k < wKey core 0 + 2 ^ 20)

theorem inBuffers_of_le {core a : Nat} (low : wKey core 0 ≤ a) (high : a < wKey core 0 + 2 ^ 20) : inBuffers core a = true := by
  rw [inBuffers, decide_eq_true low, decide_eq_true high]
  rfl

/-- The buffers hold whole words. -/
theorem inBuffers_word {core a : Nat} (low : wKey core 0 ≤ a) (high : a < wKey core 0 + 2 ^ 20) :
    inBuffers core (8 * (a / 8)) = true := by
  refine inBuffers_of_le ?_ (by omega)
  rw [wKey] at low ⊢
  omega

theorem exec_preemptSave (core : Nat) (s : State) : exec (.preemptSave core) s = execPreemptSave core s := rfl

/-- The save's last step sends the core out and clears its W and A buffers: every byte of them is 0 and every word full. -/
theorem exec_preemptSave_ends {s : State} {core : Nat} {by_ : Option Nat} (saving : (s.core core).pre = .saving by_)
    (ready : s.savesReady core = true) : ∃ t, exec (.preemptSave core) s = .next t ∧ (t.core core).pre = .out ∧
    ∀ a, wKey core 0 ≤ a → a < wKey core 0 + 2 ^ 20 → t.mem.get a = 0 ∧ t.full a = true := by
  simp only [exec_preemptSave, execPreemptSave, saving, ready, Bool.not_true, Bool.false_eq_true, if_false]
  refine ⟨_, rfl, ?out, ?cleared⟩
  case out => cases by_ <;> simp only [State.core, State.pushNew_cores, State.supMsg_cores, State.setCore, aget_aput_self, Option.getD_some]
  case cleared =>
    intro a low high
    refine ⟨?zero, ?full⟩
    case zero =>
      cases by_ <;> simp only [State.pushNew_mem, State.supMsg_mem] <;>
        exact Memory.get_filter_out _ (fun k => !inBuffers core k) (by rw [inBuffers_of_le low high]; rfl)
    case full =>
      cases by_ <;> simp only [State.full, State.pushNew_empty, State.supMsg_empty] <;>
        exact congrArg not (contains_filter_out _ (fun w => !inBuffers core (8 * w)) (by rw [inBuffers_word low high]; rfl))


/-! ## The resume (R79, R363) -/

/-- Of a core, what its resume gives a value, but for words, messages and tile data. -/
def Core.resumed (c : Core) : Preempt × List Tile × List Stream × List SavedSlot × List Returned :=
  (c.pre, c.tiles, c.streams, c.saved, c.returns)

theorem State.core_of_cores {s t : State} (same : t.cores = s.cores) (k : Nat) : t.core k = s.core k := by rw [State.core, same, State.core]

/-- A core that is put back with what a resume gives a value unchanged. -/
theorem State.resumed_setCore {s t : State} {core : Nat} {c : Core} (others : t.cores = s.cores)
    (same : c.resumed = (s.core core).resumed) (k : Nat) : ((t.setCore core c).core k).resumed = (s.core k).resumed := by
  by_cases here : k = core
  · rw [here, State.core_setCore, same]
  · rw [State.core_setCore_ne _ _ here, State.core_of_cores others]

theorem State.WritesMem.cores {s s' : State} (h : s.WritesMem s') : s'.cores = s.cores := by
  obtain ⟨⟨m, fl, rfl⟩, _⟩ := h
  rfl

@[simp] theorem State.areaPut_cores (s : State) (vol va pa : Nat) (bs : List Byte) : (s.areaPut vol va pa bs).cores = s.cores :=
  (s.areaPut_writesMem vol va pa bs).cores

@[simp] theorem State.setSlipState_cores (s : State) (pa st : Nat) : (s.setSlipState pa st).cores = s.cores := rfl
@[simp] theorem State.setSlipLink_cores (s : State) (pa va : Nat) : (s.setSlipLink pa va).cores = s.cores := rfl
@[simp] theorem State.setSlipFault_cores (s : State) (pa cls code : Nat) : (s.setSlipFault pa cls code).cores = s.cores := rfl

@[simp] theorem State.bumpExec_cores (s : State) (vol : Nat) (acc : Option Nat) (d : Int) : (s.bumpExec vol acc d).cores = s.cores := by
  cases acc <;> rfl

@[simp] theorem State.allotPool_cores (s : State) (vol : Nat) : (s.allotPool vol).2.cores = s.cores := by
  unfold State.allotPool
  split <;> rfl

theorem settleGran_cores (core : Nat) (x : State × Strand) (g : Nat) : (settleGran core x g).1.cores = x.1.cores := by
  unfold settleGran
  dsimp only
  split_ifs
  · rfl
  · rfl
  · split <;> rfl

@[simp] theorem State.settle_cores (s : State) (core : Nat) (t : Strand) (regs : List Nat) : (s.settle core t regs).1.cores = s.cores :=
  List.foldlRecOn _ _ (motive := fun x : State × Strand => x.1.cores = s.cores) rfl fun x kept g _ => (settleGran_cores core x g).trans kept

@[simp] theorem State.saveStrand_cores (s : State) (core slot : Nat) (t : Strand) (pc st cls code : Nat) (a : Aside) :
    (s.saveStrand core slot t pc st cls code a).1.cores = s.cores := by
  simp only [State.saveStrand, State.saveSettled, State.dropStrand_cores, State.wrWords, State.wrBytes_cores, State.areaPut_cores,
    State.settle_cores]

@[simp] theorem State.appendRun_resumed (s : State) (core prio vol pa k : Nat) :
    ((s.appendRun core prio vol pa).core k).resumed = (s.core k).resumed := by
  unfold State.appendRun
  dsimp only
  refine State.resumed_setCore ?others ?same k
  case same => rfl
  case others => split <;> simp only [State.setSlipLink_cores, State.setSlipState_cores]

/-- A new slip enters the pool, and its home's run list when it is READY. -/
@[simp] theorem State.newSlip_resumed (s : State) (v : Volume) (prio home wgr gidx pc holdp state : Nat) (sregs : List Desc)
    (args : List Word) (acc : Option Nat) (k : Nat) :
    ((s.newSlip v prio home wgr gidx pc holdp state sregs args acc).2.core k).resumed = (s.core k).resumed := by
  simp only [State.newSlip, apply_ite (fun t : State => (t.core k).resumed), State.appendRun_resumed, ite_self]
  refine congrArg Core.resumed (State.core_of_cores ?_ k)
  rw [State.bumpExec_cores]
  split <;> simp only [State.setVolume_cores, State.saveStrand_cores, State.fresh_cores, State.allotPool_cores]

@[simp] theorem State.removeRun_resumed (s : State) (core pa k : Nat) : ((s.removeRun core pa).core k).resumed = (s.core k).resumed := by
  unfold State.removeRun
  exact State.resumed_setCore rfl (by rfl) k

@[simp] theorem State.closeGran_resumed (s : State) (core : Nat) (gran : List Nat) (k : Nat) :
    ((s.closeGran core gran).core k).resumed = (s.core k).resumed := by
  unfold State.closeGran
  split
  · exact State.resumed_setCore rfl (by rfl) k
  · rfl

@[simp] theorem State.endPairs_resumed (s : State) (core : Nat) (gran : List Nat) (k : Nat) :
    ((s.endPairs core gran).core k).resumed = (s.core k).resumed := State.closeGran_resumed _ core gran k

@[simp] theorem State.dropCode_resumed (s : State) (core base size k : Nat) :
    ((s.dropCode core base size).core k).resumed = (s.core k).resumed := by
  unfold State.dropCode
  exact State.resumed_setCore rfl (by rfl) k

/-- A handler task is a new slip; one that cannot be spawned is a message (R397). -/
@[simp] theorem State.handlerTask_resumed (s : State) (vol prio home gidx core pa : Nat) (sregs : List Desc) (cls : Nat)
    (record : List Word) (k : Nat) :
    ((s.handlerTask vol prio home gidx core pa sregs cls record).core k).resumed = (s.core k).resumed := by
  have told : ∀ dst, ((s.supMsg dst core 8 cls ((Config.areaVA + pa) / 16)).core k).resumed = (s.core k).resumed :=
    fun dst => congrArg Core.resumed (State.core_of_cores (s.supMsg_cores dst core 8 cls _) k)
  unfold State.handlerTask
  split
  case h_1 => exact told _
  case h_2 v _ =>
    split
    case h_2 => exact told _
    case h_1 =>
      split
      case isFalse => exact told _
      case isTrue =>
        dsimp only
        split
        · exact (congrArg Core.resumed (State.core_of_cores (State.setVolume_cores _ _) k)).trans (State.newSlip_resumed ..)
        · exact State.newSlip_resumed ..

theorem State.core_withCirc (s : State) (c : Circ) (k : Nat) : State.core { s with circ := c } k = s.core k := rfl

@[simp] theorem State.refuseSlip_resumed (s : State) (core slot listCore vol pa k : Nat) :
    ((s.refuseSlip core slot listCore vol pa).core k).resumed = (s.core k).resumed := by
  unfold State.refuseSlip State.slipFaults
  rw [State.handlerTask_resumed, State.core_withCirc, State.core_of_cores (State.setSlipFault_cores _ _ _ _),
    State.core_of_cores (State.setSlipState_cores _ _ _), State.removeRun_resumed]

@[simp] theorem State.sendAgain_resumed (s : State) (core slot : Nat) (a : Again) (k : Nat) :
    ((s.sendAgain core slot a).core k).resumed = (s.core k).resumed := by
  unfold State.sendAgain
  cases a with
  | nothing => rfl
  | flight f => rfl
  | tile o => exact State.resumed_setCore rfl (by rfl) k
  | req r => dsimp only; split <;> rfl

/-- Held results that are read back into a strand's operations take numbers only (R80). -/
theorem foldl_fresh_cores {α : Type} {g : α × State → Nat → α × State} (numbers : ∀ x i, (g x i).2 = x.2.fresh.2) (x : α × State)
    (l : List Nat) : (l.foldl g x).2.cores = x.2.cores :=
  List.foldlRecOn _ _ (motive := fun y : α × State => y.2.cores = x.2.cores) rfl
    fun y kept i _ => (congrArg State.cores (numbers y i)).trans kept

theorem State.foldl_sendAgain_resumed (s : State) (core slot : Nat) (l : List Again) (k : Nat) :
    ((l.foldl (fun (s : State) x => s.sendAgain core slot x) s).core k).resumed = (s.core k).resumed :=
  List.foldlRecOn _ _ (motive := fun t : State => (t.core k).resumed = (s.core k).resumed) rfl
    fun t kept x _ => (t.sendAgain_resumed core slot x k).trans kept

@[simp] theorem State.loadSlip_resumed (s : State) (core slot vol pa : Nat) (gran : List Nat) (k : Nat) :
    ((s.loadSlip core slot vol pa gran).core k).resumed = (s.core k).resumed := by
  unfold State.loadSlip
  dsimp only
  rw [State.endPairs_resumed, State.core_of_cores (State.setStrand_cores _ _ _ _), State.core_withCirc]
  have sent {g : List Op × State → Nat → List Op × State} (numbers : ∀ x i, (g x i).2 = x.2.fresh.2) (ns : List Nat) (l : List Again) :
      ((l.foldl (fun (s : State) x => s.sendAgain core slot x) (ns.foldl g ([], s)).2).core k).resumed = (s.core k).resumed :=
    (State.foldl_sendAgain_resumed _ _ _ _ k).trans (congrArg Core.resumed (State.core_of_cores (foldl_fresh_cores numbers _ _) k))
  split
  · split
    · exact (State.dropCode_resumed ..).trans (sent (fun _ _ => rfl) _ _)
    · exact sent (fun _ _ => rfl) _ _
  · exact sent (fun _ _ => rfl) _ _

/-- A saved strand that returns to its slot, or is refused there, leaves what the resume has brought back. -/
@[simp] theorem State.restoreSlot_resumed (s : State) (core : Nat) (x : SavedSlot) (k : Nat) :
    ((s.restoreSlot core x).core k).resumed = (s.core k).resumed := by
  unfold State.restoreSlot
  cases x with
  | slip slot vol pa =>
    dsimp only
    split_ifs
    · rfl
    · exact State.refuseSlip_resumed ..
    · exact State.loadSlip_resumed ..
  | frame slot t => exact State.endPairs_resumed ..

theorem State.foldl_restoreSlot_resumed (s : State) (core : Nat) (l : List SavedSlot) (k : Nat) :
    ((l.foldl (fun (s : State) x => s.restoreSlot core x) s).core k).resumed = (s.core k).resumed :=
  List.foldlRecOn _ _ (motive := fun t : State => (t.core k).resumed = (s.core k).resumed) rfl
    fun t kept x _ => (t.restoreSlot_resumed core x k).trans kept

@[simp] theorem State.closeOut_resumed (s : State) (core : Nat) (slots : List Nat) (w a : List (Nat × Nat)) (k : Nat) :
    ((s.closeOut core slots w a).core k).resumed = (s.core k).resumed := by
  unfold State.closeOut
  split
  · exact State.resumed_setCore rfl (by rfl) k
  · rfl

theorem exec_coreResume (core : Nat) (s : State) : exec (.coreResume core) s = execCoreResume core s := rfl

/-- The resume's last step: the gatherings' tiles that are still there are back in their places, and the streams. -/
theorem exec_coreResume_ends {s : State} {core : Nat} {by_ : Option Nat} (resuming : (s.core core).pre = .resuming by_)
    (fits : s.resumeFits core = true) : ∃ t, exec (.coreResume core) s = .next t ∧ (t.core core).resumed =
      (.none, (s.tilesBack core).zipIdx.map fun x => if x.1.conf then x.1 else (s.core core).tile x.2, (s.core core).carrel.streams, [], []) := by
  simp only [exec_coreResume, execCoreResume, resuming, fits, Bool.not_true, Bool.false_eq_true, if_false]
  refine ⟨_, rfl, ?_⟩
  rw [State.core_of_cores (State.pushNew_cores _ _)]
  cases by_ <;> simp only [State.core_of_cores (State.supMsg_cores _ _ _ _ _ _), State.closeOut_resumed, State.foldl_restoreSlot_resumed] <;>
    exact congrArg Core.resumed (State.core_setCore s core _)

/-- The tile in a place is the one that came back there, else the one that stood there. -/
theorem tile_of_resumed {s t : State} {core : Nat} (same : (t.core core).tiles =
    (s.tilesBack core).zipIdx.map fun x => if x.1.conf then x.1 else (s.core core).tile x.2) {i : Nat} (within : i < 16) :
    (t.core core).tile i = if ((s.tilesBack core).getD i {}).conf then (s.tilesBack core).getD i {} else (s.core core).tile i := by
  have size : i < (s.tilesBack core).length := by simpa [State.tilesBack] using within
  simp only [Core.tile, same, List.getD_eq_getElem?_getD, List.getElem?_map, List.getElem?_zipIdx, List.getElem?_eq_getElem size,
    Option.map_some, Option.getD_some, Nat.zero_add]

/-- Settles O36: requests by the state of their core, the save by what it clears, the resume by what its core keeps to the end. -/
theorem preemptionAndResumption : Obligations.PreemptionAndResumption := by
  unfold Obligations.PreemptionAndResumption
  refine ⟨?asked, ?starts, ?busy, ?barred, ?idle, ?resumeAsked, ?resumes, ?notOut, ?saved, ?resumed, ?entered, ?unheard⟩
  case asked => exact fun s m op due asks => exec_preemptRequest_due due asks
  case starts => exact fun s s1 core by_ real sound resident used stopped => State.startPreempt_starts by_ real sound resident used stopped
  case busy => exact fun s core by_ real sound busy => State.startPreempt_busy by_ real sound busy
  case barred => exact fun s core by_ barred => ⟨State.startPreempt_refused by_ barred, State.startResume_refused by_ barred⟩
  case idle => exact fun s core by_ real sound resident idle => State.startPreempt_idle by_ real sound resident idle
  case resumeAsked => exact fun s m op due asks => exec_resumeRequest_due due asks
  case resumes => exact fun s core by_ real sound out => State.startResume_starts by_ real sound out
  case notOut => exact fun s core by_ real sound resident => State.startResume_notOut by_ real sound resident
  case saved => exact fun s core by_ saving ready => exec_preemptSave_ends saving ready
  case resumed =>
    intro s core by_ resuming fits
    obtain ⟨t, step, kept⟩ := exec_coreResume_ends resuming fits
    simp only [Core.resumed, Prod.mk.injEq] at kept
    obtain ⟨pre, tiles, streams, saved, returns⟩ := kept
    exact ⟨t, step, pre, fun i within => tile_of_resumed tiles within, streams, saved, returns⟩
  case entered => exact fun s core from_ real sound => State.preemptMsg_enters real sound from_
  case unheard => exact fun s core from_ barred => State.preemptMsg_refused from_ barred

end Sys2Proof.Machine
end

section
/-! The volumes of the circulation unit through what a placement does (R187, R358): serving the waiters of zeroed words and starting
strands change none. -/

namespace Sys2Proof.Machine

open Sys2Proof

/-! ## Transactions (R185 to R204) -/

theorem State.WritesMem.circ {s s' : State} (h : s.WritesMem s') : s'.circ = s.circ := by
  obtain ⟨⟨m, fl, rfl⟩, _⟩ := h
  rfl

@[simp] theorem State.bankWrite_circ (s : State) (key : Nat) (kpage : Option (Nat × Nat)) (n v : Nat) :
    (s.bankWrite key kpage n v).circ = s.circ := (s.bankWrite_writesMem key kpage n v).circ

@[simp] theorem State.filterStore_volumes (s : State) (f : Flight) (p : Part) (key : Nat) :
    (s.filterStore f p key).circ.volumes = s.circ.volumes := by
  unfold State.filterStore
  dsimp only
  split
  · rfl
  · split
    · split <;> rfl
    · split <;> rfl

/-- The state that a transaction leaves has the volumes of another. -/
def Bank.Volumes (s : State) : Bank → Prop
  | .did s1 _ _ _ _ => s1.circ.volumes = s.circ.volumes
  | .wait => True

/-- A transaction changes no volume. -/
theorem State.bankDo_volumes (s : State) (f : Flight) (p : Part) (key : Nat) : (s.bankDo f p key).Volumes s := by
  unfold State.bankDo
  cases f.kind with
  | ld | vld | vldf | vldx | segld | swrd | tcfg | kabs | clrf => exact rfl
  | st | vst | vstf | vstx | segst | stf => simp only [Bank.Volumes, State.setFull_circ, State.filterStore_volumes, State.bankWrite_circ]
  | ldf | lde | swwait => dsimp only; split <;> trivial
  | stfe =>
    dsimp only
    split
    · trivial
    · simp only [Bank.Volumes, State.setFull_circ, State.filterStore_volumes, State.bankWrite_circ]
  | amo | cas | amof =>
    dsimp only
    split <;> simp only [Bank.Volumes, State.bankWrite_circ]
  | swarm => simp only [Bank.Volumes, State.setFull_circ, State.bankWrite_circ]
  | swadd =>
    dsimp only [Bank.Volumes]
    split <;> simp only [State.setFull_circ, State.bankWrite_circ]

/-! ## The completion of an access (R187, R219) -/

@[simp] theorem State.opDone_circ (s : State) (uid id : Nat) (v : Vec) (fl : FlagWord) (fault : Option FaultInfo) :
    (s.opDone uid id v fl fault).circ = s.circ := by
  unfold State.opDone
  split
  · rfl
  · split <;> rfl

@[simp] theorem State.stampReqs_volumes (s : State) (uid : Nat) : (s.stampReqs uid).circ.volumes = s.circ.volumes := by
  unfold State.stampReqs
  dsimp only
  split_ifs <;> rfl

@[simp] theorem State.foldl_pushNew_circ {α : Type} (f : α → Instr) (s : State) (l : List α) :
    (l.foldl (fun s x => s.pushNew (f x)) s).circ = s.circ := by
  obtain ⟨k, h⟩ := State.foldl_pushNew_eq f s l
  rw [h]

@[simp] theorem State.kickUid_volumes (s : State) (uid : Nat) : (s.kickUid uid).circ.volumes = s.circ.volumes := by
  unfold State.kickUid
  exact (congrArg Circ.volumes ((State.foldl_pushNew_circ id _ _).trans (State.foldl_pushNew_circ _ _ _))).trans (State.stampReqs_volumes s uid)

@[simp] theorem State.roomFreed_circ (s : State) : s.roomFreed.circ = s.circ := by
  unfold State.roomFreed
  split
  · exact State.pushNew_circ _ _
  · rfl

@[simp] theorem State.flightFail_volumes (s : State) (f : Flight) (e : FaultInfo) : (s.flightFail f e).circ.volumes = s.circ.volumes := by
  have room : (if f.joined.isSome then s.roomFreed else s).circ = s.circ := by split <;> simp
  unfold State.flightFail
  dsimp only
  split <;> simp only [State.pushNew_circ, State.kickUid_volumes, State.opDone_circ, State.setFlight_circ, room]

@[simp] theorem State.configure_circ (s : State) (core vol gidx lane m : Nat) (ws : List Word) :
    (s.configure core vol gidx lane m ws).1.circ = s.circ := by
  unfold State.configure
  dsimp only
  split
  · rfl
  · split
    · rfl
    · split
      · rfl
      · exact State.setCore_circ ..

@[simp] theorem State.flightDone_volumes (s : State) (f : Flight) (fl : FlagWord) (fault : Option FaultInfo) :
    (s.flightDone f fl fault).circ.volumes = s.circ.volumes := by
  have kicked : ((s.dropFlight f.id).kickUid f.uid).circ.volumes = s.circ.volumes := State.kickUid_volumes _ _
  unfold State.flightDone
  cases f.kind with
  | vldf fmt rm =>
    dsimp only
    cases folioRead fmt rm f.acc.toNat with
    | some r => simp only [State.opDone_circ, kicked]
    | none => exact State.flightFail_volumes s f _
  | tcfg mask => simp only [State.pushNew_circ, State.opDone_circ, State.configure_circ, kicked]
  | segld n => simp only [apply_ite (fun t : State => t.circ.volumes), State.opDone_circ, kicked, ite_self]
  | swadd =>
    cases fault with
    | some e => exact State.flightFail_volumes s f _
    | none => simp only [State.opDone_circ, kicked]
  | _ => simp only [State.opDone_circ, kicked]

@[simp] theorem State.partDone_volumes (s : State) (f : Flight) (p : Part) (v : Nat) (fl : FlagWord) (fault : Option FaultInfo) :
    (s.partDone f p v fl fault).circ.volumes = s.circ.volumes := by
  have room : (if f.joined.isSome then s.roomFreed else s).circ = s.circ := by split <;> simp
  unfold State.partDone
  dsimp only
  split
  · rw [State.flightDone_volumes, room]
  · exact congrArg Circ.volumes room

@[simp] theorem State.serve_volumes (s : State) (key n : Nat) : (s.serve key n).circ.volumes = s.circ.volumes := by
  induction n generalizing s with
  | zero => rfl
  | succ n ih =>
    rw [State.serve]
    split
    · rfl
    next f p _ =>
      have kept := s.bankDo_volumes f p (p.key.getD 0)
      split
      · rfl
      next s1 v fl served e did =>
        rw [did] at kept
        rw [ih, State.partDone_volumes]
        exact kept

@[simp] theorem State.serveAll_volumes (s : State) : s.serveAll.circ.volumes = s.circ.volumes :=
  List.foldlRecOn _ _ (motive := fun t : State => t.circ.volumes = s.circ.volumes) rfl
    fun t kept k _ => (t.serve_volumes k _).trans kept

/-! ## The strands of a placed gathering (R358) -/

@[simp] theorem State.setMember_volumes (s : State) (vol gidx role lane : Nat) (f : Member → Member) :
    (s.setMember vol gidx role lane f).circ.volumes = s.circ.volumes := by
  unfold State.setMember
  split <;> rfl

@[simp] theorem State.bumpExec_volumes (s : State) (vol : Nat) (acc : Option Nat) (d : Int) :
    (s.bumpExec vol acc d).circ.volumes = s.circ.volumes := by
  cases acc <;> rfl

@[simp] theorem State.endPairs_circ (s : State) (core : Nat) (gran : List Nat) : (s.endPairs core gran).circ = s.circ := by
  unfold State.endPairs State.closeGran
  split <;> rfl

@[simp] theorem State.startBound_volumes (s : State) (v : Volume) (g : Gathering) (core : Nat) (m : Member) (pc acc : Nat)
    (sregs : List Desc) (args : List Word) : (s.startBound v g core m pc acc sregs args).circ.volumes = s.circ.volumes := by
  unfold State.startBound
  dsimp only
  rw [State.setMember_volumes, State.bumpExec_volumes, State.endPairs_circ]
  rfl

/-- A placement advances its volume, which has failed no more and holds no cluster, and leaves the other volumes. -/
theorem State.place_volumes {s : State} {v : Volume} (k : Nat) (fits : List (Nat × List Nat × Nat × Nat)) (room : Nat)
    (entry : (s.codePoint v.id (v.dw 0)).isSome = true) : (s.place v k fits room).circ.volumes =
      replaceBy (·.id == v.id) { v with next := v.next + 1, tries := 0, reserved := none } s.circ.volumes := by
  obtain ⟨⟨i, off⟩, entry⟩ := Option.isSome_iff_exists.1 entry
  unfold State.place
  rw [entry]
  dsimp only
  rw [State.serveAll_volumes]
  refine List.foldlRecOn _ _ (motive := fun t : State => t.circ.volumes = _) rfl fun t kept f _ => ?_
  exact List.foldlRecOn _ _ (motive := fun t : State => t.circ.volumes = _) kept fun t kept m _ => (t.startBound_volumes ..).trans kept

end Sys2Proof.Machine
end

section
/-! Launches, placement and the end of gatherings (R353 to R356, R373, R374): admission by its checks in order, the only volume that
waits, retirement by its members, and the statement. -/

namespace Sys2Proof.Machine

open Sys2Proof

/-! ## Launches (R353, R354, R362) -/

theorem exec_launchAccept (req : Nat) (s : State) : exec (.launchAccept req) s = execLaunchAccept req s := rfl

section
variable {s : State} {r : Req} (found : s.circ.reqs.find? (·.id == r.id) = some r) (due : s.reqReady r = true)
include found due

theorem exec_launchAccept_fenced (fenced : s.isFenced .circ 0 = true) : exec (.launchAccept r.id) s =
    .next (State.opDone { s with circ := { s.circ with reqs := s.circ.reqs.filter (·.id != r.id) } } r.iss.uid r.id 0 0
      (some { cls := 5, code := 3 }) |>.kickReqs (clusterOf r.iss.core)) := by
  simp only [exec_launchAccept, execLaunchAccept, found, due, fenced, Bool.or_true, Bool.not_true, Bool.false_eq_true, if_false, if_true]

variable (ready : s.isReady .circ 0 = true) (sound : s.isFenced .circ 0 = false)
include ready sound

theorem exec_launchAccept_misplaced {e : Nat} (placed : r.iss.place r.a 256 (rR + rE) 64 = .error e) :
    exec (.launchAccept r.id) s =
      .next (State.status { s with circ := { s.circ with reqs := s.circ.reqs.filter (·.id != r.id) } } r.iss r.id 2) := by
  simp only [exec_launchAccept, execLaunchAccept, found, due, ready, sound, placed, Bool.or_false, Bool.not_true, Bool.false_eq_true, if_false]

theorem exec_launchAccept_read {ty : Nat} {l : Loc} {ws : List Word} {s1 : State}
    (taken : s1 = { s with circ := { s.circ with reqs := s.circ.reqs.filter (·.id != r.id) } })
    (placed : r.iss.place r.a 256 (rR + rE) 64 = .ok (ty, l)) (read : s1.reqRecord (clusterOf r.iss.core) r l 32 = .words ws) :
    exec (.launchAccept r.id) s = .next ((s1.grantLaunch ws (some r.iss.vol) r.iss.vol none r.syncLoc).2.status r.iss r.id
      (s1.grantLaunch ws (some r.iss.vol) r.iss.vol none r.syncLoc).1) := by
  subst taken
  simp only [exec_launchAccept, execLaunchAccept, found, due, ready, sound, placed, read, Bool.or_false, Bool.not_true, Bool.false_eq_true,
    if_false]

end

/-- The sync word of a launch is the one its pointer places. -/
theorem Req.syncLoc_placed {r : Req} {w : Word} {ty : Nat} {l : Loc} (named : r.b = some w)
    (placed : r.iss.place w 8 (rW + rF + rE) 8 = .ok (ty, l)) : r.syncLoc = some l := by
  simp only [Req.syncLoc, named, Option.bind_some, placed]

/-- A launch with no pointer, or one that is refused, names no sync word. -/
theorem Req.syncLoc_none {r : Req} (unnamed : r.b = none ∨ ∃ w e, r.b = some w ∧ r.iss.place w 8 (rW + rF + rE) 8 = .error e) :
    r.syncLoc = none := by
  rcases unnamed with none | ⟨w, e, named, refused⟩
  · simp only [Req.syncLoc, none, Option.bind_none]
  · simp only [Req.syncLoc, named, Option.bind_some, refused]

theorem State.grantLaunch_bad {s : State} {ws : List Word} (own : Option Nat) {v : Nat} (want : Option Nat) (sync : Option Loc) {i : Nat}
    (bad : s.badRecord v ws = some i) : s.grantLaunch ws own v want sync = (ofN (i * 2 ^ 8 + 2), s) := by
  simp only [State.grantLaunch, bad]

theorem State.grantLaunch_full {s : State} {ws : List Word} {p v : Nat} (want : Option Nat) (sync : Option Loc)
    (good : s.badRecord v ws = none) (shaped : shapeNever s ws = false)
    (full : ((s.volume p).map Volume.launchN).getD 0 ≤ s.launched p) : s.grantLaunch ws (some p) v want sync = (1, s) := by
  simp only [State.grantLaunch, good, shaped, decide_eq_true full, Bool.false_eq_true, if_false, if_true]

/-! ## Placement (R355, R356) -/

theorem exec_placement (s : State) : exec .placement s = execPlacement s := rfl

/-- Of the eight priorities each volume has one. -/
theorem sum_priorities : ∀ n < 8, ∀ b : Bool,
    (((List.range 8).map (7 - ·)).map fun p => if (n == p && b) = true then 1 else 0).sum = if b = true then 1 else 0 := by decide

/-- Of elements that each have a priority, as many pass a test as pass it with one priority or another. -/
theorem sum_countP_priority {α : Type} {prio : α → Nat} (low : ∀ x, prio x < 8) (q : α → Bool) (l : List α) :
    (((List.range 8).map (7 - ·)).map fun p => l.countP fun x => prio x == p && q x).sum = l.countP q := by
  induction l with
  | nil => rfl
  | cons x r ih => simp only [List.countP_cons, List.sum_map_add, ih, sum_priorities (prio x) (low x) (q x)]

/-- Every volume that waits stands once in the order. -/
theorem State.placeOrder_length (s : State) : s.placeOrder.length = s.circ.volumes.countP fun v => decide (v.next < v.count) := by
  have low (v : Volume) : shapePrio (v.dw 1) < 8 := Nat.mod_lt _ (by decide)
  rw [← sum_countP_priority low, State.placeOrder, List.length_flatMap]
  simp only [List.length_map, List.countP_eq_length_filter]

/-- The first element that a test finds is the one that is replaced. -/
theorem replaceBy_first {α : Type} {p : α → Bool} {a b : List α} {x : α} (before : ∀ y ∈ a, (!p y) = true) (here : p x = true) (v : α) :
    replaceBy p v (a ++ x :: b) = a ++ v :: b := by
  induction a with
  | nil => simp only [List.nil_append, replaceBy, here, if_true]
  | cons y r ih =>
    have passed : p y = false := by simpa using before y List.mem_cons_self
    simp only [List.cons_append, replaceBy, passed, Bool.false_eq_true, if_false, ih fun z listed => before z (List.mem_cons_of_mem _ listed)]

/-- The only volume that waits, and waits for its last gathering, waits no more when that is placed. -/
theorem State.placeOrder_placed {s t : State} {v w : Volume} (order : s.placeOrder = [v.id]) (known : s.volume v.id = some v)
    (waits : v.next < v.count) (whole : w.count ≤ w.next) (placed : t.circ.volumes = replaceBy (·.id == v.id) w s.circ.volumes) :
    t.placeOrder = [] := by
  obtain ⟨here, before, after, volumes, first⟩ := List.find?_eq_some_iff_append.1 known
  have one := s.placeOrder_length
  rw [order, volumes, List.countP_append, List.countP_cons_of_pos (by simpa using waits)] at one
  rw [← List.length_eq_zero_iff, t.placeOrder_length, placed, volumes, replaceBy_first first here, List.countP_append,
    List.countP_cons_of_neg (by simpa using whole)]
  simp only [List.length_singleton] at one
  omega

/-- The first number of a range at which a function has a value. -/
theorem findSome?_range {β : Type} {f : Nat → Option β} {n k : Nat} {y : β} (within : k < n) (none : ∀ j < k, f j = none)
    (some : f k = some y) : (List.range n).findSome? f = Option.some y := by
  obtain ⟨m, rfl⟩ : ∃ m, n = k + (m + 1) := ⟨n - k - 1, by omega⟩
  refine List.findSome?_eq_some_iff.2 ⟨List.range k, k, ((List.range m).map Nat.succ).map (k + ·), ?split, some, ?before⟩
  case split => rw [List.range_add, List.range_succ_eq_map, List.map_cons, Nat.add_zero]
  case before => exact fun j listed => none j (List.mem_range.1 listed)

/-- With no cluster held, a volume is placed on the lowest one that fits. -/
theorem State.tryPlace_lowest {s : State} {v : Volume} {k : Nat} {f : List (Nat × List Nat × Nat × Nat) × Nat}
    (known : s.volume v.id = some v) (waits : v.next < v.count) (free : v.reserved = none)
    (others : ∀ x ∈ s.circ.volumes, x.id ≠ v.id → x.reserved = none) (real : k < Config.clusters)
    (lower : ∀ j < k, s.clusterFits v j = none) (fits : s.clusterFits v k = some f) : s.tryPlace v.id = some (s.place v k f.1 f.2) := by
  have held : (s.circ.volumes.filter (·.id != v.id)).filterMap (·.reserved) = [] :=
    List.filterMap_eq_nil_iff.2 fun x listed => others x (List.mem_filter.1 listed).1 (by simpa using (List.mem_filter.1 listed).2)
  have found : (List.range Config.clusters).findSome? (fun k => (s.clusterFits v k).map fun f => (k, f)) = some (k, f) :=
    findSome?_range real (fun j below => by rw [lower j below]; rfl) (by rw [fits]; rfl)
  simp only [State.tryPlace, known, if_neg (Nat.not_le.2 waits), free, held, List.contains_nil, Bool.not_false, List.filter_true, found,
    Option.map_some]

/-- A volume whose gatherings are all placed is not placed again. -/
theorem State.tryPlace_whole {s : State} {id : Nat} {v : Volume} (known : s.volume id = some v) (whole : v.count ≤ v.next) :
    s.tryPlace id = none := by
  simp only [State.tryPlace, known, if_pos whole]

/-- Nothing waits: nothing is placed and no failure is counted. -/
theorem State.countFail_idle {s : State} (idle : s.placeOrder = []) : s.countFail = s := by
  simp only [State.countFail, idle, List.head?_nil, Option.bind_none]

section
variable {s : State} (ready : s.isReady .circ 0 = true) (sound : s.isFenced .circ 0 = false)
include ready sound

theorem exec_placement_idle (idle : s.placeOrder = []) : exec .placement s = .next s := by
  simp only [exec_placement, execPlacement, ready, sound, idle, Bool.not_true, Bool.or_false, Bool.false_eq_true, if_false]
  exact congrArg Host.Outcome.next (State.countFail_idle idle)

/-- The first pass places the last gathering of the only volume that waits, and the second finds nothing to place. -/
theorem exec_placement_only {v : Volume} {k : Nat} {f : List (Nat × List Nat × Nat × Nat) × Nat} (order : s.placeOrder = [v.id])
    (known : s.volume v.id = some v) (last : v.count = v.next + 1) (free : v.reserved = none)
    (others : ∀ x ∈ s.circ.volumes, x.id ≠ v.id → x.reserved = none) (real : k < Config.clusters)
    (lower : ∀ j < k, s.clusterFits v j = none) (fits : s.clusterFits v k = some f) (entry : (s.codePoint v.id (v.dw 0)).isSome = true) :
    exec .placement s = .next (s.place v k f.1 f.2) := by
  have waits : v.next < v.count := by omega
  have tried := State.tryPlace_lowest known waits free others real lower fits
  have volumes := s.place_volumes k f.1 f.2 entry
  generalize s.place v k f.1 f.2 = t at tried volumes ⊢
  have whole : Volume.count { v with next := v.next + 1, tries := 0, reserved := none } ≤ v.next + 1 := le_of_eq last
  have placed : t.volume v.id = some { v with next := v.next + 1, tries := 0, reserved := none } := by
    rw [State.volume, volumes]
    exact find?_replaceBy (beq_self_eq_true _) known
  have again : t.tryPlace v.id = none := State.tryPlace_whole placed whole
  simp only [exec_placement, execPlacement, ready, sound, order, known, last, List.map_cons, List.map_nil, List.foldl_cons, List.foldl_nil,
    Option.map_some, Option.getD_some, Nat.zero_add, placePass, tried, again, Bool.not_true, Bool.or_false, Bool.false_eq_true, if_false, if_true]
  exact congrArg Host.Outcome.next (State.countFail_idle (State.placeOrder_placed order known waits whole volumes))

end

/-! ## Retirement (R373 to R376) -/

theorem exec_gatheringRetire (vol gidx : Nat) (s : State) : exec (.gatheringRetire vol gidx) s = execGatheringRetire vol gidx s := rfl

theorem Gathering.any_live_eq_false {g : Gathering} (retired : ∀ m ∈ g.members, m.st ≠ .live) : g.members.any (·.st == .live) = false :=
  List.any_eq_false.2 fun m listed => by simpa using retired m listed

section
variable {s : State} {vol gidx : Nat} {g : Gathering} {v : Volume} (gathering : s.gathering vol gidx = some g) (volume : s.volume vol = some v)
include gathering volume

theorem exec_gatheringRetire_live {m : Member} (listed : m ∈ g.members) (live : m.st = .live) : exec (.gatheringRetire vol gidx) s = .next s := by
  have lives : g.members.any (·.st == .live) = true := List.any_eq_true.2 ⟨m, listed, beq_iff_eq.2 live⟩
  simp only [exec_gatheringRetire, execGatheringRetire, gathering, volume, lives, Bool.true_or, if_true]

variable (retired : ∀ m ∈ g.members, m.st ≠ .live) (quiet : s.retireWaits g = false) (alone : s.strangers g = [])
include retired quiet alone

/-- With no live member, nothing to wait for and no stranger in its slots, a gathering without a successor ends. -/
theorem exec_gatheringRetire_ends (unnamed : g.succ.bind (s.codePoint vol) = none) :
    exec (.gatheringRetire vol gidx) s = .next (s.endGathering g) := by
  simp only [exec_gatheringRetire, execGatheringRetire, gathering, volume, Gathering.any_live_eq_false retired, quiet, alone, unnamed,
    List.all_nil, List.foldl_nil, List.isEmpty_nil, Bool.not_true, Bool.or_self, Bool.false_eq_true, if_false]

/-- Its successor takes over once the granules are there. -/
theorem exec_gatheringRetire_handsOn {i off : Nat} (named : g.succ.bind (s.codePoint vol) = some (i, off)) (fits : s.granFits g = true) :
    exec (.gatheringRetire vol gidx) s = .next (s.handOn v g i off) := by
  simp only [exec_gatheringRetire, execGatheringRetire, gathering, volume, Gathering.any_live_eq_false retired, quiet, alone, named, fits,
    List.all_nil, List.foldl_nil, List.isEmpty_nil, Bool.not_true, Bool.or_self, Bool.false_eq_true, if_false, if_true]

end

/-- Settles O37: admission by the first check that fails, placement by its two passes, retirement by the members and the successor. -/
theorem launchPlacementRetirement : Obligations.LaunchPlacementRetirement := by
  unfold Obligations.LaunchPlacementRetirement
  refine ⟨?read, ?sync, ?noSync, ?misplaced, ?fenced, ?bad, ?full, ?placed, ?idle, ?ends, ?handsOn, ?stays⟩
  case read => exact fun s r ty l ws found due ready sound placed read => exec_launchAccept_read found due ready sound rfl placed read
  case sync => exact fun r w ty l named placed => Req.syncLoc_placed named placed
  case noSync => exact fun r unnamed => Req.syncLoc_none unnamed
  case misplaced => exact fun s r e found due ready sound placed => exec_launchAccept_misplaced found due ready sound placed
  case fenced => exact fun s r found due fenced => exec_launchAccept_fenced found due fenced
  case bad => exact fun s ws own v want sync i bad => State.grantLaunch_bad own want sync bad
  case full => exact fun s ws p v want sync good shaped full => State.grantLaunch_full want sync good shaped full
  case placed =>
    exact fun s k v f ready sound order known last free others real lower fits entry =>
      exec_placement_only ready sound order known last free others real lower fits entry
  case idle => exact fun s ready sound idle => exec_placement_idle ready sound idle
  case ends =>
    intro s vol gidx g v gathering volume retired quiet alone unnamed
    exact exec_gatheringRetire_ends gathering volume retired quiet alone (by rw [unnamed]; rfl)
  case handsOn =>
    intro s vol gidx g v w i off gathering volume retired quiet alone named entry fits
    exact exec_gatheringRetire_handsOn gathering volume retired quiet alone (by rw [named, Option.bind_some, entry]) fits
  case stays => exact fun s vol gidx g v m gathering volume listed live => exec_gatheringRetire_live gathering volume listed live

end Sys2Proof.Machine
end

section
/-! The network engine (R380 to R393): how a work request is answered, what a packet does by its kind, what is acknowledged, refused and
sent again, how a receive ends, and the statement. -/

namespace Sys2Proof.Machine

open Sys2Proof

/-! ## Work requests (R383, R384) -/

theorem exec_netAccept (req : Nat) (s : State) : exec (.netAccept req) s = execNetAccept req s := rfl

section
variable {s s1 : State} {r : Req} {ty : Nat} {l : Loc} (found : s.net.reqs.find? (·.id == r.id) = some r) (due : s.reqReady r = true)
  (ready : s.isReady .net 0 = true) (placed : r.iss.place r.a 64 (rR + rE) 64 = .ok (ty, l)) (taken : s1 = (s.tookNet r.id).devFill l 64)
include found due ready placed taken

theorem exec_netAccept_unread (lost : s1.netRecord r = none) : exec (.netAccept r.id) s = .next (s1.status r.iss r.id (badRec 0)) := by
  subst taken
  unfold State.tookNet at lost ⊢
  simp only [exec_netAccept, execNetAccept, found, due, ready, placed, lost, Bool.true_or, Bool.not_true, Bool.false_eq_true, if_false]

variable {ws : List Word} (read : s1.netRecord r = some ws) (good : lowestBad (netChecks s1 r.iss r.kind fun i => ws.getD i 0) = none)
include read good

/-- A record that is read and good leaves the peer, the room and the port to decide. -/
theorem exec_netAccept_read {e : Peer} (named : e = s1.peer (wrPeer fun i => ws.getD i 0)) : exec (.netAccept r.id) s = .next (
      if !e.valid || e.state == 2 || e.vol != r.iss.vol then s1.status r.iss r.id 4
      else if e.depth ≤ (s1.wrsTo r.iss.vol (wrPeer fun i => ws.getD i 0)).length || 65536 ≤ s1.netUsed then s1.status r.iss r.id 1
      else if s1.isFenced .net 0 || s1.isFenced .port e.port then s1.status r.iss r.id 3
      else if !s.isReady .port e.port then s
      else s1.takeWr r ws) := by
  subst taken named
  unfold State.tookNet at read good ⊢
  simp only [exec_netAccept, execNetAccept, found, due, ready, placed, read, good, Bool.true_or, Bool.not_true, Bool.false_eq_true, if_false,
    apply_ite Host.Outcome.next]

theorem exec_netAccept_noPeer (none : (s1.peer (wrPeer fun i => ws.getD i 0)).valid = false ∨ (s1.peer (wrPeer fun i => ws.getD i 0)).state = 2) :
    exec (.netAccept r.id) s = .next (s1.status r.iss r.id 4) := by
  have refused : (!(s1.peer (wrPeer fun i => ws.getD i 0)).valid || (s1.peer (wrPeer fun i => ws.getD i 0)).state == 2) = true := by
    rcases none with invalid | failed
    · simp only [invalid, Bool.not_false, Bool.true_or]
    · simp only [failed, beq_self_eq_true, Bool.or_true]
  rw [exec_netAccept_read found due ready placed taken read good rfl, refused, Bool.true_or, if_pos rfl]

theorem exec_netAccept_takes {e : Peer} (named : e = s1.peer (wrPeer fun i => ws.getD i 0)) (valid : e.valid = true) (works : e.state ≠ 2)
    (own : e.vol = r.iss.vol) (depth : (s1.wrsTo r.iss.vol (wrPeer fun i => ws.getD i 0)).length < e.depth) (room : s1.netUsed < 65536)
    (engine : s1.isFenced .net 0 = false) (port : s1.isFenced .port e.port = false) (open_ : s.isReady .port e.port = true) :
    exec (.netAccept r.id) s = .next (s1.takeWr r ws) := by
  have peered : (!e.valid || e.state == 2 || e.vol != r.iss.vol) = false := by
    rw [valid, own, beq_eq_false_iff_ne.2 works, bne_self_eq_false]
    rfl
  have roomy : (decide (e.depth ≤ (s1.wrsTo r.iss.vol (wrPeer fun i => ws.getD i 0)).length) || decide (65536 ≤ s1.netUsed)) = false := by
    rw [decide_eq_false (Nat.not_le.2 depth), decide_eq_false (Nat.not_le.2 room)]
    rfl
  rw [exec_netAccept_read found due ready placed taken read good named]
  simp only [peered, roomy, engine, port, open_, Bool.or_self, Bool.not_true, Bool.false_eq_true, if_false]

end

/-! ## Packets (R386, R387, R425) -/

theorem exec_packetReceive (p : Packet) (s : State) : exec (.packetReceive p) s = execPacketReceive p s := rfl

/-- A packet of no kind is counted at its port. -/
theorem exec_packetReceive_other {s : State} {p : Packet} (ready : s.isReady .net 0 = true) (sound : s.isFenced .net 0 = false)
    (open_ : s.isReady .port p.port = true) (port : s.isFenced .port p.port = false) (kind : p.kind = .other) :
    exec (.packetReceive p) s = .next { s with net := { s.net with stats := addTo s.net.stats p.port 1 } } := by
  simp only [exec_packetReceive, execPacketReceive, ready, sound, open_, port, kind, Bool.not_true, Bool.or_self, Bool.false_eq_true, if_false]

section
variable {s : State} {p : Packet} (takes : takesPacket s p)
include takes

theorem exec_packetReceive_send {vol n i len : Nat} {bs : List Byte} (kind : p.kind = .send vol n i len bs) :
    exec (.packetReceive p) s = .next (s.sendArrives p vol n i len bs) := by
  obtain ⟨ready, sound, open_, port, valid⟩ := takes
  simp only [exec_packetReceive, execPacketReceive, ready, sound, open_, port, kind, valid, Bool.not_true, Bool.or_self, Bool.false_eq_true,
    if_false]

theorem exec_packetReceive_write {wr i off : Nat} {key : BitVec 32} {bs : List Byte} (kind : p.kind = .write wr i key off bs) :
    exec (.packetReceive p) s = .next (s.writeArrives p wr i key off bs) := by
  obtain ⟨ready, sound, open_, port, valid⟩ := takes
  simp only [exec_packetReceive, execPacketReceive, ready, sound, open_, port, kind, valid, Bool.not_true, Bool.or_self, Bool.false_eq_true,
    if_false]

theorem exec_packetReceive_readReq {wr i off n : Nat} {key : BitVec 32} (kind : p.kind = .readReq wr i key off n) :
    exec (.packetReceive p) s = .next (s.readArrives p wr i key off n) := by
  obtain ⟨ready, sound, open_, port, valid⟩ := takes
  simp only [exec_packetReceive, execPacketReceive, ready, sound, open_, port, kind, valid, Bool.not_true, Bool.or_self, Bool.false_eq_true,
    if_false]

theorem exec_packetReceive_readData {wr i : Nat} {bs : List Byte} (kind : p.kind = .readData wr i bs) :
    exec (.packetReceive p) s = .next (s.dataArrives p.peer wr i bs) := by
  obtain ⟨ready, sound, open_, port, valid⟩ := takes
  simp only [exec_packetReceive, execPacketReceive, ready, sound, open_, port, kind, valid, Bool.not_true, Bool.or_self, Bool.false_eq_true,
    if_false]

end

section
variable {s : State} {p : Packet} {wr i off : Nat} {key : BitVec 32} {bs : List Byte}

theorem State.writeArrives_again (again : (p.peer, wr, i) ∈ s.net.donePk) :
    s.writeArrives p wr i key off bs = s.sendOut (.ack p.peer (.request wr) i) := by
  rw [State.writeArrives, if_pos (List.contains_iff_mem.2 again)]

variable (fresh : (p.peer, wr, i) ∉ s.net.donePk)
include fresh

theorem State.writeArrives_refused (unkeyed : s.keyCheck p.peer key off bs.length true = none) :
    s.writeArrives p wr i key off bs = s.sendOut (.refuse p.peer (.request wr) i) := by
  rw [State.writeArrives, if_neg (mt List.contains_iff_mem.1 fresh)]
  simp only [unkeyed]

theorem State.writeArrives_placed {l : Loc} {s1 : State} (keyed : s.keyCheck p.peer key off bs.length true = some l)
    (written : s.netWrite l bs = .ok s1) : s.writeArrives p wr i key off bs =
      State.sendOut { s1 with net := { s1.net with donePk := s1.net.donePk ++ [(p.peer, wr, i)] } } (.ack p.peer (.request wr) i) := by
  rw [State.writeArrives, if_neg (mt List.contains_iff_mem.1 fresh)]
  simp only [keyed, written]

end

theorem State.readArrives_read {s : State} {p : Packet} {wr i off n : Nat} {key : BitVec 32} {l : Loc} {bs : List Byte}
    (keyed : s.keyCheck p.peer key off n false = some l) (read : s.netRead l n = .ok bs) : s.readArrives p wr i key off n =
      (s.devFill l n).sendOut (.packet p.peer ((s.devFill l n).peer p.peer).port wr i (.readData wr i bs)) := by
  simp only [State.readArrives, keyed, Option.map_some, read, Except.map]
  rfl

section
variable {s : State} {peer wr i : Nat} {bs : List Byte}

theorem State.dataArrives_again (again : (peer, wr, i) ∈ s.net.doneRd) :
    s.dataArrives peer wr i bs = s.sendOut (.ack peer (.reply wr) i) := by
  rw [State.dataArrives, if_pos (List.contains_iff_mem.2 again)]

variable (fresh : (peer, wr, i) ∉ s.net.doneRd)
include fresh

theorem State.dataArrives_taken {s1 : State} (taken : s.dataTaken peer wr i bs = some s1) : s.dataArrives peer wr i bs =
    State.sendOut { s1 with net := { s1.net with doneRd := s1.net.doneRd ++ [(peer, wr, i)] } } (.ack peer (.reply wr) i) := by
  rw [State.dataArrives, if_neg (mt List.contains_iff_mem.1 fresh), taken]

theorem State.dataArrives_strange (strange : s.dataTaken peer wr i bs = none) : s.dataArrives peer wr i bs = s := by
  rw [State.dataArrives, if_neg (mt List.contains_iff_mem.1 fresh), strange]

end

/-- The data of an outstanding read is placed at its offset. -/
theorem State.dataTaken_read {s s1 : State} {w : WorkReq} {i : Nat} {bs : List Byte}
    (reads : s.net.wrs.find? (fun x => x.id == w.id && x.peer == w.peer && x.kind == .nread && x.started) = some w) (within : i < w.packets)
    (fresh : i ∉ w.got) (whole : bs.length = w.size i) (written : s.netWrite (w.iss.at_ (w.dw 1) (i * w.pk)) bs = .ok s1) :
    s.dataTaken w.peer w.id i bs = some (s1.placedWr w i bs.length w.bytes) := by
  have owed : (decide (w.packets ≤ i) || w.got.contains i || bs.length != w.size i) = false := by
    rw [decide_eq_false (Nat.not_le.2 within), Bool.eq_false_iff.2 (mt List.contains_iff_mem.1 fresh), whole, bne_self_eq_false]
    rfl
  simp only [State.dataTaken, reads, owed, Bool.false_eq_true, if_false, written]

/-! ## The packets of a send (R386) -/

section
variable {s : State} {p : Packet} {vol n i len : Nat} {bs : List Byte}

theorem State.sendArrives_again
    (again : s.net.gotPk.contains ((s.peer p.peer).vol, p.peer, n, i) = true ∨ s.net.doneMsg.contains ((s.peer p.peer).vol, p.peer, n) = true) :
    s.sendArrives p vol n i len bs = s.sendOut (.ack p.peer (.message vol n) i) := by
  rw [State.sendArrives, if_pos (Bool.or_eq_true_iff.2 again)]

variable {e : Peer} {w : WorkReq} {v : Volume} (entry : e = s.peer p.peer) (fresh : s.net.gotPk.contains (e.vol, p.peer, n, i) = false)
  (undone : s.net.doneMsg.contains (e.vol, p.peer, n) = false) (volume : s.volume e.vol = some v)
  (receives : s.net.wrs.find? (fun w => w.kind == .nrecv && w.iss.vol == e.vol && w.peer == p.peer && w.msg == n) = some w)
  (unplaced : i ∉ w.got) (started : w.started = true)
include entry fresh undone volume receives unplaced started

theorem State.sendArrives_discarded (beyond : w.bytes ≤ i * w.pk ∨ bs = []) : s.sendArrives p vol n i len bs =
    State.placedWr { s.sendOut (.ack p.peer (.message vol n) i) with net := { (s.sendOut (.ack p.peer (.message vol n) i)).net with
      gotPk := (s.sendOut (.ack p.peer (.message vol n) i)).net.gotPk ++ [(e.vol, p.peer, n, i)] } } w i 0 len := by
  subst entry
  have nothing : (bs.take (w.bytes - i * w.pk)).isEmpty = true := by
    rcases beyond with past | none
    · rw [Nat.sub_eq_zero_of_le past, List.take_zero]; rfl
    · rw [none, List.take_nil]; rfl
  simp only [State.sendArrives, fresh, undone, volume, receives, Bool.eq_false_iff.2 (mt List.contains_iff_mem.1 unplaced), started, nothing,
    Bool.or_self, Option.isNone_some, Bool.not_true, Bool.false_eq_true, if_false, if_true]

theorem State.sendArrives_placed {s1 : State} (within : i * w.pk < w.bytes) (some_ : bs ≠ [])
    (written : s.netWrite (w.iss.at_ (w.dw 1) (i * w.pk)) (bs.take (w.bytes - i * w.pk)) = .ok s1) : s.sendArrives p vol n i len bs =
    State.placedWr { s1.sendOut (.ack p.peer (.message vol n) i) with net := { (s1.sendOut (.ack p.peer (.message vol n) i)).net with
      gotPk := (s1.sendOut (.ack p.peer (.message vol n) i)).net.gotPk ++ [(e.vol, p.peer, n, i)] } } w i
        (bs.take (w.bytes - i * w.pk)).length len := by
  subst entry
  have fits : (bs.take (w.bytes - i * w.pk)).isEmpty = false := by
    rw [List.isEmpty_eq_false_iff, ne_eq, List.take_eq_nil_iff]
    exact fun none => none.elim (Nat.sub_pos_of_lt within).ne' some_
  simp only [State.sendArrives, fresh, undone, volume, receives, Bool.eq_false_iff.2 (mt List.contains_iff_mem.1 unplaced), started, fits, written,
    Bool.or_self, Option.isNone_some, Bool.not_true, Bool.false_eq_true, if_false]

end

/-! ## The end of a receive (R388) -/

section
variable {s s1 : State} {w : WorkReq} (kind : w.kind = .nrecv) (released : s.wrRelease w = (s1, none))
include kind released

theorem State.doneWr_truncated (short : w.bytes < w.len.getD 0) : s.doneWr w =
    (State.netErrata { s1 with net := { s1.net with doneMsg := s1.net.doneMsg ++ [(w.iss.vol, w.peer, w.msg)] } } w 0x83
      (w.bytes / w.pk * w.pk) 0).dropWr w 3 w.placed := by
  simp only [State.doneWr, kind, ReqKind.outward, released, decide_eq_true short, beq_self_eq_true, Bool.and_self, Bool.false_eq_true, if_false,
    if_true]

theorem State.doneWr_whole (fits : w.len.getD 0 ≤ w.bytes) : s.doneWr w =
    State.dropWr { s1 with net := { s1.net with doneMsg := s1.net.doneMsg ++ [(w.iss.vol, w.peer, w.msg)] } } w 0 w.placed := by
  simp only [State.doneWr, kind, ReqKind.outward, released, decide_eq_false (Nat.not_lt.2 fits), beq_self_eq_true, Bool.and_false,
    Bool.false_eq_true, if_false, if_true]

end

/-! ## Acknowledgements, refusals and time (R388 to R390) -/

theorem exec_ackReceive (peer : Nat) (name : PacketName) (packets : List Nat) (s : State) :
    exec (.ackReceive peer name packets) s = execAckReceive peer name packets s := rfl

theorem exec_remotekeyRefusal (refused : Refused) (packet : Nat) (s : State) :
    exec (.remotekeyRefusal refused packet) s = execRemotekeyRefusal refused packet s := rfl

theorem exec_retransmitTimeout (wr packet : Nat) (s : State) : exec (.retransmitTimeout wr packet) s = execRetransmitTimeout wr packet s := rfl

/-- An acknowledged packet counts once, and with the last the request is done. -/
theorem exec_ackReceive_counts {s : State} {w : WorkReq} {i : Nat}
    (sends : s.net.wrs.find? (fun x => x.id == w.id && x.peer == w.peer && x.started && x.kind.outward) = some w) (within : i < w.packets)
    (fresh : i ∉ w.got) : exec (.ackReceive w.peer (.request w.id) [i]) s = .next (
      if w.got.length + 1 = w.packets then
        (s.putWr { w with got := w.got ++ [i], placed := w.placed + w.size i }).doneWr { w with got := w.got ++ [i], placed := w.placed + w.size i }
      else s.putWr { w with got := w.got ++ [i], placed := w.placed + w.size i }) := by
  have new : ([i].filter fun i => decide (i < w.packets) && !w.got.contains i).eraseDups = [i] := by
    rw [List.filter_singleton, decide_eq_true within, Bool.eq_false_iff.2 (mt List.contains_iff_mem.1 fresh)]
    rfl
  simp only [exec_ackReceive, execAckReceive, State.named, sends, new, List.map_cons, List.map_nil, List.foldl_cons, List.foldl_nil, Nat.zero_add,
    List.length_append, List.length_singleton, beq_iff_eq]
  rfl

section
variable {s : State} {w : WorkReq} {i : Nat}
  (outstanding : s.net.wrs.find? (fun x => x.id == w.id && x.started && x.kind != .nrecv) = some w)
include outstanding

/-- A packet of an outstanding request that is given up fails it, or loses its peer. -/
theorem State.packetFails_outstanding (within : i < w.packets) (fresh : i ∉ w.got) (lost : Bool) :
    s.packetFails w.id i lost = if lost then s.peerLost w (i * w.pk) else s.failWr w 0x82 (i * w.pk) 0 := by
  have open_ : (decide (w.packets ≤ i) || w.got.contains i) = false := by
    rw [decide_eq_false (Nat.not_le.2 within), Bool.eq_false_iff.2 (mt List.contains_iff_mem.1 fresh)]
    rfl
  simp only [State.packetFails, outstanding, open_, Bool.false_eq_true, if_false]

theorem exec_remotekeyRefusal_fails (sentTo : s.packetPeer w.id i = some w.peer) (within : i < w.packets) (fresh : i ∉ w.got) :
    exec (.remotekeyRefusal ⟨w.peer, .request w.id⟩ i) s = .next (s.failWr w 0x82 (i * w.pk) 0) := by
  simp only [exec_remotekeyRefusal, execRemotekeyRefusal, State.named, sentTo, beq_self_eq_true, if_true,
    State.packetFails_outstanding outstanding within fresh, Bool.false_eq_true, if_false]

theorem exec_retransmitTimeout_lost {n : Nat} (tried : s.triesOf w.id i = some n) (most : 64 ≤ n) :
    exec (.retransmitTimeout w.id i) s = .next (s.peerLost w (i * w.pk)) := by
  have open_ : ¬(decide (w.packets ≤ i) || w.got.contains i) = true := by
    intro closed
    simp only [State.triesOf, outstanding, closed, if_true] at tried
    cases tried
  obtain ⟨within, fresh⟩ := not_or.1 (mt Bool.or_eq_true_iff.2 open_)
  have fails := State.packetFails_outstanding outstanding (Nat.not_le.1 (mt decide_eq_true within)) (mt List.contains_iff_mem.2 fresh) true
  simp only [exec_retransmitTimeout, execRetransmitTimeout, tried, if_pos most, fails, if_true]

end

theorem exec_retransmitTimeout_again {s : State} {wr i n : Nat} {o : OutMsg} (tried : s.triesOf wr i = some n) (more : n < 64)
    (sent : s.sentPacket wr i = some o) : exec (.retransmitTimeout wr i) s = .next ((s.addTry wr i).sendOut o) := by
  simp only [exec_retransmitTimeout, execRetransmitTimeout, tried, if_neg (Nat.not_le.2 more), sent]

/-- A send's packets are named by its message number. -/
theorem State.named_message {s : State} {w : WorkReq} {vol n : Nat}
    (sends : s.net.wrs.find? (fun x => x.kind == .nsend && x.iss.vol == vol && x.peer == w.peer && x.msg == n) = some w) :
    s.named w.peer (.message vol n) = s.named w.peer (.request w.id) := by
  simp only [State.named, sends, Option.map_some]

/-- Settles O43: requests by the checks of their answer, packets by their kind and what it has left, outstanding ones by their fate. -/
theorem networkRequests : Obligations.NetworkRequests := by
  unfold Obligations.NetworkRequests
  refine ⟨?unread, ?noPeer, ?takes, ?send, ?written, ?writtenBefore, ?unkeyed, ?read, ?acked, ?ackedLast, ?refused, ?again, ?lost, ?named,
    ?dataBefore, ?dataTaken, ?dataPlaced, ?dataStrange, ?other, ?discarded, ?placed, ?sentBefore, ?truncated, ?whole⟩
  case unread => exact fun s r ty l found due ready placed lost => exec_netAccept_unread found due ready placed rfl lost
  case noPeer =>
    exact fun s s1 r ws ty l found due ready placed taken read good none => exec_netAccept_noPeer found due ready placed taken read good none
  case takes =>
    exact fun s s1 r ws ty l e found due ready placed taken read good named valid works own depth room engine port open_ =>
      exec_netAccept_takes found due ready placed taken read good named valid works own depth room engine port open_
  case send => exact fun s p vol n i len bs takes kind => exec_packetReceive_send takes kind
  case written =>
    intro s p wr i key off bs l s1 takes kind fresh keyed written
    rw [exec_packetReceive_write takes kind, State.writeArrives_placed fresh keyed written]
  case writtenBefore =>
    intro s p wr i key off bs takes kind again
    rw [exec_packetReceive_write takes kind, State.writeArrives_again again]
  case unkeyed =>
    intro s p wr i key off bs takes kind fresh unkeyed
    rw [exec_packetReceive_write takes kind, State.writeArrives_refused fresh unkeyed]
  case read =>
    intro s p wr i key off n l bs takes kind keyed read
    rw [exec_packetReceive_readReq takes kind, State.readArrives_read keyed read]
  case acked =>
    intro s w i sends within fresh more
    rw [exec_ackReceive_counts sends within fresh, if_neg more.ne]
  case ackedLast =>
    intro s w i sends within fresh last
    rw [exec_ackReceive_counts sends within fresh, if_pos last]
  case refused => exact fun s w i outstanding sentTo within fresh => exec_remotekeyRefusal_fails outstanding sentTo within fresh
  case again => exact fun s wr i n o tried more sent => exec_retransmitTimeout_again tried more sent
  case lost => exact fun s w i n outstanding tried most => exec_retransmitTimeout_lost outstanding tried most
  case named =>
    intro s w i vol n sends
    have same := State.named_message sends
    exact ⟨by simp only [exec_ackReceive, execAckReceive, same], by simp only [exec_remotekeyRefusal, execRemotekeyRefusal, same]⟩
  case dataBefore =>
    intro s p wr i bs takes kind again
    rw [exec_packetReceive_readData takes kind, State.dataArrives_again again]
  case dataTaken =>
    intro s p wr i bs s1 takes kind fresh taken
    rw [exec_packetReceive_readData takes kind, State.dataArrives_taken fresh taken]
  case dataPlaced => exact fun s s1 w i bs reads within fresh whole written => State.dataTaken_read reads within fresh whole written
  case dataStrange =>
    intro s p wr i bs takes kind fresh strange
    rw [exec_packetReceive_readData takes kind, State.dataArrives_strange fresh strange]
  case other => exact fun s p ready sound open_ port kind => exec_packetReceive_other ready sound open_ port kind
  case discarded =>
    exact fun s p e vol n i len bs w v entry fresh undone volume receives unplaced started beyond =>
      State.sendArrives_discarded entry fresh undone volume receives unplaced started beyond
  case placed =>
    exact fun s s1 p e vol n i len bs w v entry fresh undone volume receives unplaced started within some_ written =>
      State.sendArrives_placed entry fresh undone volume receives unplaced started within some_ written
  case sentBefore => exact fun s p vol n i len bs again => State.sendArrives_again again
  case truncated => exact fun s s1 w kind released short => State.doneWr_truncated kind released short
  case whole => exact fun s s1 w kind released fits => State.doneWr_whole kind released fits

end Sys2Proof.Machine
end

section
/-! Host commands (R394, R249): an `unmap` whose entries would give W to a page of a code arena is refused (R328), though each entry may be
written, so the statement, which does not exclude it, fails. -/

namespace Sys2Proof.Machine

open Sys2Proof

/-- A module that has passed its self-test, with one address space: its root table at 0 is empty, and its code arena is the page at VA 0. -/
def arenaState : State :=
  { State.reset with
    root := { State.reset.root with st := .passed },
    circ := { State.reset.circ with spaces := [{ id := 1, root := some 0, arena := some (0, 4096) }] } }

/-- A call for volume 1 over the management port. -/
def arenaCall : Call := { command := 0, cid := 0, vol := 1, args := 0, session := 0, mgmt := true, port := 0, argsOk := true }

/-- Entries that lie in no arena: the root's first names the table at 4096, whose first is a leaf with W. -/
def openingEntries : List TableWrite :=
  [{ pa := 0, entry := 0x8000000000001000 }, { pa := 4096, entry := 0xC400000040000000 }]

/-- The call is heard. -/
theorem arenaState_hears : arenaState.hears arenaCall := by
  unfold State.hears
  decide +kernel

/-- Each entry may be written. -/
theorem openingEntries_ok : openingEntries.all (arenaState.heard arenaCall).entryOk = true := by decide +kernel

/-- Once they are written, the arena's page carries W (R328). -/
theorem openingEntries_open : (arenaState.heard arenaCall).arenaKept ((arenaState.heard arenaCall).writeEntries openingEntries) = false := by
  decide +kernel

/-- So the call is refused. -/
theorem exec_unmap_refused : exec (.unmap arenaCall openingEntries 0 0) arenaState = .next ((arenaState.heard arenaCall).reply arenaCall 2) := by
  have arm (s : State) : exec (.unmap arenaCall openingEntries 0 0) s = execUnmap arenaCall openingEntries 0 0 s := rfl
  simp only [arm, execUnmap, call_hears arenaState_hears, openingEntries_open, Bool.and_false, Bool.not_false, if_true]

/-- Refutes O46: an `unmap` whose entries would open the arena for writes is answered BADARG and starts no invalidation. -/
theorem not_hostCommands : ¬ Obligations.HostCommands := by
  unfold Obligations.HostCommands
  rintro ⟨-, -, -, -, unmapped, -⟩
  obtain ⟨t, x, step, -, sent, -⟩ :=
    unmapped arenaState arenaCall openingEntries 0 0 arenaState_hears (by decide) openingEntries_ok (by decide)
  rw [exec_unmap_refused] at step
  injection step with same
  rw [← same] at sent
  exact List.cons_ne_nil x [] sent.symm

end Sys2Proof.Machine
end

section
/-! Power-on, self-tests and reports (R415 to R419, R422): how the self-test ends, what a report's images decide, in which order they are
measured, and the statement. -/

namespace Sys2Proof.Machine

open Sys2Proof

/-! ## The root of trust's self-test (R415, R418) -/

theorem exec_rootSelfTestEnd (pass : Bool) (diag : BitVec 32) (s : State) :
    exec (.rootSelfTestEnd pass diag) s = execRootSelfTestEnd pass diag s := rfl

theorem State.releaseCalls_root (s : State) (which : Call → Bool) : (s.releaseCalls which).root =
    { s.root with waiting := s.root.waiting.filter fun i => !(callOf i).any which } := by
  unfold State.releaseCalls
  rw [State.foldl_push_eq]

theorem State.releaseCalls_mem (s : State) (which : Call → Bool) : (s.releaseCalls which).mem = s.mem := by
  unfold State.releaseCalls
  rw [State.foldl_push_eq]

/-- The first self-test passes: register 0 is extended by the root's verified image. -/
theorem exec_rootSelfTestEnd_passed {s : State} (diag : BitVec 32) (testing : s.root.st = .testing)
    (verified : verifyImage Config.rootImage Config.rootSig = true) : ∃ t, exec (.rootSelfTestEnd true diag) s = .next t ∧ t.mem = s.mem ∧
      t.root.st = .passed ∧ t.root.log = s.root.log ++ [reportWord rootFunc 0 0] ∧ t.root.ready = [rootFunc] ∧
      t.root.m = setAt s.root.m 0 (sha3 (s.root.m.getD 0 [] ++ sha3 Config.rootImage)) := by
  simp only [exec_rootSelfTestEnd, execRootSelfTestEnd, testing, verified, Bool.and_self, if_true]
  refine ⟨_, rfl, State.releaseCalls_mem .., ?_⟩
  rw [State.releaseCalls_root]
  exact ⟨rfl, rfl, rfl, rfl⟩

/-- A self-test that passes over an image that does not verify ends in the safe state (assumption 71). -/
theorem exec_rootSelfTestEnd_unverified {s : State} (diag : BitVec 32) (testing : s.root.st = .testing)
    (unverified : verifyImage Config.rootImage Config.rootSig = false) : ∃ t, exec (.rootSelfTestEnd true diag) s = .next t ∧ t.mem = s.mem ∧
      t.root.st = .safe ∧ t.root.log = s.root.log ++ [reportWord rootFunc 1 2] ∧ t.root.ready = [] ∧ t.root.m = s.root.m := by
  simp only [exec_rootSelfTestEnd, execRootSelfTestEnd, testing, unverified, Bool.and_false, Bool.false_eq_true, if_false, if_true]
  refine ⟨_, rfl, State.releaseCalls_mem .., ?_⟩
  rw [State.releaseCalls_root]
  exact ⟨rfl, rfl, rfl, rfl⟩

theorem exec_rootSelfTestEnd_failed {s : State} (diag : BitVec 32) (testing : s.root.st = .testing) :
    ∃ t, exec (.rootSelfTestEnd false diag) s = .next t ∧ t.root.st = .safe ∧
      t.root.log = s.root.log ++ [reportWord rootFunc 2 diag.toNat] ∧ t.root.m = s.root.m ∧ t.root.ready = [] := by
  simp only [exec_rootSelfTestEnd, execRootSelfTestEnd, testing, Bool.false_and, Bool.false_eq_true, if_false]
  refine ⟨_, rfl, ?_⟩
  rw [State.releaseCalls_root]
  exact ⟨rfl, rfl, rfl, rfl⟩

/-- A repeat in the safe state is reported, and answers the call that asked for it. -/
theorem exec_rootSelfTestEnd_again {s : State} {c : Call} (diag : BitVec 32) (safe : s.root.st = .safe) (asked : s.root.again = [c]) :
    exec (.rootSelfTestEnd true diag) s = .next (State.replyLate (State.report { s with root := { s.root with
      again := [], tests := s.root.tests ++ [reportWord rootFunc 0 0] } } rootFunc 0 0) c 0) := by
  simp only [exec_rootSelfTestEnd, execRootSelfTestEnd, safe, asked, List.isEmpty_cons, Bool.false_eq_true, if_false, if_true,
    List.foldl_cons, List.foldl_nil]

/-! ## Reports (R415, R416, R419) -/

theorem exec_functionReport (f : Func) (ready : Bool) (diag : BitVec 32) (imgs : List (Nat × List Byte × List Byte)) (s : State) :
    exec (.functionReport f ready diag imgs) s = execFunctionReport f ready diag imgs s := rfl

theorem exec_functionReport_barred {s : State} {f : Func} (ready : Bool) (diag : BitVec 32) (imgs : List (Nat × List Byte × List Byte))
    (barred : s.mayReport f = false) : exec (.functionReport f ready diag imgs) s = .next s := by
  simp only [exec_functionReport, execFunctionReport, barred, Bool.not_false, Bool.true_or, if_true]

/-- A report whose images are not the first of its function, in their order, changes nothing. -/
theorem exec_functionReport_disordered {s : State} {f : Func} {imgs : List (Nat × List Byte × List Byte)} (ready : Bool) (diag : BitVec 32)
    (order : ¬(imgs.map (·.1)).isPrefixOf (imageRegs f.kind) = true) : exec (.functionReport f ready diag imgs) s = .next s := by
  simp only [exec_functionReport, execFunctionReport, Bool.eq_false_iff.2 order, Bool.not_false, Bool.or_true, if_true]

section
variable {s : State} {f : Func} {imgs : List (Nat × List Byte × List Byte)} (ready : Bool) (diag : BitVec 32) (may : s.mayReport f = true)
  (order : (imgs.map (·.1)).isPrefixOf (imageRegs f.kind) = true)
include may order

theorem exec_functionReport_withCluster (falls : s.failsWithCluster f = true) :
    exec (.functionReport f ready diag imgs) s = .next (s.failed f 1) := by
  simp only [exec_functionReport, execFunctionReport, may, order, falls, Bool.not_true, Bool.or_self, Bool.false_eq_true, if_false, if_true]

variable (stands : s.failsWithCluster f = false)
include stands

/-- A function that an error has fenced loads nothing (assumption 98). -/
theorem exec_functionReport_fenced (fenced : f ∈ s.root.fenced) :
    exec (.functionReport f ready diag imgs) s = .next (s.failed f diag.toNat) := by
  simp only [exec_functionReport, execFunctionReport, may, order, stands, List.contains_iff_mem.2 fenced, Bool.not_true, Bool.or_self,
    Bool.false_eq_true, if_false, if_true]

variable (sound : f ∉ s.root.fenced)
include sound

/-- The first image that does not verify fails its function. -/
theorem exec_functionReport_unverified {s1 : State} (loaded : s.loadImages f.kind imgs = (s1, false)) :
    exec (.functionReport f ready diag imgs) s = .next (s1.failed f 2) := by
  simp only [exec_functionReport, execFunctionReport, may, order, stands, Bool.eq_false_iff.2 (mt List.contains_iff_mem.1 sound), loaded,
    Bool.not_true, Bool.or_self, Bool.false_eq_true, if_false]

/-- With its images measured a function is ready, its supervisor program installed, if it reports READY and they are all of its own. -/
theorem exec_functionReport_loaded {s1 : State} (loaded : s.loadImages f.kind imgs = (s1, true)) :
    exec (.functionReport f ready diag imgs) s = .next (
      if ready then
        if imgs.map (·.1) = imageRegs f.kind then
          (State.report (if f.kind == .curator then
            ((imgs.filter fun x => x.1 == 2).map (·.2.1)).foldl (fun (s : State) b => s.installSup f.index b) s1 else s1) f 0 0).ready f
        else s
      else s1.failed f diag.toNat) := by
  simp only [exec_functionReport, execFunctionReport, may, order, stands, Bool.eq_false_iff.2 (mt List.contains_iff_mem.1 sound), loaded,
    Bool.not_true, Bool.or_self, Bool.false_eq_true, if_false, bne_iff_ne, ne_eq, ite_not]
  cases ready <;> simp [apply_ite Host.Outcome.next]

omit order in
/-- A function that reports READY with all images of its own is ready. -/
theorem exec_functionReport_whole {s1 : State} (loaded : s.loadImages f.kind imgs = (s1, true)) (whole : imgs.map (·.1) = imageRegs f.kind) :
    exec (.functionReport f true diag imgs) s = .next ((State.report (if f.kind == .curator then
      ((imgs.filter fun x => x.1 == 2).map (·.2.1)).foldl (fun (s : State) b => s.installSup f.index b) s1 else s1) f 0 0).ready f) := by
  have order : (imgs.map (·.1)).isPrefixOf (imageRegs f.kind) = true := by
    rw [whole, List.isPrefixOf_iff_prefix]
  rw [exec_functionReport_loaded true diag may order stands sound loaded, if_pos rfl, if_pos whole]

end

/-! ## Images (R419) -/

theorem State.loadImages_cons (s : State) (kind : FuncKind) (r : Nat) (image sig : List Byte) (rest : List (Nat × List Byte × List Byte)) :
    s.loadImages kind ((r, image, sig) :: rest) =
      if verifyImage image sig then (s.measure kind r (sha3 image)).loadImages kind rest else (s, false) := by
  rw [State.loadImages]
  cases verifyImage image sig <;> rfl

section
variable {s : State} {f : Func} (diag : BitVec 32) (may : s.mayReport f = true) (stands : s.failsWithCluster f = false)
  (sound : f ∉ s.root.fenced)
include may stands sound

/-- A function without images is ready as it reports READY. -/
theorem exec_functionReport_imageless (none : imageRegs f.kind = []) :
    exec (.functionReport f true diag []) s = .next ((s.report f 0 0).ready f) := by
  rw [exec_functionReport_whole (imgs := []) diag may stands sound rfl none.symm]
  split <;> rfl

/-- An engine is ready once its microcode has verified and been measured. -/
theorem exec_functionReport_engine {s1 : State} {a x : List Byte} (micro : imageRegs f.kind = [3])
    (measured : s1 = s.measure f.kind 3 (sha3 a)) : exec (.functionReport f true diag [(3, a, x)]) s = .next (
      if verifyImage a x = true then (s1.report f 0 0).ready f else s.failed f 2) := by
  have engine : (f.kind == .curator) = false := by
    cases kind : f.kind with
    | curator => rw [kind] at micro; cases micro
    | _ => rfl
  cases verified : verifyImage a x with
  | true =>
    have loaded : s.loadImages f.kind [(3, a, x)] = (s1, true) := by rw [State.loadImages_cons, if_pos verified, measured]; rfl
    rw [exec_functionReport_whole diag may stands sound loaded micro.symm, engine]
    rfl
  | false =>
    have order : ([(3, a, x)].map (·.1)).isPrefixOf (imageRegs f.kind) = true := by rw [micro]; rfl
    have loaded : s.loadImages f.kind [(3, a, x)] = (s, false) := by rw [State.loadImages_cons, verified]; rfl
    rw [exec_functionReport_unverified true diag may order stands sound loaded]
    rfl

/-- A report that does not name all images of its function, none of which failed, changes nothing. -/
theorem exec_functionReport_short {imgs : List (Nat × List Byte × List Byte)} (short : imgs.map (·.1) ≠ imageRegs f.kind)
    (order : (imgs.map (·.1)).isPrefixOf (imageRegs f.kind) = true) (sane : ∀ s1, s.loadImages f.kind imgs ≠ (s1, false)) :
    exec (.functionReport f true diag imgs) s = .next s := by
  cases loaded : s.loadImages f.kind imgs with
  | mk s1 all =>
    cases all with
    | false => exact absurd loaded (sane s1)
    | true => rw [exec_functionReport_loaded true diag may order stands sound loaded, if_pos rfl, if_neg short]

end

/-- Of a curator's two images each is measured once it has verified, and the supervisor program is installed; the first that does not
verify fails the curator. -/
theorem exec_functionReport_curator {s s1 s2 : State} {k : Nat} {a x b y : List Byte} (diag : BitVec 32)
    (may : s.mayReport { kind := .curator, index := k } = true) (sound : { kind := .curator, index := k } ∉ s.root.fenced)
    (firmware : s1 = s.measure .curator 1 (sha3 a)) (program : s2 = (s1.measure .curator 2 (sha3 b)).installSup k b) :
    exec (.functionReport { kind := .curator, index := k } true diag [(1, a, x), (2, b, y)]) s = .next (
      if verifyImage a x = true then
        if verifyImage b y = true then (s2.report { kind := .curator, index := k } 0 0).ready { kind := .curator, index := k }
        else s1.failed { kind := .curator, index := k } 2
      else s.failed { kind := .curator, index := k } 2) := by
  have order : ([(1, a, x), (2, b, y)].map (·.1)).isPrefixOf (imageRegs .curator) = true := rfl
  have load : s.loadImages .curator [(1, a, x), (2, b, y)] =
      if verifyImage a x = true then if verifyImage b y = true then (s1.measure .curator 2 (sha3 b), true) else (s1, false) else (s, false) := by
    rw [State.loadImages_cons, State.loadImages_cons, firmware]
    rfl
  cases first : verifyImage a x with
  | false =>
    rw [first, if_neg Bool.false_ne_true] at load
    rw [exec_functionReport_unverified true diag may order rfl sound load, if_neg Bool.false_ne_true]
  | true =>
    cases second : verifyImage b y with
    | false =>
      rw [first, second, if_pos rfl, if_neg Bool.false_ne_true] at load
      rw [exec_functionReport_unverified true diag may order rfl sound load, if_pos rfl, if_neg Bool.false_ne_true]
    | true =>
      rw [first, second, if_pos rfl, if_pos rfl] at load
      rw [exec_functionReport_whole diag may rfl sound load rfl, if_pos rfl, if_pos rfl, program]
      rfl

/-! ## Readiness (R416) -/

theorem State.foldl_pushNews_root (s : State) (l : List Instr) : (l.foldl State.pushNew s).root = s.root :=
  List.foldlRecOn _ _ (motive := fun t : State => t.root = s.root) rfl fun t kept i _ => (t.pushNew_root i).trans kept

@[simp] theorem State.kickReqs_root (s : State) (k : Nat) : (s.kickReqs k).root = s.root := State.foldl_pushNews_root _ _

@[simp] theorem State.opDone_root (s : State) (uid id : Nat) (v : Vec) (fl : FlagWord) (fault : Option FaultInfo) :
    (s.opDone uid id v fl fault).root = s.root := by
  unfold State.opDone
  split
  · rfl
  · split <;> rfl

@[simp] theorem State.sendFar_root (s : State) (a : FarAcc) : (s.sendFar a).1.root = s.root := by
  unfold State.sendFar
  dsimp only
  split_ifs <;> rfl

@[simp] theorem State.svcSend_root (s : State) (k : Nat) (x : SvcCall) : (s.svcSend k x).root = s.root := by
  unfold State.svcSend
  split
  · rfl
  · dsimp only
    split
    · rfl
    · split
      · exact (State.opDone_root _ _ _ _ _ _).trans (State.sendFar_root s _)
      · exact State.sendFar_root s _

/-- What waited for the network engine or a port is only tried again. -/
@[simp] theorem State.kickNet_root (s : State) : s.kickNet.root = s.root := by
  unfold State.kickNet
  dsimp only
  refine List.foldlRecOn _ _ (motive := fun t : State => t.root = s.root) ?start fun t kept c _ => ?cluster
  case start =>
    obtain ⟨k, pushed⟩ := State.foldl_pushNew_eq (fun f : Flight => .bankTransaction f.id) (s.kickReqs 0)
      (s.flights.filter fun f => !f.failed && !f.out && (f.parts.any (·.far.isSome)))
    exact (congrArg State.root pushed).trans (State.kickReqs_root s 0)
  case cluster =>
    refine List.foldlRecOn _ _ (motive := fun t : State => t.root = s.root) ((State.foldl_pushNews_root _ _).trans kept) fun t kept x _ => ?_
    rw [State.svcSend_root]
    split
    · exact (State.pushNew_root _ _).trans kept
    · exact kept

@[simp] theorem State.startSfu_root (s : State) (k : Nat) : (s.startSfu k).root = s.root := by
  unfold State.startSfu
  exact List.foldlRecOn _ _ (motive := fun t : State => t.root = s.root) rfl fun t kept e _ =>
    List.foldlRecOn _ _ (motive := fun t : State => t.root = s.root) kept fun t kept o _ => kept

/-- A function other than a core, a curator or a slice is listed ready; nothing is fenced or logged by that. -/
theorem State.ready_lists (s : State) {f : Func} (other : f.kind ≠ .core ∧ f.kind ≠ .curator ∧ f.kind ≠ .slice) :
    (s.ready f).root.ready = s.root.ready ++ [f] ∧ (s.ready f).root.fenced = s.root.fenced ∧ (s.ready f).root.log = s.root.log := by
  obtain ⟨core, curator, slice⟩ := other
  unfold State.ready
  cases kind : f.kind with
  | core => exact absurd kind core
  | curator => exact absurd kind curator
  | slice => exact absurd kind slice
  | circ => simp only [State.releaseCalls_root, State.pushNew_root, State.kickReqs_root, and_self]
  | sfu => simp only [State.startSfu_root, and_self]
  | net | port => simp only [State.kickNet_root, and_self]
  | chip =>
    have kicked (t : State) : (t.clusters.foldl (fun (s : State) c => s.kickReqs c.1) t).root = t.root :=
      List.foldlRecOn _ _ (motive := fun u : State => u.root = t.root) rfl fun u kept c _ => (u.kickReqs_root c.1).trans kept
    simp only [kicked, and_self]
  | copy | sel | annexif | red | bind => simp only [State.kickReqs_root, and_self]
  | root | cluster => simp only [and_self]

/-! ## The order of measurement (R419) -/

/-- One kind of engine in the pass over the kinds. -/
def microStep (s : State) (k : FuncKind × Nat) : State :=
  if s.root.microN != k.2 then s
  else match s.root.micro.find? (·.1 == k.2) with
    | some (_, d) => { s.extend 3 d with root := { (s.extend 3 d).root with
        microN := k.2 + 1, micro := (s.extend 3 d).root.micro.filter (·.1 != k.2) } }
    | none => if s.kindGone k.1 then { s with root := { s.root with microN := k.2 + 1 } } else s

theorem State.extendMicro_eq (s : State) : s.extendMicro = microKinds.zipIdx.foldl microStep s := rfl

/-- A kind that is not the next one is not measured. -/
theorem microStep_other {s : State} {k : FuncKind × Nat} (other : s.root.microN ≠ k.2) : microStep s k = s := by
  rw [microStep, if_pos (bne_iff_ne.2 other)]

/-- With no image that waits for its turn, no register changes. -/
theorem microStep_none {s : State} {k : FuncKind × Nat} (none : s.root.micro.find? (·.1 == k.2) = none) :
    (microStep s k).root.m = s.root.m ∧ (microStep s k).root.micro = s.root.micro := by
  rw [microStep]
  split
  · exact ⟨rfl, rfl⟩
  · rw [none]
    dsimp only
    split <;> exact ⟨rfl, rfl⟩

/-- The image of a kind that is not the next one waits, while no kind is passed over. -/
theorem State.extendMicro_waits {s : State} {i : Nat} {d : List Byte} (held : s.root.micro = [(i, d)]) (later : i ≠ s.root.microN)
    (there : ∀ q ∈ microKinds, s.kindGone q = false) : s.extendMicro.root.m = s.root.m := by
  refine congrArg (fun t : State => t.root.m) (?_ : s.extendMicro = s)
  rw [State.extendMicro_eq]
  refine List.foldlRecOn _ _ (motive := fun t : State => t = s) rfl fun t kept k listed => ?_
  subst kept
  by_cases next : t.root.microN = k.2
  · have absent : t.root.micro.find? (·.1 == k.2) = none := by
      rw [held, List.find?_singleton, if_neg (by simpa [next] using later)]
    rw [microStep, next, bne_self_eq_false, if_neg Bool.false_ne_true, absent]
    dsimp only
    rw [there k.1 (List.fst_mem_of_mem_zipIdx listed), if_neg Bool.false_ne_true]
  · exact microStep_other next

/-- A kind stands once in the pass, at its place. -/
theorem microKinds_index : ∀ p ∈ microKinds, (p, microKinds.idxOf p) ∈ microKinds.zipIdx ∧
    ∀ k ∈ microKinds.zipIdx, k.2 = microKinds.idxOf p → k = (p, microKinds.idxOf p) := by decide

/-- The image of the next kind is measured, and what the pass does after that changes no register. -/
theorem State.extendMicro_next {s : State} {p : FuncKind} {d : List Byte} (engine : p ∈ microKinds)
    (held : s.root.micro = [(microKinds.idxOf p, d)]) (next : microKinds.idxOf p = s.root.microN) :
    s.extendMicro.root.m = (s.extend 3 d).root.m := by
  have change : (microStep s (p, microKinds.idxOf p)).root.m = (s.extend 3 d).root.m ∧ (microStep s (p, microKinds.idxOf p)).root.micro = [] := by
    have found : s.root.micro.find? (·.1 == microKinds.idxOf p) = some (microKinds.idxOf p, d) := by
      rw [held, List.find?_singleton, if_pos (beq_self_eq_true _)]
    simp only [microStep, ← next, bne_self_eq_false, Bool.false_eq_true, if_false, found, State.extend, held, List.filter_cons, List.filter_nil,
      and_self]
  obtain ⟨l, r, split⟩ := List.append_of_mem (microKinds_index p engine).1
  have nodup : (l ++ (p, microKinds.idxOf p) :: r).Nodup := split ▸ (by decide : microKinds.zipIdx.Nodup)
  have unchanged : l.foldl microStep s = s := by
    refine List.foldlRecOn _ _ (motive := fun t : State => t = s) rfl fun t kept k listed => ?_
    have listedAll : k ∈ microKinds.zipIdx := split ▸ List.mem_append_left _ listed
    have apart : k ≠ (p, microKinds.idxOf p) := fun same =>
      (List.nodup_append.1 nodup).2.2 k listed (p, microKinds.idxOf p) List.mem_cons_self same
    rw [kept]
    exact microStep_other fun turn => apart ((microKinds_index p engine).2 k listedAll (turn.symm.trans next.symm))
  rw [State.extendMicro_eq, split, List.foldl_append, List.foldl_cons, unchanged]
  refine (List.foldlRecOn _ _ (motive := fun t : State => t.root.m = (s.extend 3 d).root.m ∧ t.root.micro = []) change fun t kept k _ => ?_).1
  obtain ⟨sameM, sameMicro⟩ := microStep_none (s := t) (k := k) (by rw [kept.2]; rfl)
  exact ⟨sameM.trans kept.1, sameMicro.trans kept.2⟩

section
variable {s : State} {p : FuncKind} (d : List Byte)

/-- An image that is not microcode is measured once. -/
theorem State.measure_once {i : Nat} (other : i ≠ 3) :
    ((i, d) ∈ s.root.measured → (s.measure p i d).root.m = s.root.m) ∧
    ((i, d) ∉ s.root.measured → (s.measure p i d).root.m = setAt s.root.m i (sha3 (s.root.m.getD i [] ++ d))) := by
  have image : (i == 3) = false := beq_eq_false_iff_ne.2 other
  refine ⟨fun before => ?_, fun new => ?_⟩
  · simp only [State.measure, image, List.contains_iff_mem.2 before, Bool.false_eq_true, if_false, if_true]
  · simp only [State.measure, image, Bool.eq_false_iff.2 (mt List.contains_iff_mem.1 new), Bool.false_eq_true, if_false, State.extend]

variable (engine : p ∈ microKinds) (first : s.root.micro = [])
include first

theorem State.measure_waits (later : microKinds.idxOf p ≠ s.root.microN) (there : ∀ q ∈ microKinds, s.kindGone q = false) :
    (s.measure p 3 d).root.m = s.root.m := by
  simp only [State.measure, beq_self_eq_true, if_true, first, List.nil_append]
  split
  · rfl
  · exact State.extendMicro_waits (i := microKinds.idxOf p) (d := d) rfl later there

include engine in
theorem State.measure_next (next : microKinds.idxOf p = s.root.microN) :
    (s.measure p 3 d).root.m = setAt s.root.m 3 (sha3 (s.root.m.getD 3 [] ++ d)) := by
  have turn : (decide (microKinds.idxOf p < s.root.microN) || s.root.micro.any (·.1 == microKinds.idxOf p)) = false := by
    rw [first, next, decide_eq_false (Nat.lt_irrefl _)]
    rfl
  simp only [State.measure, beq_self_eq_true, turn, Bool.false_eq_true, if_true, if_false]
  exact State.extendMicro_next (d := d) engine (congrArg (· ++ [(microKinds.idxOf p, d)]) first) next

end

/-- Settles O45: the self-test by its outcome and the root's signature, a report by its images, a measurement by its turn. -/
theorem powerOnAndReports : Obligations.PowerOnAndReports := by
  unfold Obligations.PowerOnAndReports
  refine ⟨?powerOn, ?shutdown, ?restart, ?passes, ?fails, ?again, ?imageless, ?reportsFailed, ?withCluster, ?curator, ?engine, ?barred, ?short,
    ?lists, ?microcode, ?images, ?fenced⟩
  case powerOn => exact fun s => rfl
  case shutdown => exact fun s => rfl
  case restart => exact fun s => ⟨rfl, rfl, rfl, rfl, rfl, rfl, rfl⟩
  case passes =>
    intro s diag testing
    cases verified : verifyImage Config.rootImage Config.rootSig with
    | true =>
      obtain ⟨t, step, mem, st, log, ready, m⟩ := exec_rootSelfTestEnd_passed diag testing verified
      exact ⟨t, step, mem, fun _ => ⟨st, log, ready, m⟩, fun bad => absurd bad.symm Bool.false_ne_true⟩
    | false =>
      obtain ⟨t, step, mem, st, log, ready, m⟩ := exec_rootSelfTestEnd_unverified diag testing verified
      exact ⟨t, step, mem, fun good => absurd good Bool.false_ne_true, fun _ => ⟨st, log, ready, m⟩⟩
  case fails => exact fun s diag testing => exec_rootSelfTestEnd_failed diag testing
  case again => exact fun s c diag safe asked => exec_rootSelfTestEnd_again diag safe asked
  case imageless => exact fun s f diag may stands sound none => exec_functionReport_imageless diag may stands sound none
  case reportsFailed =>
    intro s f diag may stands
    by_cases fenced : f ∈ s.root.fenced
    · exact exec_functionReport_fenced false diag may rfl stands fenced
    · rw [exec_functionReport_loaded false diag may rfl stands fenced rfl, if_neg Bool.false_ne_true]
  case withCluster =>
    intro s f k diag imgs may curator slice cluster gone order
    have falls : s.failsWithCluster f = true := by
      rw [State.failsWithCluster, bne_iff_ne.2 curator, bne_iff_ne.2 slice, cluster]
      exact gone
    exact exec_functionReport_withCluster true diag may order falls
  case curator =>
    intro s k f diag a x b y s1 s2 named may sound firmware program
    subst named
    exact exec_functionReport_curator diag may sound firmware program
  case engine => exact fun s f diag a x s1 micro may stands sound measured => exec_functionReport_engine diag may stands sound micro measured
  case barred => exact fun s f diag imgs barred => exec_functionReport_barred true diag imgs barred
  case short =>
    intro s f diag imgs short stands sound sane
    by_cases may : s.mayReport f = true
    · by_cases order : (imgs.map (·.1)).isPrefixOf (imageRegs f.kind) = true
      · exact exec_functionReport_short diag may stands sound short order sane
      · exact exec_functionReport_disordered true diag order
    · exact exec_functionReport_barred true diag imgs (Bool.eq_false_iff.2 may)
  case lists => exact fun s f other => s.ready_lists other
  case microcode =>
    exact fun s p d engine first =>
      ⟨fun later there => State.measure_waits d first later there, fun next => State.measure_next d engine first next⟩
  case images => exact fun s p i d other => State.measure_once d other
  case fenced => exact fun s f diag imgs ready may stands fenced order => exec_functionReport_fenced ready diag may order stands fenced

end Sys2Proof.Machine
end

section
/-! The machine at reset (R415, R416) and its first step, and the statement. -/

namespace Sys2Proof.Machine

open Sys2Proof

/-- The first step is power-on, which queues nothing else. -/
theorem step_reset : step State.reset = exec .powerOn { State.reset with clk := { State.reset.clk with due := [] } } := rfl

/-- Settles O58: the state of reset is plain data, and its first step the power-on that it holds. -/
theorem resetState : Obligations.ResetState := by
  unfold Obligations.ResetState
  refine ⟨?reset, ?step⟩
  case reset => exact ⟨rfl, rfl, rfl, rfl, rfl, rfl, rfl, rfl, rfl⟩
  case step => exact ⟨_, step_reset, rfl, rfl, rfl, rfl, rfl, rfl⟩

end Sys2Proof.Machine
end

section

/-! ## Fields read back from a word

The fields of each format determine its word (R23, R24, R34); what an operand or FN field decodes to has that field. -/

namespace Sys2Proof

open Machine

theorem rawOf_fields (r : Raw) : rawOf r.hdr r.op r.fn r.lo = r := by
  obtain ⟨sw, a, b, c, op, pr, pn, fn, lo⟩ := r
  simp [rawOf, Raw.hdr]

theorem slice_append {w : Nat} (v : BitVec w) (lo n m : Nat) :
    v.extractLsb' (lo + m) n ++ v.extractLsb' lo m = v.extractLsb' lo (n + m) := by
  apply BitVec.eq_of_getLsbD_eq; intro i hi
  rw [BitVec.getLsbD_append]
  simp only [BitVec.getLsbD_extractLsb', hi, decide_true, Bool.true_and]
  split
  · simp_all
  · rw [decide_eq_true (show i - m < n by omega), Bool.true_and, show lo + m + (i - m) = lo + i by omega]

theorem bit_slice {w : Nat} (v : BitVec w) (i : Nat) : BitVec.ofBool (v.getLsbD i) = v.extractLsb' i 1 := by
  apply BitVec.eq_of_getLsbD_eq; intro k hk
  obtain rfl : k = 0 := by omega
  simp

theorem slice_all (v : BitVec 40) : v.extractLsb' 0 40 = v := by simp

theorem rawR_fields (r : Raw) : rawR r.hdr r.op r.fn r.b4 r.b3 r.b2 r.b1 r.x = r := by
  have : (r.b4 ++ r.b3 ++ r.b2 ++ r.b1 ++ r.x : BitVec 40) = r.lo := by
    rw [Raw.b4, Raw.b3, slice_append r.lo 24 8 8, Raw.b2, slice_append r.lo 16 16 8, Raw.b1, slice_append r.lo 8 24 8, Raw.x,
      slice_append r.lo 0 32 8, slice_all]
  rw [rawR, this, rawOf_fields]

theorem rawI_fields (r : Raw) : rawI r.hdr r.op r.fn r.b4 r.b3 r.imm24 = r := by
  have : (r.b4 ++ r.b3 ++ r.imm24 : BitVec 40) = r.lo := by
    rw [Raw.b4, Raw.b3, slice_append r.lo 24 8 8, Raw.imm24, slice_append r.lo 0 16 24, slice_all]
  rw [rawI, this, rawOf_fields]

theorem rawM_fields (r : Raw) : rawM r.hdr r.op r.fn r.b4 r.b3 r.rx r.seg r.disp20 = r := by
  have : (r.b4 ++ r.b3 ++ BitVec.ofBool r.rx ++ r.seg ++ r.disp20 : BitVec 40) = r.lo := by
    rw [Raw.b4, Raw.b3, slice_append r.lo 24 8 8, Raw.rx, bit_slice, slice_append r.lo 23 16 1, Raw.seg, slice_append r.lo 20 17 3,
      Raw.disp20, slice_append r.lo 0 20 20, slice_all]
  rw [rawM, this, rawOf_fields]

theorem rawW_fields {r : Raw} (h : r.fn = 0) : rawW r.hdr r.op r.b4 r.imm32 = r := by
  have : (r.b4 ++ r.imm32 : BitVec 40) = r.lo := by
    rw [Raw.b4, Raw.imm32, slice_append r.lo 0 8 32, slice_all]
  rw [rawW, this, ← h, rawOf_fields]

theorem rawB_fields {r : Raw} (h : r.fn = 0) : rawB r.hdr r.op r.b4 r.b3 r.imm24 = r := by
  have := rawI_fields r
  rwa [h] at this

theorem rawE_fields (r : Raw) : rawE r.hdr r.op r.fn r.b4 r.b3 r.b2 r.imm16 = r := by
  have : (r.b4 ++ r.b3 ++ r.b2 ++ r.imm16 : BitVec 40) = r.lo := by
    rw [Raw.b4, Raw.b3, slice_append r.lo 24 8 8, Raw.b2, slice_append r.lo 16 16 8, Raw.imm16, slice_append r.lo 0 24 16, slice_all]
  rw [rawE, this, rawOf_fields]

theorem rawR_eq_iff {r : Raw} {h : Hdr} {op : BitVec 9} {fn : BitVec 6} {d a b c x : Byte} : rawR h op fn d a b c x = r ↔
    h = r.hdr ∧ op = r.op ∧ fn = r.fn ∧ d = r.b4 ∧ a = r.b3 ∧ b = r.b2 ∧ c = r.b1 ∧ x = r.x := by
  constructor
  · rintro rfl; simp
  · rintro ⟨rfl, rfl, rfl, rfl, rfl, rfl, rfl, rfl⟩; exact rawR_fields r

theorem rawI_eq_iff {r : Raw} {h : Hdr} {op : BitVec 9} {fn : BitVec 6} {d a : Byte} {imm : BitVec 24} : rawI h op fn d a imm = r ↔
    h = r.hdr ∧ op = r.op ∧ fn = r.fn ∧ d = r.b4 ∧ a = r.b3 ∧ imm = r.imm24 := by
  constructor
  · rintro rfl; simp
  · rintro ⟨rfl, rfl, rfl, rfl, rfl, rfl⟩; exact rawI_fields r

theorem GOp.ofByte_eq_some {b : Byte} {g : GOp} : GOp.ofByte b = some g ↔ g.byte = b := by
  refine ⟨fun h => ?_, fun h => h ▸ g.ofByte_byte⟩
  unfold GOp.ofByte at h
  split at h
  · cases h
    simp [GOp.byte]
  · split at h <;> cases h <;> apply BitVec.eq_of_toNat_eq <;> simp_all [GOp.byte]

theorem finOf_eq_some {n : Nat} {b : Byte} (hn : n ≤ 256) {v : Fin n} : finOf n b.toNat = some v ↔ n8 v = b := by
  constructor
  · intro h
    unfold finOf at h
    split at h
    · cases h
      simp [n8]
    · cases h
  · rintro rfl
    have : (n8 v).toNat = v.val := by simp [n8]; omega
    simp [finOf, this]

theorem finOf16_eq_some {b : Byte} {v : Fin 16} : finOf 16 b.toNat = some v ↔ n8 v = b := finOf_eq_some (by decide)

theorem finOf8_eq_some {b : Byte} {v : Fin 8} : finOf 8 b.toNat = some v ↔ n8 v = b := finOf_eq_some (by decide)

theorem finOf4_eq_some {b : Byte} {v : Fin 4} : finOf 4 b.toNat = some v ↔ n8 v = b := finOf_eq_some (by decide)

theorem vgB_eq_some {r : Raw} {v : VG} : r.vgB = some v ↔ v.byte = r.b2 ∧ v.bc = r.x.getLsbD 7 := by
  refine ⟨fun h => ?_, fun h => vg_fields v r h.1.symm h.2.symm⟩
  unfold Raw.vgB VG.ofByte at h
  split at h <;> simp only [Option.map_eq_some_iff] at h <;> obtain ⟨a, ha, rfl⟩ := h
  · exact ⟨GOp.ofByte_eq_some.1 ha, by simp_all [VG.bc]⟩
  · exact ⟨finOf16_eq_some.1 ha, by simp_all [VG.bc]⟩

theorem Fmt.ofCode_eq_some {n : Nat} {v : Fmt} : Fmt.ofCode n = some v ↔ v.code = n := by
  refine ⟨fun h => ?_, fun h => h ▸ by cases v <;> rfl⟩
  unfold Fmt.ofCode at h; split at h <;> cases h <;> rfl

theorem Ovf.ofCode_eq_some {n : Nat} {v : Ovf} : Ovf.ofCode n = some v ↔ v.code = n := by
  refine ⟨fun h => ?_, fun h => h ▸ by cases v <;> rfl⟩
  unfold Ovf.ofCode at h; split at h <;> cases h <;> rfl

theorem MOrd.ofCode_eq_some {n : Nat} {v : MOrd} : MOrd.ofCode n = some v ↔ v.code = n := by
  refine ⟨fun h => ?_, fun h => h ▸ by cases v <;> rfl⟩
  unfold MOrd.ofCode at h; split at h <;> cases h <;> rfl

theorem Cc.ofCode_eq_some {n : Nat} {v : Cc} : Cc.ofCode n = some v ↔ v.code = n := by
  refine ⟨fun h => ?_, fun h => h ▸ by cases v <;> rfl⟩
  unfold Cc.ofCode at h; split at h <;> cases h <;> rfl

theorem VCc.ofCode_eq_some {n : Nat} {v : VCc} : VCc.ofCode n = some v ↔ v.code = n := by
  refine ⟨fun h => ?_, fun h => h ▸ by cases v <;> rfl⟩
  unfold VCc.ofCode at h; split at h <;> cases h <;> rfl

theorem AmoOp.ofCode_eq_some {n : Nat} {v : AmoOp} : AmoOp.ofCode n = some v ↔ v.code = n := by
  refine ⟨fun h => ?_, fun h => h ▸ by cases v <;> rfl⟩
  unfold AmoOp.ofCode at h; split at h <;> cases h <;> rfl

theorem AmofOp.ofCode_eq_some {n : Nat} {v : AmofOp} : AmofOp.ofCode n = some v ↔ v.code = n := by
  refine ⟨fun h => ?_, fun h => h ▸ by cases v <;> rfl⟩
  unfold AmofOp.ofCode at h; split at h <;> cases h <;> rfl

theorem RedOp.ofCode_eq_some {n : Nat} {v : RedOp} : RedOp.ofCode n = some v ↔ v.code = n := by
  refine ⟨fun h => ?_, fun h => h ▸ by cases v <;> rfl⟩
  unfold RedOp.ofCode at h; split at h <;> cases h <;> rfl

theorem FenceKind.ofCode_eq_some {n : Nat} {v : FenceKind} : FenceKind.ofCode n = some v ↔ v.code = n := by
  refine ⟨fun h => ?_, fun h => h ▸ by cases v <;> rfl⟩
  unfold FenceKind.ofCode at h; split at h <;> cases h <;> rfl

theorem FenceScope.ofCode_eq_some {n : Nat} {v : FenceScope} : FenceScope.ofCode n = some v ↔ v.code = n := by
  refine ⟨fun h => ?_, fun h => h ▸ by cases v <;> rfl⟩
  unfold FenceScope.ofCode at h; split at h <;> cases h <;> rfl

theorem rawM_eq_iff {r : Raw} {h : Hdr} {op : BitVec 9} {fn : BitVec 6} {d a : Byte} {rx : Bool} {seg : BitVec 3} {disp : BitVec 20} :
    rawM h op fn d a rx seg disp = r ↔
      h = r.hdr ∧ op = r.op ∧ fn = r.fn ∧ d = r.b4 ∧ a = r.b3 ∧ rx = r.rx ∧ seg = r.seg ∧ disp = r.disp20 := by
  constructor
  · rintro rfl; simp
  · rintro ⟨rfl, rfl, rfl, rfl, rfl, rfl, rfl, rfl⟩; exact rawM_fields r

theorem rawE_eq_iff {r : Raw} {h : Hdr} {op : BitVec 9} {fn : BitVec 6} {d a b : Byte} {imm : BitVec 16} : rawE h op fn d a b imm = r ↔
    h = r.hdr ∧ op = r.op ∧ fn = r.fn ∧ d = r.b4 ∧ a = r.b3 ∧ b = r.b2 ∧ imm = r.imm16 := by
  constructor
  · rintro rfl; simp
  · rintro ⟨rfl, rfl, rfl, rfl, rfl, rfl, rfl⟩; exact rawE_fields r

theorem rawB_eq_iff {r : Raw} {h : Hdr} {op : BitVec 9} {d a : Byte} {imm : BitVec 24} : rawB h op d a imm = r ↔
    h = r.hdr ∧ op = r.op ∧ 0 = r.fn ∧ d = r.b4 ∧ a = r.b3 ∧ imm = r.imm24 := rawI_eq_iff

theorem rawW_eq_iff {r : Raw} {h : Hdr} {op : BitVec 9} {d : Byte} {imm : BitVec 32} : rawW h op d imm = r ↔
    h = r.hdr ∧ op = r.op ∧ 0 = r.fn ∧ d = r.b4 ∧ imm = r.imm32 := by
  constructor
  · rintro rfl; simp; rfl
  · rintro ⟨rfl, rfl, hf, rfl, rfl⟩; exact rawW_fields hf.symm

theorem sz_fn : ∀ {fn : BitVec 6}, fn.extractLsb' 2 4 = 0 → fnOf (Size.ofCode (fnSz fn)).code = fn := by decide

theorem sa_fn : ∀ {fn : BitVec 6}, fnHi fn = 0 → fnOf (4 * fnMid fn) ||| fnOf (Size.ofCode (fnSz fn)).code = fn := by decide

theorem n3_segF (r : Raw) : n3 r.segF = r.seg := by simp [Raw.segF, n3]

theorem cmp_fn : ∀ {fn : BitVec 6},
  fn.getLsbD 2 = false → fnOf (8 * (fn.extractLsb' 3 3).toNat) ||| fnOf (Size.ofCode (fnSz fn)).code = fn := by decide

theorem fl_fn : ∀ {fn : BitVec 6}, fnOf (fnFmt fn) ||| fnOf (16 * (Rm.ofCode (fnHi fn)).code) = fn := by decide

theorem fc_fn : ∀ {fn : BitVec 6}, fnOf (16 * (FCc.ofCode (fnHi fn)).code) ||| fnOf (fnFmt fn) = fn := by decide

theorem fmtOnly_fn : ∀ {fn : BitVec 6}, fnHi fn = 0 → fnOf (fnFmt fn) = fn := by decide

theorem qn_fn : ∀ {fn : BitVec 6},
  fn.getLsbD 4 = false → fnOf (if fn.getLsbD 5 = true then 32 else 0) ||| fnOf (fnFmt fn) = fn := by decide

theorem at_fn : ∀ {fn : BitVec 6}, fnOf (4 * (fn.extractLsb' 2 4).toNat) ||| fnOf (Size.ofCode (fnSz fn)).code = fn := by decide

theorem at0_fn : ∀ {fn : BitVec 6}, (fn.extractLsb' 2 4).toNat ≤ 0 → fnOf (Size.ofCode (fnSz fn)).code = fn := by decide

theorem fe_fn : ∀ {fn : BitVec 6}, fnHi fn = 0 → fnOf (4 * fnMid fn + fnSz fn) = fn := by decide

theorem bc_x : ∀ {x : Byte}, x.toNat % 128 = 0 → (if x.getLsbD 7 = true then 0x80 else 0) = x := by decide

theorem vcmp_x : ∀ {x : Byte}, x.extractLsb' 3 4 = 0 → (xOf (x.toNat % 8) ||| if x.getLsbD 7 = true then 0x80 else 0) = x := by decide

theorem elem_x {r : Raw} (h1 : fVec.contains (fnFmt r.fn) = true) (h2 : r.x.toNat * codeWidth (fnFmt r.fn) < 512) :
    xOf (r.x.extractLsb' 0 6).toNat = r.x := by
  have h8 : 8 ≤ codeWidth (fnFmt r.fn) :=
    (show ∀ fn : BitVec 6, fVec.contains (fnFmt fn) = true → 8 ≤ codeWidth (fnFmt fn) by decide) r.fn h1
  have : r.x.toNat < 64 := by
    by_contra hx
    have := Nat.mul_le_mul (Nat.le_of_not_lt hx) h8
    omega
  exact (show ∀ x : Byte, x.toNat < 64 → xOf (x.extractLsb' 0 6).toNat = x by decide) r.x this

theorem red_lt_x : ∀ {x : Byte}, x.toNat ≤ 2 → xOf (x.toNat % 4) = x := by decide

theorem bit_x : ∀ {x : Byte}, x.toNat ≤ 1 → xOf (if x.getLsbD 0 = true then 1 else 0) = x := by decide

theorem errTile_x : ∀ {x : Byte}, x.toNat ≤ 31 → xOf (if x.getLsbD 4 = true then 16 else 0) ||| xOf (x.toNat % 16) = x := by decide

theorem noteImm_le {v : BitVec 16} (h : v.toNat ≤ 1) : noteImm (v == 1) = v := by
  obtain rfl | hv : v = 1 ∨ v = 0 := by bv_omega
  · rfl
  · rw [hv]; rfl

theorem finOf_mod_eq_some {k : Nat} {v : Fin 16} : finOf 16 (k % 16) = some v ↔ v.val = k % 16 := by
  have : k % 16 < 16 := Nat.mod_lt _ (by decide)
  simp [finOf, this, Fin.ext_iff, eq_comm]

theorem xOf_val {n : Nat} (v : Fin n) : xOf v.val = n8 v := rfl

theorem vf_eq_some {r : Raw} {f : VfF} : r.vf = some f ↔ vfFn f = r.fn := by
  refine ⟨fun h => ?_, fun h => vf_fields f r h.symm⟩
  simp only [Raw.vf, Raw.fmtF, Option.map_eq_some_iff, Fmt.ofCode_eq_some] at h
  obtain ⟨a, ha, rfl⟩ := h
  rw [vfFn, ha]
  exact (show ∀ fn : BitVec 6, fnOf (16 * (fn.extractLsb' 4 2).toNat + fnFmt fn) = fn by decide) _

theorem cv_eq_some {r : Raw} (h5 : r.fn.getLsbD 5 = false) (hx : r.x.toNat < 64) {c : CvF} :
    r.cv = some c ↔ cvFn c = r.fn ∧ cvX c = r.x := by
  refine ⟨fun h => ?_, fun h => cv_fields c r h.1.symm h.2.symm⟩
  unfold Raw.cv at h
  split at h
  · rename_i df sf h1 h2
    cases h
    rw [Raw.fmtF, Fmt.ofCode_eq_some] at h1
    rw [Fmt.ofCode_eq_some] at h2
    rw [cvFn, cvX, h1, h2]
    exact ⟨(show ∀ fn : BitVec 6, fn.getLsbD 5 = false → fnOf (fnFmt fn + if fn.getLsbD 4 = true then 16 else 0) = fn by decide) _ h5,
      (show ∀ x : Byte, x.toNat < 64 → xOf (16 * (Rm.ofCode (x.toNat / 16)).code + x.toNat % 16) = x by decide) _ hx⟩
  · cases h

theorem memF_eq_some {r : Raw} (hh : fnHi r.fn = 0) {m : MemF} :
    r.memF = some m ↔ memFn m = r.fn ∧ m.rx = r.rx ∧ n3 m.seg = r.seg ∧ m.disp = r.disp20 := by
  refine ⟨fun h => ?_, fun h => mem_fields m r h.1.symm h.2.1.symm h.2.2.1.symm h.2.2.2.symm⟩
  simp only [Raw.memF, Option.map_eq_some_iff, MOrd.ofCode_eq_some] at h
  obtain ⟨o, ho, rfl⟩ := h
  refine ⟨?_, rfl, by simp [Raw.segF, n3], rfl⟩
  rw [memFn, ho, Raw.sz]
  exact (show ∀ fn : BitVec 6, fnHi fn = 0 → fnOf (4 * fnMid fn + (Size.ofCode (fnSz fn)).code) = fn by decide) _ hh

theorem folF_eq_some {r : Raw} (hh : fnHi r.fn = 0) {m : FolF} :
    r.folF = some m ↔ fnOf m.fmt.code = r.fn ∧ m.rx = r.rx ∧ n3 m.seg = r.seg ∧ m.disp = r.disp20 := by
  refine ⟨fun h => ?_, fun h => fold_fields m r h.1.symm h.2.1.symm h.2.2.1.symm h.2.2.2.symm⟩
  simp only [Raw.folF, Raw.fmtF, Option.map_eq_some_iff, Fmt.ofCode_eq_some] at h
  obtain ⟨f, hf, rfl⟩ := h
  exact ⟨by rw [hf, fmtOnly_fn hh], rfl, by simp [Raw.segF, n3], rfl⟩

theorem atX_fields (m : AtF) : (atX m).toNat / 8 % 4 = m.ord.code ∧ (atX m).getLsbD 7 = m.rx ∧ (atX m).toNat % 8 = m.seg.val := by
  obtain ⟨sz, rx, ord, seg⟩ := m
  cases rx <;> cases ord <;> (revert seg; cases sz <;> decide)

theorem atF_eq_some {r : Raw} (hx : r.x.extractLsb' 5 2 = 0) {m : AtF} : r.atF = some m ↔ m.sz = r.sz ∧ atX m = r.x := by
  constructor
  · intro h
    simp only [Raw.atF, Option.map_eq_some_iff, MOrd.ofCode_eq_some] at h
    obtain ⟨o, ho, rfl⟩ := h
    refine ⟨rfl, ?_⟩
    rw [atX, ho]
    exact (show ∀ x : Byte,
      x.extractLsb' 5 2 = 0 → xOf ((if x.getLsbD 7 = true then 128 else 0) + 8 * (x.toNat / 8 % 4) + x.toNat % 8) = x by decide) _ hx
  · rintro ⟨hs, hm⟩
    obtain ⟨h1, h2, h3⟩ := atX_fields m
    simp only [Raw.atF, Option.map_eq_some_iff, MOrd.ofCode_eq_some, ← hm, ← hs]
    exact ⟨m.ord, h1.symm, by simp only [h2, h3]⟩

theorem Raw.legal_row {r : Raw} {oi : OpInfo} (ho : opInfo r.op.toNat = some oi) (h : r.legal = true) :
    legalFn oi.fn r.fn = true ∧ (oi.fmt = .r → legalX oi.x r.fn r.x = true) ∧ (oi.fmt = .m → legalRx oi r = true) ∧
      (∀ f ∈ r.fields oi, f.2 = none → f.1 = 0) ∧ legalImm oi r = true := by
  simp only [Raw.legal, ho, Bool.and_eq_true, Bool.or_eq_true, bne_iff_ne, List.all_eq_true] at h
  obtain ⟨⟨⟨⟨⟨⟨⟨⟨_, h1⟩, h2⟩, h3⟩, h4⟩, _⟩, _⟩, h5⟩, _⟩ := h
  refine ⟨h1, fun e => h2.resolve_left (absurd e), fun e => h3.resolve_left (absurd e), fun f hf e => ?_, h5⟩
  simpa [legalField, e] using h4 f hf

theorem Raw.op_eq {r : Raw} {n : Nat} (h : r.op.toNat = n) : BitVec.ofNat 9 n = r.op := by
  rw [← h]; simp

theorem toNat_eq_zero {n : Nat} {x : BitVec n} : x.toNat = 0 ↔ 0 = x := by
  rw [eq_comm (a := 0), BitVec.toNat_eq]; rfl

theorem zero_of_not_beq {v : BitVec 16} (hle : v.toNat ≤ 1) (h : ¬ (v == 1) = true) : 0 = v := by
  rw [beq_iff_eq] at h; bv_omega

end Sys2Proof
end

section

/-! ## Decoding and encoding

A legal word has the fields of the instruction it builds, and the fields of an instruction build it (R38, R39). -/

namespace Sys2Proof

open Machine

/-- The fields of the instruction that a legal word builds are the word's: by the opcode page and the row of the table, each
operand and FN field read is written back to the same bits, and the fields the row leaves out are zero. -/
theorem raw_of_build {r : Raw} (hl : r.legal = true) : ∀ i, r.build = some i → i.raw = some r := by
  have hrow : ∀ n, r.op.toNat = n → ∀ oi, opInfo n = some oi → _ := fun n hn oi ho => Raw.legal_row (hn ▸ ho) hl
  have hop := (Nat.div_add_mod r.op.toNat 16).symm
  clear hl
  unfold Raw.build
  generalize r.op.toNat / 16 = m, r.op.toNat % 16 = j at hop ⊢
  split
  case h_19 => simp only [reduceCtorEq, false_imp_iff, implies_true]
  all_goals
    delta build00 build01 build03 build04 build05 build06 build08 build09 build0A build0C build0D
      build0E build0F build11 build12 build13 build14 build15
    split
  all_goals try (simp only [reduceCtorEq, false_imp_iff, implies_true])
  all_goals try split
  all_goals
    -- what the row asks of the fields, and what each decoded field is
    replace hrow := hrow _ hop _ rfl
    simp only [Raw.fields, List.forall_mem_cons, List.not_mem_nil, reduceCtorEq, forall_const, false_imp_iff, and_true, true_and,
      and_assoc, legalX, legalFn, legalImm, legalRx, beq_iff_eq, Bool.and_eq_true, Bool.not_eq_true', Bool.or_eq_true, Bool.false_and,
      Bool.or_false, decide_eq_true_eq, Bool.not_eq_true', List.contains_cons, List.contains_nil, or_true] at hrow
    try simp only [toNat_eq_zero, Raw.immVal] at hrow
    simp only [hrow, memF_eq_some, folF_eq_some, cv_eq_some, atF_eq_some, finOf_mod_eq_some, Raw.atOp, Raw.gD, Raw.gA, Raw.gB, Raw.gC,
      Raw.nD, Raw.nA, Raw.nB, Raw.nC, Raw.ovf, Raw.sz, Raw.fmtF, Raw.cc, Raw.rm, vgB_eq_some, vf_eq_some, GOp.ofByte_eq_some,
      finOf16_eq_some, finOf8_eq_some, finOf4_eq_some,
      Ovf.ofCode_eq_some, Fmt.ofCode_eq_some, Cc.ofCode_eq_some, VCc.ofCode_eq_some, RedOp.ofCode_eq_some, AmoOp.ofCode_eq_some,
        AmofOp.ofCode_eq_some, FenceKind.ofCode_eq_some, FenceScope.ofCode_eq_some,
      Option.bind_eq_bind, Option.bind_eq_some_iff, Option.some.injEq, exists_imp, and_imp, forall_eq']
  -- the word is its fields, one by one
  all_goals
    intros
    subst_vars
    refine congrArg some ?_
    simp only [rawR_eq_iff, rawI_eq_iff, rawB_eq_iff, rawE_eq_iff, rawW_eq_iff, rawM_eq_iff]
    refine ⟨trivial, Raw.op_eq hop, ?_⟩
    simp only [*, sa_fn, n3_segF, sz_fn, cmp_fn, fl_fn, fc_fn, fmtOnly_fn, qn_fn, at_fn, at0_fn, fe_fn, elem_x, red_lt_x, noteImm_le,
      bcX, bc_x, vcmp_x, bit_x, errTile_x, xOf_val, and_self]
  case h_1.isTrue rp _ _ _ _ _ _ => exact ⟨trivial, trivial, trivial, trivial, (beq_iff_eq.1 rp).symm⟩
  case h_1.isFalse rp _ _ _ _ _ _ => exact ⟨trivial, trivial, trivial, trivial, zero_of_not_beq hrow.2 rp⟩

theorem seg_n3 (n : Fin 8) (h : (n3 n).toNat < 8) : (⟨(n3 n).toNat, h⟩ : Fin 8) = n := seg_field n

theorem fence_sum_fn (k : FenceKind) (sc : FenceScope) :
    FenceKind.ofCode (fnMid (fnOf (4 * k.code + sc.code))) = some k ∧ FenceScope.ofCode (fnSz (fnOf (4 * k.code + sc.code))) = some sc := by
  cases k <;> cases sc <;> exact ⟨rfl, rfl⟩

theorem finOf16_val (n : Fin 16) : finOf 16 (xOf n.val).toNat = some n := by revert n; decide

theorem zero_ne_one_imm : ((0 : BitVec 16) == 1) = false := rfl

theorem one_eq_one_imm : ((1 : BitVec 16) == 1) = true := rfl

/-- The opcodes below 0x80: the operand fields and the FN fields of the scalar instructions are read back. -/
theorem build_of_raw_low {i : Instr} {r : Raw} (h : i.raw = some r) (hop : r.op.toNat < 0x80) : r.build = some i := by
  cases i <;> cases h
  all_goals
    simp only [rawR_op, rawI_op, rawB_op, rawE_op, rawW_op, rawM_op, BitVec.reduceToNat, Nat.reduceLT] at hop
  all_goals
    simp only [Raw.build, build00, build01, build03, build04, build05, build06,
      rawR_b4, rawR_b3, rawR_b2, rawR_b1, rawR_x, rawR_op, rawR_fn, rawR_hdr, rawI_b4, rawI_b3, rawI_imm24, rawI_op, rawI_fn, rawI_hdr,
      rawB_b4, rawB_b3, rawB_imm24, rawB_op, rawB_hdr, rawE_b4, rawE_b3, rawE_b2, rawE_imm16, rawE_op, rawE_hdr, rawW_b4, rawW_imm32,
        rawW_op, rawW_hdr,
      rawM_b4, rawM_b3, rawM_seg, rawM_disp20, rawM_op, rawM_hdr, BitVec.reduceToNat, Nat.reduceDiv, Nat.reduceMod,
        Option.bind_eq_bind, Option.bind_some,
      Raw.gD, Raw.gA, Raw.gB, Raw.gC, Raw.nD, Raw.nA, Raw.nB, Raw.segF, Raw.sz, Raw.ovf, Raw.fmtF, Raw.rm, Raw.cc,
      GOp.ofByte_byte, finOf_n8, size_fn, ovf_fn, ovf_size_fn, cc_fn, cc_size_fn, fmt_round_fn, round_fn, fmt_cc_fn, cc_fmt_fn,
      seg_n3, finOf16_val, rawR_cv]

/-- The opcodes from 0x80: vector, memory, atomic, engine and system instructions. -/
theorem build_of_raw_high {i : Instr} {r : Raw} (h : i.raw = some r) (hop : 0x80 ≤ r.op.toNat) : r.build = some i := by
  cases i <;> cases h
  all_goals
    simp only [rawR_op, rawI_op, rawB_op, rawE_op, rawW_op, rawM_op, BitVec.reduceToNat, Nat.reduceLeDiff] at hop
  all_goals
    simp only [Raw.build, build08, build09, build0A, build0C, build0D, build0E, build0F, build11, build12, build13, build14, build15,
      rawR_b4, rawR_b3, rawR_b2, rawR_b1, rawR_x, rawR_op, rawR_fn, rawR_hdr, rawI_b4, rawI_b3, rawI_imm24, rawI_op, rawI_hdr,
      rawE_b4, rawE_b3, rawE_b2, rawE_imm16, rawE_op, rawE_fn, rawE_hdr,
      rawM_b4, rawM_b3, rawM_op, rawM_hdr, BitVec.reduceToNat, Nat.reduceDiv, Nat.reduceMod, Option.bind_eq_bind, Option.bind_some,
      Raw.gD, Raw.gA, Raw.gB, Raw.gC, Raw.nD, Raw.nA, Raw.nB, Raw.nC, Raw.fmtF, Raw.rm,
      GOp.ofByte_byte, finOf_n8, fmt_fn, fmt_round_fn, round_fn, fmt_flag_fn, flag_fmt_fn, fence_sum_fn,
      cc_bcX_code, index_x, one_eq_one_imm, zero_ne_one_imm, Bool.false_eq_true, if_true, if_false, red_x, finOf8_n8, finOf4_x,
        note_imm, flag_x, rawR_vg, rawR_cc_vg, rawR_vf, rawR_cv, rawM_mem, rawM_fold, rawR_amo, rawR_amof, rawR_cas, amo_code,
        amof_code, tile_x]

/-- The fields of an instruction's word are read back as the instruction. -/
theorem build_of_raw {i : Instr} {r : Raw} (h : i.raw = some r) : r.build = some i :=
  (Nat.lt_or_ge r.op.toNat 0x80).elim (build_of_raw_low h) (build_of_raw_high h)

/-- What decodes is the instruction whose fields are the word's, and the slot allows it. -/
theorem decode_eq_some {c : DecCtx} {w : Word} {i : Instr} (h : decode c w = some i) :
    i.raw = some (Raw.ofWord w) ∧ i.wf = true ∧ i.allowedIn c = true := by
  unfold decode at h
  dsimp only at h
  split at h
  case isFalse => cases h
  case isTrue ok =>
    obtain ⟨⟨legal, slot⟩, pair⟩ :
        ((Raw.ofWord w).legal = true ∧ (Raw.ofWord w).slotOk c = true) ∧ (Raw.ofWord w).pairOk c = true := by
      simpa only [Bool.and_eq_true] using ok
    have raw := raw_of_build legal i h
    exact ⟨raw, by rw [Instr.wf, raw]; exact legal, by rw [Instr.allowedIn, raw]; simp only [slot, pair, Bool.and_self]⟩

/-- Settles O57: every field is read back as it was written (`build_of_raw`), and a legal word's fields are those of what it
decodes to (`raw_of_build`). -/
theorem encodeDecode : Obligations.EncodeDecode := by
  unfold Obligations.EncodeDecode
  constructor
  case left =>
    intro c i wf allowed
    cases raw : i.raw with
    | none => simp only [Instr.allowedIn, raw, Bool.false_eq_true] at allowed
    | some r => exact decode_of_build c i r raw wf allowed (build_of_raw raw)
  case right => exact fun c w i h => (decode_eq_some h).2

end Sys2Proof
end


section

/-! ## Words that no slot of a kind decodes

Opcodes reserved to slot 63 (R37), and the worked words of the encoding rules. -/

namespace Sys2Proof

open Machine

theorem decode_eq_none_of_slotOk {c : DecCtx} {w : Word} (h : (Raw.ofWord w).slotOk c = false) : decode c w = none := by
  simp only [decode, h, Bool.and_false, Bool.false_and, Bool.false_eq_true, if_false]

theorem decode_eq_none_of_supervisorOnly {c : DecCtx} {w : Word} (user : c.sup = false)
    (reserved : supervisorOnly (Raw.ofWord w).op.toNat = true) : decode c w = none :=
  decode_eq_none_of_slotOk (by simp only [Raw.slotOk, user, reserved, Bool.not_false, Bool.and_self, Bool.not_true, Bool.false_and])

theorem decode_eq_none_of_stop {c : DecCtx} {w : Word} (sup : c.sup = true) (op : (Raw.ofWord w).op = 0x00B) : decode c w = none :=
  decode_eq_none_of_slotOk (by simp only [Raw.slotOk, sup, op, beq_self_eq_true, Bool.and_self, Bool.not_true, Bool.and_false])

/-- The fields of an encoded word are those the encoder wrote. -/
theorem ofWord_of_encode {i : Instr} {w : Word} {r : Raw} (raw : i.raw = some r) (h : encode i = some w) : Raw.ofWord w = r := by
  rw [encode, raw, Option.map_some, Option.some.injEq] at h
  rw [← h, Raw.ofWord_toWord]

theorem decode_encode_eq_none_of_supervisorOnly {c : DecCtx} {i : Instr} {w : Word} {r : Raw} (user : c.sup = false)
    (raw : i.raw = some r) (reserved : supervisorOnly r.op.toNat = true) (h : encode i = some w) : decode c w = none :=
  decode_eq_none_of_supervisorOnly user (by rw [ofWord_of_encode raw h, reserved])

/-- Settles O47: the slot rule of the decoder refuses them. -/
theorem privilegedOpcodes : Obligations.PrivilegedOpcodes := by
  unfold Obligations.PrivilegedOpcodes
  refine ⟨?reserved, ?stop, ?resume, ?emr, ?emw, ?kill, ?pmt, ?tlbi, ?tlbsync, ?stopEncoded, ?slot⟩
  case reserved => exact fun c w user mem => decode_eq_none_of_supervisorOnly user (List.contains_iff_mem.2 mem)
  case stop => exact fun c w sup op => decode_eq_none_of_stop sup (BitVec.eq_of_toNat_eq op)
  case resume => exact fun c h a w user enc => decode_encode_eq_none_of_supervisorOnly user rfl rfl enc
  case emr => exact fun c h d a rs w user enc => decode_encode_eq_none_of_supervisorOnly user rfl rfl enc
  case emw => exact fun c h d a rs w user enc => decode_encode_eq_none_of_supervisorOnly user rfl rfl enc
  case kill => exact fun c h a w user enc => decode_encode_eq_none_of_supervisorOnly user rfl rfl enc
  case pmt => exact fun c h d a w user enc => decode_encode_eq_none_of_supervisorOnly user rfl rfl enc
  case tlbi => exact fun c h a b w user enc => decode_encode_eq_none_of_supervisorOnly user rfl rfl enc
  case tlbsync => exact fun c h w user enc => decode_encode_eq_none_of_supervisorOnly user rfl rfl enc
  case stopEncoded => exact fun c h w sup enc => decode_eq_none_of_stop sup (by rw [ofWord_of_encode rfl enc]; rfl)
  case slot => exact fun s core slot => rfl

/-- Settles O56: the decoder evaluated at each worked word. -/
theorem decodedWords : Obligations.DecodedWords := by
  unfold Obligations.DecodedWords
  decide

end Sys2Proof
end

section

/-! ## Scalar accesses (R195 to R204, R231, R243 to R248, R250, R251, R303)

Loads, stores, atomics, sync words and segment registers: each is an access by its place, which is sent where its checks
pass and a fault at issue where they fail. -/

namespace Sys2Proof.Machine

open Sys2Proof

/-- A body that blocks on an operation completes with its strand parked for it (R188). -/
theorem Completes.of_block {i : Instr} {p : Ctx → Prop} {body : Ctx → Out} {r : Ctx → Nat × Ctx}
    (issued : ∀ s, exec i s = issue (formOf i) s body) (blocks : ∀ c, p c → body c = .block (r c).2 (r c).1) :
    Completes i p fun c => (r c).2.blocked (r c).1 :=
  fun s c hc hp => (issued s).trans (issue_block hc (blocks c hp))

/-- Where the checks pass and the access then blocks, the strand parks for it. -/
theorem Accesses.blocks {α : Type} {i : Instr} {access size : Nat} {place : Ctx → Except FaultInfo α} {r : Ctx → α → Nat × Ctx}
    (h : Accesses i access size place fun c l => .block (r c l).2 (r c l).1) (l : α) :
    Completes i (fun c => place c = .ok l) fun c => (r c l).2.blocked (r c l).1 := by
  obtain ⟨body, issued, checks⟩ := h
  exact .of_block issued fun c passes => checks c _ passes

/-- Where the checks pass, the access completes as its further steps do. -/
theorem Accesses.completes {α : Type} {i : Instr} {access size : Nat} {place : Ctx → Except FaultInfo α} {next : Ctx → α → Out}
    {p : Ctx → Prop} {r : Ctx → Ctx} (h : Accesses i access size place next) (l : α) (goes : ∀ c, p c → next c l = .go (r c)) :
    Completes i (fun c => place c = .ok l ∧ p c) fun c => (r c).done := by
  obtain ⟨body, issued, checks⟩ := h
  exact .of_go issued fun c ⟨passes, hp⟩ => (checks c _ passes).trans (goes c hp)

/-- A fault that the access finds after its checks have passed. -/
theorem Accesses.faults {α : Type} {i : Instr} {access size : Nat} {place : Ctx → Except FaultInfo α} {next : Ctx → α → Out}
    {p : Ctx → Prop} {e : Ctx → FaultInfo} (h : Accesses i access size place next) (l : α) (fails : ∀ c, p c → next c l = .fault (e c)) :
    FaultsAtIssue i (fun c => place c = .ok l ∧ p c) e := by
  obtain ⟨body, issued, checks⟩ := h
  exact .of_fault issued fun c ⟨passes, hp⟩ => (checks c _ passes).trans (fails c hp)

/-! ### Loads and stores (R195 to R198) -/

section
variable (h : Hdr) (m : MemF) (d a : GOp)

theorem ld_accesses : Accesses (.ld h m d a) 0 (Nat.log2 (szB m.sz)) (fun c => c.place m.seg.val (c.offM a m.disp) (szB m.sz) rR (szB m.sz))
    fun c l => .go (c.send (.ld false) (c.dest d) (memClass m.rx) (m.ord == .acq) [partAt l (szB m.sz)]).2 :=
  ⟨_, fun _ => rfl, fun c r found => by simp only [found]; cases r <;> rfl⟩

theorem lds_accesses : Accesses (.lds h m d a) 0 (Nat.log2 (szB m.sz)) (fun c => c.place m.seg.val (c.offM a m.disp) (szB m.sz) rR (szB m.sz))
    fun c l => .go (c.send (.ld true) (c.dest d) (memClass m.rx) (m.ord == .acq) [partAt l (szB m.sz)]).2 :=
  ⟨_, fun _ => rfl, fun c r found => by simp only [found]; cases r <;> rfl⟩

theorem st_accesses : Accesses (.st h m d a) 1 (Nat.log2 (szB m.sz)) (fun c => c.place m.seg.val (c.offM a m.disp) (szB m.sz) rW (szB m.sz))
    fun c l => .go (c.send .st .none (memClass m.rx) (m.ord == .acq) [partAt l (szB m.sz) (c.g d)]).2 :=
  ⟨_, fun _ => rfl, fun c r found => by simp only [found]; cases r <;> rfl⟩

theorem ldf_accesses : Accesses (.ldf h m d a) 4 (Nat.log2 8) (fun c => c.place m.seg.val (c.offM a m.disp) 8 (rR + rF) 8) fun c l =>
    .block (c.send .ldf (c.dest d) (memClass m.rx) (m.ord == .acq) [partAt l 8]).2
      (c.send .ldf (c.dest d) (memClass m.rx) (m.ord == .acq) [partAt l 8]).1 :=
  ⟨_, fun _ => rfl, fun c r found => by simp only [found]; cases r <;> rfl⟩

theorem lde_accesses : Accesses (.lde h m d a) 4 (Nat.log2 8) (fun c => c.place m.seg.val (c.offM a m.disp) 8 (rR + rW + rF) 8) fun c l =>
    .block (c.send .lde (c.dest d) (memClass m.rx) (m.ord == .acq) [partAt l 8]).2
      (c.send .lde (c.dest d) (memClass m.rx) (m.ord == .acq) [partAt l 8]).1 :=
  ⟨_, fun _ => rfl, fun c r found => by simp only [found]; cases r <;> rfl⟩

theorem stf_accesses : Accesses (.stf h m d a) 4 (Nat.log2 8) (fun c => c.place m.seg.val (c.offM a m.disp) 8 (rW + rF) 8) fun c l =>
    .go (c.send .stf .none (memClass m.rx) (m.ord == .acq) [partAt l 8 (c.g d)]).2 :=
  ⟨_, fun _ => rfl, fun c r found => by simp only [found]; cases r <;> rfl⟩

theorem stfe_accesses : Accesses (.stfe h m d a) 4 (Nat.log2 8) (fun c => c.place m.seg.val (c.offM a m.disp) 8 (rW + rF) 8) fun c l =>
    .block (c.send .stfe .none (memClass m.rx) (m.ord == .acq) [partAt l 8 (c.g d)]).2
      (c.send .stfe .none (memClass m.rx) (m.ord == .acq) [partAt l 8 (c.g d)]).1 :=
  ⟨_, fun _ => rfl, fun c r found => by simp only [found]; cases r <;> rfl⟩

theorem clrf_accesses : Accesses (.clrf h m a) 4 (Nat.log2 8) (fun c => c.place m.seg.val (c.offM a m.disp) 8 (rW + rF) 8) fun c l =>
    .go (c.send .clrf .none (memClass m.rx) (m.ord == .acq) [partAt l 8]).2 :=
  ⟨_, fun _ => rfl, fun c r found => by simp only [found]; cases r <;> rfl⟩

end

/-- Settles O17: each instruction is an access by its place, sent or blocking where the checks pass and a fault at issue where they fail. -/
theorem loadsAndStoresAreSent : Obligations.LoadsAndStoresAreSent := by
  unfold Obligations.LoadsAndStoresAreSent
  refine ⟨?ld, ?lds, ?st, ?ldf, ?lde, ?stf, ?stfe, ?clrf, ?ldFault, ?ldsFault, ?stFault, ?ldfFault, ?ldeFault, ?stfFault, ?stfeFault,
    ?clrfFault⟩
  case ld => exact fun h m d a l => (ld_accesses h m d a).sent l
  case lds => exact fun h m d a l => (lds_accesses h m d a).sent l
  case st => exact fun h m d a l => (st_accesses h m d a).sent l
  case ldf => exact fun h m d a l => (ldf_accesses h m d a).blocks l
  case lde => exact fun h m d a l => (lde_accesses h m d a).blocks l
  case stf => exact fun h m d a l => (stf_accesses h m d a).sent l
  case stfe => exact fun h m d a l => (stfe_accesses h m d a).blocks l
  case clrf => exact fun h m a l => (clrf_accesses h m a).sent l
  case ldFault => exact fun h m d a e => (ld_accesses h m d a).refused e
  case ldsFault => exact fun h m d a e => (lds_accesses h m d a).refused e
  case stFault => exact fun h m d a e => (st_accesses h m d a).refused e
  case ldfFault => exact fun h m d a e => (ldf_accesses h m d a).refused e
  case ldeFault => exact fun h m d a e => (lde_accesses h m d a).refused e
  case stfFault => exact fun h m d a e => (stf_accesses h m d a).refused e
  case stfeFault => exact fun h m d a e => (stfe_accesses h m d a).refused e
  case clrfFault => exact fun h m a e => (clrf_accesses h m a).refused e

/-! ### Atomics (R199, R200, R393) -/

/-- How an atomic goes on from its place: a remote page is REMOTE_ATOMIC (R393), else the access is sent with its operands. -/
def Ctx.atomicAt (c : Ctx) (m : AtF) (kind : AccKind) (d : GOp) (b c2 : Word) (l : Loc) : Out :=
  if c.remote l then .fault { taskFault 0x39 l.shown with access := 2, size := Nat.log2 (szB m.sz) }
  else .go (c.send kind (c.dest d) (memClass m.rx) (m.ord == .acq) [partAt l (szB m.sz)] b c2).2

section
variable (h : Hdr) (m : AtF) (d a b : GOp)

/-- The place of an atomic, with the rights R, W and A. -/
def Ctx.atomicPlace (c : Ctx) : Except FaultInfo Loc := c.place m.seg.val (c.g a).toNat (szB m.sz) (rR + rW + rA) (szB m.sz)

theorem amo_accesses (op : AmoOp) : Accesses (.amo h op m d a b) 2 (Nat.log2 (szB m.sz)) (Ctx.atomicPlace m a) fun c l =>
    c.atomicAt m (.amo op) d (c.g b) 0 l :=
  ⟨_, fun _ => rfl, fun c r found => by
    rw [Ctx.atomicPlace] at found
    simp only [found]
    cases r <;> rfl⟩

theorem cas_accesses (c2 : GOp) : Accesses (.cas h m d a b c2) 2 (Nat.log2 (szB m.sz)) (Ctx.atomicPlace m a) fun c l =>
    c.atomicAt m .cas d (c.g b) (c.g c2) l :=
  ⟨_, fun _ => rfl, fun c r found => by
    rw [Ctx.atomicPlace] at found
    simp only [found]
    cases r <;> rfl⟩

theorem amof_accesses (op : AmofOp) : Accesses (.amof h op m d a b) 2 (Nat.log2 (szB m.sz)) (Ctx.atomicPlace m a) fun c l =>
    c.atomicAt m (.amof op) d (c.g b) 0 l :=
  ⟨_, fun _ => rfl, fun c r found => by
    rw [Ctx.atomicPlace] at found
    simp only [found]
    cases r <;> rfl⟩

end

theorem Ctx.atomicAt_local {c : Ctx} {l : Loc} (near : c.remote l = false) (m : AtF) (kind : AccKind) (d : GOp) (b c2 : Word) :
    c.atomicAt m kind d b c2 l = .go (c.send kind (c.dest d) (memClass m.rx) (m.ord == .acq) [partAt l (szB m.sz)] b c2).2 :=
  if_neg (Bool.eq_false_iff.1 near)

theorem Ctx.atomicAt_remote {c : Ctx} {l : Loc} (far : c.remote l = true) (m : AtF) (kind : AccKind) (d : GOp) (b c2 : Word) :
    c.atomicAt m kind d b c2 l = .fault { taskFault 0x39 l.shown with access := 2, size := Nat.log2 (szB m.sz) } := if_pos far

/-- Settles O19: an atomic is an access by its place that goes on by whether the page is remote. -/
theorem atomicsAreSent : Obligations.AtomicsAreSent := by
  unfold Obligations.AtomicsAreSent
  refine ⟨?amo, ?cas, ?amof, ?amoRemote, ?casRemote, ?amofRemote, ?amoFault, ?casFault, ?amofFault⟩
  case amo => exact fun h op m d a b l => (amo_accesses h m d a b op).completes l fun c near => c.atomicAt_local near ..
  case cas => exact fun h m d a b c2 l => (cas_accesses h m d a b c2).completes l fun c near => c.atomicAt_local near ..
  case amof => exact fun h op m d a b l => (amof_accesses h m d a b op).completes l fun c near => c.atomicAt_local near ..
  case amoRemote => exact fun h op m d a b l => (amo_accesses h m d a b op).faults l fun c far => c.atomicAt_remote far ..
  case casRemote => exact fun h m d a b c2 l => (cas_accesses h m d a b c2).faults l fun c far => c.atomicAt_remote far ..
  case amofRemote => exact fun h op m d a b l => (amof_accesses h m d a b op).faults l fun c far => c.atomicAt_remote far ..
  case amoFault => exact fun h op m d a b e => (amo_accesses h m d a b op).refused e
  case casFault => exact fun h m d a b c2 e => (cas_accesses h m d a b c2).refused e
  case amofFault => exact fun h op m d a b e => (amof_accesses h m d a b op).refused e

/-! ### Sync words, segment registers and abstracts (R202 to R204, R244 to R246, R303) -/

section
variable (h : Hdr) (d a b : GOp)

theorem swarm_accesses : Accesses (.swarm h d a b) 4 (Nat.log2 8) (fun c => c.placePtr (c.g a) 8 (rW + rF) 8) fun c l =>
    if c.g b == 0 || 2 ^ 24 ≤ (c.g b).toNat then .go (c.result d (ofN (2 * 2 ^ 16)))
    else .go (c.send .swarm (c.dest d) .ordered false [partAt l 8] (c.g b)).2 :=
  ⟨_, fun _ => rfl, fun c r found => by simp only [found]; cases r <;> rfl⟩

theorem swadd_accesses : Accesses (.swadd h a b) 4 (Nat.log2 8) (fun c => c.placePtr (c.g a) 8 (rW + rF) 8) fun c l =>
    if 2 ^ 24 ≤ (c.g b).toNat then .fault (taskFault 0x15) else .go (c.send .swadd .none .ordered false [partAt l 8] (c.g b)).2 :=
  ⟨_, fun _ => rfl, fun c r found => by
    simp only [found]
    cases r with
    | error e => rfl
    | ok l => by_cases big : 2 ^ 24 ≤ (c.g b).toNat <;> simp only [big, if_true, if_false] <;> rfl⟩

theorem swwait_accesses : Accesses (.swwait h a b) 4 (Nat.log2 8) (fun c => c.placePtr (c.g a) 8 (rR + rF) 8) fun c l =>
    .block (c.send .swwait .none .ordered true [partAt l 8] (c.g b)).2 (c.send .swwait .none .ordered true [partAt l 8] (c.g b)).1 :=
  ⟨_, fun _ => rfl, fun c r found => by simp only [found]; cases r <;> rfl⟩

theorem swrd_accesses : Accesses (.swrd h d a) 4 (Nat.log2 8) (fun c => c.placePtr (c.g a) 8 (rR + rF) 8) fun c l =>
    .go (c.send .swrd (c.dest d) .ordered true [partAt l 8] 0).2 :=
  ⟨_, fun _ => rfl, fun c r found => by simp only [found]; cases r <;> rfl⟩

theorem segld_accesses (n : Fin 8) : Accesses (.segld h n a) 6 (Nat.log2 16) (fun c => c.placePtr (c.g a) 16 rR 16) fun c l =>
    .block (c.send (.segld n) (.s n.val) .ordered false [partAt l 8, partAt (l.plus 8) 8] 0).2
      (c.send (.segld n) (.s n.val) .ordered false [partAt l 8, partAt (l.plus 8) 8] 0).1 :=
  ⟨_, fun _ => rfl, fun c r found => by simp only [found]; cases r <;> rfl⟩

theorem segst_accesses (n : Fin 8) : Accesses (.segst h a n) 6 (Nat.log2 16) (fun c => c.placePtr (c.g a) 16 rW 16) fun c l =>
    .go (c.send .segst .none .ordered false
      [partAt l 8 (ofN (descLow (c.t.sreg n.val))), partAt (l.plus 8) 8 (ofN (descHigh (c.t.sreg n.val)))] 0).2 :=
  ⟨_, fun _ => rfl, fun c r found => by simp only [found]; cases r <;> rfl⟩

theorem kabs_accesses : Accesses (.kabs h d a) 6 (Nat.log2 1) (fun c => c.placePtr (c.g a) 1 (rR + rW) 1) fun c l =>
    .go (c.send .kabs (c.dest d) .other false [partAt l 1] 0).2 :=
  ⟨_, fun _ => rfl, fun c r found => by simp only [found]; cases r <;> rfl⟩

end

/-- Settles O20: each is an access through a segment pointer; `swarm` and `swadd` go on by their target or amount. -/
theorem syncWordsAndSegmentsAreSent : Obligations.SyncWordsAndSegmentsAreSent := by
  unfold Obligations.SyncWordsAndSegmentsAreSent
  refine ⟨?badTarget, ?swarm, ?swadd, ?syncArg, ?swwait, ?swrd, ?segld, ?segst, ?segrd, ?kabs, ?swarmFault, ?swaddFault, ?swwaitFault,
    ?swrdFault, ?segldFault, ?segstFault, ?kabsFault⟩
  case badTarget =>
    exact fun h d a b l => (swarm_accesses h d a b).completes l fun c out =>
      if_pos (by simpa only [Bool.or_eq_true, beq_iff_eq, decide_eq_true_eq] using out)
  case swarm =>
    exact fun h d a b l => (swarm_accesses h d a b).completes l fun c ⟨ne, lt⟩ =>
      if_neg (by simpa only [Bool.or_eq_true, beq_iff_eq, decide_eq_true_eq, not_or, Nat.not_le] using ⟨ne, lt⟩)
  case swadd => exact fun h a b l => (swadd_accesses h a b).completes l fun c lt => if_neg (Nat.not_le_of_lt lt)
  case syncArg => exact fun h a b l => (swadd_accesses h a b).faults l fun c big => if_pos big
  case swwait => exact fun h a b l => (swwait_accesses h a b).blocks l
  case swrd => exact fun h d a l => (swrd_accesses h d a).sent l
  case segld => exact fun h d a l => (segld_accesses h a d).blocks l
  case segst => exact fun h a b l => (segst_accesses h a b).sent l
  case segrd => exact fun h hi d a => .of_go (fun _ => rfl) fun c _ => rfl
  case kabs => exact fun h d a l => (kabs_accesses h d a).sent l
  case swarmFault => exact fun h d a b e => (swarm_accesses h d a b).refused e
  case swaddFault => exact fun h a b e => (swadd_accesses h a b).refused e
  case swwaitFault => exact fun h a b e => (swwait_accesses h a b).refused e
  case swrdFault => exact fun h d a e => (swrd_accesses h d a).refused e
  case segldFault => exact fun h d a e => (segld_accesses h a d).refused e
  case segstFault => exact fun h a b e => (segst_accesses h a b).refused e
  case kabsFault => exact fun h d a e => (kabs_accesses h d a).refused e

end Sys2Proof.Machine
end

section

/-! ## Steps (R39, R69, R70)

What a step does with an empty list of moves, with the next move of the list, and with an event. -/

namespace Sys2Proof.Machine

open Sys2Proof

theorem step_of_idle {s : State} (timed : s.clk.timed = []) (agenda : s.clk.agenda = []) (due : s.clk.due = []) :
    step s = turnOrFrame s := by
  simp only [step, timed, agenda, due]

theorem step_of_timed {s : State} {i : Instr} {r : List Instr} (timed : s.clk.timed = i :: r) :
    step s = event i { s with clk := { s.clk with timed := r } } := by
  simp only [step, timed]

theorem step_of_due {s : State} {i : Instr} {r : List Instr} (timed : s.clk.timed = []) (agenda : s.clk.agenda = [])
    (due : s.clk.due = i :: r) : step s = event i { s with clk := { s.clk with due := r } } := by
  simp only [step, timed, agenda, due]

theorem step_of_event {s : State} {i : Instr} {r : List Move} (timed : s.clk.timed = []) (agenda : s.clk.agenda = .event i :: r) :
    step s = event i (State.takeEvent { s with clk := { s.clk with agenda := r } } i) := by
  simp only [step, timed, agenda]

theorem step_of_turn {s : State} {r : List Move} (timed : s.clk.timed = []) (agenda : s.clk.agenda = .turn :: r) :
    step s = turnOrFrame { s with clk := { s.clk with agenda := r } } := by
  simp only [step, timed, agenda]

theorem turnOrFrame_of_nextTurn {s : State} {core slot : Nat} (next : s.nextTurn = some (core, slot)) : turnOrFrame s = turn core slot s := by
  simp only [turnOrFrame, next]

section
variable {s : State} {core slot : Nat} {t : Strand} (here : s.strand core slot = some t)
include here

/-- A turn with a cached word runs the instruction the word decodes to. -/
theorem turn_of_decode {w : Word} {i : Instr} (cached : s.cached core t = some w) (dec : decode (s.decCtx core slot) w = some i) :
    turn core slot s = exec i (s.takeTurn core slot w) := by
  simp only [turn, here, State.fetched, cached, Option.map_some, dec]

/-- A cached word that does not decode is the illegal encoding (R40). -/
theorem turn_of_illegal {w : Word} (cached : s.cached core t = some w) (dec : decode (s.decCtx core slot) w = none) :
    turn core slot s = exec (.illegalEncoding w) (s.takeTurn core slot w) := by
  simp only [turn, here, State.fetched, cached, Option.map_some, dec]

/-- Without the word the fetch is asked for (R70). -/
theorem turn_of_uncached (cached : s.cached core t = none) :
    turn core slot s = .next ((s.atTurn core slot).pushNew (.fetchFill core slot)) := by
  simp only [turn, here, State.fetched, cached, Option.map_none]

end

/-- The turn of a strand whose word decodes. -/
theorem turnOrFrame_of_decode {s : State} {core slot : Nat} {t : Strand} {w : Word} {i : Instr}
    (next : s.nextTurn = some (core, slot)) (here : s.strand core slot = some t) (cached : s.cached core t = some w)
    (dec : decode (s.decCtx core slot) w = some i) : turnOrFrame s = exec i (s.takeTurn core slot w) := by
  rw [turnOrFrame_of_nextTurn next, turn_of_decode here cached dec]

/-- An event that is not put aside is performed. -/
theorem event_of_not_deferred {s : State} {i : Instr} (event_ : isWord i = false) (now : s.defer i = none) : event i s = exec i s := by
  simp only [event, event_, Bool.false_eq_true, if_false, now]

/-- A taken turn gives the strand its word, and a follower its leader's decision (R149, R150). -/
theorem State.takeTurn_of_strand {s : State} {core slot : Nat} {t : Strand} (w : Word) (here : s.strand core slot = some t) :
    s.takeTurn core slot w = (s.atTurn core slot).setStrand core slot
      { t with ir := w, lead := if t.group ≠ 0 ∧ t.colI ≠ 0 then s.decides core slot t else t.lead } := by
  have same : (s.atTurn core slot).strand core slot = some t := here
  simp only [State.takeTurn, same, Bool.and_eq_true, bne_iff_ne]

/-- Settles O55. -/
theorem stepRunsTheDecodedInstruction : Obligations.StepRunsTheDecodedInstruction := by
  unfold Obligations.StepRunsTheDecodedInstruction
  refine ⟨?decoded, ?listed, ?illegal, ?uncached, ?frame, ?timed, ?due, ?event, ?corrected, ?taken⟩
  case decoded =>
    intro s core slot t w i timed agenda due next here cached dec
    exact (step_of_idle timed agenda due).trans (turnOrFrame_of_decode next here cached dec)
  case listed =>
    intro s core slot t w i r timed agenda next here cached dec
    exact (step_of_turn timed agenda).trans (turnOrFrame_of_decode next here cached dec)
  case illegal =>
    intro s core slot t w timed agenda due next here cached dec
    rw [step_of_idle timed agenda due, turnOrFrame_of_nextTurn next, turn_of_illegal here cached dec]
  case uncached =>
    intro s core slot t timed agenda due next here cached
    rw [step_of_idle timed agenda due, turnOrFrame_of_nextTurn next, turn_of_uncached here cached]
  case frame =>
    intro s timed agenda due next
    rw [step_of_idle timed agenda due, turnOrFrame, next]
  case timed => exact fun s i r timed word now => (step_of_timed timed).trans (event_of_not_deferred word now)
  case due => exact fun s i r timed agenda due word now => (step_of_due timed agenda due).trans (event_of_not_deferred word now)
  case event =>
    rintro s i r s1 timed agenda word rfl now
    exact (step_of_event timed agenda).trans (event_of_not_deferred word now)
  case corrected =>
    intro s f r timed agenda
    simp only [step, timed, agenda]
  case taken =>
    intro s core slot w t here
    rw [State.takeTurn_of_strand w here]
    exact ⟨rfl, State.strand_setStrand _ core slot _, rfl, elsewhere_setStrand _ core slot _⟩

end Sys2Proof.Machine
end

section

/-! ## Entering an instruction (R30, R31, R72, R73, R107, R165, R166)

When the checks of issue pass, and what changes when an instruction enters. -/

namespace Sys2Proof.Machine

open Sys2Proof

section
variable {f : Form} {c : Ctx}

theorem Ctx.settle_sound (sound : ∀ n ∈ c.t.failing, n ∉ f.regs) : c.settle f = c := by
  simp only [Ctx.settle, State.settle_sound sound]

theorem Ctx.repair_sound (sound : ∀ n ∈ c.t.failing, n ∉ f.regs) : c.repair f = c := by
  have none : (c.t.failing.filter f.regs.contains).isEmpty = true := by
    simpa only [List.isEmpty_iff, List.filter_eq_nil_iff, List.contains_eq_mem, decide_eq_true_eq] using sound
  exact if_pos none

/-- The checks pass: registers in the window and not lost, and ports that the strand may use and that reach a core not fenced. -/
theorem Ctx.checks_pass (window : f.outside c.t.size = false) (lost : f.lost c.t = none)
    (ports : ∀ p ∈ f.pop.toList ++ f.push.toList, c.s.portBad c.t c.slot p = false)
    (reads : ∀ p ∈ f.pop.toList, c.s.portFenced c.core c.slot c.t p false = false)
    (writes : ∀ p ∈ f.push.toList, c.s.portFenced c.core c.slot c.t p true = false) : c.checks f = none := by
  have bad : (f.pop.toList ++ f.push.toList).any (c.s.portBad c.t c.slot) = false := by simpa only [List.any_eq_false, Bool.not_eq_true] using ports
  have fencedRead : f.pop.toList.any (c.s.portFenced c.core c.slot c.t · false) = false := by
    simpa only [List.any_eq_false, Bool.not_eq_true] using reads
  have fencedWrite : f.push.toList.any (c.s.portFenced c.core c.slot c.t · true) = false := by
    simpa only [List.any_eq_false, Bool.not_eq_true] using writes
  simp only [Ctx.checks, window, lost, bad, fencedRead, fencedWrite, Bool.or_self, Option.map_none, Bool.false_eq_true, if_false, ite_self]

/-- An instruction whose predicate is true and whose checks pass goes on to its operands. -/
theorem executesIn_of_checks (landed : Bool) (true_ : c.s.predTrue f c.t = true) (sound : ∀ n ∈ c.t.failing, n ∉ f.regs)
    (checks : c.checks f = none) : executesIn f c landed = operandsReady f c landed := by
  simp only [executesIn, true_, c.settle_sound sound, checks, c.repair_sound sound, Bool.not_true, Bool.false_eq_true, if_false,
    Option.isSome_none]

end

section
variable {f : Form} {c : Ctx} {landed : Bool} (true_ : c.s.predTrue f c.t = true) (window : f.outside c.t.size = false)
include true_ window

theorem executesIn_of_no_port (pop : f.pop = none) (push : f.push = none) (lost : f.lost c.t = none)
    (sound : ∀ n ∈ c.t.failing, n ∉ f.regs) (waits : f.rel = false ∨ c.s.farStores c.t.uid = false) : executesIn f c landed = some c := by
  have checks : c.checks f = none := Ctx.checks_pass window lost (by simp [pop, push]) (by simp [pop]) (by simp [push])
  have ready : (f.rel && c.s.farStores c.t.uid) = false := Bool.and_eq_false_iff.2 waits
  rw [executesIn_of_checks landed true_ sound checks]
  simp only [operandsReady, ready, push, pop, Bool.false_eq_true, if_false]

theorem executesIn_of_pop {p : GOp} {v : Word} {u : State} (pop : f.pop = some p) (push : f.push = none) (lost : f.lost c.t = none)
    (sound : ∀ n ∈ c.t.failing, n ∉ f.regs) (rel : f.rel = false) (good : c.s.portBad c.t c.slot p = false)
    (live : c.s.portFenced c.core c.slot c.t p false = false) (popped : c.s.popPort c.core c.slot c.t p = some (v, u)) :
    executesIn f c landed = some (c.take landed v u) := by
  have checks : c.checks f = none :=
    Ctx.checks_pass window lost (by simpa [pop, push] using good) (by simpa [pop] using live) (by simp [push])
  rw [executesIn_of_checks landed true_ sound checks]
  simp only [operandsReady, rel, Bool.false_and, Bool.false_eq_true, if_false, push, pop, popped, Option.map_some]

theorem executesIn_of_push {p : GOp} (pop : f.pop = none) (push : f.push = some p) (lost : f.lost c.t = none)
    (sound : ∀ n ∈ c.t.failing, n ∉ f.regs) (rel : f.rel = false) (good : c.s.portBad c.t c.slot p = false)
    (live : c.s.portFenced c.core c.slot c.t p true = false) (credit : c.s.credits (c.s.portQ c.t c.slot p) ≠ 0) :
    executesIn f c landed = some c := by
  have checks : c.checks f = none :=
    Ctx.checks_pass window lost (by simpa [pop, push] using good) (by simp [pop]) (by simpa [push] using live)
  have left_ : (c.s.credits (c.s.portQ c.t c.slot p) == 0) = false := beq_false_of_ne credit
  rw [executesIn_of_checks landed true_ sound checks]
  simp only [operandsReady, rel, Bool.false_and, Bool.false_eq_true, if_false, push, left_, Bool.and_false]

end

section
variable {f : Form} {s : State} {core slot : Nat} {t : Strand} (cur : s.clk.cur = some (core, slot)) (here : s.strand core slot = some t)
include cur here

/-- Outside a switch point an instruction executes in its strand's state (R72). -/
theorem enters_of_no_switch (runs : s.switches f t = false) :
    enters f s = executesIn f { s := s, core := core, slot := slot, t := t, word := f.word } false := by
  simp only [enters, cur, here, runs, Bool.false_eq_true, if_false]

/-- A strand with no operation executes at a switch point as elsewhere (R73). -/
theorem enters_of_no_operation (idle : t.ops = []) :
    ∃ landed, enters f s = executesIn f { s := s, core := core, slot := slot, t := { t with atSwitch := false }, word := f.word } landed := by
  cases switch : s.switches f t with
  | false =>
    have off : t.atSwitch = false := by
      simp only [State.switches, Bool.or_eq_false_iff] at switch
      exact switch.1.2
    refine ⟨false, (enters_of_no_switch cur here switch).trans ?_⟩
    rw [← off]
  | true =>
    have nothing : (!t.outstanding.isEmpty || t.faulted.isSome || (s.pushShort t).isSome) = false := by
      simp only [Strand.outstanding, Strand.faulted, State.pushShort, idle, List.filter_nil, List.filterMap_nil, List.find?_nil,
        List.isEmpty_nil, Bool.not_true, Option.isSome_none, Bool.or_self]
    refine ⟨true, ?_⟩
    simp only [enters, cur, here, switch, nothing, s.land_nil core slot idle, if_true, Bool.false_eq_true, if_false]

/-- The window is checked first: a register outside it is WINDOW (R30). -/
theorem issue_outside (body : Ctx → Out) (runs : s.switches f t = false) (true_ : s.predTrue f t = true) (outside : f.outside t.size = true) :
    issue f s body = .next ((s.settle core t f.regs).1.faultAtIssue core slot (s.settle core t f.regs).2 { cls := 3, code := 0x10 } f.word) := by
  obtain ⟨es, k, ds, ns, settled⟩ := s.settle_eq core t f.regs
  have window : ((s.settle core t f.regs).2).size = t.size := by rw [settled]; rfl
  simp only [issue, cur, here, issueAt, runs, Bool.false_eq_true, if_false, execute, true_, if_true, Ctx.settle, Ctx.checks, window, outside]
  rfl

end

/-! ### What entering leaves (R72, R106, R165) -/

/-- The strands without what pairs their granules. -/
def State.unpairedStrands (s : State) : List ((Nat × Nat) × Strand) := s.strands.map fun e => (e.1, { e.2 with dups := [], noDup := [] })

/-- `u` has the memory, full/empty bits, accesses, units and frame of `s`, and its strands but for the pairings of their granules. -/
structure State.EntersAs (s u : State) : Prop where
  mem : u.mem = s.mem
  empty : u.empty = s.empty
  strands : u.unpairedStrands = s.unpairedStrands
  flights : u.flights = s.flights
  clusters : u.clusters = s.clusters
  net : u.net = s.net
  chips : u.chips = s.chips
  tlbis : u.tlbis = s.tlbis
  root : u.root = s.root
  frame : u.clk.frame = s.clk.frame

namespace State.EntersAs

theorem refl (s : State) : s.EntersAs s := ⟨rfl, rfl, rfl, rfl, rfl, rfl, rfl, rfl, rfl, rfl⟩

theorem trans {s u v : State} (h : s.EntersAs u) (g : u.EntersAs v) : s.EntersAs v :=
  ⟨g.mem.trans h.mem, g.empty.trans h.empty, g.strands.trans h.strands, g.flights.trans h.flights, g.clusters.trans h.clusters,
    g.net.trans h.net, g.chips.trans h.chips, g.tlbis.trans h.tlbis, g.root.trans h.root, g.frame.trans h.frame⟩

/-- Only the circulation unit, the register network, the cores and the clock within its frame have changed. -/
theorem of_eq {s u : State} {c : Circ} {f : Fabric} {ks : List (Nat × Core)} {k : Clock}
    (eq : u = { s with circ := c, fab := f, cores := ks, clk := k }) (frame : u.clk.frame = s.clk.frame) : s.EntersAs u := by
  subst eq
  exact ⟨rfl, rfl, rfl, rfl, rfl, rfl, rfl, rfl, rfl, frame⟩

theorem foldl {α : Type} {g : State → α → State} (each : ∀ (s : State) x, s.EntersAs (g s x)) (l : List α) (s : State) :
    s.EntersAs (l.foldl g s) :=
  List.foldlRecOn l g (motive := fun u => s.EntersAs u) (refl s) fun u kept x _ => kept.trans (each u x)

end State.EntersAs

theorem State.pushNew_entersAs (s : State) (i : Instr) : s.EntersAs (s.pushNew i) := by
  unfold State.pushNew
  split
  · exact .refl s
  · exact .of_eq rfl rfl

theorem State.pushWord_entersAs (s : State) (core slot : Nat) (q : QId) (v : Word) : s.EntersAs (s.pushWord core slot q v) := by
  unfold State.pushWord State.spend
  split <;> exact .of_eq rfl rfl

theorem settleGran_entersAs (core : Nat) (x : State × Strand) (g : Nat) : x.1.EntersAs (settleGran core x g).1 := by
  unfold settleGran
  dsimp only
  split
  · exact .of_eq rfl rfl
  · split
    · exact .of_eq rfl rfl
    · split
      · exact .of_eq rfl rfl
      · refine ⟨rfl, rfl, ?_, rfl, rfl, rfl, rfl, rfl, rfl, rfl⟩
        simp only [State.unpairedStrands, State.mapUid, List.map_map]
        refine List.map_congr_left fun e _ => ?_
        simp only [Function.comp_apply]
        split <;> rfl

theorem State.settle_entersAs (s : State) (core : Nat) (t : Strand) (regs : List Nat) : s.EntersAs (s.settle core t regs).1 :=
  List.foldlRecOn _ (settleGran core) (motive := fun x => s.EntersAs x.1) (.refl s) fun x kept g _ => kept.trans (settleGran_entersAs core x g)

theorem State.land_entersAs (s : State) (core slot : Nat) (t : Strand) : s.EntersAs (s.land core slot t).1 := by
  change s.EntersAs ((s.landing t.ops).foldl (landOp core slot) (s, t)).1
  refine List.foldlRecOn (s.landing t.ops) (landOp core slot) (b := (s, t)) (motive := fun x => s.EntersAs x.1) (.refl s) fun x kept o _ =>
    kept.trans ?_
  unfold landOp
  dsimp only
  split
  case h_7 => exact State.pushWord_entersAs _ _ _ _ _
  all_goals exact .refl _

theorem Ctx.repair_entersAs (c : Ctx) (f : Form) : c.s.EntersAs (c.repair f).s := by
  unfold Ctx.repair
  dsimp only
  split
  · exact .refl _
  · exact .of_eq rfl rfl

theorem State.kickInbox_entersAs (s : State) (core : Nat) : s.EntersAs (s.kickInbox core) :=
  .trans (.foldl (fun s _ => s.pushNew_entersAs _) _ _) (.foldl (fun s _ => s.pushNew_entersAs _) _ _)

theorem State.popPort_entersAs {s u : State} {core slot : Nat} {t : Strand} {p : GOp} {v : Word} (h : s.popPort core slot t p = some (v, u)) :
    s.EntersAs u := by
  have setCore (c : Core) : s.EntersAs (s.setCore core c) := .of_eq rfl rfl
  unfold State.popPort at h
  dsimp only at h
  split at h <;> obtain ⟨m, _, eq⟩ := Option.map_eq_some_iff.1 h <;> cases eq
  · exact (setCore _).trans (State.kickInbox_entersAs _ core)
  · exact (setCore _).trans (.of_eq rfl rfl)

theorem Ctx.take_place (c : Ctx) (landed : Bool) (v : Word) (u : State) :
    (c.take landed v u).core = c.core ∧ (c.take landed v u).slot = c.slot ∧ u.EntersAs (c.take landed v u).s := by
  unfold Ctx.take
  cases landed with
  | true => exact ⟨rfl, rfl, .refl u⟩
  | false => exact ⟨rfl, rfl, .of_eq rfl rfl⟩

/-- What the operands leave: the slot, and the state but for a popped word. -/
theorem operandsReady_entersAs {f : Form} {c c' : Ctx} {landed : Bool} (h : operandsReady f c landed = some c') :
    c'.core = c.core ∧ c'.slot = c.slot ∧ c.s.EntersAs c'.s := by
  unfold operandsReady at h
  split at h
  · cases h
  · split at h
    · split at h <;> cases h
      exact ⟨rfl, rfl, .refl _⟩
    · split at h
      · cases h
        exact ⟨rfl, rfl, .refl _⟩
      · obtain ⟨⟨v, u⟩, popped, rfl⟩ := Option.map_eq_some_iff.1 h
        obtain ⟨core, slot, kept⟩ := c.take_place landed v u
        exact ⟨core, slot, (State.popPort_entersAs popped).trans kept⟩

theorem executesIn_entersAs {f : Form} {c c' : Ctx} {landed : Bool} (h : executesIn f c landed = some c') :
    c'.core = c.core ∧ c'.slot = c.slot ∧ c.s.EntersAs c'.s := by
  unfold executesIn at h
  split at h
  · cases h
  · split at h
    · cases h
    · obtain ⟨core, slot, kept⟩ := operandsReady_entersAs h
      have place : ((c.settle f).repair f).core = c.core ∧ ((c.settle f).repair f).slot = c.slot := by
        unfold Ctx.repair
        dsimp only
        split <;> exact ⟨rfl, rfl⟩
      exact ⟨core.trans place.1, slot.trans place.2,
        ((c.s.settle_entersAs c.core c.t f.regs).trans (Ctx.repair_entersAs (c.settle f) f)).trans kept⟩

/-- Entering an instruction takes place in the slot whose turn it is, and leaves all but pairings, ports and messages. -/
theorem enters_entersAs {f : Form} {s : State} {c : Ctx} (h : enters f s = some c) :
    s.clk.cur = some (c.core, c.slot) ∧ s.EntersAs c.s := by
  unfold enters at h
  split at h
  · cases h
  · rename_i core slot cur
    split at h
    · cases h
    · split at h
      · split at h
        · cases h
        · obtain ⟨hcore, hslot, kept⟩ := executesIn_entersAs h
          exact ⟨by rw [cur, hcore, hslot], (s.land_entersAs core slot _).trans kept⟩
      · obtain ⟨hcore, hslot, kept⟩ := executesIn_entersAs h
        exact ⟨by rw [cur, hcore, hslot], kept⟩

/-- Settles O50: with the checks passed the operands decide; what entering leaves is `enters_entersAs`. -/
theorem instructionsEnter : Obligations.InstructionsEnter := by
  unfold Obligations.InstructionsEnter
  refine ⟨?executes, ?noOperation, ?pops, ?pushes, ?outside, ?leaves⟩
  case executes =>
    intro f s core slot t cur here runs true_ window pop push lost sound rel
    exact (enters_of_no_switch cur here runs).trans (executesIn_of_no_port true_ window pop push lost sound (.inl rel))
  case noOperation =>
    intro f s core slot t cur here idle true_ window pop push lost sound waits
    obtain ⟨landed, enter⟩ := enters_of_no_operation (f := f) cur here idle
    exact enter.trans (executesIn_of_no_port true_ window pop push lost sound waits)
  case pops =>
    intro f s core slot t p v s1 cur here runs true_ window pop push lost sound rel good live popped
    exact (enters_of_no_switch cur here runs).trans
      (executesIn_of_pop (c := { s := s, core := core, slot := slot, t := t, word := f.word }) true_ window pop push lost sound rel good live popped)
  case pushes =>
    intro f s core slot t p cur here runs true_ window pop push lost sound rel good live credit
    exact (enters_of_no_switch cur here runs).trans (executesIn_of_push true_ window pop push lost sound rel good live credit)
  case outside =>
    rintro i s core slot t x word trel tzero cur here runs true_ outside rfl
    obtain ⟨body, issued⟩ := exec_issue i word trel tzero
    exact (issued s).trans (issue_outside cur here body runs true_ outside)
  case leaves =>
    intro f s c enter
    obtain ⟨cur, h⟩ := enters_entersAs enter
    exact ⟨cur, h.mem, h.empty, h.strands, h.flights, h.clusters, h.net, h.chips, h.tlbis, h.root, h.frame⟩

end Sys2Proof.Machine
end

section

/-! ## What a register write leaves (R72, R74, R107, R109)

Writes of a general, vector or predicate register, of one field each, and the strand after a register-only instruction. -/

namespace Sys2Proof.Machine

open Sys2Proof

/-! ### Superseded results (R74) -/

/-- The operations as they are but for what later writes have superseded. -/
def unsuperseded (os : List Op) : List Op := os.map fun o => { o with sup := 0 }

theorem Op.supersede_sup (o : Op) (n : Nat) : { o.supersede n with sup := 0 } = { o with sup := 0 } := by
  unfold Op.supersede
  split
  · split <;> rfl
  · split <;> rfl
  · rfl

theorem Op.supersedeP_sup (o : Op) (n : Nat) : { o.supersedeP n with sup := 0 } = { o with sup := 0 } := by
  unfold Op.supersedeP
  split
  · split <;> rfl
  · rfl

theorem unsuperseded_supersede (os : List Op) (n : Nat) : unsuperseded (os.map (·.supersede n)) = unsuperseded os := by
  rw [unsuperseded, List.map_map]
  exact List.map_congr_left fun o _ => o.supersede_sup n

theorem unsuperseded_supersedeP (os : List Op) (n : Nat) : unsuperseded (os.map (·.supersedeP n)) = unsuperseded os := by
  rw [unsuperseded, List.map_map]
  exact List.map_congr_left fun o _ => o.supersedeP_sup n

/-! ### Register files -/

theorem Strand.putG_g_ne (t : Strand) {n m : Nat} (v : Word) (ne : m ≠ n) : (t.putG n v).g m = t.g m := setAt_getD_ne t.regs n m v 0 ne

theorem Strand.putG_sameButResult (t : Strand) (n : Nat) (v : Word) : t.sameButResult (t.putG n v) := rfl

theorem Strand.sameButResult.trans {t u w : Strand} (h : t.sameButResult u) (g : u.sameButResult w) : t.sameButResult w := by
  unfold Strand.sameButResult at h g ⊢
  rw [← g] at h
  exact h

/-- A write of a vector register is a write of some of its eight registers (R129). -/
theorem Strand.putV_frame (t : Strand) (k : Nat) (mask : BitVec 8) (v : Vec) :
    t.sameButResult (t.putV k mask v) ∧ ∀ m, (m < 8 * k ∨ 8 * k + 8 ≤ m) → (t.putV k mask v).g m = t.g m := by
  refine List.foldlRecOn (List.range 8) _ (motive := fun u : Strand => t.sameButResult u ∧ ∀ m, (m < 8 * k ∨ 8 * k + 8 ≤ m) → u.g m = t.g m)
    ⟨rfl, fun _ _ => rfl⟩ fun u ⟨same, regs⟩ j hj => ?_
  have lt := List.mem_range.1 hj
  split
  · exact ⟨same.trans (u.putG_sameButResult ..), fun m out => (u.putG_g_ne _ (by omega)).trans (regs m out)⟩
  · exact ⟨same, regs⟩

theorem Strand.putV_frozen (t : Strand) (k : Nat) (mask : BitVec 8) (v : Vec) :
    (t.putV k mask v).pc = t.pc ∧ (t.putV k mask v).cnt = t.cnt :=
  List.foldlRecOn (List.range 8) _ (motive := fun u : Strand => u.pc = t.pc ∧ u.cnt = t.cnt) ⟨rfl, rfl⟩ fun u kept j _ => by
    split <;> exact kept

/-- The strand with these operations. -/
def Strand.withOps (x : Strand) (os : List Op) : Strand := { x with ops := os }

theorem Strand.withOps_fields (x : Strand) (os : List Op) :
    (x.withOps os).regs = x.regs ∧ (x.withOps os).pc = x.pc ∧ (x.withOps os).cnt = x.cnt := ⟨rfl, rfl, rfl⟩

theorem Strand.g_congr {x y : Strand} (regs : x.regs = y.regs) (m : Nat) : x.g m = y.g m := by rw [Strand.g, Strand.g, regs]

theorem Strand.withOps_same {t x : Strand} (os : List Op) (same : t.sameButResult x) : t.sameButResult (x.withOps os) := same.trans rfl

theorem Strand.withOps_same_pred {t x : Strand} (os : List Op) (same : t.sameButResult { x with pred := t.pred }) :
    t.sameButResult { x.withOps os with pred := t.pred } := same.trans rfl

theorem Strand.setV_eq (t : Strand) (k : Nat) (v : Vec) : ∃ os, t.setV k v = (t.putV k 0xFF v).withOps os := ⟨_, rfl⟩

theorem Strand.setP_eq (t : Strand) (n : Nat) (b : Bool) : ∃ os, t.setP n b = (t.putP n b).withOps os := ⟨_, rfl⟩

/-- The instruction's own write of a vector register: results that it supersedes aside, the write of its registers. -/
theorem Strand.setV_frame (t : Strand) (k : Nat) (v : Vec) :
    t.sameButResult (t.setV k v) ∧ (∀ m, (m < 8 * k ∨ 8 * k + 8 ≤ m) → (t.setV k v).g m = t.g m) ∧ (t.setV k v).pc = t.pc ∧
      (t.setV k v).cnt = t.cnt := by
  obtain ⟨same, regs⟩ := t.putV_frame k 0xFF v
  obtain ⟨pc, cnt⟩ := t.putV_frozen k 0xFF v
  obtain ⟨os, eq⟩ := t.setV_eq k v
  obtain ⟨hregs, hpc, hcnt⟩ := (t.putV k 0xFF v).withOps_fields os
  rw [eq]
  exact ⟨Strand.withOps_same os same, fun m out => (Strand.g_congr hregs m).trans (regs m out), hpc.trans pc, hcnt.trans cnt⟩

theorem Strand.setV_ops (t : Strand) (k : Nat) (v : Vec) : unsuperseded (t.setV k v).ops = unsuperseded t.ops :=
  List.foldlRecOn (List.range 8) _ (motive := fun os : List Op => unsuperseded os = unsuperseded t.ops) rfl fun os kept j _ =>
    (unsuperseded_supersede os (8 * k + j)).trans kept

/-- A write of one predicate register leaves the others, and p0 reads 1 (R109). -/
theorem Strand.putP_frame (t : Strand) (n : Nat) (b : Bool) :
    t.sameButResult { t.putP n b with pred := t.pred } ∧ (t.putP n b).regs = t.regs ∧ (t.putP n b).pc = t.pc ∧ (t.putP n b).cnt = t.cnt := by
  unfold Strand.putP
  split <;> exact ⟨rfl, rfl, rfl, rfl⟩

/-- The instruction's own write of a predicate register. -/
theorem Strand.setP_frame (t : Strand) (n : Nat) (b : Bool) :
    t.sameButResult { t.setP n b with pred := t.pred } ∧ (t.setP n b).regs = t.regs ∧ (t.setP n b).pc = t.pc ∧ (t.setP n b).cnt = t.cnt := by
  obtain ⟨same, kept⟩ := t.putP_frame n b
  obtain ⟨os, eq⟩ := t.setP_eq n b
  obtain ⟨hregs, hpc, hcnt⟩ := (t.putP n b).withOps_fields os
  rw [eq, hregs, hpc, hcnt]
  exact ⟨Strand.withOps_same_pred os same, kept⟩

theorem Strand.putP_pred (t : Strand) (n : Nat) (b : Bool) {k : Nat} (ne : k ≠ n) :
    (t.putP n b).pred.getLsbD k = t.pred.getLsbD k := by
  have bit : (BitVec.ofNat 16 (2 ^ n)).getLsbD k = false := by
    rw [BitVec.getLsbD_ofNat, Nat.testBit_two_pow_of_ne (Ne.symm ne), Bool.and_false]
  unfold Strand.putP
  split
  · rfl
  · cases b
    · by_cases lt : k < 16
      · simp only [Bool.false_eq_true, if_false, BitVec.getLsbD_and, BitVec.getLsbD_not, bit, lt, decide_true, Bool.not_false,
          Bool.and_self, Bool.and_true]
      · simp only [Bool.false_eq_true, if_false, BitVec.getLsbD_of_ge _ k (Nat.le_of_not_lt lt)]
    · simp only [if_true, BitVec.getLsbD_or, bit, Bool.or_false]

/-! ### The strand after the instruction -/

/-- The strand `x` with the flags `fl` raised, one instruction further: what falling through stores back (R91, R94). -/
def Strand.passed (t x : Strand) (fl : FlagWord) : Strand :=
  { ({ x with fflg := t.fflg ||| fl } : Strand).issued with pc := nextPc t.pc }

theorem Strand.passed_counts {t x : Strand} (fl : FlagWord) (cnt : x.cnt = t.cnt) :
    (t.passed x fl).pc = nextPc t.pc ∧ (t.passed x fl).cnt = (t.cnt + 1) % 2 ^ 48 ∧
      ∀ k, t.fflg.getLsbD k = true → (t.passed x fl).fflg.getLsbD k = true := by
  refine ⟨rfl, congrArg (fun n => (n + 1) % 2 ^ 48) cnt, fun k raised => ?_⟩
  change (t.fflg ||| fl).getLsbD k = true
  rw [BitVec.getLsbD_or, raised, Bool.true_or]

theorem Strand.passed_fields (t x : Strand) (fl : FlagWord) :
    (t.passed x fl).regs = x.regs ∧ (t.passed x fl).pred = x.pred ∧ (t.passed x fl).ops = x.ops := ⟨rfl, rfl, rfl⟩

theorem Strand.passed_same_pred {t x : Strand} (fl : FlagWord) (same : t.sameButResult { x with pred := t.pred }) :
    t.sameButResult { t.passed x fl with pred := t.pred } :=
  same.trans rfl

theorem Strand.passed_same {t x : Strand} (fl : FlagWord) (same : t.sameButResult x) : t.sameButResult (t.passed x fl) :=
  same.trans rfl

section
variable {c : Ctx} (free : c.popOp = none)
include free

theorem Ctx.put_g_done (n : Fin 128) (v : Word) (fl : FlagWord) :
    (c.put (.g n) v fl).done = c.s.after c.core c.slot (c.t.passed (c.t.setG n v) fl) := by
  simp only [Ctx.put, free]
  rfl

theorem Ctx.put_z_done (v : Word) (fl : FlagWord) : (c.put .z v fl).done = c.s.after c.core c.slot (c.t.passed c.t fl) := by
  simp only [Ctx.put, free]
  rfl

theorem Ctx.put_port_done {p : GOp} (port : ∀ n, p ≠ .g n) (nz : p ≠ .z) (v : Word) (fl : FlagWord) :
    (c.put p v fl).done = (c.s.pushWord c.core c.slot (c.s.portQ c.t c.slot p) v).after c.core c.slot (c.t.passed c.t fl) := by
  cases p
  case g n => exact absurd rfl (port n)
  case z => exact absurd rfl nz
  all_goals
    simp only [Ctx.put, free]
    rfl

theorem Ctx.putV_done (d : Fin 16) (v : Vec) (fl : FlagWord) :
    (c.putV d v fl).done = c.s.after c.core c.slot (c.t.passed (c.t.setV d v) fl) := by
  obtain ⟨_, _, pc, _⟩ := c.t.setV_frame d v
  simp only [Ctx.putV, free, Ctx.done, Strand.passed]
  rw [pc]

theorem Ctx.putP_done (d : Fin 16) (b : Bool) (fl : FlagWord) :
    (c.putP d b fl).done = c.s.after c.core c.slot (c.t.passed (c.t.setP d b) fl) := by
  obtain ⟨_, _, pc, _⟩ := c.t.setP_frame d b
  simp only [Ctx.putP, free, Ctx.done, Strand.passed]
  rw [pc]

end

/-- A result that goes to the pending operation of a pop changes that operation alone (R167). -/
theorem Ctx.hold_done (c : Ctx) (id : Nat) (d : Dest) (v : Vec) (fl : FlagWord) :
    ∃ u, (c.hold id d v fl).done = c.s.after c.core c.slot u ∧ c.t.sameButResult u ∧ u.regs = c.t.regs ∧ u.fflg = c.t.fflg ∧
      (∀ o ∈ c.t.ops, o.id ≠ id → o ∈ u.ops) ∧ u.pc = nextPc c.t.pc ∧ u.cnt = (c.t.cnt + 1) % 2 ^ 48 := by
  refine ⟨_, rfl, rfl, rfl, rfl, fun o mem ne => ?_, rfl, rfl⟩
  exact List.mem_map.2 ⟨o, mem, if_neg (by simpa using ne)⟩

section
variable {i : Instr} {s : State} {c : Ctx} (enter : enters (formOf i) s = some c)
include enter

theorem exec_destG {d : GOp} (dest : destG i = some d) : ∃ v fl, exec i s = .next (c.put d v fl).done := by
  obtain ⟨g, body⟩ := destG_body dest
  exact ⟨_, _, (body s).trans (issue_go enter rfl)⟩

theorem exec_destV {d : Fin 16} (dest : destV i = some d) : ∃ v fl, exec i s = .next (c.putV d v fl).done := by
  obtain ⟨g, body⟩ := destV_body dest
  exact ⟨_, _, (body s).trans (issue_go enter rfl)⟩

theorem exec_destP {d : Fin 16} (dest : destP i = some d) : ∃ v fl, exec i s = .next (c.putP d v fl).done := by
  obtain ⟨g, body⟩ := destP_body dest
  exact ⟨_, _, (body s).trans (issue_go enter rfl)⟩

/-- A register-only instruction that pops a port holds its result. -/
theorem exec_holds {id : Nat} (dest : (destG i).isSome = true ∨ (destV i).isSome = true ∨ (destP i).isSome = true) (pop : c.popOp = some id) :
    ∃ d v fl, exec i s = .next (c.hold id d v fl).done := by
  rcases dest with dest | dest | dest <;> obtain ⟨d, hd⟩ := Option.isSome_iff_exists.1 dest
  · obtain ⟨v, fl, runs⟩ := exec_destG enter hd
    simp only [Ctx.put, pop] at runs
    exact ⟨_, _, _, runs⟩
  · obtain ⟨v, fl, runs⟩ := exec_destV enter hd
    simp only [Ctx.putV, pop] at runs
    exact ⟨_, _, _, runs⟩
  · obtain ⟨v, fl, runs⟩ := exec_destP enter hd
    simp only [Ctx.putP, pop] at runs
    exact ⟨_, _, _, runs⟩

end

/-! ### A strand back in its slot (R152) -/

theorem aget_map {α β : Type} [DecidableEq α] (f : α → β → β) (l : List (α × β)) (a : α) :
    aget (l.map fun e => (e.1, f e.1 e.2)) a = (aget l a).map (f a) := by
  induction l with
  | nil => rfl
  | cons e r ih =>
    simp only [List.map_cons, aget]
    split
    case isTrue same => rw [same, Option.map_some]
    case isFalse => exact ih

/-- The leader's decision as the followers that are still to issue its last word keep it. -/
def Strand.gives (t u : Strand) : Strand :=
  if t.colI == 0 && u.group == t.group && decide (u.colN < t.colN) then { u with lead := some t.decision, gword := some (u.colN, t.ir) } else u

theorem State.after_ends {s : State} {core slot : Nat} {t : Strand} {n : Nat} (ends : t.colEnd = some n) (last : ¬ t.colN < n) :
    ∃ k, s.after core slot t = { s.setStrand core slot t.alone with
      strands := (s.setStrand core slot t.alone).strands.map fun e => (e.1, t.gives e.2), clk := k } := by
  have eq : s.after core slot t = State.wakeSpans { s.setStrand core slot t.alone with
      strands := (s.setStrand core slot t.alone).strands.map fun e => (e.1, t.gives e.2) } t.group := by
    simp only [State.after, ends, if_neg last]
    congr 2
    refine List.map_congr_left fun e _ => ?_
    unfold Strand.gives
    split <;> rfl
  obtain ⟨k, woken⟩ := State.wakeSpans_eq _ t.group
  exact ⟨k, eq.trans woken⟩

/-- A member of an ending group is out of it once it has issued the last word; others change at most in what they take from their leader. -/
theorem State.after_group {s : State} {core slot : Nat} {t : Strand} {n : Nat} (member : t.group ≠ 0) (ends : t.colEnd = some n) :
    (s.after core slot t).strand core slot = some (if t.colN < n then { t with lead := none } else t.alone) ∧
    ∀ core' slot', (core', slot') ≠ (core, slot) →
      ((s.after core slot t).strand core' slot').map (fun x => { x with lead := none, gword := none }) =
        (s.strand core' slot').map (fun x => { x with lead := none, gword := none }) := by
  by_cases early : t.colN < n
  · have eq : s.after core slot t = s.setStrand core slot { t with lead := none } := by simp only [State.after, ends, if_pos early]
    rw [eq, if_pos early]
    exact ⟨s.strand_setStrand .., fun core' slot' ne => congrArg _ (s.strand_setStrand_ne _ ne)⟩
  · obtain ⟨k, eq⟩ := State.after_ends (s := s) (core := core) (slot := slot) ends early
    have strands (core' slot') : (s.after core slot t).strand core' slot' = ((s.setStrand core slot t.alone).strand core' slot').map t.gives := by
      rw [eq]
      exact aget_map (fun _ => t.gives) _ _
    rw [if_neg early, strands, State.strand_setStrand]
    refine ⟨?self, fun core' slot' ne => ?other⟩
    case self =>
      have out : (t.alone.group == t.group) = false := beq_false_of_ne (Ne.symm member)
      simp only [Option.map_some, Strand.gives, out, Bool.and_false, Bool.false_and, Bool.false_eq_true, if_false]
    case other =>
      rw [strands, s.strand_setStrand_ne _ ne, Option.map_map]
      congr 1
      funext x
      simp only [Function.comp_apply, Strand.gives]
      split <;> rfl

/-- Settles O51: the body of each instruction writes one destination, and `after` puts the strand back. -/
theorem registerFrames : Obligations.RegisterFrames := by
  unfold Obligations.RegisterFrames
  refine ⟨?general, ?zero, ?vector, ?predicate, ?port, ?pops, ?alone, ?group, ?elsewhere, ?push⟩
  case general =>
    intro i n s c dest enter free
    obtain ⟨v, fl, runs⟩ := exec_destG enter dest
    rw [c.put_g_done free] at runs
    exact ⟨_, runs, Strand.passed_same fl rfl, fun m ne => c.t.putG_g_ne v ne, unsuperseded_supersede c.t.ops n, Strand.passed_counts fl rfl⟩
  case zero =>
    intro i s c dest enter free
    obtain ⟨v, fl, runs⟩ := exec_destG enter dest
    rw [c.put_z_done free] at runs
    exact ⟨_, runs, Strand.passed_same fl rfl, rfl, rfl, Strand.passed_counts fl rfl⟩
  case vector =>
    intro i d s c dest enter free
    obtain ⟨v, fl, runs⟩ := exec_destV enter dest
    rw [c.putV_done free] at runs
    obtain ⟨same, regs, _, cnt⟩ := c.t.setV_frame d v
    obtain ⟨hregs, _, hops⟩ := c.t.passed_fields (c.t.setV d v) fl
    exact ⟨_, runs, Strand.passed_same fl same, fun m out => (Strand.g_congr hregs m).trans (regs m out),
      (congrArg unsuperseded hops).trans (c.t.setV_ops d v), Strand.passed_counts fl cnt⟩
  case predicate =>
    intro i d s c dest enter free
    obtain ⟨b, fl, runs⟩ := exec_destP enter dest
    rw [c.putP_done free] at runs
    obtain ⟨same, regs, _, cnt⟩ := c.t.setP_frame d b
    obtain ⟨hregs, hpred, hops⟩ := c.t.passed_fields (c.t.setP d b) fl
    refine ⟨_, runs, Strand.passed_same_pred fl same, hregs.trans regs, fun k ne => ?_, fun zero => ?_, ?_, Strand.passed_counts fl cnt⟩
    · rw [hpred]
      exact c.t.putP_pred d b ne
    · rw [hpred, zero]
      rfl
    · rw [hops]
      exact unsuperseded_supersedeP c.t.ops d
  case port =>
    intro i d s c dest port nz enter free
    obtain ⟨v, fl, runs⟩ := exec_destG enter dest
    rw [c.put_port_done free port nz] at runs
    exact ⟨_, _, runs, Strand.passed_same fl rfl, rfl, rfl, Strand.passed_counts fl rfl⟩
  case pops =>
    intro i s c id dest enter pop
    obtain ⟨d, v, fl, runs⟩ := exec_holds enter dest pop
    obtain ⟨u, done, frame⟩ := c.hold_done id d v fl
    exact ⟨u, runs.trans (congrArg _ done), frame⟩
  case alone =>
    intro s core slot u alone
    rw [State.after_none alone]
    exact ⟨rfl, s.strand_setStrand .., elsewhere_setStrand ..⟩
  case group =>
    intro s core slot u n member ends
    obtain ⟨es, k, eq⟩ := s.after_eq core slot u
    obtain ⟨self, others⟩ := State.after_group (s := s) (core := core) (slot := slot) member ends
    exact ⟨self, by rw [eq], by rw [eq], others⟩
  case elsewhere => exact fun s core slot => ⟨rfl, rfl, rfl, fun core' slot' ne => aget_adel_ne s.strands ne⟩
  case push =>
    intro s core slot q v
    obtain ⟨c, f, k, eq⟩ := s.pushWord_eq core slot q v
    simp only [eq, and_self]

end Sys2Proof.Machine
end

section

/-! ## Predicated-off instructions (R31, R107, R150)

A false predicate: the word passes, parks at a switch point for what is outstanding, or faults on what it still reads. -/

namespace Sys2Proof.Machine

open Sys2Proof

/-- No predicate field of p0 inverted (R31): such a word is illegal. -/
theorem decode_eq_none_of_never {c : DecCtx} {w : Word} (pr : (Raw.ofWord w).pr = 0) (pn : (Raw.ofWord w).pn = true) : decode c w = none := by
  have illegal : (Raw.ofWord w).legal = false := by
    unfold Raw.legal
    split
    · rfl
    · simp only [pr, pn, beq_self_eq_true, Bool.and_self, Bool.not_true, Bool.false_and]
  simp only [decode, illegal, Bool.false_and, Bool.false_eq_true, if_false]

/-- Outside a group the strand's own predicate decides (R31). -/
theorem State.predTrue_iff (s : State) (f : Form) {t : Strand} (alone : t.group = 0) :
    s.predTrue f t = true ↔ t.pred.getLsbD f.h.pr ≠ f.h.pn := by
  have own : follows f t = false := by simp only [follows, alone, bne_self_eq_false, Bool.and_false, Bool.false_and]
  simp only [State.predTrue, own, Bool.false_eq_true, if_false, bne_iff_ne]

/-- A word with the switch marker, or one at which the strand has parked, is a switch point whatever its predicate (R73). -/
theorem State.switches_of_marked (s : State) {f : Form} {t : Strand} (switch : f.h.sw = true ∨ t.atSwitch = true) :
    s.switches f t = true := by
  rcases switch with marked | resumed
  · simp only [State.switches, marked, Bool.true_or]
  · simp only [State.switches, resumed, Bool.or_true, Bool.true_or]

section
variable {i : Instr} {s : State} {core slot : Nat} {t : Strand} (word : i.raw.isSome = true) (cur : s.clk.cur = some (core, slot))
  (here : s.strand core slot = some t) (off : s.predTrue (formOf i) t = false)
include word cur here off

/-- Every word whose predicate is false is issued under its form. -/
theorem exec_issue_off : ∃ body, exec i s = .next (issueAt (formOf i) s core slot t body) := by
  have issued (body : Ctx → Out) : issue (formOf i) s body = .next (issueAt (formOf i) s core slot t body) := by
    simp only [issue, cur, here]
  by_cases release : (∃ h m, i = .trel h m) ∨ ∃ h m, i = .tzero h m
  case pos =>
    rcases release with ⟨h, m, rfl⟩ | ⟨h, m, rfl⟩
    · obtain ⟨body, runs⟩ := releasing_off _ h m _ _ cur here off
      exact ⟨body, Eq.trans runs (issued body)⟩
    · obtain ⟨body, runs⟩ := releasing_off _ h m _ _ cur here off
      exact ⟨body, Eq.trans runs (issued body)⟩
  case neg =>
    obtain ⟨body, runs⟩ := exec_issue i word (fun h m eq => release (.inl ⟨h, m, eq⟩)) (fun h m eq => release (.inr ⟨h, m, eq⟩))
    exact ⟨body, (runs s).trans (issued body)⟩

end

/-- What `execute` gives where the predicate is false: the fault of a lost predicate word, that of a lost register of a member's part,
or the word passed. -/
def Ctx.passes (c : Ctx) (f : Form) : State :=
  if c.t.predBad && f.h.pr.val != 0 then c.s.faultAtIssue c.core c.slot c.t (lostFault 128) c.word
  else match c.skipFault f with
    | some e => (c.settle f).s.faultAtIssue (c.settle f).core (c.settle f).slot (c.settle f).t e (c.settle f).word
    | none => (c.skip f).done

theorem execute_off {f : Form} {s0 : State} {t0 : Strand} {c : Ctx} {landed : Bool} {body : Ctx → Out} (off : c.s.predTrue f c.t = false) :
    execute f s0 t0 c landed body = c.passes f := by
  simp only [execute, off, Bool.false_eq_true, if_false, Ctx.passes]
  split
  · rfl
  · cases c.skipFault f <;> rfl

theorem Ctx.passes_done {f : Form} {c : Ctx} (good : c.t.predBad = false) (whole : c.skipFault f = none) : c.passes f = (c.skip f).done := by
  simp only [Ctx.passes, good, Bool.false_and, Bool.false_eq_true, if_false, whole]

theorem Ctx.passes_lost {f : Form} {c : Ctx} {e : FaultInfo} (good : c.t.predBad = false) (lost : c.skipFault f = some e) :
    c.passes f = (c.settle f).s.faultAtIssue (c.settle f).core (c.settle f).slot (c.settle f).t e (c.settle f).word := by
  simp only [Ctx.passes, good, Bool.false_and, Bool.false_eq_true, if_false, lost]

theorem Ctx.passes_predBad {f : Form} {c : Ctx} (bad : c.t.predBad = true) (reads : f.h.pr ≠ 0) :
    c.passes f = c.s.faultAtIssue c.core c.slot c.t (lostFault 128) c.word := by
  have named : (f.h.pr.val != 0) = true := bne_iff_ne.2 fun zero => reads (Fin.ext zero)
  simp only [Ctx.passes, bad, named, Bool.and_self, if_true]

section
variable {i : Instr} {s : State} {core slot : Nat} {t : Strand} (word : i.raw.isSome = true) (cur : s.clk.cur = some (core, slot))
  (here : s.strand core slot = some t) (off : s.predTrue (formOf i) t = false)
include word cur here off

/-- Outside a switch point a word whose predicate is false passes at once. -/
theorem exec_off (sw : (formOf i).h.sw = false) (atSwitch : t.atSwitch = false) :
    exec i s = .next (Ctx.passes { s := s, core := core, slot := slot, t := t, word := (formOf i).word } (formOf i)) := by
  obtain ⟨body, runs⟩ := exec_issue_off word cur here off
  have runs_on : s.switches (formOf i) t = false := by simp only [State.switches, sw, atSwitch, off, Bool.false_and, Bool.or_self]
  refine runs.trans (congrArg _ ?_)
  simp only [issueAt, runs_on, Bool.false_eq_true, if_false]
  exact execute_off off

section
variable (switch : (formOf i).h.sw = true ∨ t.atSwitch = true)
include switch

/-- At a switch point it parks for what is outstanding. -/
theorem exec_off_parks (outstanding : t.outstanding ≠ []) :
    exec i s = .next (s.setStrand core slot { t with run := .parked .results, atSwitch := true }) := by
  obtain ⟨body, runs⟩ := exec_issue_off word cur here off
  have waits : (!t.outstanding.isEmpty) = true := by simpa using outstanding
  refine runs.trans (congrArg _ ?_)
  simp only [issueAt, s.switches_of_marked switch, waits, if_true]

/-- At a switch point with nothing outstanding what is held lands, and it passes. -/
theorem exec_off_lands (outstanding : t.outstanding = []) (faulted : t.faulted = none) (short : s.pushShort t = none)
    (still : (s.land core slot t).1.predTrue (formOf i) (s.land core slot t).2 = false) :
    exec i s = .next (Ctx.passes (.mk (s.land core slot t).1 core slot { (s.land core slot t).2 with atSwitch := false } (formOf i).word 0 none)
      (formOf i)) := by
  obtain ⟨body, runs⟩ := exec_issue_off word cur here off
  have nothing : (!t.outstanding.isEmpty) = false := by simp only [outstanding, List.isEmpty_nil, Bool.not_true]
  refine runs.trans (congrArg _ ?_)
  simp only [issueAt, s.switches_of_marked switch, nothing, faulted, short, if_true, Bool.false_eq_true, if_false]
  exact execute_off still

end
end

/-- A word that spans no group gives nothing when its predicate is false. -/
theorem Ctx.skip_of_no_span {c : Ctx} {f : Form} (none_ : f.span = none ∨ c.t.group = 0) : c.skip f = c ∧ c.skipFault f = none := by
  have gives : c.gives f = false := by
    rcases none_ with span | alone
    · simp only [Ctx.gives, span, Option.isSome_none, Bool.false_and]
    · simp only [Ctx.gives, alone, bne_self_eq_false, Bool.and_false]
  refine ⟨?_, by simp only [Ctx.skipFault, gives, Bool.false_eq_true, if_false]⟩
  unfold Ctx.skip
  split
  · rfl
  · rename_i span
    rcases none_ with none_ | alone
    · exact absurd (span.symm.trans none_) (Option.some_ne_none _)
    · simp only [alone, beq_self_eq_true, if_true]

/-- Settles O49: `exec_off` at its three ends, and its switch points. -/
theorem predicateFalse : Obligations.PredicateFalse := by
  unfold Obligations.PredicateFalse
  refine ⟨?never, ?own, ?passes, ?parks, ?lands, ?executes, ?skips, ?counts, ?predBad, ?lost⟩
  case never => exact fun c w pr pn => decode_eq_none_of_never pr pn
  case own => exact fun s f t alone => s.predTrue_iff f alone
  case passes =>
    intro i s core slot t word cur here sw atSwitch off good whole
    rw [exec_off word cur here off sw atSwitch, Ctx.passes_done good whole]
  case parks => exact fun i s core slot t word cur here switch off outstanding => exec_off_parks word cur here off switch outstanding
  case lands =>
    intro i s core slot t word cur here switch off outstanding faulted short still good whole
    rw [exec_off_lands word cur here off switch outstanding faulted short still, Ctx.passes_done good whole]
  case executes =>
    intro f s core slot t cur here runs true_ window pop push lost sound rel
    exact (enters_of_no_switch cur here runs).trans (executesIn_of_no_port true_ window pop push lost sound (.inl rel))
  case skips => exact fun c f none_ => Ctx.skip_of_no_span none_
  case counts =>
    intro c alone
    exact ⟨State.after_none alone, rfl, rfl, rfl, rfl, rfl⟩
  case predBad =>
    intro i s core slot t word cur here sw atSwitch off bad reads
    rw [exec_off word cur here off sw atSwitch, Ctx.passes_predBad bad reads]
    rfl
  case lost =>
    rintro i s core slot t x e word cur here sw atSwitch off good lost rfl
    rw [exec_off word cur here off sw atSwitch, Ctx.passes_lost good lost]
    rfl

end Sys2Proof.Machine
end

section

/-! ## Fences, invalidation and page requests (R201, R247, R248, R250, R251) -/

namespace Sys2Proof.Machine

open Sys2Proof

/-! ### `upret` (R250) -/

/-- The slip that an `upret` names is one of the strand's volume that a page fault has stopped (R250). -/
def Ctx.upretNames (c : Ctx) (va pa : Nat) : Prop :=
  c.s.slipAt c.t.vol va = some pa ∧ c.s.slipVol pa = c.t.vol ∧ c.s.slipState pa = 2 ∧ (c.s.slipFault pa).1 = 2

/-- What `upret` does with the slip it names. -/
def Ctx.upretOf (c : Ctx) (va pa : Nat) : Out :=
  let s1 := c.s.setSlipFault pa 0 0
  if c.t.faulter == some va then
    let s2 := s1.endStrand c.core c.slot c.t
    .left (if s2.slipOk pa then s2.loadSlip c.core c.slot c.t.vol pa c.t.gran else s2.refuseSlip c.core c.slot c.core c.t.vol pa)
  else .go { c with s := s1.appendRun (s1.slipHome pa) (s1.slipPrio pa) c.t.vol pa }

/-- The body of `upret`: the fault of a value that names no such slip, else what is done with it. -/
def Ctx.upret (c : Ctx) (va : Nat) : Out :=
  match c.s.slipAt c.t.vol va with
  | none => .fault (taskFault 0x01 va)
  | some pa =>
    if c.s.slipVol pa != c.t.vol || c.s.slipState pa != 2 || (c.s.slipFault pa).1 != 2 then .fault (taskFault 0x01 va) else c.upretOf va pa

theorem exec_upret (h : Hdr) (a : GOp) (s : State) : exec (.upret h a) s = issue (formOf (.upret h a)) s fun c => c.upret (c.g a).toNat := rfl

theorem Ctx.upret_of_names {c : Ctx} {va pa : Nat} (names : c.upretNames va pa) : c.upret va = c.upretOf va pa := by
  obtain ⟨found, vol, state, fault⟩ := names
  simp only [Ctx.upret, found, vol, state, fault, bne_self_eq_false, Bool.or_self, Bool.false_eq_true, if_false]

theorem Ctx.upret_refuses {c : Ctx} {va : Nat} (none_ : c.s.slipAt c.t.vol va = none ∨
    ∃ pa, c.s.slipAt c.t.vol va = some pa ∧ (c.s.slipVol pa ≠ c.t.vol ∨ c.s.slipState pa ≠ 2 ∨ (c.s.slipFault pa).1 ≠ 2)) :
    c.upret va = .fault (taskFault 0x01 va) := by
  rcases none_ with none_ | ⟨pa, found, bad⟩
  · simp only [Ctx.upret, none_]
  · have refused : (c.s.slipVol pa != c.t.vol || c.s.slipState pa != 2 || (c.s.slipFault pa).1 != 2) = true := by
      simpa only [Bool.or_eq_true, bne_iff_ne, or_assoc] using bad
    simp only [Ctx.upret, found, refused, if_true]

/-! ### `pgrq` (R251) -/

/-- The result word of a `pgrq`: `z`, or a place in memory through a segment pointer with W. -/
def Ctx.resultPlace (c : Ctx) (b : GOp) (r : Option Loc) : Prop :=
  (b = .z ∧ r = none) ∨ (b ≠ .z ∧ ∃ v x, c.placePtr (c.g b) 8 rW 1 = .ok (Loc.va v x) ∧ r = some (Loc.va v x))

/-- The request queue that a `pgrq` joins: that of the strand's cluster (R251). -/
def Ctx.pages (c : Ctx) : Cluster := c.s.cluster (clusterOf c.core)

def Ctx.waiter (c : Ctx) (r : Option Loc) : PageWaiter := { core := c.core, lane := c.t.lane, res := r, svc := none }

/-- The cluster with `w` waiting on the queued request for a page. -/
def Cluster.joinRequest (k : Cluster) (vol page : Nat) (w : PageWaiter) : Cluster :=
  let here (p : PageReq) : Bool := p.vol == vol && p.page == page
  { k with pages := mapIf here (fun p => { p with waiters := p.waiters ++ [w] }) k.pages }

/-- A request that the strand opens for a page. -/
def Ctx.newRequest (c : Ctx) (r : Option Loc) (page : Nat) : PageReq :=
  { id := c.s.fresh.1, vol := c.t.vol, page := page, waiters := [c.waiter r], core := c.core, slot := c.slot, gidx := c.t.gidx }

def Cluster.openRequest (k : Cluster) (q : PageReq) : Cluster := { k with pages := k.pages ++ [q] }

/-- The context of a strand that has joined the page's request, and that of one that has opened it. -/
def Ctx.joined (c : Ctx) (r : Option Loc) (page : Nat) : Ctx :=
  { c with s := c.s.setCluster (clusterOf c.core) (c.pages.joinRequest c.t.vol page (c.waiter r)) }

def Ctx.opened (c : Ctx) (r : Option Loc) (page : Nat) : Ctx :=
  let s1 := c.s.fresh.2.setCluster (clusterOf c.core) (c.pages.openRequest (c.newRequest r page))
  { c with s := s1.pushNew (.pageRequestForward (clusterOf c.core)) }

/-- A request for the page is queued. -/
def Ctx.queued (c : Ctx) (page : Nat) : Bool := c.pages.pages.any fun p => p.vol == c.t.vol && p.page == page

/-- What `pgrq` does for an address of a `dv` segment: it joins the page's request, answers that the queue is full, or opens a request. -/
def Ctx.requestPage (c : Ctx) (d : GOp) (r : Option Loc) (page : Nat) : Out :=
  if c.queued page then .go ((c.joined r page).result d 0)
  else if 64 ≤ c.pages.pages.length then .go (c.result d 1)
  else .go ((c.opened r page).result d 0)

/-- The body of `pgrq` from the segment and offset of its pointer. -/
def Ctx.pgrqAt (c : Ctx) (d : GOp) (r : Option Loc) (n off : Nat) : Out :=
  match segCheck (c.t.sreg n) off 1 0 1 with
  | .error _ => .go (c.result d 2)
  | .ok va => if descType (c.t.sreg n) != 1 then .go (c.result d 2) else c.requestPage d r (va / 4096 * 4096)

theorem Ctx.pgrqAt_ok {c : Ctx} {n off va : Nat} (d : GOp) (r : Option Loc) (dv : descType (c.t.sreg n) = 1)
    (checked : segCheck (c.t.sreg n) off 1 0 1 = .ok va) : c.pgrqAt d r n off = c.requestPage d r (va / 4096 * 4096) := by
  simp only [Ctx.pgrqAt, checked, dv, bne_self_eq_false, Bool.false_eq_true, if_false]

theorem Ctx.pgrqAt_bad {c : Ctx} {n off : Nat} (d : GOp) (r : Option Loc)
    (bad : descType (c.t.sreg n) ≠ 1 ∨ ∃ e, segCheck (c.t.sreg n) off 1 0 1 = .error e) : c.pgrqAt d r n off = .go (c.result d 2) := by
  unfold Ctx.pgrqAt
  split
  · rfl
  · rename_i va checked
    rcases bad with other | ⟨e, failed⟩
    · exact if_pos (bne_iff_ne.2 other)
    · exact absurd (checked.symm.trans failed) (by simp)

section
variable {h : Hdr} {d a b : GOp} {s : State} {c : Ctx} {n off : Nat} {r : Option Loc} (enter : enters (formOf (.pgrq h d a b)) s = some c)
  (ptr : ptrParts (c.g a) = .ok (n, off)) (place : c.resultPlace b r)
include enter ptr place

/-- A `pgrq` whose pointers can be read goes on as `pgrqAt`. -/
theorem exec_pgrq {c' : Ctx} (goes : c.pgrqAt d r n off = .go c') : exec (.pgrq h d a b) s = .next c'.done := by
  refine issue_go enter (Eq.trans ?_ goes)
  unfold Ctx.pgrqAt
  rcases place with ⟨rfl, rfl⟩ | ⟨ne, v, x, placed, rfl⟩
  · simp only [ptr, beq_self_eq_true, if_true] <;> rfl
  · have other : (b == .z) = false := beq_false_of_ne ne
    simp only [ptr, other, Bool.false_eq_true, if_false, placed] <;> rfl

section
variable {va : Nat} (dv : descType (c.t.sreg n) = 1) (checked : segCheck (c.t.sreg n) off 1 0 1 = .ok va)
include dv checked

theorem exec_pgrq_joins (queued : c.queued (va / 4096 * 4096) = true) :
    exec (.pgrq h d a b) s = .next ((c.joined r (va / 4096 * 4096)).result d 0).done :=
  exec_pgrq enter ptr place ((c.pgrqAt_ok d r dv checked).trans (if_pos queued))

variable (fresh : c.queued (va / 4096 * 4096) = false)
include fresh

theorem exec_pgrq_full (full : 64 ≤ c.pages.pages.length) : exec (.pgrq h d a b) s = .next (c.result d 1).done :=
  exec_pgrq enter ptr place ((c.pgrqAt_ok d r dv checked).trans ((if_neg (Bool.eq_false_iff.1 fresh)).trans (if_pos full)))

theorem exec_pgrq_opens (room : c.pages.pages.length < 64) :
    exec (.pgrq h d a b) s = .next ((c.opened r (va / 4096 * 4096)).result d 0).done :=
  exec_pgrq enter ptr place
    ((c.pgrqAt_ok d r dv checked).trans ((if_neg (Bool.eq_false_iff.1 fresh)).trans (if_neg (Nat.not_le_of_lt room))))

end
end

/-- Settles O21. -/
theorem fencesAndInvalidation : Obligations.FencesAndInvalidation := by
  unfold Obligations.FencesAndInvalidation
  refine ⟨?fence, ?cfence, ?tlbi, ?tlbsync, ?ready, ?returns, ?joins, ?full, ?opens, ?refuses, ?illFormed, ?upretFault⟩
  case fence => exact fun h k sc => .of_go (fun _ => rfl) fun c _ => rfl
  case cfence => exact fun h => .of_go (fun _ => rfl) fun c _ => rfl
  case tlbi =>
    refine fun h a b => .of_go (fun _ => rfl) fun c _ => ?_
    simp only [Bool.or_eq_true, beq_iff_eq, decide_eq_true_eq]
  case tlbsync => exact fun h => .of_go (fun _ => rfl) fun c done => if_pos done
  case ready =>
    refine fun h a pa => .of_go (exec_upret h a) fun c ⟨found, vol, state, fault, other⟩ => ?_
    rw [Ctx.upret_of_names ⟨found, vol, state, fault⟩]
    exact if_neg (by simpa using other)
  case returns =>
    refine fun h a pa => .of_left (exec_upret h a) fun c ⟨found, vol, state, fault, own, ok⟩ => ?_
    rw [Ctx.upret_of_names ⟨found, vol, state, fault⟩]
    exact (if_pos (by simpa using own)).trans (congrArg Out.left (if_pos ok))
  case joins => exact fun h d a b n off va r s c enter ptr place dv checked queued => exec_pgrq_joins enter ptr place dv checked queued
  case full => exact fun h d a b n off va r s c enter ptr place dv checked fresh full => exec_pgrq_full enter ptr place dv checked fresh full
  case opens => exact fun h d a b n off va r s c enter ptr place dv checked fresh room => exec_pgrq_opens enter ptr place dv checked fresh room
  case refuses => exact fun h d a b n off r s c enter ptr place bad => exec_pgrq enter ptr place (c.pgrqAt_bad d r bad)
  case illFormed =>
    refine fun h a pa => .of_left (exec_upret h a) fun c ⟨found, vol, state, fault, own, ill⟩ => ?_
    rw [Ctx.upret_of_names ⟨found, vol, state, fault⟩]
    exact (if_pos (by simpa using own)).trans (congrArg Out.left (if_neg (Bool.eq_false_iff.1 ill)))
  case upretFault => exact fun h a => .of_fault (exec_upret h a) fun c bad => Ctx.upret_refuses bad

end Sys2Proof.Machine
end

section

/-! ## Service calls, traps and illegal words (R40, R42, R152, R399, R407, R408) -/

namespace Sys2Proof.Machine

open Sys2Proof

/-! ### `svc` (R408) -/

/-- The result block of a call: none for `z`. -/
def Ctx.svcResult (c : Ctx) (b : GOp) : Except FaultInfo (Option Nat) :=
  if b == .z then .ok none else (c.svcBlock (c.g b) rW).map some

/-- A pointer of a call is one that `svc` does not reach. -/
def Ctx.svcFar (c : Ctx) (a b : GOp) : Bool := c.svcReach (c.g a) || (b != .z && c.svcReach (c.g b))

/-- How a call goes on from its blocks: it is answered where the curator is fenced, and sent otherwise. -/
def Ctx.svcTo (c : Ctx) (d : GOp) (n : BitVec 16) (va : Nat) (res : Option Nat) : Out :=
  if c.s.isFenced .curator (clusterOf c.core) then .go (c.result d 3) else .left (c.svcSent d n va res)

def Ctx.svc (c : Ctx) (d a b : GOp) (n : BitVec 16) : Out :=
  if c.svcFar a b then .go (c.result d 1)
  else match c.svcBlock (c.g a) rR with
    | .error e => .fault e
    | .ok va => match c.svcResult b with
      | .error e => .fault e
      | .ok res => c.svcTo d n va res

theorem exec_svc (h : Hdr) (d a b : GOp) (n : BitVec 16) (s : State) :
    exec (.svc h d a b n) s = issue (formOf (.svc h d a b n)) s fun c => c.svc d a b n := rfl

theorem Ctx.svc_reaches {c : Ctx} {d a b : GOp} {n : BitVec 16} {va : Nat} {res : Option Nat} (near : c.svcFar a b = false)
    (arg : c.svcBlock (c.g a) rR = .ok va) (result : c.svcResult b = .ok res) : c.svc d a b n = c.svcTo d n va res := by
  simp only [Ctx.svc, near, Bool.false_eq_true, if_false, arg, result]

theorem Ctx.svcFar_z {c : Ctx} {a : GOp} (near : c.svcReach (c.g a) = false) : c.svcFar a .z = false := by
  simp only [Ctx.svcFar, near, bne_self_eq_false, Bool.false_and, Bool.or_self]

theorem Ctx.svcFar_near {c : Ctx} {a b : GOp} (near : c.svcReach (c.g a) = false) (nearB : c.svcReach (c.g b) = false) :
    c.svcFar a b = false := by
  simp only [Ctx.svcFar, near, nearB, Bool.and_false, Bool.or_self]

theorem Ctx.svcResult_block {c : Ctx} {b : GOp} {vb : Nat} (ne : b ≠ .z) (block : c.svcBlock (c.g b) rW = .ok vb) :
    c.svcResult b = .ok (some vb) := by
  have other : (b == .z) = false := beq_false_of_ne ne
  simp only [Ctx.svcResult, other, Bool.false_eq_true, if_false, block]
  rfl

section
variable {h : Hdr} {d a b : GOp} {n : BitVec 16} {va : Nat} {res : Option Nat} {s : State} {c : Ctx}
  (enter : enters (formOf (.svc h d a b n)) s = some c) (near : c.svcFar a b = false) (arg : c.svcBlock (c.g a) rR = .ok va)
  (result : c.svcResult b = .ok res)
include enter near arg result

theorem exec_svc_sent (up : c.s.isFenced .curator (clusterOf c.core) = false) :
    exec (.svc h d a b n) s = .next (c.svcSent d n va res) :=
  issue_left enter ((Ctx.svc_reaches near arg result).trans (if_neg (Bool.eq_false_iff.1 up)))

theorem exec_svc_fenced (fenced : c.s.isFenced .curator (clusterOf c.core) = true) :
    exec (.svc h d a b n) s = .next (c.result d 3).done :=
  issue_go enter ((Ctx.svc_reaches near arg result).trans (if_pos fenced))

end

/-! ### Illegal words (R40, R42, R152) -/

theorem exec_illegalEncoding {s : State} {core slot : Nat} {t : Strand} (w : Word) (cur : s.clk.cur = some (core, slot))
    (here : s.strand core slot = some t) : exec (.illegalEncoding w) s = .next (
      if t.group == 0 then s.halt core slot t { cls := 1, code := 0 } w
      else if illegalByPairOnly (s.decCtx core slot) w then s.pairHalt core slot t { cls := 1, code := 0 } w
      else (s.illegalMates t).foldl (fun (s : State) e => s.halt e.1.1 e.1.2 e.2 { cls := 1, code := 0 } w) s) := by
  have arm : exec (.illegalEncoding w) s = execIllegalEncoding w s := rfl
  simp only [arm, execIllegalEncoding, cur, here]
  split
  · rfl
  · split <;> rfl

/-- What the end of collation at `t` makes of a strand of its group (R152). -/
def State.endedMate (s : State) (t u : Strand) : Strand :=
  if u.group == t.group then
    (if u.uid == t.uid || decide (t.colN < u.colN) then u.alone
     else { u with colEnd := some (u.colEnd.getD (t.colN + 1)), lead := if t.colI == 0 && decide (u.colN < t.colN) then some t.decision else u.lead,
                   gword := if t.colI == 0 then s.leftWord t u.colN else u.gword, run := if u.run == .parked .group then .ready else u.run })
  else u

theorem State.endCollation_strands (s : State) {t : Strand} (member : t.group ≠ 0) :
    (s.endCollation t).strands = s.strands.map fun e => (e.1, s.endedMate t e.2) := by
  have other : (t.group == 0) = false := beq_false_of_ne member
  simp only [State.endCollation, other, Bool.false_eq_true, if_false]
  obtain ⟨k, woken⟩ := State.wakeSpans_eq (State.mk _ _ _ _ _ _ _ _ _ _ _ _ _ _ _) t.group
  rw [woken]
  refine List.map_congr_left fun e _ => ?_
  unfold State.endedMate
  split <;> rfl

theorem State.endedMate_uid (s : State) (t u : Strand) : (s.endedMate t u).uid = u.uid := by
  unfold State.endedMate
  split
  · split <;> rfl
  · rfl

/-- The end of collation puts no strand into another group. -/
theorem State.endedMate_group (s : State) (t u : Strand) : (s.endedMate t u).group = 0 ∨ (s.endedMate t u).group = u.group := by
  unfold State.endedMate
  split
  · split
    · exact .inl rfl
    · exact .inr rfl
  · exact .inr rfl

/-- A ready strand stays ready, and another member that is no further than `t` keeps its place. -/
theorem State.endedMate_ready (s : State) (t : Strand) {u : Strand} (ready : u.run = .ready) : (s.endedMate t u).run = .ready := by
  have unparked : (Run.ready == Run.parked .group) = false := rfl
  unfold State.endedMate
  split
  · split
    · simp only [Strand.alone, ready, unparked, Bool.false_eq_true, if_false]
    · simp only [ready, unparked, Bool.false_eq_true, if_false]
  · exact ready

theorem State.endedMate_colI (s : State) {t u : Strand} (other : u.uid ≠ t.uid) (behind : u.colN ≤ t.colN) :
    (s.endedMate t u).colI = u.colI := by
  have kept : (u.uid == t.uid || decide (t.colN < u.colN)) = false := by
    simp only [beq_false_of_ne other, decide_eq_false (Nat.not_lt_of_le behind), Bool.or_self]
  unfold State.endedMate
  split
  · rw [kept]
    rfl
  · rfl

/-- A strand put apart with those that halt at the word (R42). -/
def Strand.apart (g : Nat) (t u : Strand) : Strand :=
  { u with group := g, colI := if u.uid == t.uid then t.colI else u.colI, colN := t.colN, colEnd := some (t.colN + 1), lead := none }

/-- The names of the members of `t`'s group that are to issue a word which their pairs make illegal. -/
def State.pairIllegal (s : State) (t : Strand) (w : Word) : List Nat :=
  (s.strands.filter fun e => e.2.group == t.group && e.2.colN == t.colN && illegalByPairOnly (s.decCtx e.1.1 e.1.2) w).map (·.2.uid)

/-- The state in which those members are a group of their own. -/
def State.setApart (s : State) (t : Strand) (w : Word) : State :=
  let s2 := s.fresh.2.endCollation t
  { s2 with strands := s2.strands.map fun e => (e.1, if (s.pairIllegal t w).contains e.2.uid then Strand.apart s.fresh.1 t e.2 else e.2) }

/-- What becomes of a strand there. -/
def State.apartOrEnded (s : State) (t : Strand) (w : Word) (u : Strand) : Strand :=
  if (s.pairIllegal t w).contains u.uid then Strand.apart s.fresh.1 t (s.fresh.2.endedMate t u) else s.fresh.2.endedMate t u

theorem State.mem_illegalMates {s : State} {t : Strand} {e : (Nat × Nat) × Strand} :
    e ∈ s.illegalMates t ↔ e ∈ s.strands ∧ e.2.group = t.group ∧ e.2.colI < 8 ∧ e.2.run = .ready ∧ e.2.colN = t.colN := by
  simp only [State.illegalMates, List.mem_flatMap, List.mem_range, List.mem_filter, Bool.and_eq_true, beq_iff_eq]
  constructor
  · rintro ⟨i, lt, mem, ⟨⟨group, rfl⟩, ready⟩, colN⟩
    exact ⟨mem, group, lt, ready, colN⟩
  · rintro ⟨mem, group, lt, ready, colN⟩
    exact ⟨_, lt, mem, ⟨⟨group, rfl⟩, ready⟩, colN⟩

section
variable {s : State} {core slot : Nat} {t : Strand} {w : Word} (here : s.strand core slot = some t) (member : t.group ≠ 0)

theorem State.mem_pairIllegal {u : Nat} : u ∈ s.pairIllegal t w ↔ ∃ e ∈ s.strands, e.2.uid = u ∧ e.2.group = t.group ∧ e.2.colN = t.colN ∧
    illegalByPairOnly (s.decCtx e.1.1 e.1.2) w = true := by
  simp only [State.pairIllegal, List.mem_map, List.mem_filter, Bool.and_eq_true, beq_iff_eq]
  constructor
  · rintro ⟨e, ⟨mem, ⟨group, colN⟩, illegal⟩, rfl⟩
    exact ⟨e, mem, rfl, group, colN, illegal⟩
  · rintro ⟨e, mem, rfl, group, colN, illegal⟩
    exact ⟨e, ⟨mem, ⟨group, colN⟩, illegal⟩, rfl⟩

/-- A strand of the new group is one of those whose pairs make the word illegal. -/
theorem State.apartOrEnded_group (unnamed : s.fresh.1 ≠ 0) {u : Strand} (old : u.group ≠ s.fresh.1)
    (group : (s.apartOrEnded t w u).group = s.fresh.1) : u.uid ∈ s.pairIllegal t w := by
  unfold State.apartOrEnded at group
  split at group
  · rename_i named
    exact List.contains_iff_mem.1 named
  · rcases s.fresh.2.endedMate_group t u with zero | same
    · exact absurd (group.symm.trans zero) unnamed
    · exact absurd (same.symm.trans group) old

include member

theorem State.setApart_strands : (s.setApart t w).strands = s.strands.map fun e => (e.1, s.apartOrEnded t w e.2) := by
  have ended := State.endCollation_strands s.fresh.2 member
  simp only [State.setApart, ended, List.map_map]
  refine List.map_congr_left fun e _ => ?_
  simp only [Function.comp_apply, State.endedMate_uid, State.apartOrEnded]

theorem State.mem_setApart {e : (Nat × Nat) × Strand} :
    e ∈ (s.setApart t w).strands ↔ ∃ x ∈ s.strands, e = (x.1, s.apartOrEnded t w x.2) := by
  simp only [State.setApart_strands member, List.mem_map, eq_comm]

include here

theorem State.setApart_strand : (s.setApart t w).strand core slot = some (s.apartOrEnded t w t) := by
  have mapped : (s.setApart t w).strand core slot = (s.strand core slot).map (s.apartOrEnded t w) := by
    rw [State.strand, State.setApart_strands member]
    exact aget_map (fun _ => s.apartOrEnded t w) _ _
  rw [mapped, here, Option.map_some]

theorem State.pairHalt_eq (f : FaultInfo) : s.pairHalt core slot t f w =
    ((s.setApart t w).illegalMates (s.apartOrEnded t w t)).foldl (fun (s : State) (e : (Nat × Nat) × Strand) => s.halt e.1.1 e.1.2 e.2 f w) (s.setApart t w) := by
  have apart := State.setApart_strand (w := w) here member
  unfold State.pairHalt
  change (match (s.setApart t w).strand core slot with
    | none => s.setApart t w
    | some t1 => ((s.setApart t w).illegalMates t1).foldl (fun (s : State) (e : (Nat × Nat) × Strand) => s.halt e.1.1 e.1.2 e.2 f w) (s.setApart t w)) = _
  rw [apart]

end

theorem aget_mem {α β : Type} [DecidableEq α] {l : List (α × β)} {a : α} {b : β} (found : aget l a = some b) : (a, b) ∈ l := by
  induction l with
  | nil => cases found
  | cons e r ih =>
    unfold aget at found
    split at found
    case isTrue same =>
      cases found
      exact same ▸ List.mem_cons_self
    case isFalse => exact List.mem_cons_of_mem _ (ih found)

/-- Settles O30: an illegal word in a group halts the members for which it is illegal, which `setApart` has put in a group of their own. -/
theorem serviceCallsAndTraps : Obligations.ServiceCallsAndTraps := by
  unfold Obligations.ServiceCallsAndTraps
  refine ⟨?trap, ?far, ?sent, ?sentBlock, ?fenced, ?alone, ?pair, ?group, ?fencedBlock⟩
  case trap => exact fun h code => .of_fault (fun _ => rfl) fun c _ => rfl
  case far =>
    refine fun h d a b n => .of_go (exec_svc h d a b n) fun c far => if_pos ?_
    simpa only [Ctx.svcFar, Bool.or_eq_true, Bool.and_eq_true, bne_iff_ne] using far
  case sent => exact fun h d a n va s c enter near arg up => exec_svc_sent enter (Ctx.svcFar_z near) arg rfl up
  case sentBlock =>
    exact fun h d a b n va vb s c enter ne near nearB arg block up =>
      exec_svc_sent enter (Ctx.svcFar_near near nearB) arg (Ctx.svcResult_block ne block) up
  case fenced => exact fun h d a n va s c enter near arg fenced => exec_svc_fenced enter (Ctx.svcFar_z near) arg rfl fenced
  case alone =>
    intro w s core slot t cur here alone
    rw [exec_illegalEncoding w cur here, if_pos (beq_iff_eq.2 alone)]
  case pair =>
    intro w s core slot t cur here member unnamed illegal unique old
    have mem : ((core, slot), t) ∈ s.strands := aget_mem here
    have named : (s.pairIllegal t w).contains t.uid = true :=
      List.contains_iff_mem.2 (State.mem_pairIllegal.2 ⟨_, mem, rfl, rfl, rfl, illegal⟩)
    refine ⟨s.setApart t w, s.apartOrEnded t w t, ?runs, State.setApart_strand here member, ?own, ?colN, ?mem, ?only, ?all⟩
    case runs => rw [exec_illegalEncoding w cur here, if_neg (by simpa using member), if_pos illegal, State.pairHalt_eq here member]
    case own => simp only [State.apartOrEnded, named, if_true, Strand.apart]
    case colN => simp only [State.apartOrEnded, named, if_true, Strand.apart]
    case mem =>
      obtain ⟨es, k, ended⟩ := s.fresh.2.endCollation_eq t
      simp only [State.setApart, ended]
      rfl
    case only =>
      intro e mate
      obtain ⟨inApart, group, _⟩ := State.mem_illegalMates.1 mate
      obtain ⟨x, hx, rfl⟩ := (State.mem_setApart member).1 inApart
      have self : (s.apartOrEnded t w t).group = s.fresh.1 := by simp only [State.apartOrEnded, named, if_true, Strand.apart]
      obtain ⟨y, hy, uid, _, _, pairs⟩ := State.mem_pairIllegal.1 (State.apartOrEnded_group unnamed (old x hx) (group.trans self))
      rwa [unique y hy x hx uid] at pairs
    case all =>
      intro e he group colN ready lt pairs
      have mate : (s.pairIllegal t w).contains e.2.uid = true :=
        List.contains_iff_mem.2 (State.mem_pairIllegal.2 ⟨e, he, rfl, group, colN, pairs⟩)
      refine ⟨(e.1, s.apartOrEnded t w e.2), State.mem_illegalMates.2 ⟨(State.mem_setApart member).2 ⟨e, he, rfl⟩, ?_, ?_, ?_, ?_⟩, rfl⟩
      · simp only [State.apartOrEnded, mate, named, if_true, Strand.apart]
      · simp only [State.apartOrEnded, mate, if_true, Strand.apart, State.endedMate_uid]
        by_cases self : e.2.uid = t.uid
        · obtain rfl := unique e he _ mem self
          simpa using lt
        · simpa only [beq_false_of_ne self, Bool.false_eq_true, if_false, State.endedMate_colI _ self (Nat.le_of_eq colN)] using lt
      · simpa only [State.apartOrEnded, mate, if_true, Strand.apart] using State.endedMate_ready s.fresh.2 t ready
      · simp only [State.apartOrEnded, mate, named, if_true, Strand.apart]
  case group =>
    intro w s core slot t cur here member legal
    rw [exec_illegalEncoding w cur here, if_neg (by simpa using member), if_neg (Bool.eq_false_iff.1 legal)]
  case fencedBlock =>
    exact fun h d a b n va vb s c enter ne near nearB arg block fenced =>
      exec_svc_fenced enter (Ctx.svcFar_near near nearB) arg (Ctx.svcResult_block ne block) fenced

end Sys2Proof.Machine
end

section

/-! ## An access that completes (R187, R219)

What it leaves of the module's bytes, its full/empty bits and its accesses. -/

namespace Sys2Proof.Machine

open Sys2Proof

@[simp] theorem State.opDone_keeps (s : State) (uid id : Nat) (v : Vec) (fl : FlagWord) (fault : Option FaultInfo) :
    (s.opDone uid id v fl fault).mem = s.mem ∧ (s.opDone uid id v fl fault).empty = s.empty ∧
      (s.opDone uid id v fl fault).flights = s.flights := by
  unfold State.opDone
  split
  · exact ⟨rfl, rfl, rfl⟩
  · split <;> exact ⟨rfl, rfl, rfl⟩

@[simp] theorem State.stampReqs_keeps (s : State) (uid : Nat) :
    (s.stampReqs uid).mem = s.mem ∧ (s.stampReqs uid).empty = s.empty ∧ (s.stampReqs uid).flights = s.flights ∧
      (s.stampReqs uid).strands = s.strands := by
  unfold State.stampReqs
  dsimp only
  split_ifs <;> exact ⟨rfl, rfl, rfl, rfl⟩

theorem State.foldl_pushNew_keeps {α : Type} (f : α → Instr) (s : State) (l : List α) :
    let t := l.foldl (fun s x => s.pushNew (f x)) s
    t.mem = s.mem ∧ t.empty = s.empty ∧ t.flights = s.flights ∧ t.strands = s.strands := by
  obtain ⟨k, h⟩ := State.foldl_pushNew_eq f s l
  rw [h]
  exact ⟨rfl, rfl, rfl, rfl⟩

@[simp] theorem State.kickUid_keeps (s : State) (uid : Nat) :
    (s.kickUid uid).mem = s.mem ∧ (s.kickUid uid).empty = s.empty ∧ (s.kickUid uid).flights = s.flights ∧
      (s.kickUid uid).strands = s.strands := by
  obtain ⟨mem, empty, flights, strands⟩ := s.stampReqs_keeps uid
  unfold State.kickUid
  dsimp only
  obtain ⟨mem₁, empty₁, flights₁, strands₁⟩ := State.foldl_pushNew_keeps (fun f : Flight => .bankTransaction f.id) (s.stampReqs uid)
    ((s.stampReqs uid).flights.filter fun f => f.uid == uid && !f.failed && f.joined.isNone && f.spill.isNone && !f.out)
  obtain ⟨mem₂, empty₂, flights₂, strands₂⟩ := State.foldl_pushNew_keeps id _ (State.requestEvents _ uid)
  exact ⟨mem₂.trans (mem₁.trans mem), empty₂.trans (empty₁.trans empty), flights₂.trans (flights₁.trans flights),
    strands₂.trans (strands₁.trans strands)⟩

@[simp] theorem State.roomFreed_keeps (s : State) :
    s.roomFreed.mem = s.mem ∧ s.roomFreed.empty = s.empty ∧ s.roomFreed.flights = s.flights ∧ s.roomFreed.strands = s.strands := by
  unfold State.roomFreed
  split
  · simp only [State.pushNew_mem, State.pushNew_empty, State.pushNew_flights, State.pushNew_strands, and_self]
  · exact ⟨rfl, rfl, rfl, rfl⟩

/-- What an access that leaves a wait list frees. -/
theorem State.left_keeps (s : State) (f : Flight) :
    let t := if f.joined.isSome then s.roomFreed else s
    t.mem = s.mem ∧ t.empty = s.empty ∧ t.flights = s.flights ∧ t.strands = s.strands := by
  dsimp only
  split
  · exact s.roomFreed_keeps
  · exact ⟨rfl, rfl, rfl, rfl⟩

@[simp] theorem State.configure_keeps (s : State) (core vol gidx lane m : Nat) (ws : List Word) :
    (s.configure core vol gidx lane m ws).1.mem = s.mem ∧ (s.configure core vol gidx lane m ws).1.empty = s.empty ∧
      (s.configure core vol gidx lane m ws).1.flights = s.flights := by
  unfold State.configure
  dsimp only
  split_ifs <;> exact ⟨rfl, rfl, rfl⟩

@[simp] theorem State.flightFail_keeps (s : State) (f : Flight) (e : FaultInfo) :
    (s.flightFail f e).mem = s.mem ∧ (s.flightFail f e).empty = s.empty ∧ (s.flightFail f e).flights =
      replaceBy (·.id == f.id) { f with failed := true, joined := none, spill := none, out := false } s.flights := by
  obtain ⟨mem, empty, flights, -⟩ := s.left_keeps f
  unfold State.flightFail
  dsimp only
  split <;> simp only [State.pushNew_mem, State.pushNew_empty, State.pushNew_flights, State.kickUid_keeps, State.opDone_keeps,
    State.setFlight, mem, empty, flights, and_self]

@[simp] theorem State.flightDone_keeps (s : State) (f : Flight) (fl : FlagWord) (fault : Option FaultInfo) :
    (s.flightDone f fl fault).mem = s.mem ∧ (s.flightDone f fl fault).empty = s.empty := by
  unfold State.flightDone
  cases f.kind with
  | vldf fmt rm =>
    dsimp only
    split <;> simp only [State.opDone_keeps, State.flightFail_keeps, State.kickUid_keeps, State.dropFlight_mem, State.dropFlight_empty, and_self]
  | segld n =>
    dsimp only
    split <;> simp only [State.opDone_keeps, State.kickUid_keeps, State.dropFlight_mem, State.dropFlight_empty, and_self]
  | swadd =>
    cases fault <;> simp only [State.opDone_keeps, State.flightFail_keeps, State.kickUid_keeps, State.dropFlight_mem, State.dropFlight_empty, and_self]
  | _ => simp only [State.pushNew_mem, State.pushNew_empty, State.opDone_keeps, State.configure_keeps, State.kickUid_keeps, State.dropFlight_mem, State.dropFlight_empty, and_self]

@[simp] theorem State.partDone_keeps (s : State) (f : Flight) (p : Part) (v : Nat) (fl : FlagWord) (fault : Option FaultInfo) :
    (s.partDone f p v fl fault).mem = s.mem ∧ (s.partDone f p v fl fault).empty = s.empty := by
  obtain ⟨mem, empty, -⟩ := s.left_keeps f
  unfold State.partDone
  dsimp only
  split <;> simp only [State.flightDone_keeps, State.push_mem, State.push_empty, State.setFlight_mem, State.setFlight_empty, mem, empty, and_self]

/-! ## Wait lists without a waiter (R187) -/

/-- No access has joined the wait list of a word. -/
def State.unjoined (s : State) : Prop := ∀ x ∈ s.flights, x.joined = none

theorem State.unjoined_of_flights {s t : State} (h : s.unjoined) (flights : t.flights = s.flights) : t.unjoined := fun x hx => h x (flights ▸ hx)

theorem mem_replaceBy {α : Type} {p : α → Bool} {v x : α} {l : List α} (h : x ∈ replaceBy p v l) : x = v ∨ x ∈ l := by
  induction l with
  | nil => exact .inr h
  | cons y r ih =>
    rw [replaceBy] at h
    split at h
    · exact (List.mem_cons.mp h).imp_right (List.mem_cons_of_mem y)
    · rcases List.mem_cons.mp h with rfl | h
      · exact .inr List.mem_cons_self
      · exact (ih h).imp_right (List.mem_cons_of_mem y)

theorem unjoined_replaceBy {l : List Flight} (h : ∀ x ∈ l, x.joined = none) (p : Flight → Bool) {f : Flight} (alone : f.joined = none) :
    ∀ x ∈ replaceBy p f l, x.joined = none := by
  intro x hx
  rcases mem_replaceBy hx with rfl | hx
  · exact alone
  · exact h x hx

theorem State.unjoined_setFlight {s : State} (h : s.unjoined) {f : Flight} (alone : f.joined = none) : (s.setFlight f).unjoined :=
  unjoined_replaceBy h _ alone

theorem State.unjoined_dropFlight {s : State} (h : s.unjoined) (id : Nat) : (s.dropFlight id).unjoined :=
  fun x hx => h x (List.mem_of_mem_filter hx)

theorem State.unjoined_flightFail {s : State} (h : s.unjoined) (f : Flight) (e : FaultInfo) : (s.flightFail f e).unjoined := by
  unfold State.unjoined
  rw [(s.flightFail_keeps f e).2.2]
  exact unjoined_replaceBy h _ rfl

theorem State.unjoined_flightDone {s : State} (h : s.unjoined) (f : Flight) (fl : FlagWord) (fault : Option FaultInfo) :
    (s.flightDone f fl fault).unjoined := by
  have kicked : ((s.dropFlight f.id).kickUid f.uid).unjoined := State.unjoined_of_flights (State.unjoined_dropFlight h f.id) (State.kickUid_keeps _ _).2.2.1
  unfold State.flightDone
  cases f.kind with
  | vldf fmt rm =>
    dsimp only
    split
    · exact State.unjoined_of_flights kicked (State.opDone_keeps ..).2.2
    · exact State.unjoined_flightFail h f _
  | tcfg mask =>
    refine State.unjoined_of_flights kicked ?_
    simp only [State.pushNew_flights, State.opDone_keeps, State.configure_keeps]
  | segld n =>
    dsimp only
    split <;> exact State.unjoined_of_flights kicked (State.opDone_keeps ..).2.2
  | swadd =>
    cases fault with
    | none => exact State.unjoined_of_flights kicked (State.opDone_keeps ..).2.2
    | some e => exact State.unjoined_flightFail h f e
  | _ => exact State.unjoined_of_flights kicked (State.opDone_keeps ..).2.2

theorem State.unjoined_partDone {s : State} (h : s.unjoined) (f : Flight) (p : Part) (v : Nat) (fl : FlagWord) (fault : Option FaultInfo) :
    (s.partDone f p v fl fault).unjoined := by
  have left := State.unjoined_of_flights h (s.left_keeps f).2.2.1
  unfold State.partDone
  dsimp only
  split
  · exact State.unjoined_flightDone left _ fl fault
  · exact State.unjoined_of_flights (State.unjoined_setFlight left rfl) (State.push_flights _ _)

/-- Without a waiter there is no one to serve. -/
theorem State.serve_of_unjoined {s : State} (h : s.unjoined) (key n : Nat) : s.serve key n = s := by
  have none : s.nextWaiter key = none := by
    unfold State.nextWaiter
    rw [List.filterMap_eq_nil_iff.mpr fun f hf => by rw [h f hf]]
    rfl
  cases n with
  | zero => rfl
  | succ n => rw [State.serve, none]

/-! ## The transaction at the bank (R197 to R204) -/

section
variable {s : State} {f : Flight} {p : Part} {k : Nat} (here : atBank s f p k)
include here

/-- The next step of an access that is at its bank is its transaction there. -/
theorem exec_bankTransaction_attempt : exec (.bankTransaction f.id) s = .next (s.attempt f p k) := by
  obtain ⟨found, part, key, far, failed, joined, spill, out, before, behind, placed, fault, -⟩ := here
  have whole : (if f.k == 0 then s.partsFault f else none) = none := by
    split
    next first => exact fault (beq_iff_eq.mp first)
    next => rfl
  have perform : s.perform f p = s.attempt f p k := by simp only [State.perform, far, key]
  have stepped : s.bankStep f = s.attempt f p k := by
    simp only [State.bankStep, part, failed, joined, spill, out, before, behind, placed, whole, perform, Option.isSome_none,
      Bool.or_self, Bool.false_eq_true, if_false]
  rw [← stepped]
  show execBankTransaction f.id s = _
  simp only [execBankTransaction, found]

/-- A transaction that is performed ends its part; without waiters its word serves no one. -/
theorem exec_bankTransaction_did (plain : f.kind ≠ .kabs) {s1 : State} {v : Nat} {fl : FlagWord} {served : Bool} {e : Option FaultInfo}
    (did : s.bankDo f p k = .did s1 v fl served e) (alone : served = true → s1.unjoined) :
    exec (.bankTransaction f.id) s = .next (s1.partDone f p v fl e) := by
  have fenced : s.keyFenced k = false := here.2.2.2.2.2.2.2.2.2.2.2.2
  rw [exec_bankTransaction_attempt here]
  simp only [State.attempt, fenced, Bool.false_eq_true, if_false, beq_eq_false_iff_ne.mpr plain, did]
  split
  next serves => rw [State.serve_of_unjoined (State.unjoined_partDone (alone serves) f p v fl e)]
  next => rfl

/-- A transaction that waits joins its word's list while the cluster has a free entry (R185). -/
theorem exec_bankTransaction_wait (plain : f.kind ≠ .kabs) (wait : s.bankDo f p k = .wait) (free : f.bound = false)
    (room : 0 < s.poolFree (ownerCluster k)) :
    exec (.bankTransaction f.id) s = .next (s.fresh.2.setFlight { f with joined := some s.fresh.1 }) := by
  rw [exec_bankTransaction_attempt here]
  obtain ⟨-, -, -, -, -, joined, spill, -, -, -, -, -, fenced⟩ := here
  simp only [State.attempt, fenced, Bool.false_eq_true, if_false, beq_eq_false_iff_ne.mpr plain, wait, State.joinList, joined, spill,
    Option.isSome_none, free, Bool.false_and, Bool.false_or, decide_eq_true room, if_true]

end

end Sys2Proof.Machine
end
section

/-! ## Bytes and full/empty bits (R184, R197) -/

namespace Sys2Proof.Machine

open Sys2Proof

theorem Memory.getBytes_setBytes {m : Memory} (h : m.wf = true) (a : Nat) (bs : List Byte) : (m.setBytes a bs).getBytes a bs.length = bs := by
  apply List.ext_getElem
  · simp only [Memory.getBytes, List.length_map, List.length_range]
  · intro i _ hi
    simp only [Memory.getBytes, List.getElem_map, List.getElem_range]
    rw [Memory.get_setBytes_in h _ _ _ hi, List.getD_eq_getElem?_getD, List.getElem?_eq_getElem hi, Option.getD_some]

theorem State.getBytes_wrN {s : State} (h : s.mem.wf = true) (key n v : Nat) : (s.wrN key n v).mem.getBytes key n = leBytes n v := by
  have read := Memory.getBytes_setBytes h key (leBytes n v)
  rwa [leBytes_length] at read

theorem mem_insertUp {l : List Nat} {a b : Nat} : b ∈ insertUp l a ↔ b = a ∨ b ∈ l := by
  induction l with
  | nil => simp only [insertUp, List.mem_singleton, List.not_mem_nil, or_false]
  | cons c r ih =>
    rw [insertUp]
    split_ifs with below same
    · exact List.mem_cons
    · subst same
      simp only [List.mem_cons, or_self_left]
    · simp only [List.mem_cons, ih, or_left_comm]

theorem State.full_setFull_self (s : State) (key : Nat) (b : Bool) : (s.setFull key b).full key = b := by
  cases b
  · simpa [State.full, State.setFull] using mem_insertUp.mpr (.inl rfl)
  · simp [State.full, State.setFull]

theorem State.full_setFull_other (s : State) {key a : Nat} (b : Bool) (other : a / 8 ≠ key / 8) : (s.setFull key b).full a = s.full a := by
  cases b
  · simp [State.full, State.setFull, mem_insertUp, other]
  · simp [State.full, State.setFull, other]

theorem State.full_of_empty {s t : State} (h : t.empty = s.empty) (a : Nat) : t.full a = s.full a := by rw [State.full, State.full, h]

/-! ## Stores outside the conflict filters (R193) -/

theorem State.filterStore_unfiltered {s : State} {f : Flight} (h : unfiltered s f) (p : Part) (key : Nat) : s.filterStore f p key = s := by
  have off : (f.kind.filtered && f.bound && ((s.volume f.vol).map Volume.det).getD false) = false := by
    rcases h with free | plain
    · rw [free, Bool.and_false, Bool.false_and]
    · rw [plain, Bool.and_false]
  unfold State.filterStore
  rw [off]
  rfl

/-- A store into a page without bounds, outside the filters, writes its own bytes. -/
theorem State.filterStore_bankWrite {s : State} {f : Flight} {p : Part} (page : p.kpage = none) (h : unfiltered s f) (key n v : Nat) :
    (s.bankWrite key p.kpage n v).filterStore f p key = s.wrN key n v := by
  rw [page]
  exact State.filterStore_unfiltered (s := s.wrN key n v) h p key

/-! ## Single-word instructions at their banks (R185, R198) -/

section
variable {s : State} {f : Flight} {p : Part} {k : Nat}

theorem State.bankDo_store (kind : f.kind = .st ∨ f.kind = .vst ∨ f.kind = .vstf ∨ f.kind = .vstx ∨ f.kind = .segst) (page : p.kpage = none)
    (h : unfiltered s f) : s.bankDo f p k = .did (s.wrN k p.n p.data.toNat) 0 0 false none := by
  rw [← State.filterStore_bankWrite page h]
  rcases kind with kind | kind | kind | kind | kind <;> simp only [State.bankDo, kind]

theorem State.bankDo_load {signed : Bool} (kind : f.kind = .ld signed) : s.bankDo f p k = .did s (s.rdN k p.n) 0 false none := by
  simp only [State.bankDo, kind]

theorem State.bankDo_ldf_empty (kind : f.kind = .ldf) (empty : s.full k = false) : s.bankDo f p k = .wait := by
  simp only [State.bankDo, kind, empty, Bool.false_eq_true, if_false]

theorem State.bankDo_lde_empty (kind : f.kind = .lde) (empty : s.full k = false) : s.bankDo f p k = .wait := by
  simp only [State.bankDo, kind, empty, Bool.false_eq_true, if_false]

theorem State.bankDo_lde_full (kind : f.kind = .lde) (full : s.full k = true) :
    s.bankDo f p k = .did (s.setFull k false) (s.rdN k 8) 0 true none := by
  simp only [State.bankDo, kind, full, if_true]

theorem State.bankDo_clrf (kind : f.kind = .clrf) : s.bankDo f p k = .did (s.setFull k false) 0 0 (s.full k) none := by
  simp only [State.bankDo, kind]

theorem State.bankDo_stfe_full (kind : f.kind = .stfe) (full : s.full k = true) : s.bankDo f p k = .wait := by
  simp only [State.bankDo, kind, full, if_true]

/-- A store that fills its word, at an empty word for `stfe`, at any word for `stf`. -/
theorem State.bankDo_fills (kind : f.kind = .stf ∨ (f.kind = .stfe ∧ s.full k = false)) (page : p.kpage = none) (h : unfiltered s f) :
    s.bankDo f p k = .did ((s.wrN k p.n p.data.toNat).setFull k true) 0 0 (!s.full k) none := by
  rw [← State.filterStore_bankWrite page h]
  rcases kind with kind | ⟨kind, empty⟩
  · simp only [State.bankDo, kind]
  · simp only [State.bankDo, kind, empty, Bool.false_eq_true, if_false, Bool.not_false]

theorem State.bankDo_atomic {v : Nat} {fl : FlagWord} (kind : f.kind = .cas ∨ ∃ op, f.kind = .amo op) (page : p.kpage = none)
    (gives : atomicNew f.kind p.n (s.rdN k p.n) f.b.toNat f.c.toNat = (some v, fl)) :
    s.bankDo f p k = .did (s.wrN k p.n v) (s.rdN k p.n) fl false none := by
  rcases kind with kind | ⟨op, kind⟩ <;>
  · rw [kind] at gives
    simp only [State.bankDo, kind, gives, page]
    rfl

theorem State.bankDo_swwait_same (kind : f.kind = .swwait) (same : s.rdN k 2 = f.b.toNat % 2 ^ 16) : s.bankDo f p k = .wait := by
  simp only [State.bankDo, kind, same, bne_self_eq_false, Bool.false_eq_true, if_false]

end

/-! ## Segment checks (R231) -/

section
variable {d : Desc} {off size need align : Nat}

theorem segCheck_type (type : descType d = 0) : segCheck d off size need align = .error 0x01 := by
  simp only [segCheck, type, beq_self_eq_true, if_true]

variable (type : descType d ≠ 0)
include type

theorem segCheck_rights (rights : hasRights (descRights d) need = false) : segCheck d off size need align = .error 0x02 := by
  simp only [segCheck, beq_eq_false_iff_ne.mpr type, rights, Bool.not_false, Bool.false_eq_true, if_false, if_true]

variable (rights : hasRights (descRights d) need = true)
include rights

theorem segCheck_align (odd : off % align ≠ 0) : segCheck d off size need align = .error 0x03 := by
  simp only [segCheck, beq_eq_false_iff_ne.mpr type, rights, bne_iff_ne.mpr odd, Bool.not_true, Bool.false_eq_true, if_false, if_true]

variable (even : off % align = 0)
include even

theorem segCheck_limit (out : 2 ^ 48 ≤ off ∨ descLimit d < off + size) : segCheck d off size need align = .error 0x04 := by
  have out : (2 ^ 48 ≤ off || descLimit d < off + size : Bool) = true := by simpa only [Bool.or_eq_true, decide_eq_true_eq] using out
  simp only [segCheck, beq_eq_false_iff_ne.mpr type, rights, even, out, bne_self_eq_false, Bool.not_true, Bool.false_eq_true, if_false, if_true]

theorem segCheck_ok (short : off < 2 ^ 48) (inside : off + size ≤ descLimit d) : segCheck d off size need align = .ok (descBase d + off) := by
  have inside : (2 ^ 48 ≤ off || descLimit d < off + size : Bool) = false := by
    simpa only [Bool.or_eq_false_iff, decide_eq_false_iff_not, Nat.not_le, Nat.not_lt] using ⟨short, inside⟩
  simp only [segCheck, beq_eq_false_iff_ne.mpr type, rights, even, inside, bne_self_eq_false, Bool.not_true, Bool.false_eq_true, if_false]

end

/-! ## Sync words (R190, R191, R202, R203) -/

end Sys2Proof.Machine
end
section

/-! ## Arrivals at a sync word (R190, R191) -/

namespace Sys2Proof.Machine

open Sys2Proof

/-- The three fields of a sync word. -/
theorem bitsN_syncWord {t c g : Nat} (ht : t < 2 ^ 24) (hc : c < 2 ^ 24) (hg : g < 2 ^ 16) :
    bitsN (t * 2 ^ 40 + c * 2 ^ 16 + g) 63 40 = t ∧ bitsN (t * 2 ^ 40 + c * 2 ^ 16 + g) 39 16 = c ∧ (t * 2 ^ 40 + c * 2 ^ 16 + g) % 2 ^ 16 = g := by
  simp only [bitsN]
  omega

theorem bitsN_target_lt (w : Nat) : bitsN w 63 40 < 2 ^ 24 := Nat.mod_lt _ (by decide)

/-- An arrival at an armed word counts its bytes modulo the target and completes a batch each time it reaches it. -/
theorem syncArrive_armed {w : Nat} (n : Nat) (armed : bitsN w 63 40 ≠ 0) :
    bitsN (syncArrive w n).1 63 40 = bitsN w 63 40 ∧ bitsN (syncArrive w n).1 39 16 = (bitsN w 39 16 + n) % bitsN w 63 40 ∧
      (syncArrive w n).1 % 2 ^ 16 = (w + (bitsN w 39 16 + n) / bitsN w 63 40) % 2 ^ 16 ∧
      (syncArrive w n).2.1 = (bitsN w 39 16 + n) / bitsN w 63 40 ∧ (syncArrive w n).2.2 = false := by
  have target := bitsN_target_lt w
  have count : (bitsN w 39 16 + n) % bitsN w 63 40 < 2 ^ 24 := (Nat.mod_lt _ (Nat.pos_of_ne_zero armed)).trans target
  have word : syncArrive w n = (bitsN w 63 40 * 2 ^ 40 + (bitsN w 39 16 + n) % bitsN w 63 40 * 2 ^ 16 +
      (w + (bitsN w 39 16 + n) / bitsN w 63 40) % 2 ^ 16, (bitsN w 39 16 + n) / bitsN w 63 40, false) := by
    rw [Nat.mod_eq_sub_div_mul, ← Nat.mod_add_mod w]
    simp only [syncArrive, beq_eq_false_iff_ne.mpr armed, Bool.false_eq_true, if_false]
  rw [word]
  obtain ⟨targetField, countField, generation⟩ := bitsN_syncWord target count (Nat.mod_lt _ (by decide))
  exact ⟨targetField, countField, generation, rfl, rfl⟩

/-- An arrival at a word without a target counts up to the largest count, and overflows beyond it. -/
theorem syncArrive_unarmed {w : Nat} (n : Nat) (unarmed : bitsN w 63 40 = 0) :
    bitsN (syncArrive w n).1 63 40 = 0 ∧ bitsN (syncArrive w n).1 39 16 = min (bitsN w 39 16 + n) (2 ^ 24 - 1) ∧
      (syncArrive w n).1 % 2 ^ 16 = w % 2 ^ 16 ∧ (syncArrive w n).2.1 = 0 ∧
      ((syncArrive w n).2.2 = true ↔ 2 ^ 24 - 1 < bitsN w 39 16 + n) := by
  have word : syncArrive w n = (0 * 2 ^ 40 + min (bitsN w 39 16 + n) (2 ^ 24 - 1) * 2 ^ 16 + w % 2 ^ 16, 0,
      decide (2 ^ 24 - 1 < bitsN w 39 16 + n)) := by
    simp only [syncArrive, unarmed, beq_self_eq_true, if_true, zero_mul, zero_add]
    split_ifs with overflow
    · rw [Nat.min_eq_right (by omega), decide_eq_true (by omega)]
    · rw [Nat.min_eq_left (by omega), decide_eq_false (by omega)]
  rw [word]
  obtain ⟨targetField, countField, generation⟩ :=
    bitsN_syncWord (t := 0) (c := min (bitsN w 39 16 + n) (2 ^ 24 - 1)) (by decide) (by omega) (Nat.mod_lt w (by decide : 0 < 2 ^ 16))
  exact ⟨targetField, countField, generation, rfl, decide_eq_true_iff⟩

/-! ## Segment checks, sync words and banks -/

/-- Settles O53. -/
theorem checksAndBanks : Obligations.ChecksAndBanks := by
  unfold Obligations.ChecksAndBanks
  refine ⟨?type, ?rights, ?align, ?limit, ?ok, ?worked, ?armed, ?unarmed, ?new, ?atomic, ?lde, ?clrf, ?fills, ?stfe, ?swwait⟩
  case type => exact fun d off size need align => segCheck_type
  case rights => exact fun d off size need align => segCheck_rights
  case align => exact fun d off size need align => segCheck_align
  case limit => exact fun d off size need align => segCheck_limit
  case ok => exact fun d off size need align => segCheck_ok
  case worked => decide
  case armed => exact fun w n _ _ armed => syncArrive_armed n armed
  case unarmed => exact fun w n _ _ unarmed => syncArrive_unarmed n unarmed
  case new =>
    intro n old b c _ _
    refine ⟨?_, rfl, rfl, rfl, rfl⟩
    simp only [atomicNew, beq_iff_eq]
  case atomic =>
    intro s f p k v fl here kind page wf gives
    have plain : f.kind ≠ .kabs := by rintro kabs; simp [kabs] at kind
    refine ⟨_, exec_bankTransaction_did here plain (State.bankDo_atomic kind page gives) nofun, ?_, ?_, ?_⟩
    · rw [State.rdN, (State.partDone_keeps ..).1]
      exact State.rdN_wrN wf k p.n v
    · exact (State.partDone_keeps ..).2
    · intro a out
      rw [(State.partDone_keeps ..).1]
      exact State.wrN_out s k p.n v out
  case lde =>
    intro s f p k here kind full alone
    have plain : f.kind ≠ .kabs := by rw [kind]; decide
    refine ⟨_, exec_bankTransaction_did here plain (State.bankDo_lde_full kind full) fun _ => alone, (State.partDone_keeps ..).1, ?_, ?_⟩
    · exact (State.full_of_empty (State.partDone_keeps ..).2 k).trans (s.full_setFull_self k false)
    · exact fun a other => (State.full_of_empty (State.partDone_keeps ..).2 a).trans (s.full_setFull_other false other)
  case clrf =>
    intro s f p k here kind alone
    have plain : f.kind ≠ .kabs := by rw [kind]; decide
    refine ⟨_, exec_bankTransaction_did here plain (State.bankDo_clrf kind) fun _ => alone, (State.partDone_keeps ..).1, ?_, ?_⟩
    · exact (State.full_of_empty (State.partDone_keeps ..).2 k).trans (s.full_setFull_self k false)
    · exact fun a other => (State.full_of_empty (State.partDone_keeps ..).2 a).trans (s.full_setFull_other false other)
  case fills =>
    intro s f p k here kind page plainVolume wf alone
    have plain : f.kind ≠ .kabs := by rintro kabs; simp [kabs] at kind
    refine ⟨_, exec_bankTransaction_did here plain (State.bankDo_fills kind page plainVolume) fun _ => alone, ?_, ?_, ?_, ?_⟩
    · rw [(State.partDone_keeps ..).1]
      exact State.getBytes_wrN wf k p.n _
    · exact (State.full_of_empty (State.partDone_keeps ..).2 k).trans (State.full_setFull_self _ k true)
    · exact fun a other => (State.full_of_empty (State.partDone_keeps ..).2 a).trans (State.full_setFull_other _ true other)
    · intro a out
      rw [(State.partDone_keeps ..).1]
      exact State.wrN_out s k p.n _ out
  case stfe =>
    intro s f p k here kind full
    exact exec_bankTransaction_wait here (by rw [kind]; decide) (State.bankDo_stfe_full kind full)
  case swwait =>
    intro s f p k here kind same
    exact exec_bankTransaction_wait here (by rw [kind]; decide) (State.bankDo_swwait_same kind same)

end Sys2Proof.Machine
end

section

/-! ## Loads, walks and the overflow list (R189, R197, R237) -/

namespace Sys2Proof.Machine

open Sys2Proof

/-- The operation of a list that is changed under its own name. -/
theorem find?_mapIf {l : List Op} {id : Nat} {o : Op} (h : l.find? (·.id == id) = some o) (f : Op → Op) (same : ∀ x, (f x).id = x.id) :
    (mapIf (·.id == id) f l).find? (·.id == id) = some (f o) := by
  have kept : ((fun x : Op => x.id == id) ∘ fun x => if x.id == id then f x else x) = fun x : Op => x.id == id := by
    funext x
    dsimp only [Function.comp]
    split
    · rw [same]
    · rfl
  rw [mapIf, List.find?_map, kept, h, Option.map_some, if_pos (List.find?_some h)]

theorem State.byUid_of_strands {s t : State} (h : t.strands = s.strands) (u : Nat) : t.byUid u = s.byUid u := by rw [State.byUid, State.byUid, h]

/-- A result goes to its operation, in the strand of its name. -/
theorem State.opDone_strand {s : State} {uid id core slot : Nat} {t : Strand} {o : Op} (owner : s.byUid uid = some ((core, slot), t))
    (op : t.ops.find? (·.id == id) = some o) (v : Vec) (fl : FlagWord) (fault : Option FaultInfo) :
    ∃ t1, (s.opDone uid id v fl fault).strand core slot = some t1 ∧
      t1.ops.find? (·.id == id) = some { o with stage := .done, val := v, flags := fl, fault := fault } := by
  have any : t.ops.any (·.id == id) = true := List.any_eq_true.mpr ⟨o, List.mem_of_find?_eq_some op, List.find?_some (p := fun x : Op => x.id == id) op⟩
  simp only [State.opDone, owner, any, if_true]
  exact ⟨_, State.strand_setStrand s core slot _, find?_mapIf op _ fun _ => rfl⟩

theorem Flight.gather_load {f : Flight} {p : Part} (kind : f.kind = .ld false) (first : f.k = 0) (none_ : f.acc = 0) (v : Nat) :
    f.gather p v = { f with acc := BitVec.ofNat 512 v, k := 1 } := by
  have empty (x : Vec) : 0 ||| x = x := BitVec.zero_or
  simp only [Flight.gather, kind, first, none_, Nat.mul_zero, BitVec.shiftLeft_zero, empty, zero_add]

theorem State.flightDone_load {s : State} {f : Flight} {signed : Bool} (kind : f.kind = .ld signed) (fl : FlagWord) (fault : Option FaultInfo) :
    s.flightDone f fl fault = ((s.dropFlight f.id).kickUid f.uid).opDone f.uid f.id f.acc fl fault := by
  unfold State.flightDone
  rw [kind]

/-- A load of one part gives its operation what it read. -/
theorem State.partDone_load {s : State} {f : Flight} {p : Part} (kind : f.kind = .ld false) (joined : f.joined = none)
    (one : f.parts = [p]) (first : f.k = 0) (none_ : f.acc = 0) (v : Nat) :
    s.partDone f p v 0 none = ((s.dropFlight f.id).kickUid f.uid).opDone f.uid f.id (BitVec.ofNat 512 v) 0 none := by
  unfold State.partDone
  rw [Flight.gather_load kind first none_, joined, one]
  dsimp only [Option.isSome_none, List.length_singleton]
  exact State.flightDone_load (by exact kind) 0 none

section
variable {s : State} {f : Flight} {i : Nat} {p : Part} {v a : Nat} {w : WalkRun} {l : Leaf}

/-- A leaf places the access that waits for it. -/
theorem State.walked_leaf (found : s.flights.find? (·.id == f.id) = some f) (part : f.unplaced = some (i, p, v, a)) (going : f.failed = false)
    (volume : v = w.vol) (page : a / 2 ^ l.bits = w.va / 2 ^ l.bits) :
    s.walked w (.leaf l) (.access f.id) = s.placed f i p a (s.leafPlace l a f.kind.need) := by
  have covers : Walk.covers (.leaf l) w a = true := beq_iff_eq.mpr page
  have same : (v != w.vol) = false := bne_eq_false_iff_eq.mpr volume
  simp only [State.walked, found, part, going, same, covers, Bool.or_self, Bool.not_true, Bool.false_eq_true, if_false, State.walkPlace]

end

section
variable {s : State} {k id : Nat} {w : WalkRun} (run : s.walkRun id = some (k, w))
include run

/-- A walk without a table to start from ends. -/
theorem exec_translationWalk_rootless (start : w.fuel = 4) (none : (s.spaceOf w.vol).root = none) :
    exec (.translationWalk id) s = .next (s.walkEnds k w (.fail 1)) := by
  show execTranslationWalk id s = _
  simp only [execTranslationWalk, run, start, none, beq_self_eq_true, Option.isNone_none, Bool.and_self, if_true]

variable (rooted : w.fuel = 4 → (s.spaceOf w.vol).root ≠ none)
include rooted

omit run in
theorem rooted_bool : (w.fuel == 4 && (s.spaceOf w.vol).root.isNone) = false := by
  rw [Bool.and_eq_false_iff, beq_eq_false_iff_ne, Option.isNone_eq_false_iff, Option.isSome_iff_ne_none]
  exact Classical.or_iff_not_imp_left.mpr fun start => rooted (Classical.not_not.mp start)

theorem exec_translationWalk_ends {r : Walk} (level : walkLevel s w.va w.fuel w.table w.p = .inl r) :
    exec (.translationWalk id) s = .next (s.walkEnds k w r) := by
  show execTranslationWalk id s = _
  simp only [execTranslationWalk, run, rooted_bool rooted, Bool.false_eq_true, if_false, level]

/-- A walk reads one level a step. -/
theorem exec_translationWalk_level {n : Nat × Nat} (level : walkLevel s w.va w.fuel w.table w.p = .inr n) :
    exec (.translationWalk id) s = .next ((s.setCluster k { s.cluster k with
      walks := replaceBy (·.id == id) { w with fuel := w.fuel - 1, table := n.1, p := n.2 } (s.cluster k).walks }).push (.translationWalk id)) := by
  show execTranslationWalk id s = _
  simp only [execTranslationWalk, run, rooted_bool rooted, Bool.false_eq_true, if_false, level]

end

/-- The end of a walk that nothing waits for puts the leaf into the cluster's cache. -/
theorem State.walkEnds_tlb {s : State} {k : Nat} {w : WalkRun} {l : Leaf} (alone : w.for_ = []) (misses : (s.cluster k).misses = []) :
    ((s.walkEnds k w (.leaf l)).cluster k).tlb = tlbFill (s.cluster k).tlb w.vol w.va l := by
  simp only [State.walkEnds, alone, misses, List.foldl_nil, State.cluster_setCluster]

section
variable {s : State} {f : Flight} {q : Nat} (found : s.flights.find? (·.id == f.id) = some f) (spilled : f.spill = some q)
include found spilled

/-- Every 64 rounds an access of the overflow list is tried. -/
theorem exec_overflowRetry_tries {p : Part} (part : f.parts[f.k]? = some p) (later : q < s.clk.frame) (due : (s.clk.frame - q) % 64 = 0)
    (goes : s.bankDo f p (p.key.getD 0) ≠ .wait) :
    exec (.overflowRetry f.id) s = .next (s.attempt { f with spill := none } p (p.key.getD 0)) := by
  show execOverflowRetry f.id s = _
  simp only [execOverflowRetry, found, spilled, part, decide_eq_false (Nat.not_le.mpr later), due, bne_self_eq_false, Bool.or_self,
    Bool.false_eq_true, if_false]

theorem exec_overflowRetry_early (early : (s.clk.frame - q) % 64 ≠ 0) : exec (.overflowRetry f.id) s = .next s := by
  show execOverflowRetry f.id s = _
  cases part : f.parts[f.k]? <;> simp only [execOverflowRetry, found, spilled, part, bne_iff_ne.mpr early, Bool.or_true, if_true]

end

/-- Settles O35. -/
theorem bankTransactions : Obligations.BankTransactions := by
  unfold Obligations.BankTransactions
  refine ⟨?store, ?load, ?wait, ?placed, ?ends, ?level, ?rootless, ?leaf, ?tried, ?early⟩
  case store =>
    intro s f p k here kind page plainVolume wf
    have plain : f.kind ≠ .kabs := by rintro kabs; simp [kabs] at kind
    obtain ⟨mem, empty⟩ := State.partDone_keeps (s.wrN k p.n p.data.toNat) f p 0 0 none
    refine ⟨_, exec_bankTransaction_did here plain (State.bankDo_store kind page plainVolume) nofun, ?_, empty, ?_⟩
    · rw [mem]
      exact State.getBytes_wrN wf k p.n _
    · intro a out
      rw [mem]
      exact State.wrN_out s k p.n _ out
  case load =>
    intro s f p k core slot t0 o here kind one first none_ owner op
    have joined : f.joined = none := here.2.2.2.2.2.1
    have owner : ((s.dropFlight f.id).kickUid f.uid).byUid f.uid = some ((core, slot), t0) :=
      (State.byUid_of_strands (State.kickUid_keeps _ _).2.2.2 _).trans owner
    obtain ⟨t1, strand, gives⟩ := State.opDone_strand owner op (BitVec.ofNat 512 (s.rdN k p.n)) 0 none
    obtain ⟨mem, empty⟩ := s.partDone_keeps f p (s.rdN k p.n) 0 none
    refine ⟨_, t1, exec_bankTransaction_did here (by rw [kind]; decide) (State.bankDo_load kind) nofun, mem, empty, ?_, gives⟩
    rw [State.partDone_load kind joined one first none_]
    exact strand
  case wait =>
    intro s f p k here kind empty
    rcases kind with kind | kind
    · exact exec_bankTransaction_wait here (by rw [kind]; decide) (State.bankDo_ldf_empty kind empty)
    · exact exec_bankTransaction_wait here (by rw [kind]; decide) (State.bankDo_lde_empty kind empty)
  case placed => exact fun s f i p v a l w => State.walked_leaf
  case ends => exact fun s k w id r run rooted => exec_translationWalk_ends run rooted
  case level => exact fun s k w id n run rooted => exec_translationWalk_level run rooted
  case rootless => exact fun s k w id => exec_translationWalk_rootless
  case leaf => exact fun s k w l => State.walkEnds_tlb
  case tried => exact fun s f p q found spilled part later due _ => exec_overflowRetry_tries found spilled part later due
  case early => exact fun s f q => exec_overflowRetry_early

end Sys2Proof.Machine
end

section

/-! ## Canonical memory (assumption 4)

A function of the model either leaves the bytes of memory as they are (its `_mem` lemma) or keeps them canonical (its `_wf` lemma). -/

namespace Sys2Proof.Machine

open Sys2Proof

@[simp] theorem State.ite_mem (p : Prop) [Decidable p] (a b : State) : (if p then a else b).mem = if p then a.mem else b.mem := apply_ite State.mem p a b

@[simp] theorem Memory.ite_wf {p : Prop} [Decidable p] {a b : Memory} (ha : a.wf = true) (hb : b.wf = true) : Memory.wf (if p then a else b) = true := by
  split
  · exact ha
  · exact hb

@[simp] theorem State.foldl_mem {α : Type} {f : State → α → State} (h : ∀ s x, (f s x).mem = s.mem) (s : State) (l : List α) :
    (l.foldl f s).mem = s.mem :=
  List.foldlRecOn l f (motive := fun t : State => t.mem = s.mem) rfl fun t kept x _ => (h t x).trans kept

@[simp] theorem State.foldl_wf {α : Type} {f : State → α → State} (h : ∀ s x, s.mem.wf = true → (f s x).mem.wf = true) {s : State}
    (hs : s.mem.wf = true) (l : List α) : (l.foldl f s).mem.wf = true :=
  List.foldlRecOn l f (motive := fun t : State => t.mem.wf = true) hs fun t kept x _ => h t x kept

@[simp] theorem State.foldl_fst_mem {α β : Type} {f : State × α → β → State × α} (h : ∀ x i, (f x i).1.mem = x.1.mem) (x : State × α) (l : List β) :
    (l.foldl f x).1.mem = x.1.mem :=
  List.foldlRecOn l f (motive := fun t : State × α => t.1.mem = x.1.mem) rfl fun t kept i _ => (h t i).trans kept

@[simp] theorem State.foldl_snd_mem {α β : Type} {f : α × State → β → α × State} (h : ∀ x i, (f x i).2.mem = x.2.mem) (x : α × State) (l : List β) :
    (l.foldl f x).2.mem = x.2.mem :=
  List.foldlRecOn l f (motive := fun t : α × State => t.2.mem = x.2.mem) rfl fun t kept i _ => (h t i).trans kept

@[simp] theorem State.foldl_fst_wf {α β : Type} {f : State × α → β → State × α} (h : ∀ x i, x.1.mem.wf = true → (f x i).1.mem.wf = true)
    {x : State × α} (hx : x.1.mem.wf = true) (l : List β) : (l.foldl f x).1.mem.wf = true :=
  List.foldlRecOn l f (motive := fun t : State × α => t.1.mem.wf = true) hx fun t kept i _ => h t i kept

@[simp] theorem State.getD_map_mem {α : Type} {g : α → State} {s : State} (h : ∀ x, (g x).mem = s.mem) (o : Option α) :
    ((o.map g).getD s).mem = s.mem := by
  cases o with
  | none => rfl
  | some x => exact h x

/-! The primitive writes, as rules for `simp`. -/

section
variable {s : State} (h : s.mem.wf = true)
include h

@[simp] theorem State.wf_wrN (key n v : Nat) : (s.wrN key n v).mem.wf = true := State.wrN_wf h key n v

@[simp] theorem State.wf_wrBytes (key : Nat) (bs : List Byte) : (s.wrBytes key bs).mem.wf = true := State.wrBytes_wf h key bs

@[simp] theorem State.wf_zeroRange (key n : Nat) : (s.zeroRange key n).mem.wf = true := State.zeroRange_wf h key n

@[simp] theorem State.wf_wrEither (key : Nat) (bs : List Byte) : (s.wrEither key bs).mem.wf = true := State.wrEither_wf h key bs

@[simp] theorem State.wf_bankWrite (key : Nat) (kpage : Option (Nat × Nat)) (n v : Nat) : (s.bankWrite key kpage n v).mem.wf = true :=
  (s.bankWrite_writesMem key kpage n v).2 h

end

/-- The state that an outcome goes on with has canonical memory. -/
@[simp] def Canonical : Host.Outcome State Fault Refusal → Prop
  | .next t => t.mem.wf = true
  | _ => True

end Sys2Proof.Machine
end

section

/-! ## Memory: slips, strands and their faults (R399 to R409) -/

namespace Sys2Proof.Machine

open Sys2Proof

@[simp] theorem State.engMsg_mem (s : State) (vol core lane src tag payload : Nat) (uid : Nat) (ptr : Word) :
    (s.engMsg vol core lane src tag payload uid ptr).mem = s.mem := by
  unfold State.engMsg
  simp

@[simp] theorem State.preemptMsg_mem (s : State) (core from_ : Nat) :
    (s.preemptMsg core from_).mem = s.mem := by
  unfold State.preemptMsg
  simp

@[simp] theorem State.bumpExec_mem (s : State) (vol : Nat) (acc : Option Nat) (d : Int) :
    (s.bumpExec vol acc d).mem = s.mem := by
  unfold State.bumpExec
  split <;> simp

@[simp] theorem State.spend_mem (s : State) (q : QId) (d : Int) :
    (s.spend q d).mem = s.mem := by
  unfold State.spend
  split <;> simp

@[simp] theorem State.pushWord_mem (s : State) (core slot : Nat) (q : QId) (v : Word) :
    (s.pushWord core slot q v).mem = s.mem := by
  unfold State.pushWord
  simp

@[simp] theorem landOp_mem (core slot : Nat) (p : State × Strand) (o : Op) :
    (landOp core slot p o).1.mem = p.1.mem := by
  unfold landOp
  split <;> simp

@[simp] theorem State.land_mem (s : State) (core slot : Nat) (t : Strand) :
    (s.land core slot t).1.mem = s.mem := by
  unfold State.land
  exact State.foldl_fst_mem (fun r o => landOp_mem core slot r o) _ _

@[simp] theorem State.wakeSpans_mem (s : State) (group : Nat) :
    (s.wakeSpans group).mem = s.mem := by
  unfold State.wakeSpans
  refine State.foldl_mem (fun s p => ?_) s _
  split <;> simp

@[simp] theorem State.endCollation_mem (s : State) (t : Strand) :
    (s.endCollation t).mem = s.mem := by
  unfold State.endCollation
  simp

@[simp] theorem State.after_mem (s : State) (core slot : Nat) (t : Strand) :
    (s.after core slot t).mem = s.mem := by
  unfold State.after
  split <;> simp

@[simp] theorem State.widen_wf (s : State) (kpage : Option (Nat × Nat)) (a n : Nat) (h : s.mem.wf = true) :
    (s.widen kpage a n).mem.wf = true :=
  (s.widen_writesMem kpage a n).2 h

@[simp] theorem State.areaPut_wf (s : State) (vol va pa : Nat) (bs : List Byte) (h : s.mem.wf = true) :
    (s.areaPut vol va pa bs).mem.wf = true :=
  (s.areaPut_writesMem vol va pa bs).2 h

@[simp] theorem State.wrWords_wf (s : State) (key : Nat) (ws : List Nat) (h : s.mem.wf = true) :
    (s.wrWords key ws).mem.wf = true :=
  State.wrBytes_wf h key _

@[simp] theorem settleGran_mem (core : Nat) (x : State × Strand) (g : Nat) :
    (settleGran core x g).1.mem = x.1.mem := by
  unfold settleGran
  dsimp only
  repeat' split
  all_goals simp

@[simp] theorem State.settle_mem (s : State) (core : Nat) (t : Strand) (regs : List Nat) :
    (s.settle core t regs).1.mem = s.mem := by
  unfold State.settle
  exact State.foldl_fst_mem (fun r g => settleGran_mem core r g) _ _

@[simp] theorem State.closeGran_mem (s : State) (core : Nat) (gran : List Nat) :
    (s.closeGran core gran).mem = s.mem := by
  unfold State.closeGran
  simp

@[simp] theorem State.endPairs_mem (s : State) (core : Nat) (gran : List Nat) :
    (s.endPairs core gran).mem = s.mem := by
  unfold State.endPairs
  simp

@[simp] theorem State.saveSettled_wf (s : State) (core slot : Nat) (t : Strand) (pc state fcls fcode : Nat) (a : Aside) (h : s.mem.wf = true) :
    (s.saveSettled core slot t pc state fcls fcode a).1.mem.wf = true := by
  unfold State.saveSettled
  simp only [State.dropStrand_mem]
  exact State.wrWords_wf _ _ _ (State.areaPut_wf _ _ _ _ _ (State.areaPut_wf _ _ _ _ _ h))

@[simp] theorem State.saveStrand_wf (s : State) (core slot : Nat) (t : Strand) (pc state fcls fcode : Nat) (a : Aside) (h : s.mem.wf = true) :
    (s.saveStrand core slot t pc state fcls fcode a).1.mem.wf = true := by
  unfold State.saveStrand
  simp [h]

@[simp] theorem State.setSlipDw_wf (s : State) (pa i v : Nat) (h : s.mem.wf = true) :
    (s.setSlipDw pa i v).mem.wf = true :=
  State.wrN_wf h _ 8 v

@[simp] theorem State.setSlipState_wf (s : State) (pa st : Nat) (h : s.mem.wf = true) :
    (s.setSlipState pa st).mem.wf = true := by
  unfold State.setSlipState
  simp [h]

@[simp] theorem State.setSlipPc_wf (s : State) (pa pc : Nat) (h : s.mem.wf = true) :
    (s.setSlipPc pa pc).mem.wf = true := by
  unfold State.setSlipPc
  simp [h]

@[simp] theorem State.setSlipFault_wf (s : State) (pa cls code : Nat) (h : s.mem.wf = true) :
    (s.setSlipFault pa cls code).mem.wf = true := by
  unfold State.setSlipFault
  simp [h]

@[simp] theorem State.setSlipLink_wf (s : State) (pa va : Nat) (h : s.mem.wf = true) :
    (s.setSlipLink pa va).mem.wf = true := by
  unfold State.setSlipLink
  simp [h]

@[simp] theorem State.appendRun_wf (s : State) (core prio vol pa : Nat) (h : s.mem.wf = true) :
    (s.appendRun core prio vol pa).mem.wf = true := by
  unfold State.appendRun
  dsimp only
  split <;> simp (disch := simp [h])

@[simp] theorem State.removeRun_mem (s : State) (core pa : Nat) :
    (s.removeRun core pa).mem = s.mem := by
  unfold State.removeRun
  simp

@[simp] theorem State.allotArea_mem (s : State) (cluster vol : Nat) :
    (s.allotArea cluster vol).2.mem = s.mem := by
  unfold State.allotArea
  simp

@[simp] theorem State.allotPool_mem (s : State) (vol : Nat) :
    (s.allotPool vol).2.mem = s.mem := by
  unfold State.allotPool
  split <;> simp

@[simp] theorem State.dropArea_mem (s : State) (pa : Nat) :
    (s.dropArea pa).mem = s.mem := by
  unfold State.dropArea
  simp

@[simp] theorem State.newSlip_wf (s : State) (v : Volume) (prio home wgr gidx pc holdp state : Nat) (sregs : List Desc) (args : List Word) (acc : Option Nat) (h : s.mem.wf = true) :
    (s.newSlip v prio home wgr gidx pc holdp state sregs args acc).2.mem.wf = true := by
  unfold State.newSlip
  dsimp only
  repeat' split
  all_goals simp [h]

@[simp] theorem State.handlerTask_wf (s : State) (vol prio home gidx core pa : Nat) (sregs : List Desc) (cls : Nat) (record : List Word) (h : s.mem.wf = true) :
    (s.handlerTask vol prio home gidx core pa sregs cls record).mem.wf = true := by
  unfold State.handlerTask
  dsimp only
  repeat' split
  all_goals simp [h]

@[simp] theorem State.haltNow_mem (s : State) (core slot : Nat) (t : Strand) (f : FaultInfo) (pc : Nat) (word : Word) :
    (s.haltNow core slot t f pc word).mem = s.mem := by
  unfold State.haltNow
  simp

@[simp] theorem State.halt_mem (s : State) (core slot : Nat) (t : Strand) (f : FaultInfo) (word : Word) :
    (s.halt core slot t f word).mem = s.mem := by
  unfold State.halt
  simp

@[simp] theorem State.dropFailed_mem (s : State) (core uid : Nat) :
    (s.dropFailed core uid).mem = s.mem := by
  unfold State.dropFailed
  simp

@[simp] theorem State.faultNow_wf (s : State) (core slot : Nat) (t : Strand) (f : FaultInfo) (pc : Nat) (word : Word) (h : s.mem.wf = true) :
    (s.faultNow core slot t f pc word).mem.wf = true := by
  unfold State.faultNow
  split <;> simp [h]

@[simp] theorem State.dropCode_mem (s : State) (core base size : Nat) :
    (s.dropCode core base size).mem = s.mem := by
  unfold State.dropCode
  simp

@[simp] theorem State.pageFault_wf (s : State) (core slot : Nat) (t : Strand) (f : FaultInfo) (pc : Nat) (word : Word) (h : s.mem.wf = true) :
    (s.pageFault core slot t f pc word).mem.wf = true := by
  unfold State.pageFault
  dsimp only
  repeat' split
  all_goals simp [h]

@[simp] theorem State.faultTaken_mem (s : State) (core : Nat) (t : Strand) (o : Op) :
    (s.faultTaken core t o).1.mem = s.mem := by
  unfold State.faultTaken
  dsimp only
  split <;> simp

@[simp] theorem State.faultAtSwitch_wf (s : State) (core slot : Nat) (t : Strand) (o : Op) (f : FaultInfo) (h : s.mem.wf = true) :
    (s.faultAtSwitch core slot t o f).mem.wf = true := by
  unfold State.faultAtSwitch
  simp [h]

@[simp] theorem State.faultAtIssue_wf (s : State) (core slot : Nat) (t : Strand) (f : FaultInfo) (word : Word) (h : s.mem.wf = true) :
    (s.faultAtIssue core slot t f word).mem.wf = true := by
  unfold State.faultAtIssue
  dsimp only
  repeat' split
  all_goals simp [h]

end Sys2Proof.Machine
end

section

/-! ## Memory: an instruction's issue, transactions, and what ends -/

namespace Sys2Proof.Machine

open Sys2Proof

@[simp] theorem State.kickInbox_mem (s : State) (core : Nat) :
    (s.kickInbox core).mem = s.mem := by
  unfold State.kickInbox
  simp

theorem State.popPort_mem {s : State} {core slot : Nat} {t : Strand} {p : GOp} {r : Word × State} (e : s.popPort core slot t p = some r) :
    r.2.mem = s.mem := by
  unfold State.popPort at e
  dsimp only at e
  split at e
  · obtain ⟨m, -, rfl⟩ := Option.map_eq_some_iff.mp e
    simp
  · obtain ⟨w, -, rfl⟩ := Option.map_eq_some_iff.mp e
    simp

@[simp] theorem Ctx.flags_mem (c : Ctx) (fl : FlagWord) :
    (c.flags fl).s.mem = c.s.mem := by
  unfold Ctx.flags
  simp

@[simp] theorem Ctx.hold_mem (c : Ctx) (id : Nat) (d : Dest) (v : Vec) (fl : FlagWord) :
    (c.hold id d v fl).s.mem = c.s.mem := by
  unfold Ctx.hold
  simp

@[simp] theorem Ctx.put_mem (c : Ctx) (d : GOp) (v : Word) (fl : FlagWord) :
    (c.put d v fl).s.mem = c.s.mem := by
  unfold Ctx.put
  dsimp only
  repeat' split
  all_goals simp

@[simp] theorem Ctx.putV_mem (c : Ctx) (d : Fin 16) (v : Vec) (fl : FlagWord) :
    (c.putV d v fl).s.mem = c.s.mem := by
  unfold Ctx.putV
  split <;> simp

@[simp] theorem Ctx.putP_mem (c : Ctx) (d : Fin 16) (b : Bool) (fl : FlagWord) :
    (c.putP d b fl).s.mem = c.s.mem := by
  unfold Ctx.putP
  split <;> simp

@[simp] theorem Ctx.op_mem (c : Ctx) (d : Dest) (cls : OpClass) (acq access : Bool) :
    (c.op d cls acq access).2.s.mem = c.s.mem := by
  unfold Ctx.op
  simp

@[simp] theorem Ctx.setOp_mem (c : Ctx) (id : Nat) (f : Op → Op) :
    (c.setOp id f).s.mem = c.s.mem := by
  unfold Ctx.setOp
  simp

@[simp] theorem Ctx.replyIn_mem (c : Ctx) (frames id : Nat) :
    (c.replyIn frames id).s.mem = c.s.mem := by
  unfold Ctx.replyIn
  simp

@[simp] theorem Ctx.resultFrom_mem (c : Ctx) (d : GOp) (core : Nat) (v : Word) :
    (c.resultFrom d core v).s.mem = c.s.mem := by
  unfold Ctx.resultFrom
  simp

@[simp] theorem Ctx.result_mem (c : Ctx) (d : GOp) (v : Word) (fl : FlagWord) :
    (c.result d v fl).s.mem = c.s.mem := by
  unfold Ctx.result
  simp

@[simp] theorem Ctx.settle_mem (c : Ctx) (f : Form) :
    (c.settle f).s.mem = c.s.mem := by
  unfold Ctx.settle
  simp

@[simp] theorem Ctx.repair_mem (c : Ctx) (f : Form) :
    (c.repair f).s.mem = c.s.mem := by
  unfold Ctx.repair
  dsimp only
  split <;> simp

/-- How an instruction ends leaves canonical memory. -/
@[simp] def Out.Canonical : Out → Prop
  | .go c | .jump c _ | .block c _ | .rest c _ | .faultAfter c _ => c.s.mem.wf = true
  | .park _ | .fault _ => True
  | .left s => s.mem.wf = true

theorem finish_wf {s0 : State} {t0 : Strand} {c0 : Ctx} {o : Out} (h0 : s0.mem.wf = true) (hc : c0.s.mem.wf = true) (ho : o.Canonical) :
    (finish s0 t0 c0 o).mem.wf = true := by
  cases o with
  | faultAfter c f =>
    simp only [finish]
    split
    · exact State.faultAtIssue_wf _ _ _ _ _ _ hc
    · exact State.faultAtIssue_wf _ _ _ _ _ _ ho
  | fault f => exact State.faultAtIssue_wf _ _ _ _ _ _ hc
  | park p => exact h0
  | left s => exact ho
  | go c | jump c pc | rest c n | block c id => simpa [finish] using ho

@[simp] theorem Ctx.take_mem (c : Ctx) (landed : Bool) (v : Word) (s1 : State) : (c.take landed v s1).s.mem = s1.mem := by
  unfold Ctx.take
  dsimp only
  split <;> simp

@[simp] theorem Ctx.joinSpan_keeps (c : Ctx) (i : Instr) (op : Option Nat) (a b : Vec) : (c.joinSpan i op a b).s.mem = c.s.mem := by
  unfold Ctx.joinSpan
  exact State.wakeSpans_mem _ _

@[simp] theorem Ctx.skip_mem (c0 : Ctx) (f : Form) : (c0.skip f).s.mem = c0.s.mem := by
  unfold Ctx.skip
  split
  · rfl
  · split <;> simp

/-- An instruction that executes keeps memory canonical where its body does. -/
theorem execute_wf {f : Form} {s0 : State} {t0 : Strand} {c0 : Ctx} {landed : Bool} {body : Ctx → Out} (h0 : s0.mem.wf = true)
    (hc : c0.s.mem.wf = true) (hb : ∀ c : Ctx, c.s.mem.wf = true → (body c).Canonical) : (execute f s0 t0 c0 landed body).mem.wf = true := by
  have settled : (c0.settle f).s.mem.wf = true := by simpa using hc
  have repaired : ((c0.settle f).repair f).s.mem.wf = true := by simpa using hc
  unfold execute
  dsimp only
  split
  · split
    · exact finish_wf hc settled trivial
    · split
      · exact finish_wf hc repaired trivial
      · split
        · split
          · exact finish_wf hc repaired trivial
          · exact finish_wf hc repaired (hb _ repaired)
        · split
          · exact finish_wf hc repaired (hb _ repaired)
          · split
            · exact finish_wf h0 repaired trivial
            next v s1 popped =>
              refine finish_wf hc repaired (hb _ ?_)
              rw [Ctx.take_mem]
              exact (State.popPort_mem popped).symm ▸ repaired
  · split
    · exact finish_wf hc hc trivial
    · split
      · exact finish_wf hc settled trivial
      · exact finish_wf hc hc (by simpa using hc)

theorem issueAt_wf (f : Form) {s : State} (core slot : Nat) (t : Strand) {body : Ctx → Out} (h : s.mem.wf = true)
    (hb : ∀ c : Ctx, c.s.mem.wf = true → (body c).Canonical) : (issueAt f s core slot t body).mem.wf = true := by
  have landed : (s.land core slot t).1.mem.wf = true := by rw [State.land_mem]; exact h
  unfold issueAt
  dsimp only
  split
  · split
    · exact h
    · split
      · exact landed
      · split
        · exact State.faultAtSwitch_wf _ _ _ _ _ _ h
        · exact execute_wf h landed hb
  · exact execute_wf h h hb

theorem issue_wf {f : Form} {s : State} {body : Ctx → Out} (h : s.mem.wf = true)
    (hb : ∀ c : Ctx, c.s.mem.wf = true → (body c).Canonical) : Canonical (issue f s body) := by
  unfold issue
  split
  · trivial
  · split
    · trivial
    · exact issueAt_wf f _ _ _ h hb

@[simp] theorem State.filterStore_mem (s : State) (f : Flight) (p : Part) (key : Nat) :
    (s.filterStore f p key).mem = s.mem := by
  unfold State.filterStore
  dsimp only
  repeat' split
  all_goals simp

/-- The state that a transaction leaves has canonical memory. -/
@[simp] def Bank.Canonical : Bank → Prop
  | .did s _ _ _ _ => s.mem.wf = true
  | .wait => True

theorem State.bankDo_wf (s : State) (f : Flight) (p : Part) (key : Nat) (h : s.mem.wf = true) : (s.bankDo f p key).Canonical := by
  unfold State.bankDo
  cases f.kind <;> dsimp only <;> repeat' split
  all_goals simp [h]

@[simp] theorem State.kickReqs_mem (s : State) (cluster : Nat) :
    (s.kickReqs cluster).mem = s.mem := by
  unfold State.kickReqs
  simp

@[simp] theorem State.serve_wf (s : State) (key : Nat) (x0 : Nat) (h : s.mem.wf = true) :
    (s.serve key x0).mem.wf = true := by
  induction x0 generalizing s with
  | zero => exact h
  | succ n ih =>
    rw [State.serve]
    split
    · exact h
    next f p _ =>
      have kept := s.bankDo_wf f p (p.key.getD 0) h
      split
      · exact h
      next did =>
        rw [did] at kept
        exact ih _ (by simpa using kept)

@[simp] theorem State.serveAll_wf (s : State) (h : s.mem.wf = true) :
    (s.serveAll).mem.wf = true := by
  unfold State.serveAll
  exact State.foldl_wf (fun s k h => State.serve_wf s k _ h) h _

@[simp] theorem State.arriveAt_wf (s : State) (key : Nat) (kpage : Option (Nat × Nat)) (n : Nat) (h : s.mem.wf = true) :
    (s.arriveAt key kpage n).1.mem.wf = true := by
  unfold State.arriveAt
  dsimp only
  split <;> simp [h]

@[simp] theorem State.joinList_mem (s : State) (f : Flight) (key : Nat) :
    (s.joinList f key).mem = s.mem := by
  unfold State.joinList
  simp

@[simp] theorem State.placed_mem (s : State) (f : Flight) (i : Nat) (p : Part) (va : Nat) (pl : Place) :
    (s.placed f i p va pl).mem = s.mem := by
  unfold State.placed
  split <;> simp

@[simp] theorem State.miss_mem (s : State) (k vol va : Nat) (m : Misser) :
    (s.miss k vol va m).mem = s.mem := by
  unfold State.miss
  simp

@[simp] theorem State.translatePart_mem (s : State) (f : Flight) (i : Nat) (p : Part) (vol va : Nat) :
    (s.translatePart f i p vol va).mem = s.mem := by
  unfold State.translatePart
  dsimp only
  split <;> simp

@[simp] theorem State.farPart_mem (s : State) (f : Flight) (p : Part) (peer off : Nat) :
    (s.farPart f p peer off).mem = s.mem := by
  unfold State.farPart
  simp

@[simp] theorem State.kabsStep_wf (s : State) (f : Flight) (p : Part) (key : Nat) (h : s.mem.wf = true) :
    (s.kabsStep f p key).mem.wf = true := by
  unfold State.kabsStep
  dsimp only
  repeat' split
  all_goals simp [h]
  exact State.foldl_wf (fun s c h => by simp [h]) h _

@[simp] theorem State.attempt_wf (s : State) (f : Flight) (p : Part) (key : Nat) (h : s.mem.wf = true) :
    (s.attempt f p key).mem.wf = true := by
  have kept := s.bankDo_wf f p key h
  unfold State.attempt
  split
  · simpa using h
  · split
    · exact State.kabsStep_wf s f p key h
    · split
      · simpa using h
      next s1 v fl served e did =>
        rw [did] at kept
        have done : (s1.partDone f p v fl e).mem.wf = true := by simpa using kept
        dsimp only
        split
        · exact State.serve_wf _ _ _ done
        · exact done

@[simp] theorem State.perform_wf (s : State) (f : Flight) (p : Part) (h : s.mem.wf = true) :
    (s.perform f p).mem.wf = true := by
  unfold State.perform
  split <;> simp [h]

@[simp] theorem State.bankStep_wf (s : State) (f : Flight) (h : s.mem.wf = true) :
    (s.bankStep f).mem.wf = true := by
  unfold State.bankStep
  repeat' split
  all_goals simp [h]

@[simp] theorem Ctx.send_mem (c : Ctx) (kind : AccKind) (d : Dest) (cls : OpClass) (acq : Bool) (parts : List Part) (b d2 : Word) :
    (c.send kind d cls acq parts b d2).2.s.mem = c.s.mem := by
  unfold Ctx.send
  simp

@[simp] theorem State.sendAgain_mem (s : State) (core slot : Nat) (a : Again) :
    (s.sendAgain core slot a).mem = s.mem := by
  unfold State.sendAgain
  dsimp only
  repeat' split
  all_goals simp

@[simp] theorem State.loadSlip_mem (s : State) (core slot vol pa : Nat) (gran : List Nat) : (s.loadSlip core slot vol pa gran).mem = s.mem := by
  unfold State.loadSlip
  simp only [State.endPairs_mem, State.setStrand_mem]
  repeat' split
  all_goals
    simp only [State.dropCode_mem, State.foldl_mem, State.sendAgain_mem, implies_true]
    exact State.foldl_snd_mem (by intros; rfl) ([], s) _

@[simp] theorem State.slipFaults_wf (s : State) (core slot listCore vol pa : Nat) (f : FaultInfo) (word : Word) (h : s.mem.wf = true) :
    (s.slipFaults core slot listCore vol pa f word).mem.wf = true := by
  unfold State.slipFaults
  simp (disch := simp [h])

@[simp] theorem State.refuseSlip_wf (s : State) (core slot listCore vol pa : Nat) (h : s.mem.wf = true) :
    (s.refuseSlip core slot listCore vol pa).mem.wf = true := by
  unfold State.refuseSlip
  simp [h]

@[simp] theorem State.search_wf (s : State) (core slot : Nat) (g : Gathering) (m : Member) (fuel : Nat) (l : List (Nat × Nat))
    (h : s.mem.wf = true) : (s.search core slot g m fuel l).mem.wf = true := by
  induction fuel generalizing s l with
  | zero => simpa [State.search] using h
  | succ fuel ih =>
    cases l with
    | nil => simpa [State.search] using h
    | cons k rest =>
      rw [State.search]
      split
      · exact ih s rest h
      · split
        · exact ih s rest h
        · split
          · exact ih _ _ (State.refuseSlip_wf _ _ _ _ _ _ h)
          · split
            · exact ih s rest h
            · simpa using h

@[simp] theorem State.arriveLoc_wf (s : State) (cluster : Nat) (l : Loc) (n : Nat) (h : s.mem.wf = true) :
    (s.arriveLoc cluster l n).1.mem.wf = true := by
  unfold State.arriveLoc
  dsimp only
  repeat' split
  all_goals simp [h]

@[simp] theorem State.pokeBarriers_mem (s : State) (vol gidx : Nat) :
    (s.pokeBarriers vol gidx).mem = s.mem := by
  unfold State.pokeBarriers
  split <;> simp

@[simp] theorem State.setMember_mem (s : State) (vol gidx role lane : Nat) (f : Member → Member) :
    (s.setMember vol gidx role lane f).mem = s.mem := by
  unfold State.setMember
  split <;> simp

@[simp] theorem State.holdZero_wf (s : State) (core : Nat) (h : Hold) (wf : s.mem.wf = true) : (s.holdZero core h).mem.wf = true := by
  unfold State.holdZero
  simp only [State.pushNew_mem]
  refine State.foldl_wf (fun s pa wf => ?_) (by simpa using wf) _
  split
  · exact State.appendRun_wf _ _ _ _ _ wf
  · exact wf

@[simp] theorem State.endArrival_wf (s : State) (v : Volume) (h : s.mem.wf = true) :
    (s.endArrival v).mem.wf = true := by
  unfold State.endArrival
  split <;> simp [h]

@[simp] theorem State.endVolume_wf (s0 : State) (v : Volume) (h : s0.mem.wf = true) : (s0.endVolume v).mem.wf = true := by
  have arrived := State.endArrival_wf s0 v h
  unfold State.endVolume
  simpa using arrived

@[simp] theorem State.checkVolume_wf (s : State) (vol : Nat) (h : s.mem.wf = true) :
    (s.checkVolume vol).mem.wf = true := by
  unfold State.checkVolume
  split <;> simp [h]

@[simp] theorem State.withdraw_mem (s : State) (uid : Nat) :
    (s.withdraw uid).mem = s.mem := by
  unfold State.withdraw
  simp

@[simp] theorem State.freePool_wf (s : State) (vol pa : Nat) (h : s.mem.wf = true) :
    (s.freePool vol pa).mem.wf = true := by
  unfold State.freePool
  split <;> simp [h]

@[simp] theorem State.checkGathering_mem (s : State) (vol gidx : Nat) :
    (s.checkGathering vol gidx).mem = s.mem := by
  unfold State.checkGathering
  split <;> simp

@[simp] theorem State.endStrand_wf (s : State) (core slot : Nat) (t : Strand) (h : s.mem.wf = true) :
    (s.endStrand core slot t).mem.wf = true := by
  unfold State.endStrand
  split_ifs <;> simp [h]

@[simp] theorem State.endSlip_wf (s0 : State) (vol pa : Nat) (h : s0.mem.wf = true) :
    (s0.endSlip vol pa).mem.wf = true := by
  unfold State.endSlip
  dsimp only
  split <;> simp [h]

@[simp] theorem State.passBlocking_mem (s : State) (core slot : Nat) (t : Strand) :
    (s.passBlocking core slot t).mem = s.mem := by
  unfold State.passBlocking
  simp

@[simp] theorem State.completeBlocking_wf (s : State) (core slot : Nat) (t : Strand) (id : Nat) (h : s.mem.wf = true) :
    (s.completeBlocking core slot t id).mem.wf = true := by
  unfold State.completeBlocking
  split <;> simp [h]

@[simp] theorem State.pastBlocking_mem (s : State) (core slot : Nat) (t : Strand) :
    (s.pastBlocking core slot t).mem = s.mem := by
  unfold State.pastBlocking
  split <;> simp

@[simp] theorem State.parkSettled_wf (s : State) (core slot : Nat) (t : Strand) (pc : Nat) (h : s.mem.wf = true) :
    (s.parkSettled core slot t pc).mem.wf = true := by
  unfold State.parkSettled
  dsimp only
  split <;> simp [h]

@[simp] theorem State.parkHalted_wf (s : State) (core slot : Nat) (t : Strand) (pc : Nat) (h : s.mem.wf = true) :
    (s.parkHalted core slot t pc).mem.wf = true := by
  unfold State.parkHalted
  simp [h]

@[simp] theorem State.saveOne_wf (s : State) (core slot : Nat) (t : Strand) (h : s.mem.wf = true) :
    (s.saveOne core slot t).1.mem.wf = true := by
  unfold State.saveOne
  dsimp only
  repeat' split
  all_goals simp [h]

theorem Ctx.jump_wf (c : Ctx) (t : Nat) (h : c.s.mem.wf = true) : (c.jump t).Canonical := by
  unfold Ctx.jump
  split <;> exact h

theorem branch_wf {i : Instr} {h : Hdr} {a b : GOp} {disp : BitVec 24} {cond : Word → Word → Bool} {s : State} (wf : s.mem.wf = true) :
    Canonical (branch i h a b disp cond s) := by
  refine issue_wf wf fun c hc => ?_
  split
  · exact hc
  · split
    · exact Ctx.jump_wf c _ hc
    · exact hc

end Sys2Proof.Machine
end

section

/-! ## Memory: requests, copies and the tile engine -/

namespace Sys2Proof.Machine

open Sys2Proof

@[simp] theorem State.formGroup_mem (s : State) (ps : List ((Nat × Nat) × Strand)) (me n id : Nat) :
    (s.formGroup ps me n id).mem = s.mem := by
  unfold State.formGroup
  exact State.foldl_mem (by intros; rfl) s ps

@[simp] theorem State.collateFaults_wf (s : State) (es : List ((Nat × Nat) × Strand)) (h : s.mem.wf = true) :
    (s.collateFaults es).mem.wf = true := by
  unfold State.collateFaults
  exact State.foldl_wf (fun s e h => State.faultAtIssue_wf s _ _ _ _ _ h) h es

theorem State.collateTry_wf (s : State) (core slot : Nat) (t : Strand) (n : Nat) (h : s.mem.wf = true) {r : State} (e : (s.collateTry core slot t n) = some r) :
    r.mem.wf = true := by
  unfold State.collateTry at e
  dsimp only at e
  split at e
  · obtain rfl := Option.some.inj e
    exact State.collateFaults_wf s _ h
  · split at e
    · obtain rfl := Option.some.inj e
      simpa using h
    · cases e

theorem Ctx.retired_wf (c : Ctx) (g : Gathering) (succ : Option Word) (block : List Word) (h : c.s.mem.wf = true) :
    (c.retired g succ block).Canonical := by
  unfold Ctx.retired
  simpa using h

@[simp] theorem State.notReady_mem (s : State) (r : Req) :
    (s.notReady r).mem = s.mem := by
  unfold State.notReady
  dsimp only
  repeat' split
  all_goals simp

@[simp] theorem Ctx.request_mem (c : Ctx) (d : GOp) (kind : ReqKind) (a : Word) (b : Option Word) (imm : Nat) :
    (c.request d kind a b imm).2.s.mem = c.s.mem := by
  unfold Ctx.request
  simp

@[simp] theorem State.status_mem (s : State) (iss : Issuer) (op : Nat) (v : Word) :
    (s.status iss op v).mem = s.mem := by
  unfold State.status
  simp

@[simp] theorem State.replyOp_mem (s : State) (core slot op due : Nat) (v : Word) :
    (s.replyOp core slot op due v).mem = s.mem := by
  unfold State.replyOp
  split <;> simp

@[simp] theorem State.deliver_mem (s : State) (core : Nat) (m : InMsg) :
    (s.deliver core m).mem = s.mem := by
  unfold State.deliver
  simp

@[simp] theorem State.errata_wf (s : State) (vol cls src core slot gidx : Nat) (body : List Word) (h : s.mem.wf = true) :
    (s.errata vol cls src core slot gidx body).mem.wf = true := by
  unfold State.errata
  split
  · exact h
  · dsimp only
    split
    · split
      · exact State.wf_bankWrite h ..
      · split
        · exact State.wf_bankWrite h ..
        · exact State.wf_bankWrite (State.widen_wf _ _ _ _ (State.wrWords_wf _ _ _ h)) ..
    · exact h

@[simp] theorem State.errataOf_wf (s : State) (iss : Issuer) (src : Nat) (body : List Word) (h : s.mem.wf = true) :
    (s.errataOf iss src body).mem.wf = true := by
  unfold State.errataOf
  simp [h]

@[simp] theorem State.notify_mem (s : State) (iss : Issuer) (src tag payload : Nat) (ptr : Word) :
    (s.notify iss src tag payload ptr).mem = s.mem := by
  unfold State.notify
  simp

@[simp] theorem State.engWrite_wf (s : State) (cluster : Nat) (l : Loc) (n v : Nat) (h : s.mem.wf = true) :
    (s.engWrite cluster l n v).1.mem.wf = true := by
  unfold State.engWrite
  refine State.foldl_fst_wf (fun r p h => ?_) h _
  split
  · exact h
  · split
    · split <;> simp [h]
    · exact h

@[simp] theorem State.engEither_wf (s : State) (cluster : Nat) (l : Loc) (n v : Nat) (h : s.mem.wf = true) :
    (s.engEither cluster l n v).mem.wf = true := by
  unfold State.engEither
  refine State.foldl_wf (fun s p h => ?_) h _
  split
  · split <;> simp [h]
  · exact h

@[simp] theorem State.sendFar_mem (s : State) (a : FarAcc) :
    (s.sendFar a).1.mem = s.mem := by
  unfold State.sendFar
  dsimp only
  split_ifs <;> simp

@[simp] theorem State.sendHeld_mem (s : State) (as : List FarAcc) :
    (s.sendHeld as).1.mem = s.mem := by
  unfold State.sendHeld
  refine State.foldl_fst_mem (fun r a => ?_) (s, []) as
  dsimp only
  split
  · rfl
  · exact State.sendFar_mem r.1 a

@[simp] theorem State.sendFars_mem (s : State) (as : List FarAcc) :
    (s.sendFars as).1.mem = s.mem := by
  unfold State.sendFars
  simp

@[simp] theorem State.putReq_mem (s : State) (cluster : Nat) (r : Req) :
    (s.putReq cluster r).mem = s.mem := by
  unfold State.putReq
  simp

@[simp] theorem State.askRecord_mem (s : State) (cluster : Nat) (r : Req) (as : List FarAcc) :
    (s.askRecord cluster r as).mem = s.mem := by
  unfold State.askRecord
  simp

@[simp] theorem Ctx.sendReq_mem (c : Ctx) (r : Req) :
    (c.sendReq r).s.mem = c.s.mem := by
  unfold Ctx.sendReq
  simp

theorem recordIssue_wf {i : Instr} {h : Hdr} {kind : ReqKind} {d a b : GOp} {imm : Nat} {s : State} (wf : s.mem.wf = true) :
    Canonical (recordIssue i h kind d a b imm s) := by
  refine issue_wf wf fun c hc => ?_
  dsimp only
  repeat' split
  all_goals simp [hc]

@[simp] theorem State.startCopies_mem (s : State) (cluster : Nat) :
    (s.startCopies cluster).mem = s.mem := by
  unfold State.startCopies
  refine State.foldl_mem (fun s x => ?_) s _
  dsimp only
  split
  · rfl
  · split <;> simp

@[simp] theorem State.copyWrite_wf (s : State) (cluster : Nat) (m : CopyMove) (h : s.mem.wf = true) :
    (s.copyWrite cluster m).1.mem.wf = true := by
  unfold State.copyWrite
  refine State.foldl_fst_wf (fun r p h => ?_) h _
  dsimp only
  split <;> simp [h]

@[simp] theorem State.putCopy_mem (s : State) (cluster : Nat) (o : CopyOp) :
    (s.putCopy cluster o).mem = s.mem := by
  unfold State.putCopy
  simp

@[simp] theorem State.engArrive_wf (s : State) (cluster : Nat) (iss : Issuer) (w : Word) (n : Nat) (h : s.mem.wf = true) :
    (s.engArrive cluster iss w n).1.mem.wf = true := by
  unfold State.engArrive
  split
  · exact h
  · exact State.foldl_fst_wf (fun r i h => by exact State.arriveLoc_wf r.1 _ _ _ h) (by exact h) _

/-- The states that the store of a `cmpct`'s count leaves have canonical memory. -/
@[simp] def CountWord.Canonical : CountWord → Prop
  | .wait s _ => s.mem.wf = true
  | .done s _ => s.mem.wf = true

theorem State.countWord_wf (s : State) (cluster : Nat) (o : CopyOp) (h : s.mem.wf = true) : (s.countWord cluster o).Canonical := by
  unfold State.countWord
  dsimp only
  split
  · exact h
  · split
    · exact h
    · split
      · split <;> simpa using h
      · simpa using State.engWrite_wf _ _ _ _ _ h

@[simp] theorem State.endChunk_wf (s : State) (cluster : Nat) (o : CopyOp) (marks : List (Nat × Nat × Nat)) (bytes : List (Nat × Nat))
    (h : s.mem.wf = true) : (s.endChunk cluster o marks bytes).mem.wf = true := by
  have counted := s.countWord_wf cluster o h
  unfold State.endChunk
  dsimp only
  split
  next e =>
    rw [e] at counted
    simpa using counted
  next e =>
    rw [e] at counted
    split
    · simpa using counted
    · simpa using State.engArrive_wf _ _ _ _ _ counted

@[simp] theorem State.copyWrites_wf (s : State) (cluster : Nat) (o : CopyOp) (c : CopyScan) (h : s.mem.wf = true) :
    (s.copyWrites cluster o c).mem.wf = true := by
  unfold State.copyWrites
  dsimp only
  split
  · refine State.endChunk_wf _ _ _ _ _ (State.foldl_fst_wf (fun r m h => ?_) h _)
    split <;> simp [h]
  · simp only [State.push_mem, State.putCopy_mem, State.sendFars_mem]
    refine State.foldl_fst_wf (fun r m h => ?_) h _
    split <;> simp [h]

@[simp] theorem State.nextCopies_mem (s : State) (cluster : Nat) (iss : Issuer) :
    (s.nextCopies cluster iss).mem = s.mem := by
  unfold State.nextCopies
  dsimp only
  split <;> simp

theorem alu2_wf {i : Instr} {h : Hdr} {d a b : GOp} {f : Nat → Nat → Nat × FlagWord} {s : State} (wf : s.mem.wf = true) :
    Canonical (alu2 i h d a b f s) :=
  issue_wf wf fun c hc => by simpa using hc

theorem alu1_wf {i : Instr} {h : Hdr} {d a : GOp} {f : Nat → Nat × FlagWord} {s : State} (wf : s.mem.wf = true) :
    Canonical (alu1 i h d a f s) :=
  issue_wf wf fun c hc => by simpa using hc

theorem divide_wf {i : Instr} {h : Hdr} {z : Size} {d a b : GOp} {f : Nat → Nat → Nat} {s : State} (wf : s.mem.wf = true) :
    Canonical (divide i h z d a b f s) :=
  issue_wf wf fun c hc => by split <;> simp [hc]

theorem cmp2_wf {i : Instr} {h : Hdr} {d : Fin 16} {a b : GOp} {f : Nat → Nat → Bool × FlagWord} {s : State} (wf : s.mem.wf = true) :
    Canonical (cmp2 i h d a b f s) :=
  issue_wf wf fun c hc => by simpa using hc

theorem pred2_wf {i : Instr} {h : Hdr} {d a b : Fin 16} {f : Bool → Bool → Bool} {s : State} (wf : s.mem.wf = true) :
    Canonical (pred2 i h d a b f s) :=
  issue_wf wf fun c hc => by simpa using hc

theorem releasing_wf {i : Instr} {h : Hdr} {mask : BitVec 24} {need : Bool} {act : Core → Nat → Core} {s : State} (wf : s.mem.wf = true) :
    Canonical (releasing i h mask need act s) := by
  refine issue_wf ?_ fun c hc => ?_
  · split
    · split <;> exact wf
    · exact wf
  · split
    · trivial
    · split
      · trivial
      · simpa using hc

theorem direct_wf {f : Form} {tile : Nat} {dest : Ctx → Dest} {more : Ctx → Tile → Option FaultInfo} {act : Ctx → TileAct} {s : State} (h : s.mem.wf = true) :
    Canonical (direct f tile dest more act s) := by
  refine issue_wf h fun c hc => ?_
  dsimp only
  repeat' split
  all_goals simp [hc]

@[simp] theorem State.storeTile_wf (s : State) (sregs : List Desc) (vol core : Nat) (x : Tile) (f : Fmt) (rm : Rm) (d : TileDesc) (t : Nat) (h : s.mem.wf = true) :
    (s.storeTile sregs vol core x f rm d t).1.mem.wf = true := by
  unfold State.storeTile
  dsimp only
  split
  · exact h
  · refine State.foldl_fst_wf (fun r i h => ?_) h _
    split
    · exact h
    · split
      · exact State.foldl_wf (fun s u h => State.engEither_wf s _ _ _ _ h) h _
      · exact State.foldl_wf (fun s u h => State.engWrite_wf s _ _ _ _ h) h _

@[simp] theorem State.tileErrata_wf (s : State) (iss : Issuer) (kind code row : Nat) (h : s.mem.wf = true) :
    (s.tileErrata iss kind code row).mem.wf = true := by
  unfold State.tileErrata
  simp [h]

@[simp] theorem State.performTld_wf (s : State) (core : Nat) (o : TileOp) (f : Fmt) (a b : Word) (h : s.mem.wf = true) :
    (s.performTld core o f a b).1.mem.wf = true := by
  unfold State.performTld
  dsimp only
  repeat' split
  all_goals simp [h]

@[simp] theorem State.performTst_wf (s : State) (core : Nat) (o : TileOp) (f : Fmt) (rm : Rm) (a b : Word) (h : s.mem.wf = true) :
    (s.performTst core o f rm a b).1.mem.wf = true := by
  have stored := State.storeTile_wf s o.iss.sregs o.iss.vol core ((s.core core).tile o.tile) f rm (tileDesc a b) 0 h
  unfold State.performTst
  dsimp only
  split
  next e =>
    rw [e] at stored
    exact stored
  next e =>
    rw [e] at stored
    exact State.tileErrata_wf _ _ _ _ _ stored

@[simp] theorem State.performTile_wf (s : State) (core : Nat) (o : TileOp) (h : s.mem.wf = true) :
    (s.performTile core o).1.mem.wf = true := by
  unfold State.performTile
  split <;> simp [h]

@[simp] theorem State.kickTile_mem (s : State) (core : Nat) (o : TileOp) :
    (s.kickTile core o).mem = s.mem := by
  unfold State.kickTile
  simp

@[simp] theorem State.tileOpStep_wf (s : State) (core : Nat) (o : TileOp) (h : s.mem.wf = true) :
    (s.tileOpStep core o).mem.wf = true := by
  unfold State.tileOpStep
  dsimp only
  split <;> simp [h]

@[simp] theorem State.tenqEnd_mem (s : State) (r : Req) (b v : Nat) :
    (s.tenqEnd r b v).mem = s.mem := by
  unfold State.tenqEnd
  simp

@[simp] theorem State.enqueued_mem (s : State) (b : Nat) (r : Req) (g : Gathering) (recs : List (List Word)) :
    (s.enqueued b r g recs).mem = s.mem := by
  unfold State.enqueued
  exact State.foldl_mem (by intros; rfl) s recs

@[simp] theorem State.putTask_mem (s : State) (cluster : Nat) (t : Task) :
    (s.putTask cluster t).mem = s.mem := by
  unfold State.putTask
  simp

@[simp] theorem State.runChunks_mem (s : State) (core vol tile : Nat) (da db : TileDesc) (sa sb q M nq K : Nat) (fa fb : Fmt)
    (keep : Nat → Nat → Bool) (n c : Nat) : (s.runChunks core vol tile da db sa sb q M nq K fa fb keep n c).1.mem = s.mem := by
  induction n generalizing s c with
  | zero => rfl
  | succ n ih =>
    rw [State.runChunks]
    split
    · rfl
    · split
      · rfl
      · rw [ih, State.setCore_mem]

@[simp] theorem State.runProduct_mem (s : State) (cluster core : Nat) (t : Task) (q : Nat) :
    (s.runProduct cluster core t q).1.mem = s.mem := by
  unfold State.runProduct
  dsimp only
  repeat' split
  all_goals simp

@[simp] theorem State.runPart_wf (s : State) (cluster core : Nat) (t : Task) (q : Nat) (h : s.mem.wf = true) :
    (s.runPart cluster core t q).1.mem.wf = true := by
  have stored := fun f rm => State.storeTile_wf s t.iss.sregs t.iss.vol core ((s.core core).tile t.tile) f rm (tileDesc (t.dw 0) (t.dw 1)) q h
  unfold State.runPart
  dsimp only
  split
  · simpa using h
  · simpa using h
  · simpa using h
  · have stored := stored ((Fmt.ofCode (recFa t.dw)).getD .f32) (Rm.ofCode (fld (t.dw 5) 26 25))
    split
    next e => simpa [e] using stored
    next e => simpa [e] using stored

@[simp] theorem State.taskErrata_wf (s : State) (t : Task) (code part chunk : Nat) (h : s.mem.wf = true) :
    (s.taskErrata t code part chunk).mem.wf = true := by
  unfold State.taskErrata
  simp [h]

@[simp] theorem State.finishTask_wf (s : State) (cluster : Nat) (t : Task) (h : s.mem.wf = true) :
    (s.finishTask cluster t).mem.wf = true := by
  unfold State.finishTask
  dsimp only
  repeat' split
  all_goals simp [h]

end Sys2Proof.Machine
end

section

/-! ## Memory: selection, embeddings, placement and host calls -/

namespace Sys2Proof.Machine

open Sys2Proof

@[simp] theorem State.startSel_mem (s : State) (cluster : Nat) :
    (s.startSel cluster).mem = s.mem := by
  unfold State.startSel
  split <;> simp

@[simp] theorem State.selErrata_wf (s : State) (o : SelOp) (code idx va : Nat) (h : s.mem.wf = true) :
    (s.selErrata o code idx va).mem.wf = true := by
  unfold State.selErrata
  simp [h]

@[simp] theorem State.arriveOnce_wf (s : State) (cluster : Nat) (iss : Issuer) (w : Word) (n : Nat) (h : s.mem.wf = true) :
    (s.arriveOnce cluster iss w n).1.mem.wf = true := by
  unfold State.arriveOnce
  split <;> simp [h]

@[simp] theorem State.endSel_wf (s : State) (cluster : Nat) (o : SelOp) (n : Nat) (h : s.mem.wf = true) :
    (s.endSel cluster o n).mem.wf = true := by
  unfold State.endSel
  simp [h]

/-- An arrival that is asked for, or none. -/
theorem State.arriveSync_wf {s : State} (cluster : Nat) (iss : Issuer) (sync : Option Word) (n : Nat) (h : s.mem.wf = true) :
    (match sync with
      | none => (s, Arrived.done)
      | some w => s.arriveOnce cluster iss w n : State × Arrived).1.mem.wf = true := by
  cases sync with
  | none => exact h
  | some w => exact State.arriveOnce_wf _ _ _ _ _ h

@[simp] theorem State.endKsel_wf (s : State) (cluster : Nat) (o : SelOp) (h : s.mem.wf = true) : (s.endKsel cluster o).mem.wf = true := by
  have marked (l : List (Nat × Nat × Nat)) {s : State} (h : s.mem.wf = true) :
      (l.foldl (fun (s : State) b => s.selErrata o b.2.1 b.1 b.2.2) s).mem.wf = true :=
    State.foldl_wf (fun s b h => State.selErrata_wf s o _ _ _ h) h l
  unfold State.endKsel
  dsimp only
  apply State.endSel_wf
  rw [State.ite_mem]
  refine Memory.ite_wf ?_ (State.selErrata_wf _ _ _ _ _ ?_)
  all_goals exact State.arriveSync_wf _ _ _ _ (marked _ (State.foldl_fst_wf (fun r w h => by exact State.engWrite_wf r.1 _ _ _ _ h) (by exact h) _))

@[simp] theorem State.runKsel_wf (s : State) (cluster : Nat) (o : SelOp) (h : s.mem.wf = true) :
    (s.runKsel cluster o).mem.wf = true := by
  unfold State.runKsel
  split <;> simp [h]

@[simp] theorem State.mapWords_wf (s : State) (cluster : Nat) (o : SelOp) (i : Nat) (f : Nat → Nat) (h : s.mem.wf = true) :
    (s.mapWords cluster o i f).mem.wf = true := by
  unfold State.mapWords
  exact State.foldl_wf (fun s t h => State.engWrite_wf s _ _ _ _ h) h _

@[simp] theorem State.headerFails_wf (s : State) (cluster : Nat) (o : SelOp) (h : s.mem.wf = true) :
    (s.headerFails cluster o).mem.wf = true := by
  unfold State.headerFails
  exact State.endSel_wf _ _ _ _ (State.selErrata_wf _ _ _ _ _ (State.foldl_wf (fun s i h => State.mapWords_wf s _ _ _ _ h) h _))

@[simp] theorem State.gathered_wf (s : State) (cluster : Nat) (o : SelOp) (kg vg : Nat × Geometry) (h : s.mem.wf = true) :
    (s.gathered cluster o kg vg).1.mem.wf = true := by
  unfold State.gathered
  exact State.foldl_fst_wf (fun r m h => by exact State.engWrite_wf r.1 _ _ _ _ h) (by exact h) _

@[simp] theorem State.nextEntry_mem (s : State) (cluster : Nat) (o : SelOp) :
    (s.nextEntry cluster o).mem = s.mem := by
  unfold State.nextEntry
  simp

@[simp] theorem State.entryFails_wf (s : State) (cluster : Nat) (o : SelOp) (code idx va : Nat) (h : s.mem.wf = true) :
    (s.entryFails cluster o code idx va).mem.wf = true := by
  unfold State.entryFails
  simp [h]

@[simp] theorem State.startBags_mem (s : State) (cluster : Nat) :
    (s.startBags cluster).mem = s.mem := by
  unfold State.startBags
  refine State.foldl_mem (fun s o => ?_) s _
  dsimp only
  split
  · rfl
  · exact State.foldl_mem (fun s e => State.push_mem s _) _ _

@[simp] theorem State.kickEmbs_mem (s : State) :
    (s.kickEmbs).mem = s.mem := by
  unfold State.kickEmbs
  simp

@[simp] theorem State.embStatus_mem (s : State) (r : Req) (v : Word) :
    (s.embStatus r v).mem = s.mem := by
  unfold State.embStatus
  simp

@[simp] theorem State.bagFill_mem (s : State) (o : BagOp) (b : Nat) :
    (s.bagFill o b).mem = s.mem := by
  unfold State.bagFill
  refine State.foldl_mem (fun s j => ?_) s _
  dsimp only
  split <;> split <;> simp

@[simp] theorem State.bagErrata_wf (s : State) (o : BagOp) (bag code pos va : Nat) (h : s.mem.wf = true) :
    (s.bagErrata o bag code pos va).mem.wf = true := by
  unfold State.bagErrata
  simp [h]

@[simp] theorem State.endBag_mem (s : State) (cluster : Nat) (o : BagOp) (status : Nat) :
    (s.endBag cluster o status).mem = s.mem := by
  unfold State.endBag
  simp

@[simp] theorem State.bagStored_wf (s : State) (cluster : Nat) (o : BagOp) (h : s.mem.wf = true) :
    (s.bagStored cluster o).mem.wf = true := by
  unfold State.bagStored
  exact State.foldl_wf (fun s v h => State.engWrite_wf s _ _ _ _ h) h _

@[simp] theorem State.nextBag_mem (s : State) (cluster : Nat) (o : BagOp) :
    (s.nextBag cluster o).mem = s.mem := by
  unfold State.nextBag
  simp

@[simp] theorem State.bagLost_wf (s : State) (cluster : Nat) (o : BagOp) (code pos va : Nat) (h : s.mem.wf = true) :
    (s.bagLost cluster o code pos va).mem.wf = true := by
  unfold State.bagLost
  simp [h]

@[simp] theorem State.deliverEng_mem (s : State) (m : EngMsg) :
    (s.deliverEng m).mem = s.mem := by
  unfold State.deliverEng
  simp

@[simp] theorem State.heldFirst_mem (s : State) (core vol : Nat) :
    (s.heldFirst core vol).mem = s.mem := by
  unfold State.heldFirst
  simp

@[simp] theorem State.declareArena_mem (s : State) (own : Option Nat) (space : Nat) (r : List Word) :
    (s.declareArena own space r).mem = s.mem := by
  unfold State.declareArena
  simp

@[simp] theorem State.grantLaunch_mem (s : State) (r : List Word) (own : Option Nat) (asVol : Nat) (want : Option Nat) (sync : Option Loc) :
    (s.grantLaunch r own asVol want sync).2.mem = s.mem := by
  unfold State.grantLaunch
  dsimp only
  repeat' split
  all_goals simp

@[simp] theorem State.clearCore_mem (s : State) (core : Nat) :
    (s.clearCore core).mem = s.mem := by
  unfold State.clearCore
  simp

@[simp] theorem State.startBound_wf (s : State) (v : Volume) (g : Gathering) (core : Nat) (m : Member) (pc : Nat) (acc : Nat) (sregs : List Desc) (args : List Word) (h : s.mem.wf = true) :
    (s.startBound v g core m pc acc sregs args).mem.wf = true := by
  unfold State.startBound
  simp [h]

@[simp] theorem State.place_wf (s : State) (v : Volume) (k : Nat) (fits : List (Nat × List Nat × Nat × Nat)) (room : Nat) (h : s.mem.wf = true) :
    (s.place v k fits room).mem.wf = true := by
  unfold State.place
  split
  · exact h
  · refine State.serveAll_wf _ (State.foldl_wf (fun s f h => ?_) (by simp [h]) _)
    refine State.foldl_wf (fun s m h => State.startBound_wf s _ _ _ _ _ _ _ _ h) ?_ _
    simp (disch := simp [h])

theorem State.tryPlace_wf (s : State) (id : Nat) (h : s.mem.wf = true) {r : State} (e : (s.tryPlace id) = some r) :
    r.mem.wf = true := by
  unfold State.tryPlace at e
  split at e
  · cases e
  · split at e
    · cases e
    · obtain ⟨f, -, rfl⟩ := Option.map_eq_some_iff.mp e
      exact State.place_wf s _ _ _ _ h

@[simp] theorem placePass_wf (fuel : Nat) (s : State) (ids : List Nat) (h : s.mem.wf = true) : (placePass fuel s ids).mem.wf = true := by
  induction fuel generalizing s with
  | zero => exact h
  | succ fuel ih =>
    have pass {f : State × Bool → Nat → State × Bool} (hf : ∀ x id, x.1.mem.wf = true → (f x id).1.mem.wf = true) :
        (ids.foldl f (s, false)).1.mem.wf = true := State.foldl_fst_wf hf h ids
    have tried := pass (f := fun x id => match x.1.tryPlace id with
      | some s' => (s', true)
      | none => x) fun x id h => by
        split
        next placed => exact State.tryPlace_wf _ _ h placed
        next => exact h
    rw [placePass]
    split
    · exact ih _ tried
    · exact tried

@[simp] theorem State.closeCluster_mem (s : State) (k : Nat) :
    (s.closeCluster k).mem = s.mem := by
  unfold State.closeCluster
  exact State.foldl_mem (fun s i => State.setCore_mem s _ _) s _

@[simp] theorem State.countFail_mem (s : State) :
    (s.countFail).mem = s.mem := by
  unfold State.countFail
  split
  · rfl
  · split
    · dsimp only
      generalize Option.map _ _ = best
      cases best <;> simp
    · simp

@[simp] theorem State.startPreempt_mem (s : State) (core : Nat) (by_ : Option Nat) :
    (s.startPreempt core by_).2.mem = s.mem := by
  unfold State.startPreempt
  split_ifs <;> simp

@[simp] theorem State.startResume_mem (s : State) (core : Nat) (by_ : Option Nat) :
    (s.startResume core by_).2.mem = s.mem := by
  unfold State.startResume
  split_ifs <;> simp

@[simp] theorem State.preemptAsked_mem (s : State) (core : Nat) (by_ : Option Nat) :
    (s.preemptAsked core by_).2.mem = s.mem := by
  unfold State.preemptAsked
  simp

theorem State.takeFault_wf (s : State) (core slot : Nat) (t : Strand) (h : s.mem.wf = true) {r : State} (e : (s.takeFault core slot t) = some r) :
    r.mem.wf = true := by
  unfold State.takeFault at e
  split at e
  · cases e
  · split at e
    · cases e
    · split at e
      · obtain rfl := Option.some.inj e
        exact State.completeBlocking_wf s _ _ _ _ h
      · obtain rfl := Option.some.inj e
        exact State.faultAtSwitch_wf s _ _ _ _ _ h

@[simp] theorem State.saveSlot_wf (s : State) (core slot : Nat) (acc : List SavedSlot) (h : s.mem.wf = true) :
    (s.saveSlot core slot acc).1.mem.wf = true := by
  unfold State.saveSlot
  split
  · exact h
  next t _ =>
    cases taken : s.takeFault core slot t with
    | none =>
      have left : (s.pastBlocking core slot t).mem.wf = true := by simpa using h
      dsimp only
      split
      · exact left
      · split
        · split <;> exact State.saveOne_wf _ _ _ _ left
        · exact State.saveOne_wf _ _ _ _ left
    | some s1 =>
      have left : s1.mem.wf = true := State.takeFault_wf _ _ _ _ h taken
      dsimp only
      split
      · exact left
      · split
        · split <;> exact State.saveOne_wf _ _ _ _ left
        · exact State.saveOne_wf _ _ _ _ left

@[simp] theorem State.closeOut_mem (s : State) (core : Nat) (slots : List Nat) (w a : List (Nat × Nat)) :
    (s.closeOut core slots w a).mem = s.mem := by
  unfold State.closeOut
  simp

@[simp] theorem State.restoreSlot_wf (s : State) (core : Nat) (x0 : SavedSlot) (h : s.mem.wf = true) :
    (s.restoreSlot core x0).mem.wf = true := by
  unfold State.restoreSlot
  dsimp only
  repeat' split
  all_goals simp [h]

theorem refCount_wf {i : Instr} {h : Hdr} {a : GOp} {bad : Nat} {by_ : Int} {s : State} (wf : s.mem.wf = true) :
    Canonical (refCount i h a bad by_ s) := by
  refine issue_wf wf fun c hc => ?_
  dsimp only
  repeat' split
  all_goals simp [hc]

theorem State.placeCode_wf (s : State) (vol : Nat) (ws : List Word) (h : s.mem.wf = true) {r : State × Nat × Nat × Nat}
    (e : s.placeCode vol ws = some r) : r.1.mem.wf = true := by
  unfold State.placeCode at e
  dsimp only at e
  split at e
  · obtain rfl := Option.some.inj e
    refine State.foldl_wf (fun s j h => ?_) h _
    split
    · exact State.wf_bankWrite h ..
    · exact h
  · cases e

@[simp] theorem State.publish_mem (s : State) (vol i gen base size sgen sidx : Nat) :
    (s.publish vol i gen base size sgen sidx).mem = s.mem := by
  unfold State.publish
  simp

@[simp] theorem State.startSpec_mem (s : State) (cluster : Nat) :
    (s.startSpec cluster).mem = s.mem := by
  unfold State.startSpec
  split <;> simp

@[simp] theorem State.blockOut_wf (s : State) (cluster : Nat) (o : SpecOp) (handle stats : Nat) (h : s.mem.wf = true) :
    (s.blockOut cluster o handle stats).1.mem.wf = true := by
  unfold State.blockOut
  dsimp only
  repeat' split
  all_goals simp [h]

@[simp] theorem State.endSpec_mem (s : State) (cluster : Nat) (o : SpecOp) (status : Nat) :
    (s.endSpec cluster o status).mem = s.mem := by
  unfold State.endSpec
  simp

@[simp] theorem State.specFail_wf (s : State) (cluster : Nat) (o : SpecOp) (t : Trace) (status : Nat) (h : s.mem.wf = true) :
    (s.specFail cluster o t status).mem.wf = true := by
  unfold State.specFail
  simp [h]

@[simp] theorem State.specPublish_wf (s : State) (cluster : Nat) (o : SpecOp) (src : Entry) (t : Trace) (live : List Nat) (h : s.mem.wf = true) :
    (s.specPublish cluster o src t live).mem.wf = true := by
  unfold State.specPublish
  dsimp only
  split
  · simpa using State.blockOut_wf _ _ _ _ _ h
  next e => exact State.placeCode_wf _ _ _ h e

@[simp] theorem State.specEnd_wf (s : State) (cluster : Nat) (o : SpecOp) (i gen base stats : Nat) (h : s.mem.wf = true) :
    (s.specEnd cluster o i gen base stats).mem.wf = true := by
  have stored := State.blockOut_wf s cluster o (gen * 2 ^ 48 + i * 2 ^ 32 + ((s.spaceOf o.iss.vol).entry i).size) stats h
  unfold State.specEnd
  dsimp only
  split
  next e =>
    rw [e] at stored
    simpa using stored
  next e =>
    rw [e] at stored
    simpa using stored

@[simp] theorem State.reply_mem (s : State) (c : Call) (status : Nat) (words : List Word) :
    (s.reply c status words).mem = s.mem := by
  unfold State.reply
  simp

@[simp] theorem State.replyBytes_mem (s : State) (c : Call) (bytes : List Byte) :
    (s.replyBytes c bytes).mem = s.mem := by
  unfold State.replyBytes
  simp

@[simp] theorem State.replyLate_mem (s : State) (c : Call) (status : Nat) :
    (s.replyLate c status).mem = s.mem := by
  unfold State.replyLate
  rw [State.releaseCalls_mem, State.reply_mem]

@[simp] theorem State.heard_mem (s : State) (c : Call) :
    (s.heard c).mem = s.mem := by
  unfold State.heard
  simp

theorem State.defer_mem (s : State) (i : Instr) {r : State} (e : (s.defer i) = some r) :
    r.mem = s.mem := by
  unfold State.defer at e
  split at e
  · cases e
  · split at e
    · obtain rfl := Option.some.inj e
      simp
    · cases e

/-- A call that its state of the root lets through is performed; otherwise memory stays as it is. -/
theorem State.call_wf (s : State) (c : Call) (safe : Bool) {f : State → State} (h : s.mem.wf = true)
    (hf : ∀ s : State, s.mem.wf = true → (f s).mem.wf = true) : (s.call c safe f).mem.wf = true := by
  have heard : (s.heard c).mem.wf = true := by simpa using h
  have answered (n : Nat) : ((s.heard c).reply c n).mem.wf = true := by simpa using h
  unfold State.call
  dsimp only
  split
  case h_1 => exact h
  case h_2 => split <;> assumption
  case h_3 =>
    split
    · exact h
    · split
      · exact heard
      · split
        · exact answered 3
        · split
          · exact answered 2
          · exact hf _ heard
  case h_4 =>
    split
    · exact h
    · split
      · exact heard
      · split
        · exact answered 2
        · exact hf _ heard

@[simp] theorem State.checkUpdate_mem (s : State) :
    (s.checkUpdate).mem = s.mem := by
  unfold State.checkUpdate
  split
  · rfl
  · split
    · rfl
    · rw [State.releaseCalls_mem, State.reply_mem]

@[simp] theorem State.installSup_wf (s : State) (cluster : Nat) (program : List Byte) (h : s.mem.wf = true) :
    (s.installSup cluster program).mem.wf = true := by
  unfold State.installSup
  simp [h]

@[simp] theorem State.report_mem (s : State) (f : Func) (result diag : Nat) :
    (s.report f result diag).mem = s.mem := by
  unfold State.report
  simp

@[simp] theorem State.extend_mem (s : State) (i : Nat) (digest : List Byte) :
    (s.extend i digest).mem = s.mem := by
  unfold State.extend
  simp

@[simp] theorem State.extendMicro_mem (s : State) :
    (s.extendMicro).mem = s.mem := by
  unfold State.extendMicro
  refine State.foldl_mem (fun s k => ?_) s _
  split
  · rfl
  · split
    · rfl
    · split <;> rfl

end Sys2Proof.Machine
end

section

/-! ## Memory: instruction shapes, gatherings, returns and service calls -/

namespace Sys2Proof.Machine

open Sys2Proof

theorem vec2_wf {i : Instr} {h : Hdr} {f : Fmt} {d a : Fin 16} {b : VG} {g : Nat → Nat → Nat × FlagWord} {s : State} (wf : s.mem.wf = true) :
    Canonical (vec2 i h f d a b g s) :=
  issue_wf wf fun c hc => by simpa using hc

theorem vec1_wf {i : Instr} {h : Hdr} {f : Fmt} {d a : Fin 16} {g : Nat → Nat × FlagWord} {s : State} (wf : s.mem.wf = true) :
    Canonical (vec1 i h f d a g s) :=
  issue_wf wf fun c hc => by simpa using hc

theorem vecBits_wf {i : Instr} {h : Hdr} {d a : Fin 16} {b : VG} {g : Vec → Vec → Vec} {s : State} (wf : s.mem.wf = true) :
    Canonical (vecBits i h d a b g s) :=
  issue_wf wf fun c hc => by simpa using hc

theorem spanning_wf (i : Instr) (d : Dest) (a b : Vec) {put : Ctx → Vec → FlagWord → Ctx} {c : Ctx} (h : c.s.mem.wf = true)
    (hp : ∀ v fl, (put c v fl).s.mem = c.s.mem) : (spanning i d a b put c).Canonical := by
  unfold spanning
  split <;> simpa [hp] using h

theorem vecMem_wf {i : Instr} {h : Hdr} {rx : Bool} {ord : MOrd} {seg : Fin 8} {disp : BitVec 20} {d : Fin 16} {a : GOp} {store : Bool} {kind : Ctx → AccKind} {data : Vec → Vec} {s : State} {rdS : List Nat} (wf : s.mem.wf = true) :
    Canonical (vecMem i h rx ord seg disp d a store kind data s rdS) :=
  issue_wf wf fun c hc => by split <;> simp [hc]

theorem vecIdx_wf {i : Instr} {h : Hdr} {m : MemF} {d a : Fin 16} {store : Bool} {s : State} (wf : s.mem.wf = true) :
    Canonical (vecIdx i h m d a store s) :=
  issue_wf wf fun c hc => by dsimp only; split <;> simp [hc]

theorem memM_wf {i : Instr} {h : Hdr} {m : MemF} {d a : GOp} {store : Bool} {kind : AccKind} {need n : Nat} {s : State} (wf : s.mem.wf = true) :
    Canonical (memM i h m d a store kind need n s) :=
  issue_wf wf fun c hc => by
    split
    · trivial
    · dsimp only
      split <;> simp [hc]

theorem atomic_wf {i : Instr} {h : Hdr} {m : AtF} {d a : GOp} {srcs : List GOp} {kind : AccKind} {b c2 : Ctx → Word} {s : State} (wf : s.mem.wf = true) :
    Canonical (atomic i h m d a srcs kind b c2 s) :=
  issue_wf wf fun c hc => by
    dsimp only
    split
    · trivial
    · split <;> simp [hc]

theorem ptrMem_wf {f : Form} {a : GOp} {kind : AccKind} {d : Ctx → Dest} {need size align : Nat} {acq : Bool} {b : Ctx → Word} {parts : Ctx → Loc → List Part} {pre : Ctx → Option FaultInfo} {s : State} (h : s.mem.wf = true) :
    Canonical (ptrMem f a kind d need size align acq b parts pre s) :=
  issue_wf h fun c hc => by
    split
    · trivial
    · split
      · trivial
      · dsimp only
        split <;> split <;> simp [hc]

@[simp] theorem State.evict_wf (s : State) (core slot : Nat) (t : Strand) (h : s.mem.wf = true) :
    (s.evict core slot t).mem.wf = true := by
  have past : (s.pastBlocking core slot t).mem.wf = true := by simpa using h
  unfold State.evict
  dsimp only
  split
  · split
    · exact State.faultAtSwitch_wf _ _ _ _ _ _ h
    · exact h
  · split
    · exact State.parkHalted_wf _ _ _ _ _ h
    · have saved := State.saveOne_wf _ core slot (((s.pastBlocking core slot t).strand core slot).getD t) past
      split
      · exact saved
      · split
        · exact State.setSlipState_wf _ _ _ (by simpa using State.appendRun_wf _ _ _ _ _ saved)
        · simpa using State.appendRun_wf _ _ _ _ _ saved

@[simp] theorem State.discard_mem (s : State) (g : Gathering) :
    (s.discard g).mem = s.mem := by
  unfold State.discard
  exact (State.foldl_mem (fun s k => State.kickInbox_mem s k) _ _).trans (State.foldl_mem (fun s k => State.setCore_mem s _ _) s _)

@[simp] theorem State.zeroExcept_wf (s : State) (key n : Nat) (keeps : List (Nat × Nat)) (h : s.mem.wf = true) :
    (s.zeroExcept key n keeps).mem.wf = true :=
  Memory.filter_wf h _

@[simp] theorem State.carryCarrel_wf (s : State) (g : Gathering) (role core : Nat) (h : s.mem.wf = true) :
    (s.carryCarrel g role core).mem.wf = true := by
  unfold State.carryCarrel
  simp [h]

@[simp] theorem State.carryRoom_wf (s : State) (g : Gathering) (h : s.mem.wf = true) :
    (s.carryRoom g).mem.wf = true := by
  unfold State.carryRoom
  simp [h]

@[simp] theorem State.trim_mem (s : State) (g : Gathering) (m : Member) :
    (s.trim g m).mem = s.mem := by
  unfold State.trim
  split <;> simp

@[simp] theorem State.succeed_wf (s : State) (v : Volume) (g : Gathering) (i pc : Nat) (m : Member) (h : s.mem.wf = true) :
    (s.succeed v g i pc m).mem.wf = true := by
  unfold State.succeed
  dsimp only
  split <;> simp [h]

@[simp] theorem State.handOn_wf (s : State) (v : Volume) (g : Gathering) (i off : Nat) (h : s.mem.wf = true) :
    (s.handOn v g i off).mem.wf = true := by
  unfold State.handOn
  dsimp only
  simp only [State.pushNew_mem, State.setGathering_mem]
  refine State.foldl_wf (fun s m h => State.succeed_wf s _ _ _ _ _ h) (State.foldl_wf (fun s m h => State.succeed_wf s _ _ _ _ _ h) ?_ _) _
  simp only [State.foldl_mem, State.trim_mem, implies_true]
  refine State.serveAll_wf _ (State.carryRoom_wf _ _ (State.foldl_wf (fun s c h => State.carryCarrel_wf s _ _ _ h) ?_ _))
  simpa using h

@[simp] theorem State.pruneLasting_mem (s : State) :
    (s.pruneLasting).mem = s.mem := by
  unfold State.pruneLasting
  simp

@[simp] theorem State.endGathering_wf (s : State) (g : Gathering) (h : s.mem.wf = true) :
    (s.endGathering g).mem.wf = true := by
  unfold State.endGathering
  dsimp only
  simp only [State.pushNew_mem]
  refine State.checkVolume_wf _ _ ?_
  have left : ((g.cores.foldl (fun (s : State) k => s.setCore k ((s.core k).releaseTiles g.vol g.gidx 0))
      (g.members.foldl (fun (s : State) m => ((match s.retiree g m with
        | some e => s.dropStrand e.1.1 e.1.2
        | none => s).setSlipState (m.slip - Config.areaVA) 4).dropArea (m.slip - Config.areaVA)) (s.discard g)))).mem.wf = true := by
    refine State.foldl_wf (fun s k h => by exact h) (State.foldl_wf (fun s m h => ?_) (by simpa using h) _) _
    split <;> simp [h]
  split <;> exact left

@[simp] theorem State.afterReturn_wf (s : State) (core slot : Nat) (h : s.mem.wf = true) :
    (s.afterReturn core slot).mem.wf = true := by
  unfold State.afterReturn
  dsimp only
  repeat' split
  all_goals simp [h]

@[simp] theorem State.holdResult_wf (s : State) (core slot op : Nat) (f : Op → Op) (h : s.mem.wf = true) :
    (s.holdResult core slot op f).mem.wf = true := by
  unfold State.holdResult
  split <;> simp [h]

@[simp] theorem State.spanReturn_wf (s : State) (core slot op : Nat) (h : s.mem.wf = true) :
    (s.spanReturn core slot op).mem.wf = true := by
  unfold State.spanReturn
  split <;> simp [h]

@[simp] theorem State.fetchAt_wf (s : State) (core slot : Nat) (t : Strand) (va : Nat) (x0 : Place) (h : s.mem.wf = true) :
    (s.fetchAt core slot t va x0).mem.wf = true := by
  unfold State.fetchAt
  split <;> simp [h]

@[simp] theorem State.walked_wf (s : State) (w : WalkRun) (r : Walk) (m : Misser) (h : s.mem.wf = true) :
    (s.walked w r m).mem.wf = true := by
  unfold State.walked
  dsimp only
  repeat' split
  all_goals simp [h]

@[simp] theorem State.walkEnds_wf (s : State) (k : Nat) (w : WalkRun) (r : Walk) (h : s.mem.wf = true) :
    (s.walkEnds k w r).mem.wf = true := by
  unfold State.walkEnds
  dsimp only
  refine State.foldl_wf (fun s m h => by simpa using h) ?_ _
  rw [State.setCluster_mem]
  exact State.foldl_wf (fun s m h => State.walked_wf s _ _ _ h) (by simpa using h) _

@[simp] theorem State.pairHalt_mem (s : State) (core slot : Nat) (t : Strand) (f : FaultInfo) (w : Word) :
    (s.pairHalt core slot t f w).mem = s.mem := by
  unfold State.pairHalt
  dsimp only
  split <;> simp

@[simp] theorem State.setSaveDw_wf (s : State) (vol pa off : Nat) (v : Word) (h : s.mem.wf = true) :
    (s.setSaveDw vol pa off v).mem.wf = true := by
  unfold State.setSaveDw
  simp [h]

@[simp] theorem State.setSlipSpecial_wf (s : State) (pa n : Nat) (v : Word) (h : s.mem.wf = true) :
    (s.setSlipSpecial pa n v).mem.wf = true := by
  unfold State.setSlipSpecial
  split <;> simp [h]

/-- What a read of a halted strand's register leaves has canonical memory. -/
@[simp] def readCanonical : Except (FaultInfo × State) (Word × State) → Prop
  | .error e => e.2.mem.wf = true
  | .ok r => r.2.mem.wf = true

theorem State.readHalted_wf (s : State) (core slot n : Nat) (t : Strand) (h : s.mem.wf = true) : readCanonical (s.readHalted core slot n t) := by
  unfold State.readHalted
  dsimp only
  repeat' split
  all_goals simpa using h

@[simp] theorem State.resumeSlip_wf (s : State) (vol pa : Nat) (skip : Bool) (h : s.mem.wf = true) :
    (s.resumeSlip vol pa skip).mem.wf = true := by
  unfold State.resumeSlip
  simp (disch := simp [h])

@[simp] theorem State.continueHalted_mem (s : State) (core slot : Nat) (t : Strand) (pc : Nat) :
    (s.continueHalted core slot t pc).mem = s.mem := by
  unfold State.continueHalted
  simp

@[simp] theorem State.setSvc_mem (s : State) (cluster id : Nat) (f : SvcCall → SvcCall) :
    (s.setSvc cluster id f).mem = s.mem := by
  unfold State.setSvc
  simp

@[simp] theorem State.svcEnd_mem (s : State) (cluster : Nat) (x : SvcCall) (status : Nat) :
    (s.svcEnd cluster x status).mem = s.mem := by
  unfold State.svcEnd
  simp

@[simp] theorem State.svcAnswer_wf (s : State) (cluster : Nat) (x : SvcCall) (status : Nat) (words : List Word) (h : s.mem.wf = true) :
    (s.svcAnswer cluster x status words).mem.wf = true := by
  unfold State.svcAnswer
  split
  · simpa using h
  · split
    · simpa using h
    · split
      · dsimp only
        split <;> simpa using h
      · dsimp only
        split
        · rw [State.svcEnd_mem]
          refine State.foldl_fst_wf (fun r w h => ?_) h _
          split
          · exact h
          · exact State.engWrite_wf _ _ _ _ _ h
        · simpa using h

@[simp] theorem State.svcSend_mem (s : State) (cluster : Nat) (x : SvcCall) :
    (s.svcSend cluster x).mem = s.mem := by
  unfold State.svcSend
  split <;> simp

@[simp] theorem State.svcSettle_mem (s : State) (cluster : Nat) (x : SvcCall) (i : Nat) (res : Option Nat) :
    (s.svcSettle cluster x i res).mem = s.mem := by
  unfold State.svcSettle
  simp
  repeat' split
  all_goals simp

end Sys2Proof.Machine
end

section

/-! ## Memory: the network and fenced units -/

namespace Sys2Proof.Machine

open Sys2Proof

/-- The states that a reading of an argument block leaves have the memory of another. -/
@[simp] def SvcArg.Bytes (m : Memory) : SvcArg → Prop
  | .words s _ => s.mem = m
  | .fault _ => True
  | .wait s => s.mem = m

theorem State.svcArg_mem (s : State) (k : Nat) (x : SvcCall) : (s.svcArg k x).Bytes s.mem := by
  unfold State.svcArg
  dsimp only
  repeat' split
  all_goals simp

theorem State.svcTake_wf (s : State) (core slot n : Nat) {act : State → SvcCall → List Word → State} (h : s.mem.wf = true)
    (ha : ∀ s x ws, s.mem.wf = true → (act s x ws).mem.wf = true) : (s.svcTake core slot n act).mem.wf = true := by
  unfold State.svcTake
  dsimp only
  split
  · exact h
  next x _ =>
    have read := s.svcArg_mem (clusterOf core) x
    split
    · simpa using h
    · split
      · exact h
      · split
        next e =>
          rw [e] at read
          exact read.symm ▸ h
        next => simpa using h
        next e =>
          rw [e] at read
          split
          · simpa using h
          · exact ha _ _ _ (read.symm ▸ h)

theorem State.joinPage_mem (s : State) (cluster vol page core slot gidx : Nat) (w : PageWaiter) {r : State} (e : (s.joinPage cluster vol page core slot gidx w) = some r) :
    r.mem = s.mem := by
  unfold State.joinPage at e
  dsimp only at e
  split at e
  · obtain rfl := Option.some.inj e
    rfl
  · split at e
    · cases e
    · obtain rfl := Option.some.inj e
      simp

@[simp] theorem State.settlePage_wf (s : State) (cluster : Nat) (p : PageReq) (res : Nat) (h : s.mem.wf = true) :
    (s.settlePage cluster p res).mem.wf = true := by
  unfold State.settlePage
  dsimp only
  rw [State.foldl_mem fun s x => State.pushNew_mem s _]
  refine State.foldl_wf (fun s w h => ?_) (by simpa using h) _
  have answered : (match w.res with
      | some l => (s.engWrite cluster l 8 res).1
      | none => s).mem.wf = true := by
    split
    · exact State.engWrite_wf _ _ _ _ _ h
    · exact h
  split
  · split
    · exact State.svcAnswer_wf _ _ _ _ _ answered
    · exact answered
  · rw [State.engMsg_mem]
    exact answered

theorem netPost_wf {i : Instr} {h : Hdr} {kind : ReqKind} {note : Bool} {d a : GOp} {s : State} (wf : s.mem.wf = true) :
    Canonical (netPost i h kind note d a s) :=
  issue_wf wf fun c hc => by
    split
    · trivial
    · split <;> simp [hc]

theorem State.netWrite_wf (s : State) (l : Loc) (bs : List Byte) (h : s.mem.wf = true) {r : State} (e : s.netWrite l bs = .ok r) :
    r.mem.wf = true := by
  unfold State.netWrite at e
  cases keys : s.netKeys l bs.length .write with
  | error c => rw [keys] at e; cases e
  | ok ks =>
    rw [keys] at e
    obtain rfl := Except.ok.inj e
    refine State.foldl_fst_wf (fun r k h => ?_) (by simpa using h) _
    simp only [State.wf_bankWrite h]

@[simp] theorem State.netErrata_wf (s : State) (w : WorkReq) (code off va : Nat) (h : s.mem.wf = true) :
    (s.netErrata w code off va).mem.wf = true := by
  unfold State.netErrata
  simp [h]

@[simp] theorem State.dropGhosts_mem (s : State) :
    (s.dropGhosts).mem = s.mem := by
  unfold State.dropGhosts
  simp

@[simp] theorem State.dropWr_mem (s : State) (w : WorkReq) (status placed : Nat) :
    (s.dropWr w status placed).mem = s.mem := by
  unfold State.dropWr
  simp

@[simp] theorem State.failWr_wf (s : State) (w : WorkReq) (code off va : Nat) (h : s.mem.wf = true) :
    (s.failWr w code off va).mem.wf = true := by
  unfold State.failWr
  simp [h]

@[simp] theorem State.peerLost_wf (s : State) (w : WorkReq) (off : Nat) (h : s.mem.wf = true) :
    (s.peerLost w off).mem.wf = true := by
  unfold State.peerLost
  dsimp only
  refine State.foldl_wf (fun s x h => State.failWr_wf s _ _ _ _ h) ?_ _
  exact State.failWr_wf _ w 0x81 off 0 h

@[simp] theorem State.wrArrive_wf (s : State) (w : WorkReq) (n : Nat) (h : s.mem.wf = true) :
    (s.wrArrive w n).1.mem.wf = true := by
  unfold State.wrArrive
  split
  · exact h
  · split
    · exact h
    · refine State.foldl_fst_wf (fun r i h => ?_) h _
      split
      · exact h
      · split
        · split
          · exact h
          · split
            · exact h
            · exact State.arriveAt_wf _ _ _ _ (by simpa using h)
        · exact h
        · exact h
        · exact h

@[simp] theorem State.wrRelease_wf (s : State) (w : WorkReq) (h : s.mem.wf = true) :
    (s.wrRelease w).1.mem.wf = true := by
  unfold State.wrRelease
  refine State.foldl_fst_wf (fun r x h => ?_) h _
  split
  · exact h
  · exact State.wrArrive_wf _ _ _ h

@[simp] theorem State.doneWr_wf (s : State) (w : WorkReq) (h : s.mem.wf = true) :
    (s.doneWr w).mem.wf = true := by
  unfold State.doneWr
  dsimp only
  repeat' split
  all_goals simp [h]

@[simp] theorem State.startWr_wf (s : State) (w0 : WorkReq) (h : s.mem.wf = true) :
    (s.startWr w0).mem.wf = true := by
  unfold State.startWr
  dsimp only
  split
  · rw [State.foldl_mem fun s p => State.push_mem s _]
    exact h
  · generalize all : List.foldl _ (s.putWr { w0 with started := true }, none) _ = r
    have sent : r.1.mem.wf = true := by
      rw [← all]
      refine State.foldl_fst_wf (fun r i h => ?_) h _
      split
      · exact h
      · split
        · exact h
        · dsimp only
          split <;> simpa using h
    split
    · exact sent
    · exact State.failWr_wf _ _ _ _ _ sent

@[simp] theorem State.takeWr_wf (s : State) (r : Req) (ws : List Word) (h : s.mem.wf = true) :
    (s.takeWr r ws).mem.wf = true := by
  unfold State.takeWr
  simp [h]

@[simp] theorem State.placedWr_wf (s : State) (w0 : WorkReq) (i n total : Nat) (h : s.mem.wf = true) :
    (s.placedWr w0 i n total).mem.wf = true := by
  unfold State.placedWr
  dsimp only
  repeat' split
  all_goals simp [h]

@[simp] theorem State.holdPacket_mem (s : State) (p : Packet) :
    (s.holdPacket p).mem = s.mem := by
  unfold State.holdPacket
  simp

@[simp] theorem State.sendArrives_wf (s : State) (p : Packet) (vol n i len : Nat) (bs : List Byte) (h : s.mem.wf = true) :
    (s.sendArrives p vol n i len bs).mem.wf = true := by
  unfold State.sendArrives
  dsimp only
  split
  · simpa using h
  · split
    · simpa using h
    · split
      · split
        · simpa using h
        · split
          · simpa using h
          · split
            · exact State.placedWr_wf _ _ _ _ _ h
            · split
              · exact State.failWr_wf _ _ _ _ _ h
              next written =>
                have kept := State.netWrite_wf _ _ _ h written
                exact State.placedWr_wf _ _ _ _ _ kept
      · split <;> simpa using h

@[simp] theorem State.writeArrives_wf (s : State) (p : Packet) (wr i : Nat) (key : BitVec 32) (off : Nat) (bs : List Byte) (h : s.mem.wf = true) :
    (s.writeArrives p wr i key off bs).mem.wf = true := by
  unfold State.writeArrives
  split
  · simpa using h
  · split
    · simpa using h
    · split
      · simpa using h
      next written =>
        have kept := State.netWrite_wf _ _ _ h written
        exact kept

@[simp] theorem State.readArrives_mem (s : State) (p : Packet) (wr i : Nat) (key : BitVec 32) (off n : Nat) :
    (s.readArrives p wr i key off n).mem = s.mem := by
  unfold State.readArrives
  split
  next s1 bs read =>
    obtain ⟨l, -, e⟩ := Option.map_eq_some_iff.mp read
    cases found : s.netRead l n with
    | error e' => rw [found] at e; cases e
    | ok ws =>
      rw [found] at e
      cases e
      simp
  · simp

@[simp] theorem State.mapPiece_mem (s : State) (tag : Nat) (f : FarAcc → FarAcc) :
    (s.mapPiece tag f).mem = s.mem := by
  unfold State.mapPiece
  simp

@[simp] theorem State.sendTails_mem (s : State) :
    (s.sendTails).mem = s.mem := by
  unfold State.sendTails
  simp

@[simp] theorem State.settleFar_mem (s : State) (tag : Nat) (res : Option Nat) :
    (s.settleFar tag res).mem = s.mem := by
  unfold State.settleFar
  split <;> simp

theorem State.windowArrives_mem (s : State) (peer flight part : Nat) (bs : List Byte) {r : State} (e : (s.windowArrives peer flight part bs) = some r) :
    r.mem = s.mem := by
  unfold State.windowArrives at e
  split at e
  · cases e
  · split at e
    · cases e
    · split at e
      · cases e
      · split at e
        · cases e
        · obtain rfl := Option.some.inj e
          simp

theorem State.dataTaken_wf (s : State) (peer wr i : Nat) (bs : List Byte) (h : s.mem.wf = true) {r : State} (e : (s.dataTaken peer wr i bs) = some r) :
    r.mem.wf = true := by
  unfold State.dataTaken at e
  split at e
  · split at e
    · cases e
    · split at e
      · obtain rfl := Option.some.inj e
        exact State.failWr_wf _ _ _ _ _ h
      next written =>
        obtain rfl := Option.some.inj e
        exact State.placedWr_wf _ _ _ _ _ (State.netWrite_wf _ _ _ h written)
  · split at e
    · split at e
      · cases e
      · obtain rfl := Option.some.inj e
        simpa using h
    · exact (State.windowArrives_mem _ _ _ _ _ e).symm ▸ h

@[simp] theorem State.dataArrives_wf (s : State) (peer wr i : Nat) (bs : List Byte) (h : s.mem.wf = true) :
    (s.dataArrives peer wr i bs).mem.wf = true := by
  unfold State.dataArrives
  split
  · simpa using h
  · split
    · exact h
    next taken =>
      have kept := State.dataTaken_wf _ _ _ _ _ h taken
      exact kept

@[simp] theorem State.dropFar_mem (s : State) (flight part : Nat) :
    (s.dropFar flight part).mem = s.mem := by
  unfold State.dropFar
  simp

@[simp] theorem State.lateFault_mem (s : State) (r : Far) :
    (s.lateFault r).mem = s.mem := by
  unfold State.lateFault
  dsimp only
  split <;> simp

@[simp] theorem State.farFail_mem (s : State) (r : Far) :
    (s.farFail r).mem = s.mem := by
  unfold State.farFail
  dsimp only
  split <;> simp

@[simp] theorem State.packetFails_wf (s : State) (wr packet : Nat) (lost : Bool) (h : s.mem.wf = true) :
    (s.packetFails wr packet lost).mem.wf = true := by
  unfold State.packetFails
  repeat' split
  all_goals simp [h]

@[simp] theorem State.addTry_mem (s : State) (wr packet : Nat) :
    (s.addTry wr packet).mem = s.mem := by
  unfold State.addTry
  simp

@[simp] theorem State.fenceStrand_wf (s : State) (core slot : Nat) (h : s.mem.wf = true) :
    (s.fenceStrand core slot).mem.wf = true := by
  unfold State.fenceStrand
  dsimp only
  repeat' split
  all_goals simp [h]

@[simp] theorem State.fenceCore_wf (s : State) (core : Nat) (h : s.mem.wf = true) :
    (s.fenceCore core).mem.wf = true := by
  unfold State.fenceCore
  rw [State.pushNew_mem]
  exact State.foldl_wf (fun s slot h => State.fenceStrand_wf s _ _ h) h _

@[simp] theorem State.fenceEngine_mem (s : State) (k : FuncKind) (cluster : Nat) :
    (s.fenceEngine k cluster).mem = s.mem := by
  unfold State.fenceEngine
  dsimp only
  split
  case h_1 => exact State.foldl_mem (fun s o => State.notify_mem s ..) _ _
  case h_2 => exact State.foldl_mem (fun s o => State.notify_mem s ..) _ _
  case h_3 => exact State.foldl_mem (fun s o => State.notify_mem s ..) _ _
  case h_4 => exact State.foldl_mem (fun s o => State.setSpace_mem s _) _ _
  case h_5 => exact State.foldl_mem (fun s o => State.notify_mem s ..) _ _
  case h_6 => exact State.foldl_mem (fun s x => State.svcEnd_mem s _ _ _) _ _
  case h_7 => rfl

@[simp] theorem State.fenceSfu_mem (s : State) (cluster : Nat) :
    (s.fenceSfu cluster).mem = s.mem := by
  unfold State.fenceSfu
  refine State.foldl_mem (fun s e => ?_) s _
  exact State.foldl_mem (fun s o => State.push_mem s _) _ _

@[simp] theorem State.fenceNet_mem (s : State) :
    (s.fenceNet).mem = s.mem := by
  unfold State.fenceNet
  simp

@[simp] theorem State.kickNet_mem (s : State) :
    (s.kickNet).mem = s.mem := by
  unfold State.kickNet
  simp

@[simp] theorem State.fenceWaiters_mem (s : State) :
    (s.fenceWaiters).mem = s.mem := by
  unfold State.fenceWaiters
  simp

@[simp] theorem State.fenceSlip_wf (s : State) (a : Aside) (h : s.mem.wf = true) :
    (s.fenceSlip a).mem.wf = true := by
  unfold State.fenceSlip
  simp [h]

@[simp] theorem State.fencePorts_wf (s : State) (h : s.mem.wf = true) :
    (s.fencePorts).mem.wf = true := by
  unfold State.fencePorts
  refine State.foldl_wf (fun s a h => State.fenceSlip_wf s a h) (State.foldl_wf (fun s e h => ?_) h _) _
  split
  · split
    · exact State.faultAtIssue_wf _ _ _ _ _ _ h
    · exact h
  · exact h

@[simp] theorem State.fenceBag_mem (s : State) (cluster op bag : Nat) :
    (s.fenceBag cluster op bag).mem = s.mem := by
  unfold State.fenceBag
  dsimp only
  repeat' split
  all_goals simp

@[simp] theorem State.fenceChip_mem (s : State) (chip : Nat) :
    (s.fenceChip chip).mem = s.mem := by
  unfold State.fenceChip
  simp

@[simp] theorem State.fenceCall_mem (s : State) (cluster : Nat) (x : SvcCall) :
    (s.fenceCall cluster x).mem = s.mem := by
  unfold State.fenceCall
  simp

@[simp] theorem State.headerError_wf (s : State) (f : Func) (flight : Option Nat) (h : s.mem.wf = true) :
    (s.headerError f flight).mem.wf = true := by
  unfold State.headerError
  dsimp only
  split <;> simp [h]

/-- What goes on at a unit that is fenced. -/
theorem State.fenceUnit_wf {s : State} (k : FuncKind) (i : Nat) (h : s.mem.wf = true) :
    (match k with
      | .core => s.fenceCore i
      | .cluster =>
        (clusterEngines.foldl (fun (s : State) e => s.fenceEngine e i) ((((List.range 8).map (8 * i + ·)).foldl State.fenceCore s).fenceSfu i)).kickReqs i
      | .chip => (s.fenceChip i).kickEmbs
      | .sfu => s.fenceSfu i
      | .net => s.fenceNet.kickNet
      | .port => s.kickNet
      | .circ => (s.kickReqs i).releaseCalls fun _ => true
      | .copy | .sel | .annexif | .red | .bind | .curator => (s.fenceEngine k i).kickReqs i
      | .root | .slice => s).mem.wf = true := by
  cases k with
  | core => exact State.fenceCore_wf s i h
  | cluster =>
    simp only [State.kickReqs_mem, State.fenceEngine_mem, State.foldl_mem, State.fenceSfu_mem, implies_true]
    exact State.foldl_wf (fun s c h => State.fenceCore_wf s c h) h _
  | circ => rw [State.releaseCalls_mem, State.kickReqs_mem]; exact h
  | _ => simpa using h

@[simp] theorem State.fence_wf (s : State) (f : Func) (flight : Option Nat) (h : s.mem.wf = true) : (s.fence f flight).mem.wf = true := by
  have headed := State.headerError_wf s f flight h
  unfold State.fence
  split
  · exact h
  · dsimp only
    rw [State.extendMicro_mem, State.checkUpdate_mem]
    refine State.fencePorts_wf _ ?_
    rw [State.fenceWaiters_mem]
    refine State.fenceUnit_wf f.kind f.index ?_
    split
    · split
      · rw [State.fenceCall_mem]
        exact headed
      · exact headed
    · rw [(State.flightFail_keeps ..).1]
      exact headed

@[simp] theorem State.corrects_mem (s : State) (f : Func) :
    (s.corrects f).mem = s.mem := by
  unfold State.corrects
  split <;> simp

end Sys2Proof.Machine
end

section

/-! ## Memory: the root of trust and host commands -/

namespace Sys2Proof.Machine

open Sys2Proof

@[simp] theorem State.restart_wf (s : State) : s.restart.mem.wf = true :=
  rfl

@[simp] theorem State.measure_mem (s : State) (kind : FuncKind) (reg : Nat) (d : List Byte) :
    (s.measure kind reg d).mem = s.mem := by
  unfold State.measure
  simp

@[simp] theorem State.loadImages_mem (s : State) (kind : FuncKind) (l : List (Nat × List Byte × List Byte)) :
    (s.loadImages kind l).1.mem = s.mem := by
  induction l generalizing s with
  | nil => rfl
  | cons image rest ih =>
    rw [State.loadImages]
    split
    · rfl
    · rw [ih, State.measure_mem]

@[simp] theorem State.startSfu_mem (s : State) (cluster : Nat) :
    (s.startSfu cluster).mem = s.mem := by
  unfold State.startSfu
  refine State.foldl_mem (fun s e => ?_) s _
  exact State.foldl_mem (fun s o => State.sendAt_mem s ..) _ _

@[simp] theorem State.ready_mem (s : State) (f : Func) :
    (s.ready f).mem = s.mem := by
  unfold State.ready
  dsimp only
  split
  case h_2 =>
    rw [State.checkUpdate_mem, State.pushNew_mem]
    exact State.foldl_mem (fun s x => State.push_mem s _) _ _
  case h_4 => rw [State.releaseCalls_mem, State.pushNew_mem, State.kickReqs_mem]
  all_goals simp

@[simp] theorem State.failed_wf (s : State) (f : Func) (diag : Nat) (h : s.mem.wf = true) :
    (s.failed f diag).mem.wf = true := by
  have fenced : ((s.report f 1 diag).fence f none).mem.wf = true := State.fence_wf _ _ _ (by simpa using h)
  unfold State.failed
  dsimp only
  split
  · refine State.foldl_wf (fun s g h => ?_) (State.fence_wf _ _ _ fenced) _
    exact State.fence_wf _ _ _ (by simpa using h)
  · refine State.foldl_wf (fun s g h => ?_) (State.fence_wf _ _ _ fenced) _
    exact State.fence_wf _ _ _ (by simpa using h)
  · exact fenced

@[simp] theorem State.writeEntries_wf (s : State) (ws : List TableWrite) (h : s.mem.wf = true) :
    (s.writeEntries ws).mem.wf = true := by
  unfold State.writeEntries
  exact State.foldl_wf (fun s w h => State.wf_wrN h ..) h ws

@[simp] theorem State.mapDo_wf (s : State) (vol : Nat) (a : MapArgs) (h : s.mem.wf = true) :
    (s.mapDo vol a).mem.wf = true := by
  unfold State.mapDo
  simp [h]

@[simp] theorem State.hostPut_wf (s : State) (r : Nat × Option (Nat × Nat) × List Byte) (h : s.mem.wf = true) :
    (s.hostPut r).mem.wf = true := by
  unfold State.hostPut
  dsimp only
  split
  · rw [State.foldl_mem fun s i => State.setFull_mem s _ _]
    exact State.wf_bankWrite h ..
  · exact State.wf_bankWrite h ..

@[simp] theorem State.pageErrata_wf (s : State) (vol core slot gidx page code : Nat) (h : s.mem.wf = true) :
    (s.pageErrata vol core slot gidx page code).mem.wf = true := by
  unfold State.pageErrata
  simp [h]

@[simp] theorem State.settleAll_wf (s : State) (ps : List (Nat × PageReq)) (res : Nat) (h : s.mem.wf = true) :
    (s.settleAll ps res).mem.wf = true := by
  unfold State.settleAll
  exact State.foldl_wf (fun s p h => State.settlePage_wf s _ _ _ h) h ps

@[simp] theorem State.takeTurn_mem (s : State) (core slot : Nat) (w : Word) :
    (s.takeTurn core slot w).mem = s.mem := by
  unfold State.takeTurn
  dsimp only
  split <;> simp

@[simp] theorem State.nextFrame_mem (s : State) :
    (s.nextFrame).mem = s.mem := by
  unfold State.nextFrame
  simp

@[simp] theorem State.takeEvent_mem (s : State) (i : Instr) :
    (s.takeEvent i).mem = s.mem := by
  unfold State.takeEvent
  simp

end Sys2Proof.Machine
end

section

/-! ## The instructions of a strand keep memory canonical

An instruction of a strand goes by `issue_wf`: what its body does to a context with canonical memory. -/

namespace Sys2Proof.Machine

open Sys2Proof

theorem execNop_wf {h : Hdr} {s : State} (wf : s.mem.wf = true) :
    Canonical (execNop h s) :=
  issue_wf wf fun c hc => by simpa using hc

theorem execBr_wf {h : Hdr} {disp : BitVec 24} {s : State} (wf : s.mem.wf = true) :
    Canonical (execBr h disp s) :=
  issue_wf wf fun c hc => by
    split
    · exact hc
    · exact Ctx.jump_wf c _ hc

theorem execCall_wf {h : Hdr} {a : GOp} {disp : BitVec 24} {s : State} (wf : s.mem.wf = true) :
    Canonical (execCall h a disp s) :=
  issue_wf wf fun c hc => by
    have linked : (c.put a c.link).s.mem.wf = true := by simpa using hc
    dsimp only
    split
    · exact linked
    · exact Ctx.jump_wf _ _ linked

theorem execJr_wf {h : Hdr} {d a : GOp} {s : State} (wf : s.mem.wf = true) :
    Canonical (execJr h d a s) :=
  issue_wf wf fun c hc => by
    have linked : (c.put d c.link).s.mem.wf = true := by simpa using hc
    split
    · exact linked
    · split
      · trivial
      · exact Ctx.jump_wf _ _ linked

theorem execLoop_wf {h : Hdr} {a : GOp} {disp : BitVec 24} {s : State} (wf : s.mem.wf = true) :
    Canonical (execLoop h a disp s) :=
  issue_wf wf fun c hc => by
    have counted : (c.put a (c.g a - 1)).s.mem.wf = true := by simpa using hc
    dsimp only
    split
    · exact counted
    · split
      · exact Ctx.jump_wf _ _ counted
      · exact counted

theorem execWait_wf {h : Hdr} {a : GOp} {imm : BitVec 24} {s : State} (wf : s.mem.wf = true) :
    Canonical (execWait h a imm s) := by
  refine issue_wf wf fun c hc => ?_
  dsimp only
  repeat' split
  all_goals simp [hc]

theorem execStop_wf {h : Hdr} {s : State} (wf : s.mem.wf = true) :
    Canonical (execStop h s) :=
  issue_wf wf fun c hc => by
    split
    · exact hc
    · exact State.foldl_wf (fun s e h => State.endStrand_wf s _ _ _ h) hc _

theorem execYield_wf {h : Hdr} {s : State} (wf : s.mem.wf = true) :
    Canonical (execYield h s) := by
  refine issue_wf wf fun c hc => ?_
  dsimp only
  repeat' split
  all_goals simp [hc]

theorem execBara_wf {h : Hdr} {n : BitVec 24} {s : State} (wf : s.mem.wf = true) :
    Canonical (execBara h n s) := by
  refine issue_wf wf fun c hc => ?_
  dsimp only
  repeat' split
  all_goals simp [hc]

theorem execBarw_wf {h : Hdr} {n : BitVec 24} {s : State} (wf : s.mem.wf = true) :
    Canonical (execBarw h n s) := by
  refine issue_wf wf fun c hc => ?_
  dsimp only
  repeat' split
  all_goals simp [hc]

theorem execCollate_wf {h : Hdr} {n : BitVec 24} {s : State} (wf : s.mem.wf = true) :
    Canonical (execCollate h n s) :=
  issue_wf wf fun c hc => by
    dsimp only
    split
    · trivial
    · split
      · exact State.collateFaults_wf _ _ hc
      · cases tried : c.s.collateTry c.core c.slot (Strand.issued { c.t with ir := c.word }) n.toNat with
        | none => exact hc
        | some s' => exact State.collateTry_wf _ _ _ _ _ hc tried

theorem execDisband_wf {h : Hdr} {s : State} (wf : s.mem.wf = true) :
    Canonical (execDisband h s) :=
  issue_wf wf fun c hc => by simpa using hc

theorem execRetire_wf {h : Hdr} {a b : GOp} {s : State} (wf : s.mem.wf = true) :
    Canonical (execRetire h a b s) := by
  refine issue_wf wf fun c hc => ?_
  dsimp only
  repeat' split
  any_goals exact Ctx.retired_wf _ _ _ _ hc
  all_goals trivial

theorem execDpat_wf {h : Hdr} {a b : GOp} {s : State} (wf : s.mem.wf = true) :
    Canonical (execDpat h a b s) :=
  issue_wf wf fun c hc => by simpa using hc

theorem execCqry_wf {h : Hdr} {d a : GOp} {q : BitVec 16} {s : State} (wf : s.mem.wf = true) :
    Canonical (execCqry h d a q s) :=
  issue_wf wf fun c hc => by simpa using hc

theorem execBfi_wf {h : Hdr} {d a : GOp} {imm : BitVec 24} {s : State} (wf : s.mem.wf = true) :
    Canonical (execBfi h d a imm s) :=
  issue_wf wf fun c hc => by simpa using hc

theorem execMovi_wf {h : Hdr} {d : GOp} {imm : BitVec 32} {s : State} (wf : s.mem.wf = true) :
    Canonical (execMovi h d imm s) :=
  issue_wf wf fun c hc => by simpa using hc

theorem execMovhi_wf {h : Hdr} {d : GOp} {imm : BitVec 32} {s : State} (wf : s.mem.wf = true) :
    Canonical (execMovhi h d imm s) :=
  issue_wf wf fun c hc => by simpa using hc

theorem execLea_wf {h : Hdr} {d a : GOp} {seg : Fin 8} {disp : BitVec 20} {s : State} (wf : s.mem.wf = true) :
    Canonical (execLea h d a seg disp s) :=
  issue_wf wf fun c hc => by simpa using hc

theorem execSel_wf {h : Hdr} {d a b : GOp} {k : Fin 16} {s : State} (wf : s.mem.wf = true) :
    Canonical (execSel h d a b k s) :=
  issue_wf wf fun c hc => by simpa using hc

theorem execCmpi_wf {h : Hdr} {cc : Cc} {z : Size} {d : Fin 16} {a : GOp} {imm : BitVec 24} {s : State} (wf : s.mem.wf = true) :
    Canonical (execCmpi h cc z d a imm s) :=
  issue_wf wf fun c hc => by simpa using hc

theorem execMfp_wf {h : Hdr} {d : GOp} {s : State} (wf : s.mem.wf = true) :
    Canonical (execMfp h d s) :=
  issue_wf wf fun c hc => by simpa using hc

theorem execMtp_wf {h : Hdr} {a : GOp} {s : State} (wf : s.mem.wf = true) :
    Canonical (execMtp h a s) :=
  issue_wf wf fun c hc => by simpa using hc

theorem execMfs_wf {h : Hdr} {d : GOp} {n : BitVec 24} {s : State} (wf : s.mem.wf = true) :
    Canonical (execMfs h d n s) :=
  issue_wf wf fun c hc => by simpa using hc

theorem execMts_wf {h : Hdr} {a : GOp} {n : BitVec 24} {s : State} (wf : s.mem.wf = true) :
    Canonical (execMts h a n s) :=
  issue_wf wf fun c hc => by simpa using hc

theorem execFfma_wf {h : Hdr} {f : Fmt} {rm : Rm} {d a b c : GOp} {s : State} (wf : s.mem.wf = true) :
    Canonical (execFfma h f rm d a b c s) :=
  issue_wf wf fun c hc => by simpa using hc

theorem execFcvt_wf {h : Hdr} {cv : CvF} {d a : GOp} {s : State} (wf : s.mem.wf = true) :
    Canonical (execFcvt h cv d a s) :=
  issue_wf wf fun c hc => by simpa using hc

theorem execTcfg_wf {h : Hdr} {d a : GOp} {mask : BitVec 16} {s : State} (wf : s.mem.wf = true) :
    Canonical (execTcfg h d a mask s) := by
  refine issue_wf wf fun c hc => ?_
  dsimp only
  repeat' split
  all_goals simp [hc]

theorem execTwait_wf {h : Hdr} {mask : BitVec 24} {s : State} (wf : s.mem.wf = true) :
    Canonical (execTwait h mask s) := by
  refine issue_wf wf fun c hc => ?_
  repeat' split
  all_goals simp [hc]

theorem execMsset_wf {h : Hdr} {m : Fin 4} {a b : GOp} {s : State} (wf : s.mem.wf = true) :
    Canonical (execMsset h m a b s) := by
  refine issue_wf wf fun c hc => ?_
  dsimp only
  repeat' split
  all_goals simp [hc]

theorem execMsrd_wf {h : Hdr} {m : Fin 4} {d : GOp} {s : State} (wf : s.mem.wf = true) :
    Canonical (execMsrd h m d s) :=
  issue_wf wf fun c hc => by split <;> simp [hc]

theorem execTenq_wf {h : Hdr} {d a b : GOp} {s : State} (wf : s.mem.wf = true) :
    Canonical (execTenq h d a b s) := by
  refine issue_wf wf fun c hc => ?_
  dsimp only
  repeat' split
  all_goals simp [hc]

theorem execEmb_wf {h : Hdr} {note : Bool} {d a b : GOp} {s : State} (wf : s.mem.wf = true) :
    Canonical (execEmb h note d a b s) := by
  refine issue_wf wf fun c hc => ?_
  dsimp only
  repeat' split
  all_goals simp [hc]

theorem execHold_wf {h : Hdr} {d a : GOp} {imm : BitVec 24} {s : State} (wf : s.mem.wf = true) :
    Canonical (execHold h d a imm s) := by
  refine issue_wf wf fun c hc => ?_
  dsimp only
  repeat' split
  all_goals simp [hc]

theorem execDech_wf {h : Hdr} {a : GOp} {imm : BitVec 24} {s : State} (wf : s.mem.wf = true) :
    Canonical (execDech h a imm s) :=
  issue_wf wf fun c hc => by dsimp only; split <;> simp [hc]

theorem execSpawn_wf {h : Hdr} {d a b : GOp} {imm : BitVec 16} {s : State} (wf : s.mem.wf = true) :
    Canonical (execSpawn h d a b imm s) := by
  refine issue_wf wf fun c hc => ?_
  dsimp only
  repeat' split
  all_goals simp [hc]

theorem execPushr_wf {h : Hdr} {d a : GOp} {s : State} (wf : s.mem.wf = true) :
    Canonical (execPushr h d a s) := by
  refine issue_wf wf fun c hc => ?_
  dsimp only
  repeat' split
  all_goals simp [hc]

theorem execPopr_wf {h : Hdr} {d : GOp} {s : State} (wf : s.mem.wf = true) :
    Canonical (execPopr h d s) :=
  issue_wf wf fun c hc => by dsimp only; split <;> simp [hc]

theorem execSplitr_wf {h : Hdr} {d : GOp} {s : State} (wf : s.mem.wf = true) :
    Canonical (execSplitr h d s) := by
  refine issue_wf wf fun c hc => ?_
  dsimp only
  repeat' split
  all_goals simp [hc]

theorem execStealr_wf {h : Hdr} {d a : GOp} {s : State} (wf : s.mem.wf = true) :
    Canonical (execStealr h d a s) :=
  issue_wf wf fun c hc => by dsimp only; split <;> simp [hc]

theorem execPost_wf {h : Hdr} {d a b : GOp} {tag : BitVec 16} {s : State} (wf : s.mem.wf = true) :
    Canonical (execPost h d a b tag s) :=
  issue_wf wf fun c hc => by simpa using hc

theorem execLaunch_wf {h : Hdr} {d a b : GOp} {s : State} (wf : s.mem.wf = true) :
    Canonical (execLaunch h d a b s) := by
  refine issue_wf wf fun c hc => ?_
  dsimp only
  repeat' split
  all_goals simp [hc]

theorem execPmt_wf {h : Hdr} {d a : GOp} {s : State} (wf : s.mem.wf = true) :
    Canonical (execPmt h d a s) :=
  issue_wf wf fun c hc => by dsimp only; split <;> simp [hc]

theorem execAcall_wf {h : Hdr} {d a : GOp} {s : State} (wf : s.mem.wf = true) :
    Canonical (execAcall h d a s) :=
  issue_wf wf fun c hc => by dsimp only; split <;> simp [hc]

theorem execAinf_wf {h : Hdr} {item : Fin 4} {d a : GOp} {s : State} (wf : s.mem.wf = true) :
    Canonical (execAinf h item d a s) :=
  issue_wf wf fun c hc => by simpa using hc

theorem execSpec_wf {h : Hdr} {d a b : GOp} {tag : BitVec 16} {s : State} (wf : s.mem.wf = true) :
    Canonical (execSpec h d a b tag s) := by
  refine issue_wf wf fun c hc => ?_
  dsimp only
  repeat' split
  all_goals simp [hc]

theorem execVfma_wf {h : Hdr} {f : VfF} {d a : Fin 16} {b : VG} {c : Fin 16} {s : State} (wf : s.mem.wf = true) :
    Canonical (execVfma h f d a b c s) :=
  issue_wf wf fun c hc => by simpa using hc

theorem execVcmp_wf {h : Hdr} {cc : VCc} {f : Fmt} {d : GOp} {a : Fin 16} {b : VG} {s : State} (wf : s.mem.wf = true) :
    Canonical (execVcmp h cc f d a b s) :=
  issue_wf wf fun c hc => by simpa using hc

theorem execVsel_wf {h : Hdr} {f : Fmt} {d a b : Fin 16} {c : GOp} {s : State} (wf : s.mem.wf = true) :
    Canonical (execVsel h f d a b c s) :=
  issue_wf wf fun c hc => by simpa using hc

theorem execVbc_wf {h : Hdr} {f : Fmt} {d : Fin 16} {a : GOp} {s : State} (wf : s.mem.wf = true) :
    Canonical (execVbc h f d a s) :=
  issue_wf wf fun c hc => by simpa using hc

theorem execVget_wf {h : Hdr} {f : Fmt} {d : GOp} {a : Fin 16} {idx : BitVec 6} {s : State} (wf : s.mem.wf = true) :
    Canonical (execVget h f d a idx s) :=
  issue_wf wf fun c hc => by simpa using hc

theorem execVput_wf {h : Hdr} {f : Fmt} {d : Fin 16} {a : GOp} {idx : BitVec 6} {s : State} (wf : s.mem.wf = true) :
    Canonical (execVput h f d a idx s) :=
  issue_wf wf fun c hc => by simpa using hc

theorem execVperm_wf {h : Hdr} {f : Fmt} {d a b : Fin 16} {s : State} (wf : s.mem.wf = true) :
    Canonical (execVperm h f d a b s) :=
  issue_wf wf fun c hc => spanning_wf _ _ _ _ hc fun v fl => Ctx.putV_mem ..

theorem execVred_wf {h : Hdr} {op : RedOp} {f : VfF} {d : GOp} {a : Fin 16} {s : State} (wf : s.mem.wf = true) :
    Canonical (execVred h op f d a s) :=
  issue_wf wf fun c hc => spanning_wf _ _ _ _ hc fun v fl => Ctx.put_mem ..

theorem execVdot_wf {h : Hdr} {f : VfF} {d : GOp} {a b : Fin 16} {s : State} (wf : s.mem.wf = true) :
    Canonical (execVdot h f d a b s) :=
  issue_wf wf fun c hc => spanning_wf _ _ _ _ hc fun v fl => Ctx.put_mem ..

theorem execVcvt_wf {h : Hdr} {cv : CvF} {d a : Fin 16} {s : State} (wf : s.mem.wf = true) :
    Canonical (execVcvt h cv d a s) :=
  issue_wf wf fun c hc => by simpa using hc

theorem execVqnt_wf {h : Hdr} {fine : Bool} {df : Fmt} {d a : Fin 16} {b : GOp} {s : State} (wf : s.mem.wf = true) :
    Canonical (execVqnt h fine df d a b s) :=
  issue_wf wf fun c hc => by simpa using hc

theorem execVdeq_wf {h : Hdr} {sf : Fmt} {d a : Fin 16} {b : GOp} {s : State} (wf : s.mem.wf = true) :
    Canonical (execVdeq h sf d a b s) :=
  issue_wf wf fun c hc => by simpa using hc

theorem execAmxrd_wf {h : Hdr} {d : GOp} {s : State} (wf : s.mem.wf = true) :
    Canonical (execAmxrd h d s) :=
  issue_wf wf fun c hc => by simpa using hc

theorem execAmxsw_wf {h : Hdr} {d a : GOp} {s : State} (wf : s.mem.wf = true) :
    Canonical (execAmxsw h d a s) :=
  issue_wf wf fun c hc => by simpa using hc

theorem execSfn_wf {h : Hdr} {f : Fmt} {d a b : GOp} {fn : BitVec 16} {s : State} (wf : s.mem.wf = true) :
    Canonical (execSfn h f d a b fn s) :=
  issue_wf wf fun c hc => by dsimp only; split <;> simp [hc]

theorem execFence_wf {h : Hdr} {k : FenceKind} {sc : FenceScope} {s : State} (wf : s.mem.wf = true) :
    Canonical (execFence h k sc s) :=
  issue_wf wf fun c hc => by simpa using hc

theorem execCfence_wf {h : Hdr} {s : State} (wf : s.mem.wf = true) :
    Canonical (execCfence h s) :=
  issue_wf wf fun c hc => by simpa using hc

theorem execSwarm_wf {h : Hdr} {d a b : GOp} {s : State} (wf : s.mem.wf = true) :
    Canonical (execSwarm h d a b s) := by
  refine issue_wf wf fun c hc => ?_
  repeat' split
  all_goals simp [hc]

theorem execSegrd_wf {h : Hdr} {hi : Bool} {d : GOp} {a : Fin 8} {s : State} (wf : s.mem.wf = true) :
    Canonical (execSegrd h hi d a s) :=
  issue_wf wf fun c hc => by simpa using hc

theorem execTlbi_wf {h : Hdr} {a b : GOp} {s : State} (wf : s.mem.wf = true) :
    Canonical (execTlbi h a b s) :=
  issue_wf wf fun c hc => by simpa using hc

theorem execTlbsync_wf {h : Hdr} {s : State} (wf : s.mem.wf = true) :
    Canonical (execTlbsync h s) :=
  issue_wf wf fun c hc => by split <;> simp [hc]

theorem execUpret_wf {h : Hdr} {a : GOp} {s : State} (wf : s.mem.wf = true) :
    Canonical (execUpret h a s) :=
  issue_wf wf fun c hc => by
    dsimp only
    split
    · trivial
    next pa _ =>
      have cleared := State.setSlipFault_wf c.s pa 0 0 hc
      split
      · trivial
      · split
        · have ended := State.endStrand_wf _ c.core c.slot c.t cleared
          split
          · simpa using ended
          · exact State.refuseSlip_wf _ _ _ _ _ _ ended
        · exact State.appendRun_wf _ _ _ _ _ cleared

theorem execPgrq_wf {h : Hdr} {d a b : GOp} {s : State} (wf : s.mem.wf = true) :
    Canonical (execPgrq h d a b s) := by
  refine issue_wf wf fun c hc => ?_
  dsimp only
  repeat' split
  all_goals simp [hc]

theorem execTrap_wf {h : Hdr} {code : BitVec 24} {s : State} (wf : s.mem.wf = true) :
    Canonical (execTrap h code s) :=
  issue_wf wf fun c hc => by simp

theorem execEmr_wf {h : Hdr} {d a : GOp} {rs : BitVec 24} {s : State} (wf : s.mem.wf = true) :
    Canonical (execEmr h d a rs s) :=
  issue_wf wf fun c hc => by
    dsimp only
    split
    next f s1 e =>
      split at e
      · show readCanonical (.error (f, s1))
        rw [← e]
        exact State.readHalted_wf _ _ _ _ _ hc
      · cases e
      · cases e
    next v s1 e =>
      have read : s1.mem.wf = true := by
        split at e
        · show readCanonical (.ok (v, s1))
          rw [← e]
          exact State.readHalted_wf _ _ _ _ _ hc
        · cases e
          exact hc
        · cases e
          exact hc
      simpa using read

theorem execEmw_wf {h : Hdr} {d a : GOp} {rs : BitVec 24} {s : State} (wf : s.mem.wf = true) :
    Canonical (execEmw h d a rs s) := by
  refine issue_wf wf fun c hc => ?_
  dsimp only
  repeat' split
  all_goals simp [hc]

theorem execResume_wf {h : Hdr} {a : GOp} {s : State} (wf : s.mem.wf = true) :
    Canonical (execResume h a s) := by
  refine issue_wf wf fun c hc => ?_
  dsimp only
  repeat' split
  all_goals simp [hc]

theorem execKill_wf {h : Hdr} {a : GOp} {s : State} (wf : s.mem.wf = true) :
    Canonical (execKill h a s) :=
  issue_wf wf fun c hc => by split <;> simp [hc]

theorem execSvc_wf {h : Hdr} {d a b : GOp} {n : BitVec 16} {s : State} (wf : s.mem.wf = true) :
    Canonical (execSvc h d a b n s) := by
  refine issue_wf wf fun c hc => ?_
  dsimp only
  repeat' split
  all_goals simp [hc]

theorem execNqry_wf {h : Hdr} {d a : GOp} {item : BitVec 16} {s : State} (wf : s.mem.wf = true) :
    Canonical (execNqry h d a item s) :=
  issue_wf wf fun c hc => by simpa using hc

end Sys2Proof.Machine
end

section

/-! ## The events keep memory canonical -/

namespace Sys2Proof.Machine

open Sys2Proof

theorem execCopyAccept_wf {cluster req : Nat} {s : State} (h : s.mem.wf = true) :
    Canonical (execCopyAccept cluster req s) := by
  unfold execCopyAccept
  dsimp only
  repeat' split
  all_goals simp [h]

theorem execCopyChunk_wf {cluster op : Nat} {s : State} (h : s.mem.wf = true) :
    Canonical (execCopyChunk cluster op s) := by
  unfold execCopyChunk
  dsimp only
  repeat' split
  all_goals simp [h]

theorem execCopyComplete_wf {cluster op : Nat} {s : State} (h : s.mem.wf = true) :
    Canonical (execCopyComplete cluster op s) := by
  unfold execCopyComplete
  split
  · exact h
  next o _ =>
    split
    · exact h
    · have listed : (o.errataList.foldl (fun (s : State) b => s.errataOf o.iss 1 b) s).mem.wf = true :=
        State.foldl_wf (fun s b h => State.errataOf_wf s _ _ _ h) h _
      simp only [Canonical, State.nextCopies_mem]
      split
      · simpa using listed
      · exact listed

theorem execBinderyEnqueue_wf {cluster req : Nat} {s : State} (h : s.mem.wf = true) :
    Canonical (execBinderyEnqueue cluster req s) := by
  unfold execBinderyEnqueue
  dsimp only
  repeat' split
  all_goals simp [h]

theorem execTaskStart_wf {cluster : Nat} {s : State} (h : s.mem.wf = true) :
    Canonical (execTaskStart cluster s) := by
  unfold execTaskStart
  refine State.foldl_wf (fun s core h => ?_) h _
  split
  · exact h
  · split
    · exact h
    · simpa using h

theorem execTaskPartComplete_wf {cluster task part : Nat} {s : State} (h : s.mem.wf = true) :
    Canonical (execTaskPartComplete cluster task part s) := by
  unfold execTaskPartComplete
  split
  · exact h
  next t _ =>
    split
    · exact h
    next core _ =>
      split
      · exact h
      · have ran := State.runPart_wf s cluster core t part h
        have ended : ∀ r : State × PartState, r.1.mem.wf = true →
            (if ((t.mark core r.2).parts.all fun p => match p with | .ended _ => true | _ => false) then
              (r.1.putTask cluster (t.mark core r.2)).finishTask cluster (t.mark core r.2)
            else (r.1.putTask cluster (t.mark core r.2)).pushNew (.taskStart cluster)).mem.wf = true := fun r h => by
          split
          · exact State.finishTask_wf _ _ _ (by simpa using h)
          · simpa using h
        simp only [Canonical]
        by_cases gone : (((s.core core).tile t.tile).halted || s.coreFenced core) = true
        · rw [if_pos gone]
          exact ended (s, .ended 2) h
        · rw [if_neg gone]
          generalize s.runPart cluster core t part = r at ran ⊢
          rcases r with ⟨s1, _ | ⟨code, chunk⟩⟩
          · exact ended (s1, .ended 0) ran
          · exact ended (_, .ended 1) (State.taskErrata_wf _ _ _ _ _ (by simpa using ran))

theorem execSelectionAccept_wf {cluster req : Nat} {s : State} (h : s.mem.wf = true) :
    Canonical (execSelectionAccept cluster req s) := by
  unfold execSelectionAccept
  dsimp only
  repeat' split
  all_goals simp [h]

theorem execSelectRun_wf {cluster op : Nat} {s : State} (h : s.mem.wf = true) :
    Canonical (execSelectRun cluster op s) := by
  unfold execSelectRun
  split
  · exact h
  · split
    · exact h
    · split
      · exact State.runKsel_wf _ _ _ h
      · split
        · simpa using h
        · exact State.headerFails_wf _ _ _ h

theorem execGatherEntry_wf {cluster op : Nat} {s : State} (h : s.mem.wf = true) :
    Canonical (execGatherEntry cluster op s) := by
  unfold execGatherEntry
  split
  · exact h
  next o _ =>
    split
    · exact h
    · split
      · exact h
      · dsimp only
        split
        · exact State.endSel_wf _ _ _ _ h
        · split
          · refine State.entryFails_wf _ _ _ _ _ _ ?_
            split
            · exact h
            · exact State.foldl_wf (fun s m h => State.engEither_wf s _ _ _ _ h) h _
          next idx kg vg _ =>
            have stored := State.gathered_wf s cluster o kg vg h
            split
            · exact State.entryFails_wf _ _ _ _ _ _ stored
            · have mapped (f : Nat → Nat) := State.mapWords_wf _ cluster o o.e f stored
              split
              · simpa using mapped _
              · split
                · exact State.entryFails_wf _ _ _ _ _ _ (State.arriveOnce_wf _ _ _ _ _ (mapped _))
                · simpa using State.arriveOnce_wf _ _ _ _ _ (mapped _)

theorem execEmbAccept_wf {cluster req : Nat} {s : State} (h : s.mem.wf = true) :
    Canonical (execEmbAccept cluster req s) := by
  unfold execEmbAccept
  dsimp only
  repeat' split
  all_goals simp [h]

theorem execChipPartial_wf {cluster op bag chip : Nat} {s : State} (h : s.mem.wf = true) :
    Canonical (execChipPartial cluster op bag chip s) := by
  unfold execChipPartial
  dsimp only
  repeat' split
  all_goals simp [h]

theorem execBagWrite_wf {cluster op : Nat} {s : State} (h : s.mem.wf = true) :
    Canonical (execBagWrite cluster op s) := by
  unfold execBagWrite
  split
  · exact h
  next o _ =>
    have stored := State.bagStored_wf s cluster o h
    dsimp only
    split
    · exact h
    · split
      · simpa using h
      · split
        · exact h
        · split
          · exact State.bagLost_wf _ _ _ _ _ _ h
          · split
            · exact State.bagLost_wf _ _ _ _ _ _ h
            · split
              · simpa using stored
              · split
                · simpa using State.bagErrata_wf _ _ _ _ _ _ (State.arriveOnce_wf _ _ _ _ _ stored)
                · simpa using State.arriveOnce_wf _ _ _ _ _ stored

theorem execStealPerform_wf {msg : Nat} {s : State} (h : s.mem.wf = true) :
    Canonical (execStealPerform msg s) := by
  unfold execStealPerform
  dsimp only
  repeat' split
  all_goals simp [h]

theorem execPostArrive_wf {msg : Nat} {s : State} (h : s.mem.wf = true) :
    Canonical (execPostArrive msg s) := by
  unfold execPostArrive
  dsimp only
  repeat' split
  all_goals simp [h]

theorem execPortWordArrive_wf {msg : Nat} {s : State} (h : s.mem.wf = true) :
    Canonical (execPortWordArrive msg s) := by
  unfold execPortWordArrive
  dsimp only
  repeat' split
  all_goals simp [h]

theorem execCreditReturn_wf {msg : Nat} {s : State} (h : s.mem.wf = true) :
    Canonical (execCreditReturn msg s) := by
  unfold execCreditReturn
  dsimp only
  repeat' split
  all_goals simp [h]

theorem execEngineMessageDeliver_wf {id : Nat} {s : State} (h : s.mem.wf = true) :
    Canonical (execEngineMessageDeliver id s) := by
  unfold execEngineMessageDeliver
  dsimp only
  repeat' split
  all_goals simp [h]

theorem execFaultMessageDeliver_wf {id : Nat} {s : State} (h : s.mem.wf = true) :
    Canonical (execFaultMessageDeliver id s) := by
  unfold execFaultMessageDeliver
  dsimp only
  repeat' split
  all_goals simp [h]

theorem execBarrierArrival_wf {msg : Nat} {s : State} (h : s.mem.wf = true) :
    Canonical (execBarrierArrival msg s) := by
  unfold execBarrierArrival
  dsimp only
  repeat' split
  all_goals simp [h]

theorem execHoldDecrement_wf {msg : Nat} {s : State} (h : s.mem.wf = true) :
    Canonical (execHoldDecrement msg s) := by
  unfold execHoldDecrement
  dsimp only
  repeat' split
  all_goals simp [h]

theorem execLaunchAccept_wf {req : Nat} {s : State} (h : s.mem.wf = true) :
    Canonical (execLaunchAccept req s) := by
  unfold execLaunchAccept
  dsimp only
  repeat' split
  all_goals simp [h]

theorem execPlacement_wf {s : State} (h : s.mem.wf = true) :
    Canonical (execPlacement s) := by
  unfold execPlacement
  split <;> simp [h]

theorem execPreemptRequest_wf {msg : Nat} {s : State} (h : s.mem.wf = true) :
    Canonical (execPreemptRequest msg s) := by
  unfold execPreemptRequest
  dsimp only
  repeat' split
  all_goals simp [h]

theorem execResumeRequest_wf {msg : Nat} {s : State} (h : s.mem.wf = true) :
    Canonical (execResumeRequest msg s) := by
  unfold execResumeRequest
  dsimp only
  repeat' split
  all_goals simp [h]

/-- The asker, if there is one, is told (R363). -/
theorem State.tell_mem (s : State) (by_ : Option Nat) (core n : Nat) :
    (match by_ with
      | some k => s.supMsg (some k) core 7 n core
      | none => s).mem = s.mem := by
  cases by_ <;> rfl

theorem execPreemptSave_wf {core : Nat} {s : State} (h : s.mem.wf = true) : Canonical (execPreemptSave core s) := by
  unfold execPreemptSave
  split
  · split
    · exact h
    · simp only [Canonical, State.pushNew_mem]
      refine (congrArg Memory.wf (State.tell_mem _ _ _ _)).trans ?_
      dsimp only
      refine Memory.filter_wf ?_ _
      exact State.foldl_fst_wf (fun x i h => State.saveSlot_wf x.1 _ _ _ h) h _
  · exact h

theorem execCoreResume_wf {core : Nat} {s : State} (h : s.mem.wf = true) :
    Canonical (execCoreResume core s) := by
  unfold execCoreResume
  split
  · split
    · exact h
    · simp only [Canonical, State.pushNew_mem]
      refine (congrArg Memory.wf (State.tell_mem _ _ _ _)).trans ?_
      rw [State.closeOut_mem]
      exact State.foldl_wf (fun s x h => State.restoreSlot_wf s _ _ h) (mergeMem_wf h _) _
  · exact h

theorem execSpecAccept_wf {cluster req : Nat} {s : State} (h : s.mem.wf = true) :
    Canonical (execSpecAccept cluster req s) := by
  unfold execSpecAccept
  dsimp only
  repeat' split
  all_goals simp [h]

theorem execSpecRun_wf {cluster op : Nat} {s : State} (h : s.mem.wf = true) :
    Canonical (execSpecRun cluster op s) := by
  unfold execSpecRun
  split
  · exact h
  · split
    · exact h
    · split
      · exact State.specEnd_wf _ _ _ _ _ _ _ h
      · split
        · exact State.specPublish_wf _ _ _ _ _ _ h
        · exact State.specFail_wf _ _ _ _ _ h
        · exact State.specFail_wf _ _ _ _ _ h

theorem execGatheringRetire_wf {vol gidx : Nat} {s : State} (h : s.mem.wf = true) :
    Canonical (execGatheringRetire vol gidx s) := by
  unfold execGatheringRetire
  split
  next g v _ _ =>
    split
    · exact h
    · have left : ((s.strangers g).foldl (fun (s : State) e => s.evict e.1.1 e.1.2 e.2) s).mem.wf = true :=
        State.foldl_wf (fun s e h => State.evict_wf s _ _ _ h) h _
      dsimp only
      split
      · exact left
      · split
        · simp only [Canonical]
          split
          · exact State.handOn_wf _ _ _ _ _ left
          · exact left
        · exact State.endGathering_wf _ _ left
  · exact h

theorem execResultReturn_wf {core slot op : Nat} {s : State} (h : s.mem.wf = true) :
    Canonical (execResultReturn core slot op s) := by
  unfold execResultReturn
  split
  · exact State.tileOpStep_wf _ _ _ h
  · split
    · exact h
    · split
      · exact h
      · exact State.holdResult_wf _ _ _ _ _ h
      · exact State.spanReturn_wf _ _ _ _ h

theorem execStrandWake_wf {core slot : Nat} {s : State} (h : s.mem.wf = true) :
    Canonical (execStrandWake core slot s) := by
  unfold execStrandWake
  split
  · exact h
  next t _ =>
    split
    · exact h
    · split
      · exact State.completeBlocking_wf _ _ _ _ _ h
      · split
        · exact State.completeBlocking_wf _ _ _ _ _ h
        · exact h
      next n _ =>
        cases tried : s.collateTry core slot t n with
        | none => exact h
        | some s' => exact State.collateTry_wf _ _ _ _ _ h tried
      · exact State.afterReturn_wf _ _ _ h
      · exact h

theorem execWaitExpiry_wf {core slot : Nat} {s : State} (h : s.mem.wf = true) :
    Canonical (execWaitExpiry core slot s) := by
  unfold execWaitExpiry
  split
  · exact h
  · split <;> exact h

theorem execIdleSlotSearch_wf {core slot : Nat} {s : State} (h : s.mem.wf = true) :
    Canonical (execIdleSlotSearch core slot s) := by
  unfold execIdleSlotSearch
  split <;> simp [h]

theorem execFetchFill_wf {core slot : Nat} {s : State} (h : s.mem.wf = true) :
    Canonical (execFetchFill core slot s) := by
  unfold execFetchFill
  split
  · exact h
  · split
    · exact h
    · split
      · exact State.faultAtIssue_wf _ _ _ _ _ _ h
      · split
        · exact State.fetchAt_wf _ _ _ _ _ _ h
        · simpa using h

theorem execBankTransaction_wf {flight : Nat} {s : State} (h : s.mem.wf = true) :
    Canonical (execBankTransaction flight s) := by
  unfold execBankTransaction
  split <;> simp [h]

theorem execOverflowRetry_wf {flight : Nat} {s : State} (h : s.mem.wf = true) :
    Canonical (execOverflowRetry flight s) := by
  unfold execOverflowRetry
  split
  · exact h
  · split
    · split
      · exact h
      · split
        · exact h
        · exact State.attempt_wf _ _ _ _ h
    · exact h

theorem execTranslationWalk_wf {walk : Nat} {s : State} (h : s.mem.wf = true) :
    Canonical (execTranslationWalk walk s) := by
  unfold execTranslationWalk
  dsimp only
  repeat' split
  all_goals simp [h]

theorem execTlbiTakesEffect_wf {id : Nat} {s : State} (h : s.mem.wf = true) :
    Canonical (execTlbiTakesEffect id s) := by
  unfold execTlbiTakesEffect
  split
  · exact h
  · split
    · split
      · split
        · simpa using h
        · exact h
      · exact h
    · simp only [Canonical, State.ite_mem, State.push_mem, ite_self]
      rw [State.foldl_mem (by intros; rfl)]
      exact h

theorem execIllegalEncoding_wf {w : Word} {s : State} (h : s.mem.wf = true) :
    Canonical (execIllegalEncoding w s) := by
  unfold execIllegalEncoding
  dsimp only
  repeat' split
  all_goals simp [h]

theorem execSvcVersion_wf {core slot : Nat} {s : State} (h : s.mem.wf = true) :
    Canonical (execSvcVersion core slot s) := by
  unfold execSvcVersion
  refine State.svcTake_wf _ _ _ _ h fun s x ws h => ?_
  dsimp only
  split <;> exact State.svcAnswer_wf _ _ _ _ _ h

theorem execSvcResume_wf {core slot : Nat} {s : State} (h : s.mem.wf = true) :
    Canonical (execSvcResume core slot s) := by
  unfold execSvcResume
  refine State.svcTake_wf _ _ _ _ h fun s x ws h => ?_
  dsimp only
  split
  · exact State.svcAnswer_wf _ _ _ _ _ h
  · split
    · exact State.svcAnswer_wf _ _ _ _ _ h
    · exact State.svcAnswer_wf _ _ _ _ _ (State.resumeSlip_wf _ _ _ _ h)

theorem execSvcKill_wf {core slot : Nat} {s : State} (h : s.mem.wf = true) :
    Canonical (execSvcKill core slot s) := by
  unfold execSvcKill
  refine State.svcTake_wf _ _ _ _ h fun s x ws h => ?_
  dsimp only
  split
  · exact State.svcAnswer_wf _ _ _ _ _ h
  · split
    · exact State.svcAnswer_wf _ _ _ _ _ h
    · exact State.svcAnswer_wf _ _ _ _ _ (State.endSlip_wf _ _ _ h)

theorem execSvcPage_wf {core slot : Nat} {s : State} (h : s.mem.wf = true) :
    Canonical (execSvcPage core slot s) := by
  unfold execSvcPage
  refine State.svcTake_wf _ _ _ _ h fun s x ws h => ?_
  dsimp only
  split
  · exact State.svcAnswer_wf _ _ _ _ _ h
  · split
    · exact h
    next joined => exact (State.joinPage_mem _ _ _ _ _ _ _ _ joined).symm ▸ h

theorem execSvcCounts_wf {core slot : Nat} {s : State} (h : s.mem.wf = true) :
    Canonical (execSvcCounts core slot s) := by
  unfold execSvcCounts
  refine State.svcTake_wf _ _ _ _ h fun s x ws h => ?_
  dsimp only
  split <;> exact State.svcAnswer_wf _ _ _ _ _ h

theorem execPageRequestForward_wf {cluster : Nat} {s : State} (h : s.mem.wf = true) :
    Canonical (execPageRequestForward cluster s) := by
  unfold execPageRequestForward
  simp [h]

theorem execNetAccept_wf {req : Nat} {s : State} (h : s.mem.wf = true) :
    Canonical (execNetAccept req s) := by
  unfold execNetAccept
  dsimp only
  repeat' split
  all_goals simp [h]

theorem execPacketReceive_wf {p : Packet} {s : State} (h : s.mem.wf = true) :
    Canonical (execPacketReceive p s) := by
  unfold execPacketReceive
  dsimp only
  repeat' split
  all_goals simp [h]

theorem execAckReceive_wf {peer : Nat} {name : PacketName} {packets : List Nat} {s : State} (h : s.mem.wf = true) :
    Canonical (execAckReceive peer name packets s) := by
  unfold execAckReceive
  dsimp only
  repeat' split
  all_goals simp [h]

theorem execRemotekeyRefusal_wf {refused : Refused} {packet : Nat} {s : State} (h : s.mem.wf = true) :
    Canonical (execRemotekeyRefusal refused packet s) := by
  unfold execRemotekeyRefusal
  split <;> simp [h]

theorem execRetransmitTimeout_wf {wr packet : Nat} {s : State} (h : s.mem.wf = true) :
    Canonical (execRetransmitTimeout wr packet s) := by
  unfold execRetransmitTimeout
  split
  · exact h
  · split
    · exact State.packetFails_wf _ _ _ _ h
    · split
      · exact h
      · simpa using h

theorem execUncorrectableError_wf {f : Func} {flight : Option Nat} {s : State} (h : s.mem.wf = true) :
    Canonical (execUncorrectableError f flight s) := by
  unfold execUncorrectableError
  simp [h]

theorem execPowerOn_wf {s : State} (h : s.mem.wf = true) :
    Canonical (execPowerOn s) := by
  unfold execPowerOn
  simp [h]

theorem execThermalShutdown_wf {s : State} (h : s.mem.wf = true) :
    Canonical (execThermalShutdown s) := by
  unfold execThermalShutdown
  simp [h]

theorem execRootSelfTestEnd_wf {pass : Bool} {diag : BitVec 32} {s : State} (h : s.mem.wf = true) :
    Canonical (execRootSelfTestEnd pass diag s) := by
  unfold execRootSelfTestEnd
  dsimp only
  split
  · simp only [Canonical, State.releaseCalls_mem, State.report_mem]
    split
    · simpa using h
    · exact h
  · split
    · exact h
    · simp only [Canonical]
      rw [State.foldl_mem fun s c => State.replyLate_mem s _ _]
      simpa using h
  · exact h

theorem execFunctionReport_wf {f : Func} {ready : Bool} {diag : BitVec 32} {images : List (Nat × List Byte × List Byte)} {s : State} (h : s.mem.wf = true) :
    Canonical (execFunctionReport f ready diag images s) := by
  have loaded := State.loadImages_mem s f.kind images
  unfold execFunctionReport
  dsimp only
  split
  · exact h
  · split
    · exact State.failed_wf _ _ _ h
    · split
      · exact State.failed_wf _ _ _ h
      · split
        next e =>
          rw [e] at loaded
          exact State.failed_wf _ _ _ (loaded.symm ▸ h)
        next e =>
          rw [e] at loaded
          have kept := loaded.symm ▸ h
          split
          · exact State.failed_wf _ _ _ kept
          · split
            · exact h
            · simp only [Canonical, State.ready_mem, State.report_mem]
              split
              · exact State.foldl_wf (fun s b h => State.installSup_wf s _ _ h) kept _
              · exact kept

theorem execFirmwareUpdate_wf {c : Call} {image sig : List Byte} {version : BitVec 32} {s : State} (h : s.mem.wf = true) :
    Canonical (execFirmwareUpdate c image sig version s) := by
  unfold execFirmwareUpdate
  refine State.call_wf _ _ _ h fun s h => ?_
  split
  · exact h
  · split
    · simpa using h
    · dsimp only
      rw [State.checkUpdate_mem, State.foldl_mem (by intros; rfl)]
      simpa using h

theorem execCuratorSwitchEnd_wf {cluster : Nat} {s : State} (h : s.mem.wf = true) :
    Canonical (execCuratorSwitchEnd cluster s) := by
  unfold execCuratorSwitchEnd
  dsimp only
  split
  · exact h
  · split
    · exact h
    · split
      · exact State.failed_wf _ _ _ h
      · simp only [Canonical, State.checkUpdate_mem]
        rw [State.foldl_mem fun s x => State.pushNew_mem s _, State.foldl_mem fun s k => State.supMsg_mem s ..]
        exact State.installSup_wf _ _ _ (by simpa using h)

theorem execAttestationQuote_wf {c : Call} {nonce : List Byte} {s : State} (h : s.mem.wf = true) :
    Canonical (execAttestationQuote c nonce s) := by
  unfold execAttestationQuote
  refine State.call_wf _ _ _ h fun s h => ?_
  split <;> simpa using h

theorem execRepeatSelfTest_wf {c : Call} {s : State} (h : s.mem.wf = true) :
    Canonical (execRepeatSelfTest c s) := by
  unfold execRepeatSelfTest
  refine State.call_wf _ _ _ h fun s h => ?_
  split <;> simpa using h

theorem execIdentityKey_wf {c : Call} {s : State} (h : s.mem.wf = true) :
    Canonical (execIdentityKey c s) := by
  unfold execIdentityKey
  exact State.call_wf _ _ _ h fun s h => by simpa using h

theorem execDeviceIdentifier_wf {c : Call} {s : State} (h : s.mem.wf = true) :
    Canonical (execDeviceIdentifier c s) := by
  unfold execDeviceIdentifier
  exact State.call_wf _ _ _ h fun s h => by simpa using h

theorem execTemperaturePower_wf {c : Call} {s : State} (h : s.mem.wf = true) :
    Canonical (execTemperaturePower c s) := by
  unfold execTemperaturePower
  refine State.call_wf _ _ _ h fun s h => ?_
  dsimp only
  rw [State.reply_mem, State.foldl_fst_mem (by intros; rfl)]
  exact h

theorem execLoadCode_wf {c : Call} {words : List Word} {s : State} (h : s.mem.wf = true) :
    Canonical (execLoadCode c words s) := by
  unfold execLoadCode
  refine State.call_wf _ _ _ h fun s h => ?_
  dsimp only
  split
  · simpa using h
  · split
    · simpa using h
    next placed => simpa using State.placeCode_wf _ _ _ h placed

theorem execMap_wf {c : Call} {args : MapArgs} {s : State} (h : s.mem.wf = true) :
    Canonical (execMap c args s) := by
  unfold execMap
  refine State.call_wf _ _ _ h fun s h => ?_
  split
  · simpa using State.mapDo_wf s _ _ h
  · simpa using h

theorem execUnmap_wf {c : Call} {entries : List TableWrite} {lo len : Nat} {s : State} (h : s.mem.wf = true) :
    Canonical (execUnmap c entries lo len s) := by
  unfold execUnmap
  refine State.call_wf _ _ _ h fun s h => ?_
  split
  · simpa using h
  · exact State.writeEntries_wf s entries h

theorem execHostRead_wf {c : Call} {a : HostAddr} {n : Nat} {s : State} (h : s.mem.wf = true) :
    Canonical (execHostRead c a n s) := by
  unfold execHostRead
  refine State.call_wf _ _ _ h fun s h => ?_
  split <;> simpa using h

theorem execHostWrite_wf {c : Call} {a : HostAddr} {bytes : List Byte} {s : State} (h : s.mem.wf = true) :
    Canonical (execHostWrite c a bytes s) := by
  unfold execHostWrite
  refine State.call_wf _ _ _ h fun s h => ?_
  split
  · simpa using h
  · split
    · simpa using h
    · dsimp only
      rw [State.reply_mem]
      exact State.foldl_wf (fun s w h => State.serve_wf s _ _ h) (State.foldl_wf (fun s r h => State.hostPut_wf s r h) h _) _

theorem execHostLaunch_wf {c : Call} {record : List Word} {sync : Option Nat} {s : State} (h : s.mem.wf = true) :
    Canonical (execHostLaunch c record sync s) := by
  unfold execHostLaunch
  refine State.call_wf _ _ _ h fun s h => ?_
  split
  · simpa using h
  · split
    · simpa using h
    · split
      · exact h
      · simpa using h

theorem execHostPreempt_wf {c : Call} {core : Nat} {resume : Bool} {s : State} (h : s.mem.wf = true) :
    Canonical (execHostPreempt c core resume s) := by
  unfold execHostPreempt
  refine State.call_wf _ _ _ h fun s h => ?_
  cases resume <;> simpa using h

theorem execQuery_wf {c : Call} {item : QueryItem} {s : State} (h : s.mem.wf = true) :
    Canonical (execQuery c item s) := by
  unfold execQuery
  refine State.call_wf _ _ _ h fun s h => ?_
  split
  · simpa using h
  · split <;> simpa using h

theorem execUnknownCommand_wf {c : Call} {command : Nat} {s : State} (h : s.mem.wf = true) :
    Canonical (execUnknownCommand c command s) := by
  unfold execUnknownCommand
  exact State.call_wf _ _ _ h fun s h => by simpa using h

end Sys2Proof.Machine
end

section

/-! ## Every step (R178, R184) -/

namespace Sys2Proof.Machine

open Sys2Proof

theorem execAnswerPageRequest_wf {c : Call} {page : Nat} {ans : PageAnswer} {s : State} (h : s.mem.wf = true) :
    Canonical (execAnswerPageRequest c page ans s) := by
  unfold execAnswerPageRequest
  refine State.call_wf _ _ _ h fun s h => ?_
  dsimp only
  split
  · simpa using State.pageErrata_wf _ _ _ _ _ _ _ (by exact h)
  · split
    · simpa using State.settleAll_wf _ _ _ h
    · simp only [State.ite_mem, State.reply_mem]
      exact Memory.ite_wf (State.settleAll_wf _ _ _ (State.pageErrata_wf _ _ _ _ _ _ _ h))
        (State.settleAll_wf _ _ _ (State.writeEntries_wf _ _ h))

/-- Every instruction and every event keeps memory canonical. -/
theorem exec_wf (i : Instr) {s : State} (wf : s.mem.wf = true) : Canonical (exec i s) := by
  cases i
  case nop => exact execNop_wf wf
  case br => exact execBr_wf wf
  case beq => exact (show Canonical (execBeq ..) from branch_wf wf)
  case bne => exact (show Canonical (execBne ..) from branch_wf wf)
  case blt => exact (show Canonical (execBlt ..) from branch_wf wf)
  case bge => exact (show Canonical (execBge ..) from branch_wf wf)
  case bltu => exact (show Canonical (execBltu ..) from branch_wf wf)
  case bgeu => exact (show Canonical (execBgeu ..) from branch_wf wf)
  case call => exact execCall_wf wf
  case jr => exact execJr_wf wf
  case loop => exact execLoop_wf wf
  case stop => exact execStop_wf wf
  case retire => exact execRetire_wf wf
  case yield => exact execYield_wf wf
  case bara => exact execBara_wf wf
  case barw => exact execBarw_wf wf
  case collate => exact execCollate_wf wf
  case disband => exact execDisband_wf wf
  case wait => exact execWait_wf wf
  case svc => exact execSvc_wf wf
  case trap => exact execTrap_wf wf
  case resume => exact execResume_wf wf
  case emr => exact execEmr_wf wf
  case emw => exact execEmw_wf wf
  case kill => exact execKill_wf wf
  case pmt => exact execPmt_wf wf
  case launch => exact execLaunch_wf wf
  case add => exact (show Canonical (execAdd ..) from alu2_wf wf)
  case sub => exact (show Canonical (execSub ..) from alu2_wf wf)
  case mul => exact (show Canonical (execMul ..) from alu2_wf wf)
  case mulh => exact (show Canonical (execMulh ..) from alu2_wf wf)
  case mulhu => exact (show Canonical (execMulhu ..) from alu2_wf wf)
  case min => exact (show Canonical (execMin ..) from alu2_wf wf)
  case max => exact (show Canonical (execMax ..) from alu2_wf wf)
  case minu => exact (show Canonical (execMinu ..) from alu2_wf wf)
  case maxu => exact (show Canonical (execMaxu ..) from alu2_wf wf)
  case and => exact (show Canonical (execAnd ..) from alu2_wf wf)
  case or => exact (show Canonical (execOr ..) from alu2_wf wf)
  case xor => exact (show Canonical (execXor ..) from alu2_wf wf)
  case andn => exact (show Canonical (execAndn ..) from alu2_wf wf)
  case shl => exact (show Canonical (execShl ..) from alu2_wf wf)
  case shr => exact (show Canonical (execShr ..) from alu2_wf wf)
  case sar => exact (show Canonical (execSar ..) from alu2_wf wf)
  case rol => exact (show Canonical (execRol ..) from alu2_wf wf)
  case fadd => exact (show Canonical (execFadd ..) from alu2_wf wf)
  case fsub => exact (show Canonical (execFsub ..) from alu2_wf wf)
  case fmul => exact (show Canonical (execFmul ..) from alu2_wf wf)
  case fmin => exact (show Canonical (execFmin ..) from alu2_wf wf)
  case fmax => exact (show Canonical (execFmax ..) from alu2_wf wf)
  case addi => exact (show Canonical (execAddi ..) from alu1_wf wf)
  case neg => exact (show Canonical (execNeg ..) from alu1_wf wf)
  case abs => exact (show Canonical (execAbs ..) from alu1_wf wf)
  case andi => exact (show Canonical (execAndi ..) from alu1_wf wf)
  case ori => exact (show Canonical (execOri ..) from alu1_wf wf)
  case xori => exact (show Canonical (execXori ..) from alu1_wf wf)
  case shli => exact (show Canonical (execShli ..) from alu1_wf wf)
  case shri => exact (show Canonical (execShri ..) from alu1_wf wf)
  case sari => exact (show Canonical (execSari ..) from alu1_wf wf)
  case clz => exact (show Canonical (execClz ..) from alu1_wf wf)
  case ctz => exact (show Canonical (execCtz ..) from alu1_wf wf)
  case popc => exact (show Canonical (execPopc ..) from alu1_wf wf)
  case bfx => exact (show Canonical (execBfx ..) from alu1_wf wf)
  case sext => exact (show Canonical (execSext ..) from alu1_wf wf)
  case zext => exact (show Canonical (execZext ..) from alu1_wf wf)
  case mov => exact (show Canonical (execMov ..) from alu1_wf wf)
  case div => exact (show Canonical (execDiv ..) from divide_wf wf)
  case divu => exact (show Canonical (execDivu ..) from divide_wf wf)
  case rem => exact (show Canonical (execRem ..) from divide_wf wf)
  case remu => exact (show Canonical (execRemu ..) from divide_wf wf)
  case bfi => exact execBfi_wf wf
  case movi => exact execMovi_wf wf
  case movhi => exact execMovhi_wf wf
  case lea => exact execLea_wf wf
  case sel => exact execSel_wf wf
  case cmp => exact (show Canonical (execCmp ..) from cmp2_wf wf)
  case fcmp => exact (show Canonical (execFcmp ..) from cmp2_wf wf)
  case cmpi => exact execCmpi_wf wf
  case pand => exact (show Canonical (execPand ..) from pred2_wf wf)
  case por => exact (show Canonical (execPor ..) from pred2_wf wf)
  case pxor => exact (show Canonical (execPxor ..) from pred2_wf wf)
  case pandn => exact (show Canonical (execPandn ..) from pred2_wf wf)
  case mfp => exact execMfp_wf wf
  case mtp => exact execMtp_wf wf
  case mfs => exact execMfs_wf wf
  case mts => exact execMts_wf wf
  case ffma => exact execFfma_wf wf
  case fcvt => exact execFcvt_wf wf
  case vadd => exact (show Canonical (execVadd ..) from vec2_wf wf)
  case vsub => exact (show Canonical (execVsub ..) from vec2_wf wf)
  case vmul => exact (show Canonical (execVmul ..) from vec2_wf wf)
  case vmin => exact (show Canonical (execVmin ..) from vec2_wf wf)
  case vmax => exact (show Canonical (execVmax ..) from vec2_wf wf)
  case vshl => exact (show Canonical (execVshl ..) from vec2_wf wf)
  case vshr => exact (show Canonical (execVshr ..) from vec2_wf wf)
  case vsar => exact (show Canonical (execVsar ..) from vec2_wf wf)
  case vfma => exact execVfma_wf wf
  case vabs => exact (show Canonical (execVabs ..) from vec1_wf wf)
  case vneg => exact (show Canonical (execVneg ..) from vec1_wf wf)
  case vand => exact (show Canonical (execVand ..) from vecBits_wf wf)
  case vor => exact (show Canonical (execVor ..) from vecBits_wf wf)
  case vxor => exact (show Canonical (execVxor ..) from vecBits_wf wf)
  case vcmp => exact execVcmp_wf wf
  case vsel => exact execVsel_wf wf
  case vbc => exact execVbc_wf wf
  case vget => exact execVget_wf wf
  case vput => exact execVput_wf wf
  case vperm => exact execVperm_wf wf
  case vred => exact execVred_wf wf
  case vdot => exact execVdot_wf wf
  case vcvt => exact execVcvt_wf wf
  case vqnt => exact execVqnt_wf wf
  case vdeq => exact execVdeq_wf wf
  case amxrd => exact execAmxrd_wf wf
  case amxsw => exact execAmxsw_wf wf
  case vld => exact (show Canonical (execVld ..) from vecMem_wf wf)
  case vst => exact (show Canonical (execVst ..) from vecMem_wf wf)
  case vldf => exact (show Canonical (execVldf ..) from vecMem_wf wf)
  case vstf => exact (show Canonical (execVstf ..) from vecMem_wf wf)
  case vldx => exact (show Canonical (execVldx ..) from vecIdx_wf wf)
  case vstx => exact (show Canonical (execVstx ..) from vecIdx_wf wf)
  case sfn => exact execSfn_wf wf
  case ld => exact (show Canonical (execLd ..) from memM_wf wf)
  case lds => exact (show Canonical (execLds ..) from memM_wf wf)
  case st => exact (show Canonical (execSt ..) from memM_wf wf)
  case ldf => exact (show Canonical (execLdf ..) from memM_wf wf)
  case lde => exact (show Canonical (execLde ..) from memM_wf wf)
  case stf => exact (show Canonical (execStf ..) from memM_wf wf)
  case stfe => exact (show Canonical (execStfe ..) from memM_wf wf)
  case clrf => exact (show Canonical (execClrf ..) from memM_wf wf)
  case amo => exact (show Canonical (execAmo ..) from atomic_wf wf)
  case cas => exact (show Canonical (execCas ..) from atomic_wf wf)
  case amof => exact (show Canonical (execAmof ..) from atomic_wf wf)
  case fence => exact execFence_wf wf
  case cfence => exact execCfence_wf wf
  case swarm => exact execSwarm_wf wf
  case swadd => exact (show Canonical (execSwadd ..) from ptrMem_wf wf)
  case swwait => exact (show Canonical (execSwwait ..) from ptrMem_wf wf)
  case swrd => exact (show Canonical (execSwrd ..) from ptrMem_wf wf)
  case segld => exact (show Canonical (execSegld ..) from ptrMem_wf wf)
  case segst => exact (show Canonical (execSegst ..) from ptrMem_wf wf)
  case kabs => exact (show Canonical (execKabs ..) from ptrMem_wf wf)
  case segrd => exact execSegrd_wf wf
  case tlbi => exact execTlbi_wf wf
  case tlbsync => exact execTlbsync_wf wf
  case upret => exact execUpret_wf wf
  case pgrq => exact execPgrq_wf wf
  case tcfg => exact execTcfg_wf wf
  case trel => exact (show Canonical (execTrel ..) from releasing_wf wf)
  case tzero => exact (show Canonical (execTzero ..) from releasing_wf wf)
  case tenq => exact execTenq_wf wf
  case tst => exact (show Canonical (execTst ..) from direct_wf wf)
  case tld => exact (show Canonical (execTld ..) from direct_wf wf)
  case tget => exact (show Canonical (execTget ..) from direct_wf wf)
  case tset => exact (show Canonical (execTset ..) from direct_wf wf)
  case mmar => exact (show Canonical (execMmar ..) from direct_wf wf)
  case msset => exact execMsset_wf wf
  case msrd => exact execMsrd_wf wf
  case twait => exact execTwait_wf wf
  case cpy => exact (show Canonical (execCpy ..) from recordIssue_wf wf)
  case cpyRp => exact (show Canonical (execCpyRp ..) from recordIssue_wf wf)
  case gath => exact (show Canonical (execGath ..) from recordIssue_wf wf)
  case scat => exact (show Canonical (execScat ..) from recordIssue_wf wf)
  case cmpct => exact (show Canonical (execCmpct ..) from recordIssue_wf wf)
  case dcpy => exact (show Canonical (execDcpy ..) from recordIssue_wf wf)
  case ksel => exact (show Canonical (execKsel ..) from recordIssue_wf wf)
  case kgath => exact (show Canonical (execKgath ..) from recordIssue_wf wf)
  case dpat => exact execDpat_wf wf
  case cqry => exact execCqry_wf wf
  case emb => exact execEmb_wf wf
  case spec => exact execSpec_wf wf
  case aref => exact (show Canonical (execAref ..) from refCount_wf wf)
  case arel => exact (show Canonical (execArel ..) from refCount_wf wf)
  case acall => exact execAcall_wf wf
  case ainf => exact execAinf_wf wf
  case hold => exact execHold_wf wf
  case dech => exact execDech_wf wf
  case pushr => exact execPushr_wf wf
  case popr => exact execPopr_wf wf
  case splitr => exact execSplitr_wf wf
  case stealr => exact execStealr_wf wf
  case post => exact execPost_wf wf
  case spawn => exact execSpawn_wf wf
  case nsend => exact (show Canonical (execNsend ..) from netPost_wf wf)
  case nread => exact (show Canonical (execNread ..) from netPost_wf wf)
  case nwrite => exact (show Canonical (execNwrite ..) from netPost_wf wf)
  case nrecv => exact (show Canonical (execNrecv ..) from netPost_wf wf)
  case nqry => exact execNqry_wf wf
  case illegalEncoding => exact execIllegalEncoding_wf wf
  case resultReturn => exact execResultReturn_wf wf
  case strandWake => exact execStrandWake_wf wf
  case waitExpiry => exact execWaitExpiry_wf wf
  case idleSlotSearch => exact execIdleSlotSearch_wf wf
  case fetchFill => exact execFetchFill_wf wf
  case portWordArrive => exact execPortWordArrive_wf wf
  case creditReturn => exact execCreditReturn_wf wf
  case postArrive => exact execPostArrive_wf wf
  case engineMessageDeliver => exact execEngineMessageDeliver_wf wf
  case faultMessageDeliver => exact execFaultMessageDeliver_wf wf
  case bankTransaction => exact execBankTransaction_wf wf
  case overflowRetry => exact execOverflowRetry_wf wf
  case translationWalk => exact execTranslationWalk_wf wf
  case barrierArrival => exact execBarrierArrival_wf wf
  case holdDecrement => exact execHoldDecrement_wf wf
  case stealPerform => exact execStealPerform_wf wf
  case preemptRequest => exact execPreemptRequest_wf wf
  case preemptSave => exact execPreemptSave_wf wf
  case resumeRequest => exact execResumeRequest_wf wf
  case coreResume => exact execCoreResume_wf wf
  case launchAccept => exact execLaunchAccept_wf wf
  case placement => exact execPlacement_wf wf
  case gatheringRetire => exact execGatheringRetire_wf wf
  case copyAccept => exact execCopyAccept_wf wf
  case copyChunk => exact execCopyChunk_wf wf
  case copyComplete => exact execCopyComplete_wf wf
  case binderyEnqueue => exact execBinderyEnqueue_wf wf
  case taskStart => exact execTaskStart_wf wf
  case taskPartComplete => exact execTaskPartComplete_wf wf
  case selectionAccept => exact execSelectionAccept_wf wf
  case selectRun => exact execSelectRun_wf wf
  case gatherEntry => exact execGatherEntry_wf wf
  case embAccept => exact execEmbAccept_wf wf
  case chipPartial => exact execChipPartial_wf wf
  case bagWrite => exact execBagWrite_wf wf
  case specAccept => exact execSpecAccept_wf wf
  case specRun => exact execSpecRun_wf wf
  case netAccept => exact execNetAccept_wf wf
  case packetReceive => exact execPacketReceive_wf wf
  case ackReceive => exact execAckReceive_wf wf
  case retransmitTimeout => exact execRetransmitTimeout_wf wf
  case pageRequestForward => exact execPageRequestForward_wf wf
  case svcVersion => exact execSvcVersion_wf wf
  case svcResume => exact execSvcResume_wf wf
  case svcKill => exact execSvcKill_wf wf
  case svcPage => exact execSvcPage_wf wf
  case svcCounts => exact execSvcCounts_wf wf
  case curatorSwitchEnd => exact execCuratorSwitchEnd_wf wf
  case tlbiTakesEffect => exact execTlbiTakesEffect_wf wf
  case remotekeyRefusal => exact execRemotekeyRefusal_wf wf
  case uncorrectableError => exact execUncorrectableError_wf wf
  case powerOn => exact execPowerOn_wf wf
  case rootSelfTestEnd => exact execRootSelfTestEnd_wf wf
  case functionReport => exact execFunctionReport_wf wf
  case thermalShutdown => exact execThermalShutdown_wf wf
  case loadCode c words => exact (show Canonical (execLoadCode c words s) from execLoadCode_wf wf)
  case map => exact execMap_wf wf
  case unmap => exact execUnmap_wf wf
  case hostRead => exact execHostRead_wf wf
  case hostWrite => exact execHostWrite_wf wf
  case hostLaunch => exact execHostLaunch_wf wf
  case hostPreempt => exact execHostPreempt_wf wf
  case answerPageRequest => exact execAnswerPageRequest_wf wf
  case query => exact execQuery_wf wf
  case repeatSelfTest => exact execRepeatSelfTest_wf wf
  case identityKey => exact execIdentityKey_wf wf
  case deviceIdentifier => exact execDeviceIdentifier_wf wf
  case temperaturePower => exact execTemperaturePower_wf wf
  case firmwareUpdate => exact execFirmwareUpdate_wf wf
  case attestationQuote => exact execAttestationQuote_wf wf
  case unknownCommand c command => exact execUnknownCommand_wf (command := command) wf

theorem event_wf (i : Instr) {s : State} (h : s.mem.wf = true) : Canonical (event i s) := by
  unfold event
  split
  · exact h
  · split
    next later => exact (congrArg Memory.wf (State.defer_mem _ _ later)).trans h
    next => exact exec_wf i h

theorem turn_wf (core slot : Nat) {s : State} (h : s.mem.wf = true) : Canonical (turn core slot s) := by
  unfold turn
  split
  · exact h
  · split
    · simpa using h
    · exact exec_wf _ (by simpa using h)
    · exact exec_wf _ (by simpa using h)

theorem turnOrFrame_wf {s : State} (h : s.mem.wf = true) : Canonical (turnOrFrame s) := by
  unfold turnOrFrame
  split
  · exact turn_wf _ _ h
  · simpa using h

theorem step_wf {s : State} (h : s.mem.wf = true) : Canonical (step s) := by
  unfold step
  split
  · exact event_wf _ h
  · split
    · exact event_wf _ (by simpa using h)
    · exact turnOrFrame_wf h
    · simpa using h
    · split
      · exact event_wf _ h
      · exact turnOrFrame_wf h

/-- Settles O59, by what each function of the model does to memory. -/
theorem memoryStaysCanonical : Obligations.MemoryStaysCanonical := by
  unfold Obligations.MemoryStaysCanonical
  intro s t stepped canonical
  have kept := step_wf canonical
  rwa [stepped] at kept

end Sys2Proof.Machine
end
